-- ==== Sys2Proof/Word.lean ====
section
/-! DEFINITION. The word types of the device (R5: every value is little-endian in every memory) and the sparse map that
holds registers, memories and hidden per-channel state as plain data. -/
namespace Sys2Proof

/-- A register or memory word. -/
abbrev Word := BitVec 32

/-- A byte of memory. -/
abbrev Byte := BitVec 8

/-- A 64-bit IMEM word. -/
abbrev DWord := BitVec 64

/-- A sparse map in canonical form: keys strictly rising, no entry equal to the default of the map. -/
abbrev SMap (α : Type) := List (Nat × α)

end Sys2Proof
end

