-- ==== Sys2Proof/Machine/RegTable.lean ====
section
/-! DEFINITION. The registers of the device: every register table of the chapters, row for row, under the spec's
own names and host addresses (R376), with the access code of every bit (R7), the reset value (R8) and the class of
the register in the host image (R358). Reserved bits stand in no mask, so they read as zero and keep no write (R6). -/
namespace Sys2Proof.Machine

/-- One register of the manual, or one run of registers at a stride: `n1` of them `st1` bytes apart, each of them
`n2` words `st2` bytes apart; the masks say which bits carry which access code (R7). -/
structure RegRow where
  base : Nat
  n1 : Nat
  st1 : Nat
  n2 : Nat
  st2 : Nat
  rw : Word
  tx : Word
  w1c : Word
  rc : Word
  ro : Word
  wo : Word
  reset : Word
  /-- Snapshot-class (R358). -/
  snap : Bool
  deriving DecidableEq, Repr

/-- The row holds the register word at host address `a`. -/
def RegRow.covers (r : RegRow) (a : Nat) : Bool :=
  let d := a - r.base
  decide (r.base ≤ a) && decide (d / r.st1 < r.n1) && decide (d % r.st1 % r.st2 = 0)
    && decide (d % r.st1 / r.st2 < r.n2)

/-! ### Host addresses, by the name of the register -/

/-- 15_modes_clocks_and_startup.md R488: PART[31:16] RO, DIEREV[15:8] RO, VARIANT[2:0] RO. -/
def Reg.SYS_ID : Nat := 0x010000
/-- 15_modes_clocks_and_startup.md R488: CAUSE[23:16] RO, TARGET[10:8] RO, FRZDBG[3:3] RO, MODE[2:0] RO. -/
def Reg.SYS_MODE : Nat := 0x010004
/-- 15_modes_clocks_and_startup.md R488: KEY[15:8] WO, REQ[2:0] WO. -/
def Reg.SYS_MODEREQ : Nat := 0x010008
/-- 15_modes_clocks_and_startup.md R488: BY[17:16] RO, LASTREQ[10:8] RO, REQERR[0:0] W1C. -/
def Reg.SYS_MODESTAT : Nat := 0x01000C
/-- 15_modes_clocks_and_startup.md R488: KEY[15:8] WO, RST[0:0] WO. -/
def Reg.SYS_RST : Nat := 0x010010
/-- 15_modes_clocks_and_startup.md R488: CAUSE[3:0] RO. -/
def Reg.SYS_RSTCAUSE : Nat := 0x010014
/-- 15_modes_clocks_and_startup.md R488: FRZEN[0:0] TX. -/
def Reg.SYS_CFG : Nat := 0x010018
/-- 01_architecture_and_frame.md R40: PERIOD[2:0] TX. -/
def Reg.SYS_FRMCFG : Nat := 0x010040
/-- 01_architecture_and_frame.md R40: FRAME_LO[31:0] RO. -/
def Reg.SYS_FRMNUM_LO : Nat := 0x010044
/-- 01_architecture_and_frame.md R40: FRAME_HI[15:0] RO. -/
def Reg.SYS_FRMNUM_HI : Nat := 0x010048
/-- 01_architecture_and_frame.md R40: LATE_CNT[15:8] RC, CMP_FAIL[4:4] W1C, CMP_SKIP[3:3] W1C, TWIN_LATE[2:2] W1C, SOLO[1:1] RO, AGREED[0:0]
RO. -/
def Reg.SYS_FRMSTAT : Nat := 0x01004C
/-- 11_host_port_and_address_map.md R380: SYNC[1:1] RO, VIO18[0:0] RO. -/
def Reg.HP_CFG : Nat := 0x010100
/-- 11_host_port_and_address_map.md R380: WFREE[22:16] RO, FRZW[6:6] W1C, RSTALE[5:5] W1C, NOADR[4:4] W1C, UNPAIRED[3:3] W1C, WDROP[2:2]
W1C, WOVF[1:1] W1C. -/
def Reg.HP_STAT : Nat := 0x010104
/-- 11_host_port_and_address_map.md R380: ADDR[23:0] RO. -/
def Reg.HP_RSTALEA : Nat := 0x010108
/-- 11_host_port_and_address_map.md R380: FSEV[9:8] RW, EN[6:0] RW. -/
def Reg.HP_IEN : Nat := 0x01010C
/-- 11_host_port_and_address_map.md R380: STAT[6:0] W1C. -/
def Reg.HP_ISTAT : Nat := 0x010110
/-- 11_host_port_and_address_map.md R380: PUB[31:0] WO. -/
def Reg.HP_PUB_LO : Nat := 0x010114
/-- 11_host_port_and_address_map.md R380: PUB[31:0] WO. -/
def Reg.HP_PUB_HI : Nat := 0x010118
/-- 11_host_port_and_address_map.md R380: MASK[31:0] RW. -/
def Reg.HP_PIRQ_LO : Nat := 0x01011C
/-- 11_host_port_and_address_map.md R380: MASK[31:0] RW. -/
def Reg.HP_PIRQ_HI : Nat := 0x010120
/-- 11_host_port_and_address_map.md R380: OFS[31:0] RW. -/
def Reg.HP_SADR : Nat := 0x010124
/-- 11_host_port_and_address_map.md R380: LEN[27:0] RW. -/
def Reg.HP_SLEN : Nat := 0x010128
/-- 11_host_port_and_address_map.md R380: STOP[8:8] WO, SPACE[6:4] WO, DIR[1:1] WO, GO[0:0] WO. -/
def Reg.HP_SCTL : Nat := 0x01012C
/-- 11_host_port_and_address_map.md R380: AVAIL[24:16] RO, ERR[10:8] RO, OVER[4:4] W1C, UNDER[3:3] W1C, DONE[2:2] W1C, DIRW[1:1] RO,
BUSY[0:0] RO. -/
def Reg.HP_SSTAT : Nat := 0x010130
/-- 11_host_port_and_address_map.md R380: POS[27:0] RO. -/
def Reg.HP_SPOS : Nat := 0x010134
/-- 11_host_port_and_address_map.md R380: SRC[31:0] TX. -/
def Reg.HP_PSRC (i : Nat) : Nat := 0x010200 + i * 0x8
/-- 11_host_port_and_address_map.md R380: EN[31:31] TX, LEN[7:0] TX. -/
def Reg.HP_PCFG (i : Nat) : Nat := 0x010204 + i * 0x8
/-- 15_modes_clocks_and_startup.md R488: KOTO[31:16] RW, KEYDEB[15:8] RW, TMREN[2:2] RW, IGNEN[0:0] RW. -/
def Reg.SIL_CFG : Nat := 0x010400
/-- 15_modes_clocks_and_startup.md R488: WAKESRC[6:4] RO, OSCF[2:2] W1C, KOPEND[1:1] RO, IGN[0:0] RO. -/
def Reg.SIL_STAT : Nat := 0x010404
/-- 15_modes_clocks_and_startup.md R488: SEC[23:0] RW. -/
def Reg.SIL_WTIMER : Nat := 0x010408
/-- 15_modes_clocks_and_startup.md R488: VAL[31:0] RO. -/
def Reg.SIL_OPTIME_LO : Nat := 0x01040C
/-- 15_modes_clocks_and_startup.md R488: VAL[31:0] RO. -/
def Reg.SIL_OPTIME_HI : Nat := 0x010410
/-- 15_modes_clocks_and_startup.md R488: VAL[31:0] RO. -/
def Reg.SIL_PCYC : Nat := 0x010414
/-- 15_modes_clocks_and_startup.md R488: REFSEL[1:0] TX. -/
def Reg.CLK_CFG : Nat := 0x010440
/-- 15_modes_clocks_and_startup.md R488: GLOCK[7:7] RO, BLOCK[6:6] RO, REFLOSS[4:4] W1C, TCXOFLT[3:3] W1C, REFOK[2:2] RO, SRC[1:0] RO. -/
def Reg.CLK_STAT : Nat := 0x010444
/-- 15_modes_clocks_and_startup.md R488: SWITCH[15:0] RC. -/
def Reg.CLK_CNT : Nat := 0x010448
/-- 16_package_supplies_and_heat.md R508: PFLAST[12:12] RO, TPFAIL[11:11] W1C, HOLDFLT[10:10] W1C, VIOG_FLT[9:9] W1C, VIOH_FLT[8:8] W1C,
HOLDOK[6:6] RO, LFEED[5:4] RO, VB2ST[3:2] RO, VB1ST[1:0] RO. -/
def Reg.PWR_STAT : Nat := 0x010500
/-- 16_package_supplies_and_heat.md R508: VBAT2[31:16] RO, VBAT1[15:0] RO. -/
def Reg.PWR_VBAT : Nat := 0x010504
/-- 16_package_supplies_and_heat.md R508: VHOLD[15:0] RO. -/
def Reg.PWR_HOLD : Nat := 0x010508
/-- 16_package_supplies_and_heat.md R508: CRANK[31:16] RC, DIPS[15:0] RC. -/
def Reg.PWR_CNT : Nat := 0x01050C
/-- 16_package_supplies_and_heat.md R508: TWARN[15:0] TX. -/
def Reg.PWR_TCFG : Nat := 0x010510
/-- 16_package_supplies_and_heat.md R508: POINT[22:16] RO, TEMP[15:0] RO. -/
def Reg.TMP_MAX : Nat := 0x010514
/-- 16_package_supplies_and_heat.md R508: ODD[31:16] RO, EVEN[15:0] RO. -/
def Reg.TMP_PT (i : Nat) : Nat := 0x010600 + i * 0x4
/-- 03_programs_slices_and_budgets.md R130: CMD[17:16] WO, TOKEN[15:0] WO. -/
def Reg.TXN_CTRL : Nat := 0x011000
/-- 03_programs_slices_and_budgets.md R130: UNIT[27:24] RO, TABLE[23:16] RO, STATUS[15:8] RO, STRAY[5:5] W1C, OWNER[4:3] RO, STATE[2:0] RO. -/
def Reg.TXN_STAT : Nat := 0x011004
/-- 03_programs_slices_and_budgets.md R130: COUNT[31:16] RO, LIMIT[15:0] RO. -/
def Reg.TXN_LIMIT : Nat := 0x011008
/-- 03_programs_slices_and_budgets.md R130: COUNT[15:0] RO. -/
def Reg.TXN_WRCNT : Nat := 0x01100C
/-- 03_programs_slices_and_budgets.md R130: FRAME_LO[31:0] RO. -/
def Reg.TXN_APPLY_LO : Nat := 0x011010
/-- 03_programs_slices_and_budgets.md R130: FRAME_HI[15:0] RO. -/
def Reg.TXN_APPLY_HI : Nat := 0x011014
/-- 03_programs_slices_and_budgets.md R130: RESTART[0:0] WO. -/
def Reg.SCHED_CTRL : Nat := 0x012000
/-- 03_programs_slices_and_budgets.md R130: FEED2_OVER[6:6] W1C, FEED1_OVER[5:5] W1C, CRIT_OVER[4:4] W1C, SHED[3:1] RO, LIMP_REQ[0:0] RO. -/
def Reg.SCHED_STAT : Nat := 0x012004
/-- 03_programs_slices_and_budgets.md R130: HYST[23:16] TX, TLIM[15:0] TX. -/
def Reg.SCHED_TLIM : Nat := 0x012008
/-- 03_programs_slices_and_budgets.md R130: ZH[31:16] TX, ZL[15:0] TX. -/
def Reg.SCHED_ZTH : Nat := 0x01200C
/-- 03_programs_slices_and_budgets.md R130: P2[31:16] TX, P1[15:0] TX. -/
def Reg.SCHED_PLIM : Nat := 0x012010
/-- 03_programs_slices_and_budgets.md R130: HBANK[11:8] TX, LBANK[7:0] TX. -/
def Reg.SCHED_FEEDMAP : Nat := 0x012014
/-- 03_programs_slices_and_budgets.md R130: BASE2[31:16] TX, BASE1[15:0] TX. -/
def Reg.SCHED_PBASE : Nat := 0x012018
/-- 03_programs_slices_and_budgets.md R130: FRAMES[23:0] TX. -/
def Reg.SCHED_RECOV : Nat := 0x01201C
/-- 03_programs_slices_and_budgets.md R130: SHED[31:16] RC, DEFER[15:0] RC. -/
def Reg.SCHED_CNT : Nat := 0x012020
/-- 03_programs_slices_and_budgets.md R130: CELL[22:16] RO, TPRED[15:0] RO. -/
def Reg.SCHED_HOT : Nat := 0x012024
/-- 03_programs_slices_and_budgets.md R130: FP2[31:16] RO, FP1[15:0] RO. -/
def Reg.SCHED_FEEDP : Nat := 0x012028
/-- 03_programs_slices_and_budgets.md R130: VERIFY[17:16] WO, LOADED[10:10] RO, FALLBACK[9:9] RO, ACTIVE[8:8] RO, PREF[0:0] TX. -/
def Reg.PROG_BANK : Nat := 0x012040
/-- 03_programs_slices_and_budgets.md R130: WR_ACTIVE[25:25] W1C, BUSY[24:24] RO, SLICE[23:16] RO, REJECT_B[15:8] RO, REJECT_A[7:0] RO. -/
def Reg.PROG_STAT : Nat := 0x012044
/-- 03_programs_slices_and_budgets.md R130: PROVEN[19:0] RO. -/
def Reg.PROG_PROOF : Nat := 0x012048
/-- 03_programs_slices_and_budgets.md R130: EN[31:31] TX, CLASS[30:29] TX, CUTOFF[28:28] TX, SCRIBE[27:27] TX, ENGINE[26:24] TX,
ORDER[23:16] TX, DEP[15:8] TX, SLICE[7:0] TX. -/
def Reg.TASK_CFG (i : Nat) : Nat := 0x012400 + i * 0x10
/-- 03_programs_slices_and_budgets.md R130: KIND[19:18] TX, NSL[17:16] TX, RATE[15:8] TX, PHASE[7:0] TX. -/
def Reg.TASK_TIME (i : Nat) : Nat := 0x012404 + i * 0x10
/-- 03_programs_slices_and_budgets.md R130: HGRP[22:17] TX, FEED[16:16] TX, ENERGY[15:0] TX. -/
def Reg.TASK_COST (i : Nat) : Nat := 0x012408 + i * 0x10
/-- 03_programs_slices_and_budgets.md R130: AXES[15:0] TX. -/
def Reg.TASK_AXES (i : Nat) : Nat := 0x01240C + i * 0x10
/-- 03_programs_slices_and_budgets.md R130: L[31:0] TX. -/
def Reg.HG_MASK (i j : Nat) : Nat := 0x012E00 + i * 0x10 + j * 0x4
/-- 03_programs_slices_and_budgets.md R130: H[11:0] TX. -/
def Reg.HG_MASK3 (i : Nat) : Nat := 0x012E0C + i * 0x10
/-- 03_programs_slices_and_budgets.md R130: STATE[25:24] RO, DEFERS[23:16] RC, LASTRUN[15:0] RO. -/
def Reg.TASK_STAT (i : Nat) : Nat := 0x013000 + i * 0x4
/-- 02_bazia_instruction_set.md R92: LAST_TASK[23:16] RO, CAUSE[15:8] RO, ABANDON[3:3] W1C, STATE[2:0] RO. -/
def Reg.BE_STAT (i : Nat) : Nat := 0x014000 + i * 0x100
/-- 02_bazia_instruction_set.md R92: LAST_CYC[19:0] RO. -/
def Reg.BE_CYC (i : Nat) : Nat := 0x014004 + i * 0x100
/-- 02_bazia_instruction_set.md R92: IMEM_CORR[23:16] RC, ABANDON_CNT[15:8] RC, DOWEL_CNT[7:0] RC. -/
def Reg.BE_ERR (i : Nat) : Nat := 0x014008 + i * 0x100
/-- 02_bazia_instruction_set.md R92: VALID[31:31] W1C, TASK[30:23] RO, INDEX[14:0] RO. -/
def Reg.BE_FIRSTERR (i : Nat) : Nat := 0x01400C + i * 0x100
/-- 02_bazia_instruction_set.md R92: PC[14:0] RO. -/
def Reg.BE_PC (i : Nat) : Nat := 0x014010 + i * 0x100
/-- 02_bazia_instruction_set.md R92: KEY[15:8] WO, RST[7:0] WO. -/
def Reg.BE_RST : Nat := 0x014800
/-- 04_coverage_and_lookahead.md R175: ACTIVE[9:9] TX, OUTSIDE[8:8] TX, MAXAGE[7:0] TX. -/
def Reg.SCR_CTRL : Nat := 0x020000
/-- 04_coverage_and_lookahead.md R175: QCOUNT[24:16] RO, MARK_DISC[12:12] W1C, DRAM_ERR[11:11] W1C, MARK_CONFLICT[10:10] W1C, MARK_SEQ[9:9]
W1C, MARK_OLD[8:8] W1C, MARK_OVF[7:7] W1C, COV_FULL[6:6] W1C, COV_WR[5:5] W1C, QADDR[4:4] W1C, NOPOSE[3:3] W1C, POSE_ORDER[2:2] W1C,
POSE_RANGE[1:1] W1C. -/
def Reg.SCR_STAT : Nat := 0x020004
/-- 04_coverage_and_lookahead.md R175: QREFUSED[31:16] RC, MARKREJ[15:0] RC. -/
def Reg.SCR_CNT : Nat := 0x020008
/-- 04_coverage_and_lookahead.md R175: CMISS[31:24] TX, CDEC[23:16] TX, CINC[15:8] TX, SHIFT[2:0] TX. -/
def Reg.GAU_CFG0 : Nat := 0x020010
/-- 04_coverage_and_lookahead.md R175: TOL[15:8] TX, CUSE[7:0] TX. -/
def Reg.GAU_CFG1 : Nat := 0x020014
/-- 04_coverage_and_lookahead.md R175: BUMPMIN[31:16] TX, DIPMIN[15:0] TX. -/
def Reg.GAU_THR : Nat := 0x020018
/-- 04_coverage_and_lookahead.md R175: STATE[31:0] RW. -/
def Reg.SCR_OSTATE (i : Nat) : Nat := 0x020040 + i * 0x4
/-- 04_coverage_and_lookahead.md R175: EN[31:31] TX, PSH[10:8] TX, ESH[6:4] TX, CELL[2:0] TX. -/
def Reg.MAP_GEOM (i : Nat) : Nat := 0x020100 + i * 0x40
/-- 04_coverage_and_lookahead.md R175: ORG[31:0] TX. -/
def Reg.MAP_ORGX (i : Nat) : Nat := 0x020104 + i * 0x40
/-- 04_coverage_and_lookahead.md R175: ORG[31:0] TX. -/
def Reg.MAP_ORGY (i : Nat) : Nat := 0x020108 + i * 0x40
/-- 04_coverage_and_lookahead.md R175: THM1[27:16] TX, TWM1[11:0] TX. -/
def Reg.MAP_SIZE (i : Nat) : Nat := 0x02010C + i * 0x40
/-- 04_coverage_and_lookahead.md R175: BASE[18:0] TX. -/
def Reg.MAP_DIR (i : Nat) : Nat := 0x020110 + i * 0x40
/-- 04_coverage_and_lookahead.md R175: BASE[18:0] TX. -/
def Reg.MAP_CPOOL (i : Nat) : Nat := 0x020114 + i * 0x40
/-- 04_coverage_and_lookahead.md R175: TILES[20:0] TX. -/
def Reg.MAP_CLEN (i : Nat) : Nat := 0x020118 + i * 0x40
/-- 04_coverage_and_lookahead.md R175: TILES[20:0] TX. -/
def Reg.MAP_CNEXT (i : Nat) : Nat := 0x02011C + i * 0x40
/-- 04_coverage_and_lookahead.md R175: BASE[18:0] TX. -/
def Reg.MAP_XPOOL (i : Nat) : Nat := 0x020120 + i * 0x40
/-- 04_coverage_and_lookahead.md R175: BASE[18:0] TX. -/
def Reg.MAP_PPOOL (i : Nat) : Nat := 0x020124 + i * 0x40
/-- 05_metering_and_sensing.md R196: RATE[31:0] TX. -/
def Reg.RT_ENT (i j : Nat) : Nat := 0x021000 + i * 0x400 + j * 0x4
/-- 05_metering_and_sensing.md R196: UNIT[1:0] TX. -/
def Reg.RT_CFG (i : Nat) : Nat := 0x021800 + i * 0x4
/-- 04_coverage_and_lookahead.md R175: EN[31:31] TX, DRIVE[30:28] TX, BUS[27:26] TX, UNIT[25:18] TX, LEARN[17:17] TX, MARKSRC[16:15] TX,
LEAD[14:13] TX, EXIGN[12:12] TX. -/
def Reg.OUT_CFG (i : Nat) : Nat := 0x024000 + i * 0x20
/-- 04_coverage_and_lookahead.md R175: POS[31:0] TX. -/
def Reg.OUT_X (i : Nat) : Nat := 0x024004 + i * 0x20
/-- 04_coverage_and_lookahead.md R175: POS[31:0] TX. -/
def Reg.OUT_Y (i : Nat) : Nat := 0x024008 + i * 0x20
/-- 04_coverage_and_lookahead.md R175: POS[31:0] TX. -/
def Reg.OUT_Z (i : Nat) : Nat := 0x02400C + i * 0x20
/-- 04_coverage_and_lookahead.md R175: TOFF[31:24] TX, TON[23:16] TX, WIDTH[15:0] TX. -/
def Reg.OUT_FOOT (i : Nat) : Nat := 0x024010 + i * 0x20
/-- 04_coverage_and_lookahead.md R175: OFF[30:16] TX, ON[14:0] TX. -/
def Reg.OUT_FIX (i : Nat) : Nat := 0x024014 + i * 0x20
/-- 04_coverage_and_lookahead.md R175: OFF[30:16] TX, ON[14:0] TX. -/
def Reg.OUT_ADD (i : Nat) : Nat := 0x024018 + i * 0x20
/-- 04_coverage_and_lookahead.md R175: XOFS[23:0] TX. -/
def Reg.OUT_XOFS (i : Nat) : Nat := 0x02401C + i * 0x20
/-- 04_coverage_and_lookahead.md R175: CONF[31:24] TX, DELAY[14:0] TX. -/
def Reg.GAU_ON (i : Nat) : Nat := 0x028000 + i * 0x10
/-- 04_coverage_and_lookahead.md R175: CONF[31:24] TX, DELAY[14:0] TX. -/
def Reg.GAU_OFF (i : Nat) : Nat := 0x028004 + i * 0x10
/-- 04_coverage_and_lookahead.md R175: ABORT[31:24] RC, MISS[23:16] RC, OUTLIER[15:8] RC, VALID[7:0] RC. -/
def Reg.GAU_CNT (i : Nat) : Nat := 0x028008 + i * 0x10
/-- 04_coverage_and_lookahead.md R175: EDGE[31:31] RO, RESULT[30:29] RO, VALUE[14:0] RO. -/
def Reg.GAU_LAST (i : Nat) : Nat := 0x02800C + i * 0x10
/-- 07_load_switch_channels.md R255: SEED[31:0] TX. -/
def Reg.LSW_WDSEED : Nat := 0x030004
/-- 07_load_switch_channels.md R255: LINK[31:16] RC, WDEXP[15:0] RC. -/
def Reg.LSW_CNT : Nat := 0x030008
/-- 07_load_switch_channels.md R255: BANKS[11:0] RW. -/
def Reg.LSW_WDMASK : Nat := 0x03000C
/-- 07_load_switch_channels.md R255: TOKEN[31:0] WO. -/
def Reg.LSW_WDTOK : Nat := 0x030010
/-- 07_load_switch_channels.md R255: WINM1[21:16] TX, WDEN[8:8] TX, BOCISO[3:3] TX, HALTISO[2:2] TX, COLL[1:1] TX, ISO[0:0] TX. -/
def Reg.BCFG (i : Nat) : Nat := 0x030100 + i * 0x20
/-- 07_load_switch_channels.md R255: PAT[11:0] TX. -/
def Reg.FS (i : Nat) : Nat := 0x030104 + i * 0x20
/-- 07_load_switch_channels.md R255: DEB[31:16] TX, LIM[15:0] TX. -/
def Reg.BLIM (i : Nat) : Nat := 0x030108 + i * 0x20
/-- 07_load_switch_channels.md R255: MISS[14:8] RO, ISOFLT[7:7] W1C, BADTOK[6:6] W1C, OV[5:5] W1C, UV[4:4] W1C, BOC[3:3] W1C, WDEXP[2:2]
W1C, CRANK[1:1] RO, ISOST[0:0] RO. -/
def Reg.BSTAT (i : Nat) : Nat := 0x03010C + i * 0x20
/-- 07_load_switch_channels.md R255: VBANK[31:16] RO, CUR[15:0] RO. -/
def Reg.BCUR (i : Nat) : Nat := 0x030110 + i * 0x20
/-- 07_load_switch_channels.md R255: IHI[31:16] TX, ILO[15:0] TX. -/
def Reg.PRF_WIN (i : Nat) : Nat := 0x030400 + i * 0x10
/-- 07_load_switch_channels.md R255: INR_T[31:24] TX, SLEW[21:20] TX, INR_LIM[15:0] TX. -/
def Reg.PRF_INR (i : Nat) : Nat := 0x030404 + i * 0x10
/-- 07_load_switch_channels.md R255: LIMT[25:16] TX, WDEB[7:0] TX. -/
def Reg.PRF_LIM (i : Nat) : Nat := 0x030408 + i * 0x10
/-- 07_load_switch_channels.md R255: RMAX[31:28] TX, RT[25:16] TX, STAB[15:0] TX. -/
def Reg.PRF_RTY (i : Nat) : Nat := 0x03040C + i * 0x10
/-- 07_load_switch_channels.md R255: INSEL[29:28] TX, PROF[26:24] TX, DIN[19:16] TX, OLMODE[13:12] TX. -/
def Reg.CH_CFG (i : Nat) : Nat := 0x031000 + i * 0x10
/-- 07_load_switch_channels.md R255: ON[31:31] RW, OFFSET[19:0] RW. -/
def Reg.CH_CMD (i : Nat) : Nat := 0x031004 + i * 0x10
/-- 07_load_switch_channels.md R255: RTYCNT[19:16] RO, UVOFF[15:15] W1C, CMD_BAD[14:14] W1C, TSD[13:13] W1C, OCOFF[12:12] W1C, OC[11:11]
W1C, UC[10:10] W1C, STB[9:9] W1C, OL[8:8] W1C, REVB[6:6] RO, LOCK[5:5] W1C, RTYWAIT[4:4] RO, TLATCH[3:3] RO, LIM[2:2] RO, OUT[1:1] RO,
IN[0:0] RO. -/
def Reg.CH_STAT (i : Nat) : Nat := 0x031008 + i * 0x10
/-- 07_load_switch_channels.md R255: I[31:16] RO, VOUT[15:0] RO. -/
def Reg.CH_MEAS (i : Nat) : Nat := 0x03100C + i * 0x10
/-- 06_pwm_generators.md R223: SRC[1:1] TX, EN[0:0] RW. -/
def Reg.PWM_UCTRL (i : Nat) : Nat := 0x040000 + i * 0x40
/-- 06_pwm_generators.md R223: SYNCOUT[31:31] TX, SRC[25:24] TX, DLY[23:0] TX. -/
def Reg.PWM_USYNC (i : Nat) : Nat := 0x040004 + i * 0x40
/-- 06_pwm_generators.md R223: COLL[31:31] TX, BLKEN[24:24] TX, BLKSRC[23:16] TX, FMASK[15:0] TX. -/
def Reg.PWM_UFLT (i : Nat) : Nat := 0x040008 + i * 0x40
/-- 06_pwm_generators.md R223: FIRST[19:16] RO, FRZ[6:6] W1C, CAUSE[5:4] RO, ACTIVE[1:1] RO, FLATCH[0:0] W1C. -/
def Reg.PWM_UFSTAT (i : Nat) : Nat := 0x04000C + i * 0x40
/-- 06_pwm_generators.md R223: BSTIVL[31:24] TX, BSTPW[23:13] TX, MINPW[11:0] TX. -/
def Reg.PWM_UTIME (i : Nat) : Nat := 0x040010 + i * 0x40
/-- 06_pwm_generators.md R223: DROP[31:16] RC, DT_HOLD[15:0] RC. -/
def Reg.PWM_UCNT (i : Nat) : Nat := 0x040014 + i * 0x40
/-- 06_pwm_generators.md R223: PAIRLATE[31:16] RC, BADVAL[15:0] RC. -/
def Reg.PWM_UCNT2 (i : Nat) : Nat := 0x040018 + i * 0x40
/-- 06_pwm_generators.md R223: POL[15:0] TX. -/
def Reg.PWM_FLTPOL : Nat := 0x040800
/-- 06_pwm_generators.md R223: ACT[15:0] RO. -/
def Reg.PWM_FLTLVL : Nat := 0x040804
/-- 06_pwm_generators.md R223: MODE[28:26] TX, POL[25:25] TX, SAFELVL[24:24] TX, DISLVL[23:23] TX, DUTYFMT[22:22] TX, PAIR[21:21] TX,
SYNCEN[20:20] TX, COMP[19:19] TX, DTMODE[18:18] TX, PAIRTO[15:8] TX. -/
def Reg.PWM_CHCFG (i : Nat) : Nat := 0x041000 + i * 0x20
/-- 06_pwm_generators.md R223: DUTY[31:0] RW. -/
def Reg.PWM_DUTY (i : Nat) : Nat := 0x041004 + i * 0x20
/-- 06_pwm_generators.md R223: PER[31:0] RW. -/
def Reg.PWM_PER (i : Nat) : Nat := 0x041008 + i * 0x20
/-- 06_pwm_generators.md R223: CMP[31:0] RW. -/
def Reg.PWM_CMPA (i : Nat) : Nat := 0x04100C + i * 0x20
/-- 06_pwm_generators.md R223: CMP[31:0] RW. -/
def Reg.PWM_CMPB (i : Nat) : Nat := 0x041010 + i * 0x20
/-- 06_pwm_generators.md R223: PHASE[31:0] TX. -/
def Reg.PWM_PHASE (i : Nat) : Nat := 0x041014 + i * 0x20
/-- 06_pwm_generators.md R223: OUT[9:9] RO, FORCED[8:8] RO, PER_PEND[7:7] RO, DUTY_PEND[6:6] RO, DT_TOUT[4:4] W1C, BADVAL[3:3] W1C,
DT_HOLD[2:2] W1C, DROP[1:1] W1C, PAIR_LATE[0:0] W1C. -/
def Reg.PWM_CHSTAT (i : Nat) : Nat := 0x041018 + i * 0x20
/-- 06_pwm_generators.md R223: DTMAX[26:16] TX, DTMIN[10:0] TX. -/
def Reg.PWM_DT (i : Nat) : Nat := 0x04101C + i * 0x20
/-- 08_motion_and_feedback.md R286: EN[31:31] TX, MODE[30:28] TX, HOLD_POS[27:27] TX, WAITSTART[26:26] TX, OUTSEL[25:25] TX, DIRINV[24:24]
TX, MICRO[23:20] TX, SETTO[19:16] TX, SPER[15:8] TX, SPHASE[7:0] TX. -/
def Reg.AX_CFG (i : Nat) : Nat := 0x050000 + i * 0x80
/-- 08_motion_and_feedback.md R286: LIM[31:0] RW. -/
def Reg.AX_VMAX (i : Nat) : Nat := 0x050004 + i * 0x80
/-- 08_motion_and_feedback.md R286: LIM[31:0] RW. -/
def Reg.AX_AMAX (i : Nat) : Nat := 0x050008 + i * 0x80
/-- 08_motion_and_feedback.md R286: LIM[31:0] RW. -/
def Reg.AX_DMAX (i : Nat) : Nat := 0x05000C + i * 0x80
/-- 08_motion_and_feedback.md R286: LIM[31:0] RW. -/
def Reg.AX_JMAX (i : Nat) : Nat := 0x050010 + i * 0x80
/-- 08_motion_and_feedback.md R286: VAL[31:0] RW. -/
def Reg.AX_TGT_LO (i : Nat) : Nat := 0x050014 + i * 0x80
/-- 08_motion_and_feedback.md R286: VAL[31:0] RW. -/
def Reg.AX_TGT_HI (i : Nat) : Nat := 0x050018 + i * 0x80
/-- 08_motion_and_feedback.md R286: VAL[31:0] RW. -/
def Reg.AX_SETP (i : Nat) : Nat := 0x05001C + i * 0x80
/-- 08_motion_and_feedback.md R286: STOP[1:0] WO. -/
def Reg.AX_CMD (i : Nat) : Nat := 0x050020 + i * 0x80
/-- 08_motion_and_feedback.md R286: EN[31:31] TX, ACT[30:29] TX, EDGE[28:28] TX, SRC[20:19] TX, NUM[4:0] TX. -/
def Reg.AX_REF (i : Nat) : Nat := 0x050024 + i * 0x80
/-- 08_motion_and_feedback.md R286: VAL[31:0] WO. -/
def Reg.AX_PSET_LO (i : Nat) : Nat := 0x050028 + i * 0x80
/-- 08_motion_and_feedback.md R286: VAL[31:0] WO. -/
def Reg.AX_PSET_HI (i : Nat) : Nat := 0x05002C + i * 0x80
/-- 08_motion_and_feedback.md R286: EN[31:31] TX, ACT[30:30] TX, DEB[23:16] TX, ANG[15:0] TX. -/
def Reg.AX_STALL (i : Nat) : Nat := 0x050030 + i * 0x80
/-- 08_motion_and_feedback.md R286: VMIN[31:0] TX. -/
def Reg.AX_STALLV (i : Nat) : Nat := 0x050034 + i * 0x80
/-- 08_motion_and_feedback.md R286: IRUN[31:16] TX, IHOLD[15:0] TX. -/
def Reg.AX_CUR (i : Nat) : Nat := 0x050038 + i * 0x80
/-- 08_motion_and_feedback.md R286: POS_VALID[14:14] RO, REVERSE[13:13] RO, ACC_DEFERRED[12:12] W1C, STALL[11:11] W1C, SETP_TOUT[10:10] W1C,
SETP_LATE[9:9] W1C, SETP_CLAMP[8:8] W1C, PSET_REJ[7:7] W1C, LATCHED[6:6] W1C, STEP_OVF[5:5] W1C, PWRDN[4:4] RO, STATE[2:0] RO. -/
def Reg.AX_STAT (i : Nat) : Nat := 0x050040 + i * 0x80
/-- 08_motion_and_feedback.md R286: VAL[31:0] RO. -/
def Reg.AX_POS_LO (i : Nat) : Nat := 0x050044 + i * 0x80
/-- 08_motion_and_feedback.md R286: VAL[31:0] RO. -/
def Reg.AX_POS_HI (i : Nat) : Nat := 0x050048 + i * 0x80
/-- 08_motion_and_feedback.md R286: VAL[31:0] RO. -/
def Reg.AX_VEL (i : Nat) : Nat := 0x05004C + i * 0x80
/-- 08_motion_and_feedback.md R286: VAL[31:0] RO. -/
def Reg.AX_LOAD (i : Nat) : Nat := 0x050050 + i * 0x80
/-- 08_motion_and_feedback.md R286: VAL[31:0] RO. -/
def Reg.AX_LATCH_LO (i : Nat) : Nat := 0x050054 + i * 0x80
/-- 08_motion_and_feedback.md R286: VAL[31:0] RO. -/
def Reg.AX_LATCH_HI (i : Nat) : Nat := 0x050058 + i * 0x80
/-- 08_motion_and_feedback.md R286: VAL[31:0] RO. -/
def Reg.AX_LSTAMP (i : Nat) : Nat := 0x05005C + i * 0x80
/-- 08_motion_and_feedback.md R286: INC[31:0] RO. -/
def Reg.AX_SETOUT (i : Nat) : Nat := 0x050060 + i * 0x80
/-- 08_motion_and_feedback.md R286: STEPW[15:0] TX. -/
def Reg.AX_STEP (i : Nat) : Nat := 0x050064 + i * 0x80
/-- 08_motion_and_feedback.md R286: START[15:0] WO. -/
def Reg.MOT_START : Nat := 0x050F00
/-- 08_motion_and_feedback.md R286: EN[31:31] TX, TYPE[29:28] TX, PPER[19:0] TX. -/
def Reg.PT_CFG (i : Nat) : Nat := 0x051000 + i * 0x20
/-- 08_motion_and_feedback.md R286: OCLIM[31:24] TX, VDSLIM[23:16] TX, SHUNT[15:8] TX. -/
def Reg.PT_PROT (i : Nat) : Nat := 0x051004 + i * 0x20
/-- 08_motion_and_feedback.md R286: LIND[31:16] TX, RES[15:0] TX. -/
def Reg.PT_COIL (i : Nat) : Nat := 0x051008 + i * 0x20
/-- 08_motion_and_feedback.md R286: ACTIVE[8:8] RO, VGUV[7:7] W1C, OCPB[6:6] W1C, OCPA[5:5] W1C, VDS[4:4] W1C, BSTUV[3:0] W1C. -/
def Reg.PT_STAT (i : Nat) : Nat := 0x05100C + i * 0x20
/-- 08_motion_and_feedback.md R286: HI[31:16] RO, LO[15:0] RO. -/
def Reg.PT_MEAS (i : Nat) : Nat := 0x051010 + i * 0x20
/-- 08_motion_and_feedback.md R286: HI[31:16] RO, LO[15:0] RO. -/
def Reg.PT_I (i : Nat) : Nat := 0x051014 + i * 0x20
/-- 08_motion_and_feedback.md R287: EN[31:31] TX, MODE[30:28] TX, DIRINV[27:27] TX, IDXMODE[26:25] TX, IDXPOL[24:24] TX, FILT[23:20] TX,
PRE[19:17] TX, PAVG[15:8] TX, GATE[7:0] TX. -/
def Reg.FB_CFG (i : Nat) : Nat := 0x058000 + i * 0x40
/-- 08_motion_and_feedback.md R287: VAL[31:0] TX at 0x04; RO elsewhere. -/
def Reg.FB_IDX (i : Nat) : Nat := 0x058004 + i * 0x40
/-- 08_motion_and_feedback.md R287: VAL[31:0] TX at 0x04; RO elsewhere. -/
def Reg.FB_COUNT (i : Nat) : Nat := 0x058008 + i * 0x40
/-- 08_motion_and_feedback.md R287: VAL[31:0] TX at 0x04; RO elsewhere. -/
def Reg.FB_STAMP (i : Nat) : Nat := 0x05800C + i * 0x40
/-- 08_motion_and_feedback.md R287: VAL[31:0] TX at 0x04; RO elsewhere. -/
def Reg.FB_PERIOD (i : Nat) : Nat := 0x058010 + i * 0x40
/-- 08_motion_and_feedback.md R287: VAL[31:0] TX at 0x04; RO elsewhere. -/
def Reg.FB_FREQ (i : Nat) : Nat := 0x058014 + i * 0x40
/-- 08_motion_and_feedback.md R287: VAL[31:0] TX at 0x04; RO elsewhere. -/
def Reg.FB_ILATCH (i : Nat) : Nat := 0x058018 + i * 0x40
/-- 08_motion_and_feedback.md R287: LVL[10:8] RO, FRZ[4:4] W1C, PSTALE[3:3] RO, ILL[2:2] W1C, INDEX_ERR[1:1] W1C, IDXSEEN[0:0] RO. -/
def Reg.FB_STAT (i : Nat) : Nat := 0x05801C + i * 0x40
/-- 08_motion_and_feedback.md R287: IDXERR[31:16] RC, ILLCNT[15:0] RC. -/
def Reg.FB_CNT (i : Nat) : Nat := 0x058020 + i * 0x40
/-- 08_motion_and_feedback.md R287: EN[31:31] TX, ADEB[19:16] TX, DIRINV[0:0] TX. -/
def Reg.SC_CFG (i : Nat) : Nat := 0x058800 + i * 0x20
/-- 08_motion_and_feedback.md R287: AMAX[31:16] TX, AMIN[15:0] TX. -/
def Reg.SC_WIN (i : Nat) : Nat := 0x058804 + i * 0x20
/-- 08_motion_and_feedback.md R287: VAL[31:0] RO. -/
def Reg.SC_VAL (i : Nat) : Nat := 0x058808 + i * 0x20
/-- 08_motion_and_feedback.md R287: VAL[31:0] RO. -/
def Reg.SC_POS (i : Nat) : Nat := 0x05880C + i * 0x20
/-- 08_motion_and_feedback.md R287: VAL[31:0] RO. -/
def Reg.SC_AMP (i : Nat) : Nat := 0x058810 + i * 0x20
/-- 08_motion_and_feedback.md R287: FRZ[4:4] W1C, POSBAD[3:3] W1C, AMP[2:2] W1C, HL[1:0] RO. -/
def Reg.SC_STAT (i : Nat) : Nat := 0x058814 + i * 0x20
/-- 08_motion_and_feedback.md R287: AMPCNT[15:0] RC. -/
def Reg.SC_CNT (i : Nat) : Nat := 0x058818 + i * 0x20
/-- 09_gnss_baseband.md R319: EN[31:31] TX, BW[5:4] TX, ARANGE[3:2] TX, GRANGE[1:0] TX. -/
def Reg.IMU_CFG : Nat := 0x059000
/-- 09_gnss_baseband.md R319: START[0:0] WO. -/
def Reg.IMU_TEST : Nat := 0x059004
/-- 09_gnss_baseband.md R319: TEMP[31:16] RO, TESTING[5:5] RO, STFAIL[4:4] W1C, FAULT[3:3] W1C, SATA[2:2] W1C, SATG[1:1] W1C, VALID[0:0] RO. -/
def Reg.IMU_STAT : Nat := 0x059008
/-- 09_gnss_baseband.md R319: VAL[31:0] RO. -/
def Reg.IMU_VAL (i : Nat) : Nat := 0x059010 + i * 0x4
/-- 05_metering_and_sensing.md R196: CHECK[2:2] TX, ENB[1:1] TX, ENA[0:0] TX. -/
def Reg.ADC_CTRL : Nat := 0x060000
/-- 05_metering_and_sensing.md R196: FRZ_DISC[7:7] W1C, WIN[6:6] W1C, LOST_B[5:5] W1C, LOST_A[4:4] W1C, REF_B[3:3] W1C, REF_A[2:2] W1C,
BUSY_B[1:1] RO, BUSY_A[0:0] RO. -/
def Reg.ADC_STAT : Nat := 0x060004
/-- 05_metering_and_sensing.md R196: WINCNT[31:16] RC, LOST[15:0] RC. -/
def Reg.ADC_CNT : Nat := 0x060008
/-- 05_metering_and_sensing.md R196: FIRE[15:0] WO. -/
def Reg.ADC_SWTRG : Nat := 0x06000C
/-- 05_metering_and_sensing.md R196: OPEN[31:0] W1C. -/
def Reg.ADC_SHUNT : Nat := 0x060010
/-- 05_metering_and_sensing.md R196: WDEB[11:8] TX, WIN[6:6] TX, AVG[5:4] TX, RANGE[1:0] TX. -/
def Reg.ADC_INCFG (i : Nat) : Nat := 0x060100 + i * 0x4
/-- 05_metering_and_sensing.md R196: HIGH[31:16] TX, LOW[15:0] TX. -/
def Reg.ADC_WIN (i : Nat) : Nat := 0x060180 + i * 0x4
/-- 05_metering_and_sensing.md R196: EN[31:31] TX, KIND[27:26] TX, CONV[25:24] TX, SEL[15:0] TX. -/
def Reg.ADC_TRGSRC (i : Nat) : Nat := 0x060200 + i * 0x8
/-- 05_metering_and_sensing.md R196: DIV[23:16] TX, CNTM1[11:8] TX, FIRST[3:0] TX. -/
def Reg.ADC_TRGLIST (i : Nat) : Nat := 0x060204 + i * 0x8
/-- 05_metering_and_sensing.md R196: VALUE[31:0] RO. -/
def Reg.ADC_RES_VALUE (i : Nat) : Nat := 0x061000 + i * 0x10
/-- 05_metering_and_sensing.md R196: FRAME[31:20] RO, OFFSET[19:0] RO. -/
def Reg.ADC_RES_STAMP (i : Nat) : Nat := 0x061004 + i * 0x10
/-- 05_metering_and_sensing.md R196: SEQ[31:16] RO, TRG[15:12] RO, REFBAD[5:5] RO, SHUNT[4:4] RO, HIGH[3:3] RO, LOW[2:2] RO, RANGE[1:0] RO. -/
def Reg.ADC_RES_STAT (i : Nat) : Nat := 0x061008 + i * 0x10
/-- 05_metering_and_sensing.md R196: CODE[15:0] RO. -/
def Reg.ADC_RES_RAW (i : Nat) : Nat := 0x06100C + i * 0x10
/-- 09_gnss_baseband.md R318: RATE[11:8] TX, STEPEN[2:2] TX, BURST[1:1] TX, EN[0:0] TX. -/
def Reg.GNS_CTRL : Nat := 0x070000
/-- 09_gnss_baseband.md R318: LEN[7:0] TX. -/
def Reg.GNS_BURST : Nat := 0x070004
/-- 09_gnss_baseband.md R318: NTRK[24:16] RO, SIGLOST[2:2] W1C, BURSTING[1:1] RO. -/
def Reg.GNS_STAT : Nat := 0x070008
/-- 09_gnss_baseband.md R318: SLIP[31:16] RC, LOSS[15:0] RC. -/
def Reg.GNS_CNT : Nat := 0x07000C
/-- 09_gnss_baseband.md R318: EN[31:31] TX, BIAS[1:0] TX. -/
def Reg.ANT_CFG (i : Nat) : Nat := 0x070100 + i * 0x10
/-- 09_gnss_baseband.md R318: IBIAS[31:16] RO, AGC[15:8] RO, BIASON[2:2] RO, SHORT[1:1] W1C, OPEN[0:0] W1C. -/
def Reg.ANT_STAT (i : Nat) : Nat := 0x070104 + i * 0x10
/-- 09_gnss_baseband.md R318: HOLDTO[31:24] TX, SLEW[23:16] TX, UNCLIM[15:0] TX. -/
def Reg.GNS_TCFG : Nat := 0x070200
/-- 09_gnss_baseband.md R318: AGING[31:16] TX, FERR[15:0] TX. -/
def Reg.GNS_HOCFG : Nat := 0x070204
/-- 09_gnss_baseband.md R318: EN[31:31] TX, POL[30:30] TX, PER[29:28] TX, WIDTH[15:0] TX. -/
def Reg.GNS_TPCFG : Nat := 0x070208
/-- 09_gnss_baseband.md R318: STEP[31:31] WO, PH[30:0] WO. -/
def Reg.GNS_STEER_PH : Nat := 0x07020C
/-- 09_gnss_baseband.md R318: FR[31:0] WO. -/
def Reg.GNS_STEER_FR : Nat := 0x070210
/-- 09_gnss_baseband.md R318: WEEK[15:0] WO. -/
def Reg.GNS_TSET_WK : Nat := 0x070214
/-- 09_gnss_baseband.md R318: SEC[19:0] WO. -/
def Reg.GNS_TSET_S : Nat := 0x070218
/-- 09_gnss_baseband.md R318: UNC0[31:0] RW. -/
def Reg.GNS_UNC0 : Nat := 0x07021C
/-- 09_gnss_baseband.md R318: UNC_OVER[6:6] W1C, STEER_BIG[5:5] W1C, TSET_REJ[4:4] W1C, STEP_PEND[3:3] RO, STATE[2:0] RO. -/
def Reg.GNS_TSTAT : Nat := 0x070220
/-- 09_gnss_baseband.md R318: VAL[31:0] RO. -/
def Reg.GNS_RESID : Nat := 0x070224
/-- 09_gnss_baseband.md R318: VAL[31:0] RO. -/
def Reg.GNS_FREQ : Nat := 0x070228
/-- 09_gnss_baseband.md R318: VAL[31:0] RO. -/
def Reg.GNS_UNC : Nat := 0x07022C
/-- 09_gnss_baseband.md R318: VAL[31:0] RO. -/
def Reg.GNS_AGE : Nat := 0x070230
/-- 09_gnss_baseband.md R318: VAL[31:0] RO. -/
def Reg.GNS_TPCNT : Nat := 0x070234
/-- A window of words (its chapter's table). -/
def Reg.GNS_EPOCH (i : Nat) : Nat := 0x071000 + i * 0x4
/-- 09_gnss_baseband.md R318: EN[31:31] TX, ANT[30:29] TX, CONST[28:26] TX, SIG[25:22] TX, FCN[19:16] TX, SVID[15:8] TX. -/
def Reg.GCH_SIG (i : Nat) : Nat := 0x074000 + i * 0x20
/-- 09_gnss_baseband.md R318: WIN[31:16] TX, CENTRE[15:0] TX. -/
def Reg.GCH_DOP (i : Nat) : Nat := 0x074004 + i * 0x20
/-- 09_gnss_baseband.md R318: AUTO[31:31] TX, REACQT[23:16] TX, LOSSCN[15:8] TX, PLLBW[3:2] TX, DLLBW[1:0] TX. -/
def Reg.GCH_TRK (i : Nat) : Nat := 0x074008 + i * 0x20
/-- 09_gnss_baseband.md R318: CN0[15:8] RO, STATE[2:0] RO. -/
def Reg.GCH_STAT (i : Nat) : Nat := 0x07400C + i * 0x20
/-- A window of words (its chapter's table). -/
def Reg.GNS_RING (i j : Nat) : Nat := 0x078000 + i * 0x40 + j * 0x4
/-- 10_message_bus.md R349: DEFACT[11:9] TX, PXHD[8:8] TX, PAIRED[7:7] TX, ONESHOT[6:6] TX, ABO[5:5] TX, LOM[4:4] TX, FD[1:1] TX, EN[0:0] TX. -/
def Reg.BUS_CFG (i : Nat) : Nat := 0x080000 + i * 0x4000
/-- 10_message_bus.md R349: NBRP[31:27] TX, NTSEG1[23:16] TX, NTSEG2[15:9] TX, NSJW[6:0] TX. -/
def Reg.BUS_NBT (i : Nat) : Nat := 0x080004 + i * 0x4000
/-- 10_message_bus.md R349: TDC[31:31] TX, TDCO[30:24] TX, DBRP[23:19] TX, DTSEG1[15:11] TX, DTSEG2[7:4] TX, DSJW[3:0] TX. -/
def Reg.BUS_DBT (i : Nat) : Nat := 0x080008 + i * 0x4000
/-- 10_message_bus.md R349: BASE[31:0] TX. -/
def Reg.BUS_MBASE (i : Nat) : Nat := 0x08000C + i * 0x4000
/-- 10_message_bus.md R349: TXNUM[6:0] TX. -/
def Reg.BUS_TXNUM (i : Nat) : Nat := 0x080010 + i * 0x4000
/-- 10_message_bus.md R349: ROLE[31:30] TX, IDE[29:29] TX, REFID[28:0] TX. -/
def Reg.BUS_REF (i : Nat) : Nat := 0x080014 + i * 0x4000
/-- 10_message_bus.md R349: CYCLE[31:20] TX, REFOFS[19:0] TX. -/
def Reg.BUS_REFT (i : Nat) : Nat := 0x080018 + i * 0x4000
/-- 10_message_bus.md R349: FWIN[31:0] TX. -/
def Reg.BUS_AUTH (i : Nat) : Nat := 0x08001C + i * 0x4000
/-- 10_message_bus.md R349: QLEN[9:0] TX. -/
def Reg.BUS_QCFG (i j : Nat) : Nat := 0x080020 + i * 0x4000 + j * 0x4
/-- 10_message_bus.md R349: FRZ[13:13] W1C, TXDTO[12:12] W1C, AUTHFAIL[11:11] W1C, ACK_BAD[10:10] W1C, OVF[9:6] W1C, BOFF[5:5] W1C,
EPASS[4:4] W1C, RECOV[3:3] RO, STATE[1:0] RO. -/
def Reg.BUS_STAT (i : Nat) : Nat := 0x080030 + i * 0x4000
/-- 10_message_bus.md R349: LEC[18:16] RC, REC[15:8] RO, TEC[7:0] RO. -/
def Reg.BUS_ERR (i : Nat) : Nat := 0x080034 + i * 0x4000
/-- 10_message_bus.md R349: AUTHFAIL[31:24] RC, RXOVF[23:16] RC, TXCNT[15:0] RC. -/
def Reg.BUS_CNT (i : Nat) : Nat := 0x080038 + i * 0x4000
/-- 10_message_bus.md R349: MASK[31:0] WO. -/
def Reg.BUS_TXREQ_LO (i : Nat) : Nat := 0x080040 + i * 0x4000
/-- 10_message_bus.md R349: MASK[31:0] WO. -/
def Reg.BUS_TXREQ_HI (i : Nat) : Nat := 0x080044 + i * 0x4000
/-- 10_message_bus.md R349: MASK[31:0] WO. -/
def Reg.BUS_TXCAN_LO (i : Nat) : Nat := 0x080048 + i * 0x4000
/-- 10_message_bus.md R349: MASK[31:0] WO. -/
def Reg.BUS_TXCAN_HI (i : Nat) : Nat := 0x08004C + i * 0x4000
/-- 10_message_bus.md R349: RESTART[0:0] WO. -/
def Reg.BUS_CMD (i : Nat) : Nat := 0x080050 + i * 0x4000
/-- 10_message_bus.md R349: WR[25:16] RO, RD[9:0] RO. -/
def Reg.BUS_QST (i j : Nat) : Nat := 0x080060 + i * 0x4000 + j * 0x8
/-- 10_message_bus.md R349: N[9:0] WO. -/
def Reg.BUS_QACK (i j : Nat) : Nat := 0x080064 + i * 0x4000 + j * 0x8
/-- 10_message_bus.md R349: MASTER[7:7] RO, SEEN[6:6] RO, CYCLE[5:0] RO. -/
def Reg.BUS_REFST (i : Nat) : Nat := 0x080080 + i * 0x4000
/-- 10_message_bus.md R349: STAMP[31:0] RO. -/
def Reg.BUS_REFSTAMP (i : Nat) : Nat := 0x080084 + i * 0x4000
/-- 10_message_bus.md R349: WOKE[1:1] W1C, EN[0:0] RW. -/
def Reg.BUS_WAKE : Nat := 0x080088
/-- 10_message_bus.md R349: LATE[7:7] W1C, CANCEL_LATE[6:6] W1C, NOACK[5:5] RO, DOWEL[4:4] RO, BADHDR[3:3] RO, STATE[2:0] RO. -/
def Reg.BUS_TXST (i j : Nat) : Nat := 0x080800 + i * 0x4000 + j * 0x4
/-- 10_message_bus.md R349: EN[31:31] TX, TYPE[30:29] TX, IDE[28:28] TX, AUTH[27:27] TX, ACT[26:24] TX, FSLOT[21:16] TX. -/
def Reg.FLT_CTL (i j : Nat) : Nat := 0x081000 + i * 0x4000 + j * 0x10
/-- 10_message_bus.md R349: ID[28:0] TX. -/
def Reg.FLT_ID1 (i j : Nat) : Nat := 0x081004 + i * 0x4000 + j * 0x10
/-- 10_message_bus.md R349: ID[28:0] TX. -/
def Reg.FLT_ID2 (i j : Nat) : Nat := 0x081008 + i * 0x4000 + j * 0x10
/-- 12_twin_pairing_and_journal.md R405: PROB[31:16] TX, LATELIM[15:8] TX, KILLEN[1:1] TX, EN[0:0] TX. -/
def Reg.TRU_CFG : Nat := 0x090000
/-- 12_twin_pairing_and_journal.md R405: JOINERR[19:16] RO, SKEWFLT[13:13] W1C, KILLFLT[12:12] W1C, LINKLOSS[11:11] W1C, CFGDIV[10:10] W1C,
KILLED[9:9] RO, TAKEOVER[8:8] W1C, KILLIN[7:7] RO, LINKUP[6:6] RO, SIDE[5:5] RO, LEAD[4:4] RO, STATE[2:0] RO. -/
def Reg.TRU_STAT : Nat := 0x090004
/-- 12_twin_pairing_and_journal.md R405: SKEW[15:0] RO. -/
def Reg.TRU_SKEW : Nat := 0x090008
/-- 12_twin_pairing_and_journal.md R405: CRCERR[15:0] RC. -/
def Reg.TRU_CNT : Nat := 0x09000C
/-- 12_twin_pairing_and_journal.md R405: PHASE[10:8] RO, GO[0:0] WO. -/
def Reg.TRU_SCARF : Nat := 0x090010
/-- 12_twin_pairing_and_journal.md R405: KEY[15:8] WO, ASSERT[0:0] WO. -/
def Reg.TRU_KILL : Nat := 0x090014
/-- 12_twin_pairing_and_journal.md R406: RMORE[6:6] RO, HOLDFAIL[5:5] W1C, CORRUPT[4:4] W1C, TORN[3:3] W1C, DIVERGE[2:2] W1C, FULL[1:1] W1C. -/
def Reg.JRN_STAT : Nat := 0x098000
/-- 12_twin_pairing_and_journal.md R406: VAL[31:0] RO. -/
def Reg.JRN_SEQ_LO : Nat := 0x098004
/-- 12_twin_pairing_and_journal.md R406: VAL[31:0] RO. -/
def Reg.JRN_SEQ_HI : Nat := 0x098008
/-- 12_twin_pairing_and_journal.md R406: VAL[31:0] RO. -/
def Reg.JRN_OPEN : Nat := 0x09800C
/-- 12_twin_pairing_and_journal.md R406: VAL[31:0] TX at 0x10 and 0x14; RO at 0x18. -/
def Reg.JRN_RBASE : Nat := 0x098010
/-- 12_twin_pairing_and_journal.md R406: VAL[31:0] TX at 0x10 and 0x14; RO at 0x18. -/
def Reg.JRN_RLEN : Nat := 0x098014
/-- 12_twin_pairing_and_journal.md R406: VAL[31:0] TX at 0x10 and 0x14; RO at 0x18. -/
def Reg.JRN_RCNT : Nat := 0x098018
/-- 12_twin_pairing_and_journal.md R406: NEXT[1:1] WO, REPLAY[0:0] WO. -/
def Reg.JRN_RCTL : Nat := 0x09801C
/-- 12_twin_pairing_and_journal.md R406: MARKS[5:0] RO. -/
def Reg.JRN_BUF : Nat := 0x098020
/-- 13_faults_and_recorder.md R431: INJEN[0:0] TX. -/
def Reg.FLT_CFG : Nat := 0x0A0000
/-- 13_faults_and_recorder.md R431: MANUAL[4:4] RO, ESCAL[3:3] W1C, HALT[2:2] RO, SAFE[1:1] RO, DEGRADE[0:0] RO. -/
def Reg.FLT_STAT : Nat := 0x0A0004
/-- 13_faults_and_recorder.md R431: TIME[12:0] TX. -/
def Reg.FLT_QUIET : Nat := 0x0A0008
/-- 13_faults_and_recorder.md R431: RDECAY[23:8] TX, RLIMIT[7:0] TX. -/
def Reg.FLT_RCFG : Nat := 0x0A000C
/-- 13_faults_and_recorder.md R431: COUNT[7:0] RO. -/
def Reg.FLT_RCNT : Nat := 0x0A0010
/-- 13_faults_and_recorder.md R431: KEY[15:8] WO, RCLR[1:1] WO, CLEAR[0:0] WO. -/
def Reg.FLT_CTRL : Nat := 0x0A0014
/-- 13_faults_and_recorder.md R431: VALID[31:31] W1C, INJ[30:30] RO, SEV[29:28] RO, SRC[24:16] RO. -/
def Reg.FLT_FIRST : Nat := 0x0A0018
/-- 13_faults_and_recorder.md R431: VAL[31:0] RO. -/
def Reg.FLT_FIRSTDET : Nat := 0x0A001C
/-- 13_faults_and_recorder.md R431: VAL[31:0] RO. -/
def Reg.FLT_FIRSTFRM : Nat := 0x0A0020
/-- 13_faults_and_recorder.md R431: VAL[31:0] RO. -/
def Reg.FLT_FIRSTOFS : Nat := 0x0A0024
/-- 13_faults_and_recorder.md R431: GO[31:31] WO, SRC[28:20] WO, OFS[19:0] WO. -/
def Reg.FLT_INJ : Nat := 0x0A0028
/-- 13_faults_and_recorder.md R431: DET[31:0] RW. -/
def Reg.FLT_INJDET : Nat := 0x0A002C
/-- 13_faults_and_recorder.md R431: REFUSED[2:2] W1C, STATE[1:0] RO. -/
def Reg.FLT_INJST : Nat := 0x0A0030
/-- 13_faults_and_recorder.md R431: EN[31:31] TX, REC[4:4] TX, ERST[3:3] TX, AUTO[2:2] TX, SEV[1:0] TX. -/
def Reg.FLT_SRC (i : Nat) : Nat := 0x0A1000 + i * 0x4
/-- 13_faults_and_recorder.md R431: COUNT[15:8] RC, ASSERTED[1:1] RO, STICKY[0:0] W1C. -/
def Reg.FLT_SST (i : Nat) : Nat := 0x0A2000 + i * 0x4
/-- 13_faults_and_recorder.md R431: DETAIL[31:0] RO. -/
def Reg.FLT_SDET (i : Nat) : Nat := 0x0A3000 + i * 0x4
/-- 13_faults_and_recorder.md R432: IVL[31:16] TX, FRZTO[15:8] TX, RDMODE[0:0] TX. -/
def Reg.REC_CFG : Nat := 0x0A8000
/-- 13_faults_and_recorder.md R432: SWBAD[8:8] W1C, SIGSKIP[7:7] W1C, DROPFRZ[6:6] W1C, DROPSEV[5:5] W1C, LOST[4:4] W1C, CRCERR[3:3] W1C,
GAP[2:2] W1C, SIGBUSY[1:1] RO, FROZEN[0:0] RO. -/
def Reg.REC_STAT : Nat := 0x0A8004
/-- 13_faults_and_recorder.md R432: DROP[31:16] RC, LOST[15:0] RC. -/
def Reg.REC_CNT : Nat := 0x0A8008
/-- 13_faults_and_recorder.md R432: RSEQ[31:0] RW at 0x0014; RO elsewhere. -/
def Reg.REC_HEAD : Nat := 0x0A800C
/-- 13_faults_and_recorder.md R432: RSEQ[31:0] RW at 0x0014; RO elsewhere. -/
def Reg.REC_OLDEST : Nat := 0x0A8010
/-- 13_faults_and_recorder.md R432: RSEQ[31:0] RW at 0x0014; RO elsewhere. -/
def Reg.REC_RDSTART : Nat := 0x0A8014
/-- 13_faults_and_recorder.md R432: RELEASE[1:1] WO, FREEZE[0:0] WO. -/
def Reg.REC_CTL : Nat := 0x0A8018
/-- 13_faults_and_recorder.md R432: RSEQ[31:0] RW at 0x0014; RO elsewhere. -/
def Reg.REC_FRZSEQ : Nat := 0x0A801C
/-- 13_faults_and_recorder.md R432: RSEQ[31:0] RW at 0x0014; RO elsewhere. -/
def Reg.REC_RDPOS : Nat := 0x0A8020
/-- 13_faults_and_recorder.md R432: H[31:0] RO. -/
def Reg.REC_HASH (i : Nat) : Nat := 0x0A8040 + i * 0x4
/-- 13_faults_and_recorder.md R432: VAL[31:0] RW. -/
def Reg.REC_SWDATA (i : Nat) : Nat := 0x0A8060 + i * 0x4
/-- 13_faults_and_recorder.md R432: VAL[31:0] RW. -/
def Reg.REC_SWDETAIL : Nat := 0x0A8080
/-- 13_faults_and_recorder.md R432: SEV[13:12] WO, CODE[9:0] WO. -/
def Reg.REC_SWCODE : Nat := 0x0A8084
/-- 13_faults_and_recorder.md R432: EN[31:31] TX, BURST[23:16] TX, RATE[15:0] TX. -/
def Reg.REC_CODE (i : Nat) : Nat := 0x0A9000 + i * 0x4
/-- 14_trust_and_keys.md R461: AUTOROLL[1:1] RO, HAUTH[0:0] RO. -/
def Reg.PEG_CFG : Nat := 0x0B0000
/-- 14_trust_and_keys.md R461: SIGNSLOT[13:12] RO, BUSY[11:11] RO, FRZREAD[10:10] RO, DEBUG[9:9] RO, OWNED[8:8] RO, DIK_BAD[5:5] RO,
ST_FAIL[4:4] RO, LOCKHIT[3:3] W1C, DIRECT[2:2] W1C, KSTORE[1:1] W1C. -/
def Reg.PEG_STAT : Nat := 0x0B0004
/-- 14_trust_and_keys.md R461: VAL[31:0] RO. -/
def Reg.PEG_SERIAL_LO : Nat := 0x0B0008
/-- 14_trust_and_keys.md R461: VAL[31:0] RO. -/
def Reg.PEG_SERIAL_HI : Nat := 0x0B000C
/-- 14_trust_and_keys.md R461: VAL[31:0] RO. -/
def Reg.PEG_CERTLEN : Nat := 0x0B0010
/-- 14_trust_and_keys.md R461: GO[0:0] WO. -/
def Reg.PEG_KCTL : Nat := 0x0B0014
/-- 14_trust_and_keys.md R461: STATE[9:8] RO, RESULT[7:0] RO. -/
def Reg.PEG_KSTAT : Nat := 0x0B0018
/-- 14_trust_and_keys.md R461: COUNT[31:0] RO. -/
def Reg.PEG_ROLL (i : Nat) : Nat := 0x0B0020 + i * 0x4
/-- 14_trust_and_keys.md R461: HELD[4:0] RO. -/
def Reg.PEG_SLOTS : Nat := 0x0B0030
/-- 14_trust_and_keys.md R461: HELD[31:0] RO. -/
def Reg.PEG_MKEY_LO : Nat := 0x0B0034
/-- 14_trust_and_keys.md R461: HELD[31:0] RO. -/
def Reg.PEG_MKEY_HI : Nat := 0x0B0038
/-- 14_trust_and_keys.md R461: CTR[31:0] RO. -/
def Reg.PEG_HCTR_LO : Nat := 0x0B0040
/-- 14_trust_and_keys.md R461: CTR[31:0] RO. -/
def Reg.PEG_HCTR_HI : Nat := 0x0B0044
/-- 14_trust_and_keys.md R461: VAL[31:0] RW; WO at 0x0060. -/
def Reg.PEG_HC_ADDR : Nat := 0x0B0048
/-- 14_trust_and_keys.md R461: VAL[31:0] RW; WO at 0x0060. -/
def Reg.PEG_HC_DATA : Nat := 0x0B004C
/-- 14_trust_and_keys.md R461: VAL[31:0] RW; WO at 0x0060. -/
def Reg.PEG_HC_CTR_LO : Nat := 0x0B0050
/-- 14_trust_and_keys.md R461: VAL[31:0] RW; WO at 0x0060. -/
def Reg.PEG_HC_CTR_HI : Nat := 0x0B0054
/-- 14_trust_and_keys.md R461: VAL[31:0] RW; WO at 0x0060. -/
def Reg.PEG_HC_DIG : Nat := 0x0B0058
/-- 14_trust_and_keys.md R461: VAL[31:0] RW; WO at 0x0060. -/
def Reg.PEG_HC_TAG_LO : Nat := 0x0B005C
/-- 14_trust_and_keys.md R461: VAL[31:0] RW; WO at 0x0060. -/
def Reg.PEG_HC_TAG_HI : Nat := 0x0B0060
/-- 14_trust_and_keys.md R461: ACCEPTED[31:16] RC, RESULT[2:0] RO. -/
def Reg.PEG_HC_STAT : Nat := 0x0B0064
/-- 14_trust_and_keys.md R461: DIG[31:0] RO. -/
def Reg.PEG_SHDIG : Nat := 0x0B0068
/-- 14_trust_and_keys.md R461: GO[0:0] WO. -/
def Reg.PEG_ACTL : Nat := 0x0B0070
/-- 14_trust_and_keys.md R461: STAT[2:0] W1C; RO for bit 0. -/
def Reg.PEG_ASTAT : Nat := 0x0B0074
/-- 14_trust_and_keys.md R461: REVOKE[8:8] WO, BITS[1:0] RO. -/
def Reg.PEG_GRANT : Nat := 0x0B0078
/-- 14_trust_and_keys.md R461: LEFT[23:0] RO. -/
def Reg.PEG_GRTIME : Nat := 0x0B007C
/-- 14_trust_and_keys.md R461: VAL[31:0] RO. -/
def Reg.PEG_IMGHASH (i : Nat) : Nat := 0x0B00A0 + i * 0x4
/-- 14_trust_and_keys.md R461: VAL[31:0] RO. -/
def Reg.PEG_NONCE (i : Nat) : Nat := 0x0B0100 + i * 0x4
/-- 14_trust_and_keys.md R461: VAL[31:0] RO. -/
def Reg.PEG_DPUB (i : Nat) : Nat := 0x0B0200 + i * 0x4
/-- A window of words (its chapter's table). -/
def Reg.PEG_KCMD (i : Nat) : Nat := 0x0B0400 + i * 0x4
/-- A window of words (its chapter's table). -/
def Reg.PEG_ACHAL (i : Nat) : Nat := 0x0B0600 + i * 0x4
/-- A window of words (its chapter's table). -/
def Reg.PEG_AREP (i : Nat) : Nat := 0x0B0800 + i * 0x4
/-- A window of words (its chapter's table). -/
def Reg.PEG_CERT (i : Nat) : Nat := 0x0B1000 + i * 0x4

/-! ### The rows, block by block -/

/-- The registers of one block of R376. -/
def Reg.sysRows : List RegRow :=
  [⟨0x10000, 1, 0x4, 1, 4, 0x0#32, 0x0#32, 0x0#32, 0x0#32, 0xFFFFFF07#32, 0x0#32, 0x96120000#32, false⟩,
   ⟨0x10004, 1, 0x4, 1, 4, 0x0#32, 0x0#32, 0x0#32, 0x0#32, 0xFF070F#32, 0x0#32, 0x201#32, false⟩,
   ⟨0x10008, 1, 0x4, 1, 4, 0x0#32, 0x0#32, 0x0#32, 0x0#32, 0x0#32, 0xFF07#32, 0x0#32, false⟩,
   ⟨0x1000C, 1, 0x4, 1, 4, 0x0#32, 0x0#32, 0x1#32, 0x0#32, 0x30700#32, 0x0#32, 0x0#32, false⟩,
   ⟨0x10010, 1, 0x4, 1, 4, 0x0#32, 0x0#32, 0x0#32, 0x0#32, 0x0#32, 0xFF01#32, 0x0#32, false⟩,
   ⟨0x10014, 1, 0x4, 1, 4, 0x0#32, 0x0#32, 0x0#32, 0x0#32, 0xF#32, 0x0#32, 0x1#32, false⟩,
   ⟨0x10018, 1, 0x4, 1, 4, 0x0#32, 0x1#32, 0x0#32, 0x0#32, 0x0#32, 0x0#32, 0x1#32, false⟩,
   ⟨0x10040, 1, 0x4, 1, 4, 0x0#32, 0x7#32, 0x0#32, 0x0#32, 0x0#32, 0x0#32, 0x1#32, false⟩,
   ⟨0x10044, 1, 0x4, 1, 4, 0x0#32, 0x0#32, 0x0#32, 0x0#32, 0xFFFFFFFF#32, 0x0#32, 0x0#32, true⟩,
   ⟨0x10048, 1, 0x4, 1, 4, 0x0#32, 0x0#32, 0x0#32, 0x0#32, 0xFFFF#32, 0x0#32, 0x0#32, true⟩,
   ⟨0x1004C, 1, 0x4, 1, 4, 0x0#32, 0x0#32, 0x1C#32, 0xFF00#32, 0x3#32, 0x0#32, 0x2#32, false⟩,
   ⟨0x10100, 1, 0x4, 1, 4, 0x0#32, 0x0#32, 0x0#32, 0x0#32, 0x3#32, 0x0#32, 0x0#32, false⟩,
   ⟨0x10104, 1, 0x4, 1, 4, 0x0#32, 0x0#32, 0x7E#32, 0x0#32, 0x7F0000#32, 0x0#32, 0x400000#32, false⟩,
   ⟨0x10108, 1, 0x4, 1, 4, 0x0#32, 0x0#32, 0x0#32, 0x0#32, 0xFFFFFF#32, 0x0#32, 0x0#32, false⟩,
   ⟨0x1010C, 1, 0x4, 1, 4, 0x37F#32, 0x0#32, 0x0#32, 0x0#32, 0x0#32, 0x0#32, 0x200#32, false⟩,
   ⟨0x10110, 1, 0x4, 1, 4, 0x0#32, 0x0#32, 0x7F#32, 0x0#32, 0x0#32, 0x0#32, 0x0#32, false⟩,
   ⟨0x10114, 1, 0x4, 1, 4, 0x0#32, 0x0#32, 0x0#32, 0x0#32, 0x0#32, 0xFFFFFFFF#32, 0x0#32, false⟩,
   ⟨0x10118, 1, 0x4, 1, 4, 0x0#32, 0x0#32, 0x0#32, 0x0#32, 0x0#32, 0xFFFFFFFF#32, 0x0#32, false⟩,
   ⟨0x1011C, 1, 0x4, 1, 4, 0xFFFFFFFF#32, 0x0#32, 0x0#32, 0x0#32, 0x0#32, 0x0#32, 0x0#32, false⟩,
   ⟨0x10120, 1, 0x4, 1, 4, 0xFFFFFFFF#32, 0x0#32, 0x0#32, 0x0#32, 0x0#32, 0x0#32, 0x0#32, false⟩,
   ⟨0x10124, 1, 0x4, 1, 4, 0xFFFFFFFF#32, 0x0#32, 0x0#32, 0x0#32, 0x0#32, 0x0#32, 0x0#32, false⟩,
   ⟨0x10128, 1, 0x4, 1, 4, 0xFFFFFFF#32, 0x0#32, 0x0#32, 0x0#32, 0x0#32, 0x0#32, 0x0#32, false⟩,
   ⟨0x1012C, 1, 0x4, 1, 4, 0x0#32, 0x0#32, 0x0#32, 0x0#32, 0x0#32, 0x173#32, 0x0#32, false⟩,
   ⟨0x10130, 1, 0x4, 1, 4, 0x0#32, 0x0#32, 0x1C#32, 0x0#32, 0x1FF0703#32, 0x0#32, 0x0#32, false⟩,
   ⟨0x10134, 1, 0x4, 1, 4, 0x0#32, 0x0#32, 0x0#32, 0x0#32, 0xFFFFFFF#32, 0x0#32, 0x0#32, false⟩,
   ⟨0x10200, 64, 0x8, 1, 4, 0x0#32, 0xFFFFFFFF#32, 0x0#32, 0x0#32, 0x0#32, 0x0#32, 0x20000000#32, false⟩,
   ⟨0x10204, 64, 0x8, 1, 4, 0x0#32, 0x800000FF#32, 0x0#32, 0x0#32, 0x0#32, 0x0#32, 0x1#32, false⟩,
   ⟨0x10400, 1, 0x4, 1, 4, 0xFFFFFF05#32, 0x0#32, 0x0#32, 0x0#32, 0x0#32, 0x0#32, 0xA01#32, false⟩,
   ⟨0x10404, 1, 0x4, 1, 4, 0x0#32, 0x0#32, 0x4#32, 0x0#32, 0x73#32, 0x0#32, 0x0#32, false⟩,
   ⟨0x10408, 1, 0x4, 1, 4, 0xFFFFFF#32, 0x0#32, 0x0#32, 0x0#32, 0x0#32, 0x0#32, 0x0#32, false⟩,
   ⟨0x1040C, 1, 0x4, 1, 4, 0x0#32, 0x0#32, 0x0#32, 0x0#32, 0xFFFFFFFF#32, 0x0#32, 0x0#32, false⟩,
   ⟨0x10410, 1, 0x4, 1, 4, 0x0#32, 0x0#32, 0x0#32, 0x0#32, 0xFFFFFFFF#32, 0x0#32, 0x0#32, false⟩,
   ⟨0x10414, 1, 0x4, 1, 4, 0x0#32, 0x0#32, 0x0#32, 0x0#32, 0xFFFFFFFF#32, 0x0#32, 0x0#32, false⟩,
   ⟨0x10440, 1, 0x4, 1, 4, 0x0#32, 0x3#32, 0x0#32, 0x0#32, 0x0#32, 0x0#32, 0x0#32, false⟩,
   ⟨0x10444, 1, 0x4, 1, 4, 0x0#32, 0x0#32, 0x18#32, 0x0#32, 0xC7#32, 0x0#32, 0x0#32, false⟩,
   ⟨0x10448, 1, 0x4, 1, 4, 0x0#32, 0x0#32, 0x0#32, 0xFFFF#32, 0x0#32, 0x0#32, 0x0#32, false⟩,
   ⟨0x10500, 1, 0x4, 1, 4, 0x0#32, 0x0#32, 0xF00#32, 0x0#32, 0x107F#32, 0x0#32, 0x0#32, false⟩,
   ⟨0x10504, 1, 0x4, 1, 4, 0x0#32, 0x0#32, 0x0#32, 0x0#32, 0xFFFFFFFF#32, 0x0#32, 0x0#32, false⟩,
   ⟨0x10508, 1, 0x4, 1, 4, 0x0#32, 0x0#32, 0x0#32, 0x0#32, 0xFFFF#32, 0x0#32, 0x0#32, false⟩,
   ⟨0x1050C, 1, 0x4, 1, 4, 0x0#32, 0x0#32, 0x0#32, 0xFFFFFFFF#32, 0x0#32, 0x0#32, 0x0#32, false⟩,
   ⟨0x10510, 1, 0x4, 1, 4, 0x0#32, 0xFFFF#32, 0x0#32, 0x0#32, 0x0#32, 0x0#32, 0x460#32, false⟩,
   ⟨0x10514, 1, 0x4, 1, 4, 0x0#32, 0x0#32, 0x0#32, 0x0#32, 0x7FFFFF#32, 0x0#32, 0x0#32, false⟩,
   ⟨0x10600, 64, 0x4, 1, 4, 0x0#32, 0x0#32, 0x0#32, 0x0#32, 0xFFFFFFFF#32, 0x0#32, 0x0#32, false⟩]

/-- The registers of one block of R376. -/
def Reg.txnRows : List RegRow :=
  [⟨0x11000, 1, 0x4, 1, 4, 0x0#32, 0x0#32, 0x0#32, 0x0#32, 0x0#32, 0x3FFFF#32, 0x0#32, false⟩,
   ⟨0x11004, 1, 0x4, 1, 4, 0x0#32, 0x0#32, 0x20#32, 0x0#32, 0xFFFFF1F#32, 0x0#32, 0x0#32, false⟩,
   ⟨0x11008, 1, 0x4, 1, 4, 0x0#32, 0x0#32, 0x0#32, 0x0#32, 0xFFFFFFFF#32, 0x0#32, 0x0#32, false⟩,
   ⟨0x1100C, 1, 0x4, 1, 4, 0x0#32, 0x0#32, 0x0#32, 0x0#32, 0xFFFF#32, 0x0#32, 0x0#32, false⟩,
   ⟨0x11010, 1, 0x4, 1, 4, 0x0#32, 0x0#32, 0x0#32, 0x0#32, 0xFFFFFFFF#32, 0x0#32, 0x0#32, false⟩,
   ⟨0x11014, 1, 0x4, 1, 4, 0x0#32, 0x0#32, 0x0#32, 0x0#32, 0xFFFF#32, 0x0#32, 0x0#32, false⟩]

/-- The registers of one block of R376. -/
def Reg.schedRows : List RegRow :=
  [⟨0x12000, 1, 0x4, 1, 4, 0x0#32, 0x0#32, 0x0#32, 0x0#32, 0x0#32, 0x1#32, 0x0#32, false⟩,
   ⟨0x12004, 1, 0x4, 1, 4, 0x0#32, 0x0#32, 0x70#32, 0x0#32, 0xF#32, 0x0#32, 0x0#32, false⟩,
   ⟨0x12008, 1, 0x4, 1, 4, 0x0#32, 0xFFFFFF#32, 0x0#32, 0x0#32, 0x0#32, 0x0#32, 0x2804B0#32, false⟩,
   ⟨0x1200C, 1, 0x4, 1, 4, 0x0#32, 0xFFFFFFFF#32, 0x0#32, 0x0#32, 0x0#32, 0x0#32, 0x300080#32, false⟩,
   ⟨0x12010, 1, 0x4, 1, 4, 0x0#32, 0xFFFFFFFF#32, 0x0#32, 0x0#32, 0x0#32, 0x0#32, 0x0#32, false⟩,
   ⟨0x12014, 1, 0x4, 1, 4, 0x0#32, 0xFFF#32, 0x0#32, 0x0#32, 0x0#32, 0x0#32, 0x0#32, false⟩,
   ⟨0x12018, 1, 0x4, 1, 4, 0x0#32, 0xFFFFFFFF#32, 0x0#32, 0x0#32, 0x0#32, 0x0#32, 0x44#32, false⟩,
   ⟨0x1201C, 1, 0x4, 1, 4, 0x0#32, 0xFFFFFF#32, 0x0#32, 0x0#32, 0x0#32, 0x0#32, 0x2710#32, false⟩,
   ⟨0x12020, 1, 0x4, 1, 4, 0x0#32, 0x0#32, 0x0#32, 0xFFFFFFFF#32, 0x0#32, 0x0#32, 0x0#32, false⟩,
   ⟨0x12024, 1, 0x4, 1, 4, 0x0#32, 0x0#32, 0x0#32, 0x0#32, 0x7FFFFF#32, 0x0#32, 0x0#32, true⟩,
   ⟨0x12028, 1, 0x4, 1, 4, 0x0#32, 0x0#32, 0x0#32, 0x0#32, 0xFFFFFFFF#32, 0x0#32, 0x0#32, true⟩,
   ⟨0x12040, 1, 0x4, 1, 4, 0x0#32, 0x1#32, 0x0#32, 0x0#32, 0x700#32, 0x30000#32, 0x0#32, false⟩,
   ⟨0x12044, 1, 0x4, 1, 4, 0x0#32, 0x0#32, 0x2000000#32, 0x0#32, 0x1FFFFFF#32, 0x0#32, 0x0#32, false⟩,
   ⟨0x12048, 1, 0x4, 1, 4, 0x0#32, 0x0#32, 0x0#32, 0x0#32, 0xFFFFF#32, 0x0#32, 0x0#32, false⟩,
   ⟨0x12400, 128, 0x10, 1, 4, 0x0#32, 0xFFFFFFFF#32, 0x0#32, 0x0#32, 0x0#32, 0x0#32, 0xFF00#32, false⟩,
   ⟨0x12404, 128, 0x10, 1, 4, 0x0#32, 0xFFFFF#32, 0x0#32, 0x0#32, 0x0#32, 0x0#32, 0x100#32, false⟩,
   ⟨0x12408, 128, 0x10, 1, 4, 0x0#32, 0x7FFFFF#32, 0x0#32, 0x0#32, 0x0#32, 0x0#32, 0x7E0000#32, false⟩,
   ⟨0x1240C, 128, 0x10, 1, 4, 0x0#32, 0xFFFF#32, 0x0#32, 0x0#32, 0x0#32, 0x0#32, 0x0#32, false⟩,
   ⟨0x12E00, 32, 0x10, 3, 4, 0x0#32, 0xFFFFFFFF#32, 0x0#32, 0x0#32, 0x0#32, 0x0#32, 0x0#32, false⟩,
   ⟨0x12E0C, 32, 0x10, 1, 4, 0x0#32, 0xFFF#32, 0x0#32, 0x0#32, 0x0#32, 0x0#32, 0x0#32, false⟩,
   ⟨0x13000, 128, 0x4, 1, 4, 0x0#32, 0x0#32, 0x0#32, 0xFF0000#32, 0x300FFFF#32, 0x0#32, 0x0#32, true⟩]

/-- The registers of one block of R376. -/
def Reg.beRows : List RegRow :=
  [⟨0x14000, 8, 0x100, 1, 4, 0x0#32, 0x0#32, 0x8#32, 0x0#32, 0xFFFF07#32, 0x0#32, 0x0#32, false⟩,
   ⟨0x14004, 8, 0x100, 1, 4, 0x0#32, 0x0#32, 0x0#32, 0x0#32, 0xFFFFF#32, 0x0#32, 0x0#32, true⟩,
   ⟨0x14008, 8, 0x100, 1, 4, 0x0#32, 0x0#32, 0x0#32, 0xFFFFFF#32, 0x0#32, 0x0#32, 0x0#32, false⟩,
   ⟨0x1400C, 8, 0x100, 1, 4, 0x0#32, 0x0#32, 0x80000000#32, 0x0#32, 0x7F807FFF#32, 0x0#32, 0x0#32, false⟩,
   ⟨0x14010, 8, 0x100, 1, 4, 0x0#32, 0x0#32, 0x0#32, 0x0#32, 0x7FFF#32, 0x0#32, 0x0#32, false⟩,
   ⟨0x14800, 1, 0x4, 1, 4, 0x0#32, 0x0#32, 0x0#32, 0x0#32, 0x0#32, 0xFFFF#32, 0x0#32, false⟩]

/-- The registers of one block of R376. -/
def Reg.scribeRows : List RegRow :=
  [⟨0x20000, 1, 0x4, 1, 4, 0x0#32, 0x3FF#32, 0x0#32, 0x0#32, 0x0#32, 0x0#32, 0x114#32, false⟩,
   ⟨0x20004, 1, 0x4, 1, 4, 0x0#32, 0x0#32, 0x1FFE#32, 0x0#32, 0x1FF0000#32, 0x0#32, 0x0#32, false⟩,
   ⟨0x20008, 1, 0x4, 1, 4, 0x0#32, 0x0#32, 0x0#32, 0xFFFFFFFF#32, 0x0#32, 0x0#32, 0x0#32, false⟩,
   ⟨0x20010, 1, 0x4, 1, 4, 0x0#32, 0xFFFFFF07#32, 0x0#32, 0x0#32, 0x0#32, 0x0#32, 0x10200803#32, false⟩,
   ⟨0x20014, 1, 0x4, 1, 4, 0x0#32, 0xFFFF#32, 0x0#32, 0x0#32, 0x0#32, 0x0#32, 0x3280#32, false⟩,
   ⟨0x20018, 1, 0x4, 1, 4, 0x0#32, 0xFFFFFFFF#32, 0x0#32, 0x0#32, 0x0#32, 0x0#32, 0x1F40014#32, false⟩,
   ⟨0x20040, 8, 0x4, 1, 4, 0xFFFFFFFF#32, 0x0#32, 0x0#32, 0x0#32, 0x0#32, 0x0#32, 0x0#32, true⟩,
   ⟨0x20100, 2, 0x40, 1, 4, 0x0#32, 0x80000777#32, 0x0#32, 0x0#32, 0x0#32, 0x0#32, 0x1#32, false⟩,
   ⟨0x20104, 2, 0x40, 1, 4, 0x0#32, 0xFFFFFFFF#32, 0x0#32, 0x0#32, 0x0#32, 0x0#32, 0x0#32, false⟩,
   ⟨0x20108, 2, 0x40, 1, 4, 0x0#32, 0xFFFFFFFF#32, 0x0#32, 0x0#32, 0x0#32, 0x0#32, 0x0#32, false⟩,
   ⟨0x2010C, 2, 0x40, 1, 4, 0x0#32, 0xFFF0FFF#32, 0x0#32, 0x0#32, 0x0#32, 0x0#32, 0x0#32, false⟩,
   ⟨0x20110, 2, 0x40, 1, 4, 0x0#32, 0x7FFFF#32, 0x0#32, 0x0#32, 0x0#32, 0x0#32, 0x0#32, false⟩,
   ⟨0x20114, 2, 0x40, 1, 4, 0x0#32, 0x7FFFF#32, 0x0#32, 0x0#32, 0x0#32, 0x0#32, 0x0#32, false⟩,
   ⟨0x20118, 2, 0x40, 1, 4, 0x0#32, 0x1FFFFF#32, 0x0#32, 0x0#32, 0x0#32, 0x0#32, 0x0#32, false⟩,
   ⟨0x2011C, 2, 0x40, 1, 4, 0x0#32, 0x1FFFFF#32, 0x0#32, 0x0#32, 0x0#32, 0x0#32, 0x0#32, false⟩,
   ⟨0x20120, 2, 0x40, 1, 4, 0x0#32, 0x7FFFF#32, 0x0#32, 0x0#32, 0x0#32, 0x0#32, 0x0#32, false⟩,
   ⟨0x20124, 2, 0x40, 1, 4, 0x0#32, 0x7FFFF#32, 0x0#32, 0x0#32, 0x0#32, 0x0#32, 0x0#32, false⟩,
   ⟨0x21000, 2, 0x400, 256, 4, 0x0#32, 0xFFFFFFFF#32, 0x0#32, 0x0#32, 0x0#32, 0x0#32, 0x0#32, false⟩,
   ⟨0x21800, 2, 0x4, 1, 4, 0x0#32, 0x3#32, 0x0#32, 0x0#32, 0x0#32, 0x0#32, 0x0#32, false⟩,
   ⟨0x24000, 512, 0x20, 1, 4, 0x0#32, 0xFFFFF000#32, 0x0#32, 0x0#32, 0x0#32, 0x0#32, 0x0#32, false⟩,
   ⟨0x24004, 512, 0x20, 1, 4, 0x0#32, 0xFFFFFFFF#32, 0x0#32, 0x0#32, 0x0#32, 0x0#32, 0x0#32, false⟩,
   ⟨0x24008, 512, 0x20, 1, 4, 0x0#32, 0xFFFFFFFF#32, 0x0#32, 0x0#32, 0x0#32, 0x0#32, 0x0#32, false⟩,
   ⟨0x2400C, 512, 0x20, 1, 4, 0x0#32, 0xFFFFFFFF#32, 0x0#32, 0x0#32, 0x0#32, 0x0#32, 0x0#32, false⟩,
   ⟨0x24010, 512, 0x20, 1, 4, 0x0#32, 0xFFFFFFFF#32, 0x0#32, 0x0#32, 0x0#32, 0x0#32, 0xFFFE01F4#32, false⟩,
   ⟨0x24014, 512, 0x20, 1, 4, 0x0#32, 0x7FFF7FFF#32, 0x0#32, 0x0#32, 0x0#32, 0x0#32, 0x13881388#32, false⟩,
   ⟨0x24018, 512, 0x20, 1, 4, 0x0#32, 0x7FFF7FFF#32, 0x0#32, 0x0#32, 0x0#32, 0x0#32, 0x0#32, false⟩,
   ⟨0x2401C, 512, 0x20, 1, 4, 0x0#32, 0xFFFFFF#32, 0x0#32, 0x0#32, 0x0#32, 0x0#32, 0x0#32, false⟩,
   ⟨0x28000, 108, 0x10, 1, 4, 0x0#32, 0xFF007FFF#32, 0x0#32, 0x0#32, 0x0#32, 0x0#32, 0x0#32, true⟩,
   ⟨0x28004, 108, 0x10, 1, 4, 0x0#32, 0xFF007FFF#32, 0x0#32, 0x0#32, 0x0#32, 0x0#32, 0x0#32, true⟩,
   ⟨0x28008, 108, 0x10, 1, 4, 0x0#32, 0x0#32, 0x0#32, 0xFFFFFFFF#32, 0x0#32, 0x0#32, 0x0#32, false⟩,
   ⟨0x2800C, 108, 0x10, 1, 4, 0x0#32, 0x0#32, 0x0#32, 0x0#32, 0xE0007FFF#32, 0x0#32, 0x0#32, true⟩]

/-- The registers of one block of R376. -/
def Reg.lswRows : List RegRow :=
  [⟨0x30004, 1, 0x4, 1, 4, 0x0#32, 0xFFFFFFFF#32, 0x0#32, 0x0#32, 0x0#32, 0x0#32, 0x0#32, false⟩,
   ⟨0x30008, 1, 0x4, 1, 4, 0x0#32, 0x0#32, 0x0#32, 0xFFFFFFFF#32, 0x0#32, 0x0#32, 0x0#32, false⟩,
   ⟨0x3000C, 1, 0x4, 1, 4, 0xFFF#32, 0x0#32, 0x0#32, 0x0#32, 0x0#32, 0x0#32, 0x0#32, false⟩,
   ⟨0x30010, 1, 0x4, 1, 4, 0x0#32, 0x0#32, 0x0#32, 0x0#32, 0x0#32, 0xFFFFFFFF#32, 0x0#32, false⟩,
   ⟨0x30100, 12, 0x20, 1, 4, 0x0#32, 0x3F010F#32, 0x0#32, 0x0#32, 0x0#32, 0x0#32, 0x70006#32, false⟩,
   ⟨0x30104, 8, 0x20, 1, 4, 0x0#32, 0xFFF#32, 0x0#32, 0x0#32, 0x0#32, 0x0#32, 0x0#32, false⟩,
   ⟨0x30204, 4, 0x20, 1, 4, 0x0#32, 0x7#32, 0x0#32, 0x0#32, 0x0#32, 0x0#32, 0x0#32, false⟩,
   ⟨0x30108, 12, 0x20, 1, 4, 0x0#32, 0xFFFFFFFF#32, 0x0#32, 0x0#32, 0x0#32, 0x0#32, 0x27103E80#32, false⟩,
   ⟨0x3010C, 12, 0x20, 1, 4, 0x0#32, 0x0#32, 0xFC#32, 0x0#32, 0x7F03#32, 0x0#32, 0x0#32, true⟩,
   ⟨0x30110, 12, 0x20, 1, 4, 0x0#32, 0x0#32, 0x0#32, 0x0#32, 0xFFFFFFFF#32, 0x0#32, 0x0#32, true⟩,
   ⟨0x30400, 8, 0x10, 1, 4, 0x0#32, 0xFFFFFFFF#32, 0x0#32, 0x0#32, 0x0#32, 0x0#32, 0x0#32, false⟩,
   ⟨0x30404, 8, 0x10, 1, 4, 0x0#32, 0xFF30FFFF#32, 0x0#32, 0x0#32, 0x0#32, 0x0#32, 0x0#32, false⟩,
   ⟨0x30408, 8, 0x10, 1, 4, 0x0#32, 0x3FF00FF#32, 0x0#32, 0x0#32, 0x0#32, 0x0#32, 0x14#32, false⟩,
   ⟨0x3040C, 8, 0x10, 1, 4, 0x0#32, 0xF3FFFFFF#32, 0x0#32, 0x0#32, 0x0#32, 0x0#32, 0x64#32, false⟩,
   ⟨0x31000, 108, 0x10, 1, 4, 0x0#32, 0x370F3000#32, 0x0#32, 0x0#32, 0x0#32, 0x0#32, 0x0#32, false⟩,
   ⟨0x31004, 108, 0x10, 1, 4, 0x800FFFFF#32, 0x0#32, 0x0#32, 0x0#32, 0x0#32, 0x0#32, 0x0#32, true⟩,
   ⟨0x31008, 108, 0x10, 1, 4, 0x0#32, 0x0#32, 0xFF20#32, 0x0#32, 0xF005F#32, 0x0#32, 0x0#32, true⟩,
   ⟨0x3100C, 108, 0x10, 1, 4, 0x0#32, 0x0#32, 0x0#32, 0x0#32, 0xFFFFFFFF#32, 0x0#32, 0x0#32, true⟩]

/-- The registers of one block of R376. -/
def Reg.pwmRows : List RegRow :=
  [⟨0x40000, 24, 0x40, 1, 4, 0x1#32, 0x2#32, 0x0#32, 0x0#32, 0x0#32, 0x0#32, 0x0#32, false⟩,
   ⟨0x40004, 24, 0x40, 1, 4, 0x0#32, 0x83FFFFFF#32, 0x0#32, 0x0#32, 0x0#32, 0x0#32, 0x0#32, false⟩,
   ⟨0x40008, 24, 0x40, 1, 4, 0x0#32, 0x81FFFFFF#32, 0x0#32, 0x0#32, 0x0#32, 0x0#32, 0x80000000#32, false⟩,
   ⟨0x4000C, 24, 0x40, 1, 4, 0x0#32, 0x0#32, 0x41#32, 0x0#32, 0xF0032#32, 0x0#32, 0x0#32, false⟩,
   ⟨0x40010, 24, 0x40, 1, 4, 0x0#32, 0xFFFFEFFF#32, 0x0#32, 0x0#32, 0x0#32, 0x0#32, 0x10258028#32, false⟩,
   ⟨0x40014, 24, 0x40, 1, 4, 0x0#32, 0x0#32, 0x0#32, 0xFFFFFFFF#32, 0x0#32, 0x0#32, 0x0#32, false⟩,
   ⟨0x40018, 24, 0x40, 1, 4, 0x0#32, 0x0#32, 0x0#32, 0xFFFFFFFF#32, 0x0#32, 0x0#32, 0x0#32, false⟩,
   ⟨0x40800, 1, 0x4, 1, 4, 0x0#32, 0xFFFF#32, 0x0#32, 0x0#32, 0x0#32, 0x0#32, 0x0#32, false⟩,
   ⟨0x40804, 1, 0x4, 1, 4, 0x0#32, 0x0#32, 0x0#32, 0x0#32, 0xFFFF#32, 0x0#32, 0x0#32, false⟩,
   ⟨0x41000, 192, 0x20, 1, 4, 0x0#32, 0x1FFCFF00#32, 0x0#32, 0x0#32, 0x0#32, 0x0#32, 0x100400#32, false⟩,
   ⟨0x41004, 192, 0x20, 1, 4, 0xFFFFFFFF#32, 0x0#32, 0x0#32, 0x0#32, 0x0#32, 0x0#32, 0x0#32, true⟩,
   ⟨0x41008, 192, 0x20, 1, 4, 0xFFFFFFFF#32, 0x0#32, 0x0#32, 0x0#32, 0x0#32, 0x0#32, 0x186A0#32, true⟩,
   ⟨0x4100C, 192, 0x20, 1, 4, 0xFFFFFFFF#32, 0x0#32, 0x0#32, 0x0#32, 0x0#32, 0x0#32, 0xFFFFFFFF#32, true⟩,
   ⟨0x41010, 192, 0x20, 1, 4, 0xFFFFFFFF#32, 0x0#32, 0x0#32, 0x0#32, 0x0#32, 0x0#32, 0xFFFFFFFF#32, true⟩,
   ⟨0x41014, 192, 0x20, 1, 4, 0x0#32, 0xFFFFFFFF#32, 0x0#32, 0x0#32, 0x0#32, 0x0#32, 0x0#32, false⟩,
   ⟨0x41018, 192, 0x20, 1, 4, 0x0#32, 0x0#32, 0x1F#32, 0x0#32, 0x3C0#32, 0x0#32, 0x0#32, true⟩,
   ⟨0x4101C, 192, 0x20, 1, 4, 0x0#32, 0x7FF07FF#32, 0x0#32, 0x0#32, 0x0#32, 0x0#32, 0x7D00064#32, false⟩]

/-- The registers of one block of R376. -/
def Reg.motRows : List RegRow :=
  [⟨0x50000, 16, 0x80, 1, 4, 0x0#32, 0xFFFFFFFF#32, 0x0#32, 0x0#32, 0x0#32, 0x0#32, 0x640100#32, false⟩,
   ⟨0x50004, 16, 0x80, 1, 4, 0xFFFFFFFF#32, 0x0#32, 0x0#32, 0x0#32, 0x0#32, 0x0#32, 0x0#32, false⟩,
   ⟨0x50008, 16, 0x80, 1, 4, 0xFFFFFFFF#32, 0x0#32, 0x0#32, 0x0#32, 0x0#32, 0x0#32, 0x0#32, false⟩,
   ⟨0x5000C, 16, 0x80, 1, 4, 0xFFFFFFFF#32, 0x0#32, 0x0#32, 0x0#32, 0x0#32, 0x0#32, 0x0#32, false⟩,
   ⟨0x50010, 16, 0x80, 1, 4, 0xFFFFFFFF#32, 0x0#32, 0x0#32, 0x0#32, 0x0#32, 0x0#32, 0x0#32, false⟩,
   ⟨0x50014, 16, 0x80, 1, 4, 0xFFFFFFFF#32, 0x0#32, 0x0#32, 0x0#32, 0x0#32, 0x0#32, 0x0#32, false⟩,
   ⟨0x50018, 16, 0x80, 1, 4, 0xFFFFFFFF#32, 0x0#32, 0x0#32, 0x0#32, 0x0#32, 0x0#32, 0x0#32, false⟩,
   ⟨0x5001C, 16, 0x80, 1, 4, 0xFFFFFFFF#32, 0x0#32, 0x0#32, 0x0#32, 0x0#32, 0x0#32, 0x0#32, false⟩,
   ⟨0x50020, 16, 0x80, 1, 4, 0x0#32, 0x0#32, 0x0#32, 0x0#32, 0x0#32, 0x3#32, 0x0#32, false⟩,
   ⟨0x50024, 16, 0x80, 1, 4, 0x0#32, 0xF018001F#32, 0x0#32, 0x0#32, 0x0#32, 0x0#32, 0x0#32, false⟩,
   ⟨0x50028, 16, 0x80, 1, 4, 0x0#32, 0x0#32, 0x0#32, 0x0#32, 0x0#32, 0xFFFFFFFF#32, 0x0#32, false⟩,
   ⟨0x5002C, 16, 0x80, 1, 4, 0x0#32, 0x0#32, 0x0#32, 0x0#32, 0x0#32, 0xFFFFFFFF#32, 0x0#32, false⟩,
   ⟨0x50030, 16, 0x80, 1, 4, 0x0#32, 0xC0FFFFFF#32, 0x0#32, 0x0#32, 0x0#32, 0x0#32, 0x40043000#32, false⟩,
   ⟨0x50034, 16, 0x80, 1, 4, 0x0#32, 0xFFFFFFFF#32, 0x0#32, 0x0#32, 0x0#32, 0x0#32, 0x50000#32, false⟩,
   ⟨0x50038, 16, 0x80, 1, 4, 0x0#32, 0xFFFFFFFF#32, 0x0#32, 0x0#32, 0x0#32, 0x0#32, 0x3E801F4#32, false⟩,
   ⟨0x50040, 16, 0x80, 1, 4, 0x0#32, 0x0#32, 0x1FE0#32, 0x0#32, 0x6017#32, 0x0#32, 0x0#32, true⟩,
   ⟨0x50044, 16, 0x80, 1, 4, 0x0#32, 0x0#32, 0x0#32, 0x0#32, 0xFFFFFFFF#32, 0x0#32, 0x0#32, true⟩,
   ⟨0x50048, 16, 0x80, 1, 4, 0x0#32, 0x0#32, 0x0#32, 0x0#32, 0xFFFFFFFF#32, 0x0#32, 0x0#32, true⟩,
   ⟨0x5004C, 16, 0x80, 1, 4, 0x0#32, 0x0#32, 0x0#32, 0x0#32, 0xFFFFFFFF#32, 0x0#32, 0x0#32, true⟩,
   ⟨0x50050, 16, 0x80, 1, 4, 0x0#32, 0x0#32, 0x0#32, 0x0#32, 0xFFFFFFFF#32, 0x0#32, 0x0#32, true⟩,
   ⟨0x50054, 16, 0x80, 1, 4, 0x0#32, 0x0#32, 0x0#32, 0x0#32, 0xFFFFFFFF#32, 0x0#32, 0x0#32, false⟩,
   ⟨0x50058, 16, 0x80, 1, 4, 0x0#32, 0x0#32, 0x0#32, 0x0#32, 0xFFFFFFFF#32, 0x0#32, 0x0#32, false⟩,
   ⟨0x5005C, 16, 0x80, 1, 4, 0x0#32, 0x0#32, 0x0#32, 0x0#32, 0xFFFFFFFF#32, 0x0#32, 0x0#32, false⟩,
   ⟨0x50060, 16, 0x80, 1, 4, 0x0#32, 0x0#32, 0x0#32, 0x0#32, 0xFFFFFFFF#32, 0x0#32, 0x0#32, true⟩,
   ⟨0x50064, 16, 0x80, 1, 4, 0x0#32, 0xFFFF#32, 0x0#32, 0x0#32, 0x0#32, 0x0#32, 0x3E8#32, false⟩,
   ⟨0x50F00, 1, 0x4, 1, 4, 0x0#32, 0x0#32, 0x0#32, 0x0#32, 0x0#32, 0xFFFF#32, 0x0#32, false⟩,
   ⟨0x51000, 8, 0x20, 1, 4, 0x0#32, 0xB00FFFFF#32, 0x0#32, 0x0#32, 0x0#32, 0x0#32, 0xC350#32, false⟩,
   ⟨0x51004, 8, 0x20, 1, 4, 0x0#32, 0xFFFFFF00#32, 0x0#32, 0x0#32, 0x0#32, 0x0#32, 0x32140A00#32, false⟩,
   ⟨0x51008, 8, 0x20, 1, 4, 0x0#32, 0xFFFFFFFF#32, 0x0#32, 0x0#32, 0x0#32, 0x0#32, 0xBB805DC#32, false⟩,
   ⟨0x5100C, 8, 0x20, 1, 4, 0x0#32, 0x0#32, 0xFF#32, 0x0#32, 0x100#32, 0x0#32, 0x0#32, false⟩,
   ⟨0x51010, 8, 0x20, 1, 4, 0x0#32, 0x0#32, 0x0#32, 0x0#32, 0xFFFFFFFF#32, 0x0#32, 0x0#32, true⟩,
   ⟨0x51014, 8, 0x20, 1, 4, 0x0#32, 0x0#32, 0x0#32, 0x0#32, 0xFFFFFFFF#32, 0x0#32, 0x0#32, true⟩]

/-- The registers of one block of R376. -/
def Reg.fbkRows : List RegRow :=
  [⟨0x58000, 24, 0x40, 1, 4, 0x0#32, 0xFFFEFFFF#32, 0x0#32, 0x0#32, 0x0#32, 0x0#32, 0x1300164#32, false⟩,
   ⟨0x58004, 24, 0x40, 1, 4, 0x0#32, 0xFFFFFFFF#32, 0x0#32, 0x0#32, 0x0#32, 0x0#32, 0x0#32, false⟩,
   ⟨0x58008, 24, 0x40, 1, 4, 0x0#32, 0x0#32, 0x0#32, 0x0#32, 0xFFFFFFFF#32, 0x0#32, 0x0#32, true⟩,
   ⟨0x5800C, 24, 0x40, 1, 4, 0x0#32, 0x0#32, 0x0#32, 0x0#32, 0xFFFFFFFF#32, 0x0#32, 0x0#32, true⟩,
   ⟨0x58010, 24, 0x40, 1, 4, 0x0#32, 0x0#32, 0x0#32, 0x0#32, 0xFFFFFFFF#32, 0x0#32, 0x0#32, true⟩,
   ⟨0x58014, 24, 0x40, 1, 4, 0x0#32, 0x0#32, 0x0#32, 0x0#32, 0xFFFFFFFF#32, 0x0#32, 0x0#32, true⟩,
   ⟨0x58018, 24, 0x40, 1, 4, 0x0#32, 0x0#32, 0x0#32, 0x0#32, 0xFFFFFFFF#32, 0x0#32, 0x0#32, true⟩,
   ⟨0x5801C, 24, 0x40, 1, 4, 0x0#32, 0x0#32, 0x16#32, 0x0#32, 0x709#32, 0x0#32, 0x0#32, true⟩,
   ⟨0x58020, 24, 0x40, 1, 4, 0x0#32, 0x0#32, 0x0#32, 0xFFFFFFFF#32, 0x0#32, 0x0#32, 0x0#32, false⟩,
   ⟨0x58800, 8, 0x20, 1, 4, 0x0#32, 0x800F0001#32, 0x0#32, 0x0#32, 0x0#32, 0x0#32, 0x30000#32, false⟩,
   ⟨0x58804, 8, 0x20, 1, 4, 0x0#32, 0xFFFFFFFF#32, 0x0#32, 0x0#32, 0x0#32, 0x0#32, 0x2E14051E#32, false⟩,
   ⟨0x58808, 8, 0x20, 1, 4, 0x0#32, 0x0#32, 0x0#32, 0x0#32, 0xFFFFFFFF#32, 0x0#32, 0x0#32, true⟩,
   ⟨0x5880C, 8, 0x20, 1, 4, 0x0#32, 0x0#32, 0x0#32, 0x0#32, 0xFFFFFFFF#32, 0x0#32, 0x0#32, true⟩,
   ⟨0x58810, 8, 0x20, 1, 4, 0x0#32, 0x0#32, 0x0#32, 0x0#32, 0xFFFFFFFF#32, 0x0#32, 0x0#32, true⟩,
   ⟨0x58814, 8, 0x20, 1, 4, 0x0#32, 0x0#32, 0x1C#32, 0x0#32, 0x3#32, 0x0#32, 0x0#32, true⟩,
   ⟨0x58818, 8, 0x20, 1, 4, 0x0#32, 0x0#32, 0x0#32, 0xFFFF#32, 0x0#32, 0x0#32, 0x0#32, false⟩,
   ⟨0x59000, 1, 0x4, 1, 4, 0x0#32, 0x8000003F#32, 0x0#32, 0x0#32, 0x0#32, 0x0#32, 0x15#32, false⟩,
   ⟨0x59004, 1, 0x4, 1, 4, 0x0#32, 0x0#32, 0x0#32, 0x0#32, 0x0#32, 0x1#32, 0x0#32, false⟩,
   ⟨0x59008, 1, 0x4, 1, 4, 0x0#32, 0x0#32, 0x1E#32, 0x0#32, 0xFFFF0021#32, 0x0#32, 0x0#32, true⟩,
   ⟨0x59010, 12, 0x4, 1, 4, 0x0#32, 0x0#32, 0x0#32, 0x0#32, 0xFFFFFFFF#32, 0x0#32, 0x0#32, true⟩]

/-- The registers of one block of R376. -/
def Reg.adcRows : List RegRow :=
  [⟨0x60000, 1, 0x4, 1, 4, 0x0#32, 0x7#32, 0x0#32, 0x0#32, 0x0#32, 0x0#32, 0x4#32, false⟩,
   ⟨0x60004, 1, 0x4, 1, 4, 0x0#32, 0x0#32, 0xFC#32, 0x0#32, 0x3#32, 0x0#32, 0x0#32, false⟩,
   ⟨0x60008, 1, 0x4, 1, 4, 0x0#32, 0x0#32, 0x0#32, 0xFFFFFFFF#32, 0x0#32, 0x0#32, 0x0#32, false⟩,
   ⟨0x6000C, 1, 0x4, 1, 4, 0x0#32, 0x0#32, 0x0#32, 0x0#32, 0x0#32, 0xFFFF#32, 0x0#32, false⟩,
   ⟨0x60010, 1, 0x4, 1, 4, 0x0#32, 0x0#32, 0xFFFFFFFF#32, 0x0#32, 0x0#32, 0x0#32, 0xFFFFFFFF#32, false⟩,
   ⟨0x60100, 32, 0x4, 1, 4, 0x0#32, 0xF73#32, 0x0#32, 0x0#32, 0x0#32, 0x0#32, 0x3#32, false⟩,
   ⟨0x60180, 32, 0x4, 1, 4, 0x0#32, 0xFFFFFFFF#32, 0x0#32, 0x0#32, 0x0#32, 0x0#32, 0xFFFF0000#32, false⟩,
   ⟨0x60200, 16, 0x8, 1, 4, 0x0#32, 0x8F00FFFF#32, 0x0#32, 0x0#32, 0x0#32, 0x0#32, 0x0#32, false⟩,
   ⟨0x60204, 16, 0x8, 1, 4, 0x0#32, 0xFF0F0F#32, 0x0#32, 0x0#32, 0x0#32, 0x0#32, 0x10000#32, false⟩,
   ⟨0x61000, 32, 0x10, 1, 4, 0x0#32, 0x0#32, 0x0#32, 0x0#32, 0xFFFFFFFF#32, 0x0#32, 0x0#32, true⟩,
   ⟨0x61004, 32, 0x10, 1, 4, 0x0#32, 0x0#32, 0x0#32, 0x0#32, 0xFFFFFFFF#32, 0x0#32, 0x0#32, true⟩,
   ⟨0x61008, 32, 0x10, 1, 4, 0x0#32, 0x0#32, 0x0#32, 0x0#32, 0xFFFFF03F#32, 0x0#32, 0x0#32, true⟩,
   ⟨0x6100C, 32, 0x10, 1, 4, 0x0#32, 0x0#32, 0x0#32, 0x0#32, 0xFFFF#32, 0x0#32, 0x0#32, true⟩]

/-- The registers of one block of R376. -/
def Reg.gnssRows : List RegRow :=
  [⟨0x70000, 1, 0x4, 1, 4, 0x0#32, 0xF07#32, 0x0#32, 0x0#32, 0x0#32, 0x0#32, 0x400#32, false⟩,
   ⟨0x70004, 1, 0x4, 1, 4, 0x0#32, 0xFF#32, 0x0#32, 0x0#32, 0x0#32, 0x0#32, 0x64#32, false⟩,
   ⟨0x70008, 1, 0x4, 1, 4, 0x0#32, 0x0#32, 0x4#32, 0x0#32, 0x1FF0002#32, 0x0#32, 0x0#32, true⟩,
   ⟨0x7000C, 1, 0x4, 1, 4, 0x0#32, 0x0#32, 0x0#32, 0xFFFFFFFF#32, 0x0#32, 0x0#32, 0x0#32, false⟩,
   ⟨0x70100, 3, 0x10, 1, 4, 0x0#32, 0x80000003#32, 0x0#32, 0x0#32, 0x0#32, 0x0#32, 0x0#32, false⟩,
   ⟨0x70104, 3, 0x10, 1, 4, 0x0#32, 0x0#32, 0x3#32, 0x0#32, 0xFFFFFF04#32, 0x0#32, 0x0#32, true⟩,
   ⟨0x70200, 1, 0x4, 1, 4, 0x0#32, 0xFFFFFFFF#32, 0x0#32, 0x0#32, 0x0#32, 0x0#32, 0x2640000#32, false⟩,
   ⟨0x70204, 1, 0x4, 1, 4, 0x0#32, 0xFFFFFFFF#32, 0x0#32, 0x0#32, 0x0#32, 0x0#32, 0xA00C8#32, false⟩,
   ⟨0x70208, 1, 0x4, 1, 4, 0x0#32, 0xF000FFFF#32, 0x0#32, 0x0#32, 0x0#32, 0x0#32, 0x64#32, false⟩,
   ⟨0x7020C, 1, 0x4, 1, 4, 0x0#32, 0x0#32, 0x0#32, 0x0#32, 0x0#32, 0xFFFFFFFF#32, 0x0#32, false⟩,
   ⟨0x70210, 1, 0x4, 1, 4, 0x0#32, 0x0#32, 0x0#32, 0x0#32, 0x0#32, 0xFFFFFFFF#32, 0x0#32, false⟩,
   ⟨0x70214, 1, 0x4, 1, 4, 0x0#32, 0x0#32, 0x0#32, 0x0#32, 0x0#32, 0xFFFF#32, 0x0#32, false⟩,
   ⟨0x70218, 1, 0x4, 1, 4, 0x0#32, 0x0#32, 0x0#32, 0x0#32, 0x0#32, 0xFFFFF#32, 0x0#32, false⟩,
   ⟨0x7021C, 1, 0x4, 1, 4, 0xFFFFFFFF#32, 0x0#32, 0x0#32, 0x0#32, 0x0#32, 0x0#32, 0x0#32, false⟩,
   ⟨0x70220, 1, 0x4, 1, 4, 0x0#32, 0x0#32, 0x70#32, 0x0#32, 0xF#32, 0x0#32, 0x0#32, false⟩,
   ⟨0x70224, 1, 0x4, 1, 4, 0x0#32, 0x0#32, 0x0#32, 0x0#32, 0xFFFFFFFF#32, 0x0#32, 0x0#32, true⟩,
   ⟨0x70228, 1, 0x4, 1, 4, 0x0#32, 0x0#32, 0x0#32, 0x0#32, 0xFFFFFFFF#32, 0x0#32, 0x0#32, true⟩,
   ⟨0x7022C, 1, 0x4, 1, 4, 0x0#32, 0x0#32, 0x0#32, 0x0#32, 0xFFFFFFFF#32, 0x0#32, 0xFFFFFFFF#32, true⟩,
   ⟨0x70230, 1, 0x4, 1, 4, 0x0#32, 0x0#32, 0x0#32, 0x0#32, 0xFFFFFFFF#32, 0x0#32, 0x0#32, true⟩,
   ⟨0x70234, 1, 0x4, 1, 4, 0x0#32, 0x0#32, 0x0#32, 0x0#32, 0xFFFFFFFF#32, 0x0#32, 0x0#32, true⟩,
   ⟨0x71000, 2312, 0x4, 1, 4, 0x0#32, 0x0#32, 0x0#32, 0x0#32, 0xFFFFFFFF#32, 0x0#32, 0x0#32, true⟩,
   ⟨0x74000, 512, 0x20, 1, 4, 0x0#32, 0xFFCFFF00#32, 0x0#32, 0x0#32, 0x0#32, 0x0#32, 0x20000100#32, false⟩,
   ⟨0x74004, 512, 0x20, 1, 4, 0x0#32, 0xFFFFFFFF#32, 0x0#32, 0x0#32, 0x0#32, 0x0#32, 0x13880000#32, false⟩,
   ⟨0x74008, 512, 0x20, 1, 4, 0x0#32, 0x80FFFF0F#32, 0x0#32, 0x0#32, 0x0#32, 0x0#32, 0x80051405#32, false⟩,
   ⟨0x7400C, 512, 0x20, 1, 4, 0x0#32, 0x0#32, 0x0#32, 0x0#32, 0xFF07#32, 0x0#32, 0x0#32, true⟩,
   ⟨0x78000, 288, 0x40, 16, 4, 0x0#32, 0x0#32, 0x0#32, 0x0#32, 0xFFFFFFFF#32, 0x0#32, 0x0#32, true⟩]

/-- The registers of one block of R376. -/
def Reg.busRows : List RegRow :=
  [⟨0x80000, 4, 0x4000, 1, 4, 0x0#32, 0xFF3#32, 0x0#32, 0x0#32, 0x0#32, 0x0#32, 0x20#32, false⟩,
   ⟨0x80004, 4, 0x4000, 1, 4, 0x0#32, 0xF8FFFE7F#32, 0x0#32, 0x0#32, 0x0#32, 0x0#32, 0x7E3E1F#32, false⟩,
   ⟨0x80008, 4, 0x4000, 1, 4, 0x0#32, 0xFFF8F8FF#32, 0x0#32, 0x0#32, 0x0#32, 0x0#32, 0xE099#32, false⟩,
   ⟨0x8000C, 4, 0x4000, 1, 4, 0x0#32, 0xFFFFFFFF#32, 0x0#32, 0x0#32, 0x0#32, 0x0#32, 0x20000000#32, false⟩,
   ⟨0x80010, 4, 0x4000, 1, 4, 0x0#32, 0x7F#32, 0x0#32, 0x0#32, 0x0#32, 0x0#32, 0x0#32, false⟩,
   ⟨0x80014, 4, 0x4000, 1, 4, 0x0#32, 0xFFFFFFFF#32, 0x0#32, 0x0#32, 0x0#32, 0x0#32, 0x0#32, false⟩,
   ⟨0x80018, 4, 0x4000, 1, 4, 0x0#32, 0xFFFFFFFF#32, 0x0#32, 0x0#32, 0x0#32, 0x0#32, 0xA00000#32, false⟩,
   ⟨0x8001C, 4, 0x4000, 1, 4, 0x0#32, 0xFFFFFFFF#32, 0x0#32, 0x0#32, 0x0#32, 0x0#32, 0x400#32, false⟩,
   ⟨0x80020, 4, 0x4000, 4, 4, 0x0#32, 0x3FF#32, 0x0#32, 0x0#32, 0x0#32, 0x0#32, 0x0#32, false⟩,
   ⟨0x80030, 4, 0x4000, 1, 4, 0x0#32, 0x0#32, 0x3FF0#32, 0x0#32, 0xB#32, 0x0#32, 0x0#32, false⟩,
   ⟨0x80034, 4, 0x4000, 1, 4, 0x0#32, 0x0#32, 0x0#32, 0x70000#32, 0xFFFF#32, 0x0#32, 0x0#32, false⟩,
   ⟨0x80038, 4, 0x4000, 1, 4, 0x0#32, 0x0#32, 0x0#32, 0xFFFFFFFF#32, 0x0#32, 0x0#32, 0x0#32, false⟩,
   ⟨0x80040, 4, 0x4000, 1, 4, 0x0#32, 0x0#32, 0x0#32, 0x0#32, 0x0#32, 0xFFFFFFFF#32, 0x0#32, false⟩,
   ⟨0x80044, 4, 0x4000, 1, 4, 0x0#32, 0x0#32, 0x0#32, 0x0#32, 0x0#32, 0xFFFFFFFF#32, 0x0#32, false⟩,
   ⟨0x80048, 4, 0x4000, 1, 4, 0x0#32, 0x0#32, 0x0#32, 0x0#32, 0x0#32, 0xFFFFFFFF#32, 0x0#32, false⟩,
   ⟨0x8004C, 4, 0x4000, 1, 4, 0x0#32, 0x0#32, 0x0#32, 0x0#32, 0x0#32, 0xFFFFFFFF#32, 0x0#32, false⟩,
   ⟨0x80050, 4, 0x4000, 1, 4, 0x0#32, 0x0#32, 0x0#32, 0x0#32, 0x0#32, 0x1#32, 0x0#32, false⟩,
   ⟨0x80060, 4, 0x4000, 4, 8, 0x0#32, 0x0#32, 0x0#32, 0x0#32, 0x3FF03FF#32, 0x0#32, 0x0#32, false⟩,
   ⟨0x80064, 4, 0x4000, 4, 8, 0x0#32, 0x0#32, 0x0#32, 0x0#32, 0x0#32, 0x3FF#32, 0x0#32, false⟩,
   ⟨0x80080, 4, 0x4000, 1, 4, 0x0#32, 0x0#32, 0x0#32, 0x0#32, 0xFF#32, 0x0#32, 0x0#32, true⟩,
   ⟨0x80084, 4, 0x4000, 1, 4, 0x0#32, 0x0#32, 0x0#32, 0x0#32, 0xFFFFFFFF#32, 0x0#32, 0x0#32, true⟩,
   ⟨0x80088, 1, 0x4, 1, 4, 0x1#32, 0x0#32, 0x2#32, 0x0#32, 0x0#32, 0x0#32, 0x0#32, false⟩,
   ⟨0x80800, 4, 0x4000, 64, 4, 0x0#32, 0x0#32, 0xC0#32, 0x0#32, 0x3F#32, 0x0#32, 0x0#32, false⟩,
   ⟨0x81000, 4, 0x4000, 512, 16, 0x0#32, 0xFF3F0000#32, 0x0#32, 0x0#32, 0x0#32, 0x0#32, 0x0#32, false⟩,
   ⟨0x81004, 4, 0x4000, 512, 16, 0x0#32, 0x1FFFFFFF#32, 0x0#32, 0x0#32, 0x0#32, 0x0#32, 0x0#32, false⟩,
   ⟨0x81008, 4, 0x4000, 512, 16, 0x0#32, 0x1FFFFFFF#32, 0x0#32, 0x0#32, 0x0#32, 0x0#32, 0x0#32, false⟩]

/-- The registers of one block of R376. -/
def Reg.twinRows : List RegRow :=
  [⟨0x90000, 1, 0x4, 1, 4, 0x0#32, 0xFFFFFF03#32, 0x0#32, 0x0#32, 0x0#32, 0x0#32, 0x27100302#32, false⟩,
   ⟨0x90004, 1, 0x4, 1, 4, 0x0#32, 0x0#32, 0x3D00#32, 0x0#32, 0xF02F7#32, 0x0#32, 0x0#32, false⟩,
   ⟨0x90008, 1, 0x4, 1, 4, 0x0#32, 0x0#32, 0x0#32, 0x0#32, 0xFFFF#32, 0x0#32, 0x0#32, false⟩,
   ⟨0x9000C, 1, 0x4, 1, 4, 0x0#32, 0x0#32, 0x0#32, 0xFFFF#32, 0x0#32, 0x0#32, 0x0#32, false⟩,
   ⟨0x90010, 1, 0x4, 1, 4, 0x0#32, 0x0#32, 0x0#32, 0x0#32, 0x700#32, 0x1#32, 0x0#32, false⟩,
   ⟨0x90014, 1, 0x4, 1, 4, 0x0#32, 0x0#32, 0x0#32, 0x0#32, 0x0#32, 0xFF01#32, 0x0#32, false⟩,
   ⟨0x98000, 1, 0x4, 1, 4, 0x0#32, 0x0#32, 0x3E#32, 0x0#32, 0x40#32, 0x0#32, 0x0#32, false⟩,
   ⟨0x98004, 1, 0x4, 1, 4, 0x0#32, 0x0#32, 0x0#32, 0x0#32, 0xFFFFFFFF#32, 0x0#32, 0x0#32, false⟩,
   ⟨0x98008, 1, 0x4, 1, 4, 0x0#32, 0x0#32, 0x0#32, 0x0#32, 0xFFFFFFFF#32, 0x0#32, 0x0#32, false⟩,
   ⟨0x9800C, 1, 0x4, 1, 4, 0x0#32, 0x0#32, 0x0#32, 0x0#32, 0xFFFFFFFF#32, 0x0#32, 0x0#32, false⟩,
   ⟨0x98010, 1, 0x4, 1, 4, 0x0#32, 0xFFFFFFFF#32, 0x0#32, 0x0#32, 0x0#32, 0x0#32, 0x20300000#32, false⟩,
   ⟨0x98014, 1, 0x4, 1, 4, 0x0#32, 0xFFFFFFFF#32, 0x0#32, 0x0#32, 0x0#32, 0x0#32, 0x100#32, false⟩,
   ⟨0x98018, 1, 0x4, 1, 4, 0x0#32, 0x0#32, 0x0#32, 0x0#32, 0xFFFFFFFF#32, 0x0#32, 0x0#32, false⟩,
   ⟨0x9801C, 1, 0x4, 1, 4, 0x0#32, 0x0#32, 0x0#32, 0x0#32, 0x0#32, 0x3#32, 0x0#32, false⟩,
   ⟨0x98020, 1, 0x4, 1, 4, 0x0#32, 0x0#32, 0x0#32, 0x0#32, 0x3F#32, 0x0#32, 0x0#32, false⟩]

/-- The registers of one block of R376. -/
def Reg.fltRows : List RegRow :=
  [⟨0xA0000, 1, 0x4, 1, 4, 0x0#32, 0x1#32, 0x0#32, 0x0#32, 0x0#32, 0x0#32, 0x0#32, false⟩,
   ⟨0xA0004, 1, 0x4, 1, 4, 0x0#32, 0x0#32, 0x8#32, 0x0#32, 0x17#32, 0x0#32, 0x0#32, false⟩,
   ⟨0xA0008, 1, 0x4, 1, 4, 0x0#32, 0x1FFF#32, 0x0#32, 0x0#32, 0x0#32, 0x0#32, 0x64#32, false⟩,
   ⟨0xA000C, 1, 0x4, 1, 4, 0x0#32, 0xFFFFFF#32, 0x0#32, 0x0#32, 0x0#32, 0x0#32, 0x3C08#32, false⟩,
   ⟨0xA0010, 1, 0x4, 1, 4, 0x0#32, 0x0#32, 0x0#32, 0x0#32, 0xFF#32, 0x0#32, 0x0#32, false⟩,
   ⟨0xA0014, 1, 0x4, 1, 4, 0x0#32, 0x0#32, 0x0#32, 0x0#32, 0x0#32, 0xFF03#32, 0x0#32, false⟩,
   ⟨0xA0018, 1, 0x4, 1, 4, 0x0#32, 0x0#32, 0x80000000#32, 0x0#32, 0x71FF0000#32, 0x0#32, 0x0#32, false⟩,
   ⟨0xA001C, 1, 0x4, 1, 4, 0x0#32, 0x0#32, 0x0#32, 0x0#32, 0xFFFFFFFF#32, 0x0#32, 0x0#32, false⟩,
   ⟨0xA0020, 1, 0x4, 1, 4, 0x0#32, 0x0#32, 0x0#32, 0x0#32, 0xFFFFFFFF#32, 0x0#32, 0x0#32, false⟩,
   ⟨0xA0024, 1, 0x4, 1, 4, 0x0#32, 0x0#32, 0x0#32, 0x0#32, 0xFFFFFFFF#32, 0x0#32, 0x0#32, false⟩,
   ⟨0xA0028, 1, 0x4, 1, 4, 0x0#32, 0x0#32, 0x0#32, 0x0#32, 0x0#32, 0x9FFFFFFF#32, 0x0#32, false⟩,
   ⟨0xA002C, 1, 0x4, 1, 4, 0xFFFFFFFF#32, 0x0#32, 0x0#32, 0x0#32, 0x0#32, 0x0#32, 0x0#32, false⟩,
   ⟨0xA0030, 1, 0x4, 1, 4, 0x0#32, 0x0#32, 0x4#32, 0x0#32, 0x3#32, 0x0#32, 0x0#32, false⟩,
   ⟨0xA1000, 512, 0x4, 1, 4, 0x0#32, 0x8000001F#32, 0x0#32, 0x0#32, 0x0#32, 0x0#32, 0x80000014#32, false⟩,
   ⟨0xA2000, 512, 0x4, 1, 4, 0x0#32, 0x0#32, 0x1#32, 0xFF00#32, 0x2#32, 0x0#32, 0x0#32, false⟩,
   ⟨0xA3000, 512, 0x4, 1, 4, 0x0#32, 0x0#32, 0x0#32, 0x0#32, 0xFFFFFFFF#32, 0x0#32, 0x0#32, false⟩]

/-- The registers of one block of R376. -/
def Reg.recRows : List RegRow :=
  [⟨0xA8000, 1, 0x4, 1, 4, 0x0#32, 0xFFFFFF01#32, 0x0#32, 0x0#32, 0x0#32, 0x0#32, 0x10003C00#32, false⟩,
   ⟨0xA8004, 1, 0x4, 1, 4, 0x0#32, 0x0#32, 0x1FC#32, 0x0#32, 0x3#32, 0x0#32, 0x0#32, false⟩,
   ⟨0xA8008, 1, 0x4, 1, 4, 0x0#32, 0x0#32, 0x0#32, 0xFFFFFFFF#32, 0x0#32, 0x0#32, 0x0#32, false⟩,
   ⟨0xA800C, 1, 0x4, 1, 4, 0x0#32, 0x0#32, 0x0#32, 0x0#32, 0xFFFFFFFF#32, 0x0#32, 0x0#32, false⟩,
   ⟨0xA8010, 1, 0x4, 1, 4, 0x0#32, 0x0#32, 0x0#32, 0x0#32, 0xFFFFFFFF#32, 0x0#32, 0x0#32, false⟩,
   ⟨0xA8014, 1, 0x4, 1, 4, 0xFFFFFFFF#32, 0x0#32, 0x0#32, 0x0#32, 0x0#32, 0x0#32, 0x0#32, false⟩,
   ⟨0xA8018, 1, 0x4, 1, 4, 0x0#32, 0x0#32, 0x0#32, 0x0#32, 0x0#32, 0x3#32, 0x0#32, false⟩,
   ⟨0xA801C, 1, 0x4, 1, 4, 0x0#32, 0x0#32, 0x0#32, 0x0#32, 0xFFFFFFFF#32, 0x0#32, 0x0#32, false⟩,
   ⟨0xA8020, 1, 0x4, 1, 4, 0x0#32, 0x0#32, 0x0#32, 0x0#32, 0xFFFFFFFF#32, 0x0#32, 0x0#32, false⟩,
   ⟨0xA8040, 8, 0x4, 1, 4, 0x0#32, 0x0#32, 0x0#32, 0x0#32, 0xFFFFFFFF#32, 0x0#32, 0x0#32, false⟩,
   ⟨0xA8060, 8, 0x4, 1, 4, 0xFFFFFFFF#32, 0x0#32, 0x0#32, 0x0#32, 0x0#32, 0x0#32, 0x0#32, false⟩,
   ⟨0xA8080, 1, 0x4, 1, 4, 0xFFFFFFFF#32, 0x0#32, 0x0#32, 0x0#32, 0x0#32, 0x0#32, 0x0#32, false⟩,
   ⟨0xA8084, 1, 0x4, 1, 4, 0x0#32, 0x0#32, 0x0#32, 0x0#32, 0x0#32, 0x33FF#32, 0x0#32, false⟩,
   ⟨0xA9000, 2048, 0x4, 1, 4, 0x0#32, 0x80FFFFFF#32, 0x0#32, 0x0#32, 0x0#32, 0x0#32, 0x40064#32, false⟩]

/-- The registers of one block of R376. -/
def Reg.pegRows : List RegRow :=
  [⟨0xB0000, 1, 0x4, 1, 4, 0x0#32, 0x0#32, 0x0#32, 0x0#32, 0x3#32, 0x0#32, 0x0#32, false⟩,
   ⟨0xB0004, 1, 0x4, 1, 4, 0x0#32, 0x0#32, 0xE#32, 0x0#32, 0x3F30#32, 0x0#32, 0x0#32, false⟩,
   ⟨0xB0008, 1, 0x4, 1, 4, 0x0#32, 0x0#32, 0x0#32, 0x0#32, 0xFFFFFFFF#32, 0x0#32, 0x0#32, false⟩,
   ⟨0xB000C, 1, 0x4, 1, 4, 0x0#32, 0x0#32, 0x0#32, 0x0#32, 0xFFFFFFFF#32, 0x0#32, 0x0#32, false⟩,
   ⟨0xB0010, 1, 0x4, 1, 4, 0x0#32, 0x0#32, 0x0#32, 0x0#32, 0xFFFFFFFF#32, 0x0#32, 0x0#32, false⟩,
   ⟨0xB0014, 1, 0x4, 1, 4, 0x0#32, 0x0#32, 0x0#32, 0x0#32, 0x0#32, 0x1#32, 0x0#32, false⟩,
   ⟨0xB0018, 1, 0x4, 1, 4, 0x0#32, 0x0#32, 0x0#32, 0x0#32, 0x3FF#32, 0x0#32, 0x0#32, false⟩,
   ⟨0xB0020, 4, 0x4, 1, 4, 0x0#32, 0x0#32, 0x0#32, 0x0#32, 0xFFFFFFFF#32, 0x0#32, 0x0#32, false⟩,
   ⟨0xB0030, 1, 0x4, 1, 4, 0x0#32, 0x0#32, 0x0#32, 0x0#32, 0x1F#32, 0x0#32, 0x0#32, false⟩,
   ⟨0xB0034, 1, 0x4, 1, 4, 0x0#32, 0x0#32, 0x0#32, 0x0#32, 0xFFFFFFFF#32, 0x0#32, 0x0#32, false⟩,
   ⟨0xB0038, 1, 0x4, 1, 4, 0x0#32, 0x0#32, 0x0#32, 0x0#32, 0xFFFFFFFF#32, 0x0#32, 0x0#32, false⟩,
   ⟨0xB0040, 1, 0x4, 1, 4, 0x0#32, 0x0#32, 0x0#32, 0x0#32, 0xFFFFFFFF#32, 0x0#32, 0x0#32, false⟩,
   ⟨0xB0044, 1, 0x4, 1, 4, 0x0#32, 0x0#32, 0x0#32, 0x0#32, 0xFFFFFFFF#32, 0x0#32, 0x0#32, false⟩,
   ⟨0xB0048, 1, 0x4, 1, 4, 0xFFFFFF#32, 0x0#32, 0x0#32, 0x0#32, 0x0#32, 0x0#32, 0x0#32, false⟩,
   ⟨0xB004C, 1, 0x4, 1, 4, 0xFFFFFFFF#32, 0x0#32, 0x0#32, 0x0#32, 0x0#32, 0x0#32, 0x0#32, false⟩,
   ⟨0xB0050, 1, 0x4, 1, 4, 0xFFFFFFFF#32, 0x0#32, 0x0#32, 0x0#32, 0x0#32, 0x0#32, 0x0#32, false⟩,
   ⟨0xB0054, 1, 0x4, 1, 4, 0xFFFFFFFF#32, 0x0#32, 0x0#32, 0x0#32, 0x0#32, 0x0#32, 0x0#32, false⟩,
   ⟨0xB0058, 1, 0x4, 1, 4, 0xFFFFFFFF#32, 0x0#32, 0x0#32, 0x0#32, 0x0#32, 0x0#32, 0x0#32, false⟩,
   ⟨0xB005C, 1, 0x4, 1, 4, 0xFFFFFFFF#32, 0x0#32, 0x0#32, 0x0#32, 0x0#32, 0x0#32, 0x0#32, false⟩,
   ⟨0xB0060, 1, 0x4, 1, 4, 0x0#32, 0x0#32, 0x0#32, 0x0#32, 0x0#32, 0xFFFFFFFF#32, 0x0#32, false⟩,
   ⟨0xB0064, 1, 0x4, 1, 4, 0x0#32, 0x0#32, 0x0#32, 0xFFFF0000#32, 0x7#32, 0x0#32, 0x0#32, false⟩,
   ⟨0xB0068, 1, 0x4, 1, 4, 0x0#32, 0x0#32, 0x0#32, 0x0#32, 0xFFFFFFFF#32, 0x0#32, 0x0#32, false⟩,
   ⟨0xB0070, 1, 0x4, 1, 4, 0x0#32, 0x0#32, 0x0#32, 0x0#32, 0x0#32, 0x1#32, 0x0#32, false⟩,
   ⟨0xB0074, 1, 0x4, 1, 4, 0x0#32, 0x0#32, 0x6#32, 0x0#32, 0x1#32, 0x0#32, 0x0#32, false⟩,
   ⟨0xB0078, 1, 0x4, 1, 4, 0x0#32, 0x0#32, 0x0#32, 0x0#32, 0x3#32, 0x100#32, 0x0#32, false⟩,
   ⟨0xB007C, 1, 0x4, 1, 4, 0x0#32, 0x0#32, 0x0#32, 0x0#32, 0xFFFFFF#32, 0x0#32, 0x0#32, false⟩,
   ⟨0xB00A0, 8, 0x4, 1, 4, 0x0#32, 0x0#32, 0x0#32, 0x0#32, 0xFFFFFFFF#32, 0x0#32, 0x0#32, false⟩,
   ⟨0xB0100, 8, 0x4, 1, 4, 0x0#32, 0x0#32, 0x0#32, 0x0#32, 0xFFFFFFFF#32, 0x0#32, 0x0#32, false⟩,
   ⟨0xB0200, 16, 0x4, 1, 4, 0x0#32, 0x0#32, 0x0#32, 0x0#32, 0xFFFFFFFF#32, 0x0#32, 0x0#32, false⟩,
   ⟨0xB0400, 64, 0x4, 1, 4, 0x0#32, 0x0#32, 0x0#32, 0x0#32, 0x0#32, 0xFFFFFFFF#32, 0x0#32, false⟩,
   ⟨0xB0600, 8, 0x4, 1, 4, 0xFFFFFFFF#32, 0x0#32, 0x0#32, 0x0#32, 0x0#32, 0x0#32, 0x0#32, false⟩,
   ⟨0xB0800, 64, 0x4, 1, 4, 0x0#32, 0x0#32, 0x0#32, 0x0#32, 0xFFFFFFFF#32, 0x0#32, 0x0#32, false⟩,
   ⟨0xB1000, 256, 0x4, 1, 4, 0x0#32, 0x0#32, 0x0#32, 0x0#32, 0xFFFFFFFF#32, 0x0#32, 0x0#32, false⟩]

/-- The rows of the block that holds host address `a` (R376). -/
def Reg.rowsOf (a : Nat) : List RegRow :=
  if a < 0x010000 then [] else if a < 0x011000 then Reg.sysRows else if a < 0x012000 then Reg.txnRows
  else if a < 0x014000 then Reg.schedRows else if a < 0x020000 then Reg.beRows else if a < 0x030000 then Reg.scribeRows
  else if a < 0x040000 then Reg.lswRows else if a < 0x050000 then Reg.pwmRows else if a < 0x058000 then Reg.motRows
  else if a < 0x060000 then Reg.fbkRows else if a < 0x070000 then Reg.adcRows else if a < 0x080000 then Reg.gnssRows
  else if a < 0x090000 then Reg.busRows else if a < 0x0A0000 then Reg.twinRows else if a < 0x0A8000 then Reg.fltRows
  else if a < 0x0B0000 then Reg.recRows else if a < 0x0C0000 then Reg.pegRows else []

/-- The register row at a host address; none where no register is assigned (R361). -/
def Reg.row? (a : Nat) : Option RegRow := (Reg.rowsOf a).find? (·.covers a)

/-- The fault sources of R407, R457, R486 and R503, run by run: first source, last source, reset SEV (0 NOTE,
1 DEGRADE, 2 SAFE, 3 HALT). A source in no run is reserved. -/
def Flt.sevRuns : List (Nat × Nat × Nat) :=
  [(0, 15, 1), (16, 31, 2), (32, 45, 2), (48, 55, 1), (56, 63, 3), (64, 65, 2), (66, 66, 1), (67, 68, 0), (72, 75, 1), (80, 103, 0), (104, 115, 1), (116, 163, 0), (164, 175, 1), (176, 199, 2), (200, 202, 2), (208, 215, 1), (216, 223, 2), (224, 247, 0), (248, 255, 1), (256, 261, 0), (262, 263, 1), (264, 275, 0), (276, 279, 1), (280, 283, 0), (284, 285, 0), (288, 291, 1), (292, 292, 0), (293, 294, 2), (295, 295, 1), (296, 297, 0), (298, 299, 1), (300, 300, 0), (301, 302, 1), (303, 303, 2), (304, 305, 1), (306, 308, 0), (312, 312, 1), (313, 313, 2), (314, 315, 1), (320, 320, 3), (321, 321, 1), (322, 323, 0), (324, 324, 2), (325, 326, 0), (327, 328, 1)]

/-- The reset severity of a source; none for a reserved source (R407). -/
def Flt.resetSev? (src : Nat) : Option Nat :=
  (Flt.sevRuns.find? fun r => decide (r.1 ≤ src) && decide (src ≤ r.2.1)).map (·.2.2)

/-- The reset words PRF_WIN, PRF_INR, PRF_LIM and PRF_RTY of one profile (the table of R229; PROF5 to PROF7 as PROF0). -/
def Lsw.profReset (p w : Nat) : Word :=
  match p, w with
  | 1, 0 => 0x9C40032#32
  | 1, 1 => 0x32301770#32
  | 1, 2 => 0xA0014#32
  | 1, 3 => 0x30640064#32
  | 2, 0 => 0x9C400C8#32
  | 2, 1 => 0x101770#32
  | 2, 2 => 0xA0014#32
  | 2, 3 => 0x33E80064#32
  | 3, 0 => 0x9C40000#32
  | 3, 1 => 0x640003E8#32
  | 3, 2 => 0xA0014#32
  | 3, 3 => 0x11F40064#32
  | 4, 0 => 0x9C40064#32
  | 4, 1 => 0xC8101770#32
  | 4, 2 => 0x320014#32
  | 4, 3 => 0x30C80064#32
  | _, 0 => 0x9C40064#32
  | _, 1 => 0x201770#32
  | _, 2 => 0xA0014#32
  | _, _ => 0x30640064#32

/-- The value a register holds after a power-on reset (R8). The rows give it, but for the tables whose reset value
varies along the run: FLT_SRC (R407, R431), BLIM of the H-banks (R255) and the profiles (R229). -/
def Reg.resetOf (a : Nat) : Word :=
  if 0x0A1000 ≤ a ∧ a < 0x0A1800 then
    (match Flt.resetSev? ((a - 0x0A1000) / 4) with
     | some v => 0x80000014#32 ||| BitVec.ofNat 32 v
     | none => 0x00000014#32)
  else if 0x030400 ≤ a ∧ a < 0x030480 then Lsw.profReset ((a - 0x030400) / 16) ((a - 0x030400) % 16 / 4)
  else if a = 0x030208 ∨ a = 0x030228 ∨ a = 0x030248 ∨ a = 0x030268 then 0x27107530#32
  else match Reg.row? a with
    | some r => r.reset
    | none => 0#32

end Sys2Proof.Machine
end

