-- ==== Sys2Proof/Machine/Parts.lean ====
section
/-! DEFINITION. The parts of the state, block by block: what each block holds beside its registers. A register's
own bits live in the register file, under the register's host address, and nowhere else. -/
namespace Sys2Proof.Machine

/-! ### Modes and owners -/

/-- The eight modes of the device (R8, R41). -/
inductive Mode where
  | sill | boot | idle | run | limp | safe | freeze | service
  deriving DecidableEq, Repr

/-- Who writes: the host, an engine, or the lead's host through the twin's record (R118, R386). -/
inductive Owner where
  | host | engine (e : Nat) | twin
  deriving DecidableEq, Repr

/-! ### Input records -/

/-- What kind of item an input record carries. -/
inductive RecKind where
  | gauge | mark | adc | epoch | symbol | can | feedback | sincos | current | din | imu | axis | modeRequest | txnWrite
  deriving DecidableEq, Repr

/-- One item of an input record I(N): its kind and its numbers, in the order its chapter gives them. -/
structure RecItem where
  kind : RecKind
  data : List Nat
  deriving DecidableEq, Repr

/-- The input records: this device's own form of the one that the present frame computes on (R26, R250), the one that closed at the start of the
present frame, which an outputs' frame later is agreed or taken as it is (R19, R24), the one that closes at the next boundary, and the one after
it (R23). -/
structure InRec where
  prev : List RecItem
  cur : List RecItem
  next : List RecItem
  after : List RecItem
  deriving DecidableEq, Repr

def InRec.reset : InRec := ⟨[], [], [], []⟩

/-! ### Scribe (R131 to R164) -/

/-- An accepted pose (R81, R144): its instant, ns since reset, the frame it was submitted in, and lanes 0 to 6. -/
structure Pose where
  at_ : Int
  frame : BitVec 48
  x : Int
  y : Int
  heading : Int
  pitch : Int
  roll : Int
  speed : Int
  yaw : Int
  deriving DecidableEq, Repr

/-- What one sample reads of a cell (R133, R156): coverage, excluded, prescription index, and a DRAM error. -/
structure CellRead where
  cov : Nat
  excl : Bool
  prx : Nat
  err : Bool
  deriving DecidableEq, Repr

/-- One sample of a footprint: its cell, none outside the map, and what the cell held when the query was issued. -/
structure QSample where
  cell : Option (Nat × Nat)
  was : CellRead
  deriving DecidableEq, Repr

/-- An outlet of a query, with everything that its SQRY fixes (R147 to R158): an early STATUS 1 to 3 or 0, the edge used, whether its delay was
learned, the predicted point (mm) and speed (mm/s), the columns and rows, the samples, the thresholds and the outlet's state. -/
structure QOutlet where
  num : Nat
  early : Nat
  lead : Bool
  learned : Bool
  east : Int
  north : Int
  speed : Int
  cols : Nat
  samples : List QSample
  ton : Nat
  toff : Nat
  exign : Bool
  on : Bool
  deriving DecidableEq, Repr

/-- A map descriptor (R131): its words at a query's issue. -/
structure MapDesc where
  num : Nat
  geom : Word
  orgx : Word
  orgy : Word
  size : Word
  dir : Word
  cpool : Word
  xpool : Word
  ppool : Word
  deriving DecidableEq, Repr

/-- A started query that is not complete. -/
structure Query where
  ticket : Word
  /-- The frame of its SQRY, and the instant, ns since reset, at which its bound runs out (R78, R157). -/
  frame : BitVec 48
  bound : Nat
  /-- Its outlets, and the FMEM offset of its results. -/
  count : Nat
  addr : Nat
  desc : MapDesc
  outside : Bool
  outlets : List QOutlet
  deriving DecidableEq, Repr

/-- An accepted mark event that marking has not reached: on or off, at an instant, ns since reset. -/
structure MarkEvent where
  on : Bool
  at_ : Int
  deriving DecidableEq, Repr

/-- Marking of one outlet (R160 to R163): whether its last accepted mark was an on-mark, whether the instant reached lies within a delivery, the
last marked instant, and the accepted events still ahead of it. -/
structure Marking where
  delivering : Bool
  open_ : Bool
  last : Option Int
  ahead : List MarkEvent
  deriving DecidableEq, Repr

def Marking.none : Marking := { delivering := false, open_ := false, last := Option.none, ahead := [] }

structure Scribe where
  /-- The last 4,096 accepted poses, newest first (R144). -/
  poses : List Pose
  queries : List Query
  /-- Tickets of the queries started in the present frame, and of those that are complete (R78). -/
  started : List Word
  done : List Word
  /-- The instant, ns since reset, at which the SWAIT bound of a ticket started in the present frame runs out (R78). -/
  bounds : SMap Nat
  marks : SMap Marking
  /-- Mark events accepted in the present frame (R161). -/
  accepted : Nat
  /-- The boundaries at which the active map changed, ns since reset, newest first, each with the map that was active before it (R140). -/
  maps : List (Int × Nat)
  deriving DecidableEq, Repr

def Scribe.reset : Scribe := { poses := [], queries := [], started := [], done := [], bounds := [], marks := [], accepted := 0, maps := [] }

/-! ### PWM channels (R199 to R219) -/

/-- One PWM channel beside its registers. PWM_PER, PWM_DUTY, PWM_CMPA and PWM_CMPB hold the active values. -/
structure PwmCh where
  /-- The value that last entered each shadow (R203). -/
  shPer : Word
  shDuty : Word
  shA : Word
  shB : Word
  /-- A new value waits in that shadow. -/
  newPer : Bool
  newDuty : Bool
  newA : Bool
  newB : Bool
  /-- Period boundaries counted by a lone new value (R204). -/
  lone : Nat
  /-- PWM_CHCFG as the carrier uses it: MODE, DUTYFMT, PAIR and COMP change at a period boundary (R220). -/
  cfg : Word
  /-- The instant at which the counter was 0, ns since reset, and the period in progress (R199). -/
  began : Int
  per : Nat
  /-- The active interval of the period in progress, ns from its start. -/
  onFrom : Nat
  onTo : Nat
  /-- The requested signal, as generated, before any force. -/
  level : Bool
  /-- The counter runs. -/
  running : Bool
  /-- SAFELVL is kept until the next period boundary (R218). -/
  held : Bool
  /-- A dead-time wait of the pair is in progress (R212), and when it began, or the refresh pulse after it (R214); kept in the even channel. -/
  dead : Bool
  phaseAt : Nat
  /-- The requested signal at the end of the period before (R213). -/
  ended : Bool
  /-- Consecutive whole periods with the high side on (R214). -/
  whole : Nat
  /-- Bootstrap refresh: 0 none, 1 first wait, 2 low side on, 3 second wait (R214). -/
  refresh : Nat
  deriving DecidableEq, Repr

/-- A PWM channel after a power-on reset (R223). -/
def PwmCh.reset : PwmCh :=
  { shPer := 100000#32, shDuty := 0#32, shA := 0xFFFFFFFF#32, shB := 0xFFFFFFFF#32, newPer := false, newDuty := false,
    newA := false, newB := false, lone := 0, cfg := 0x00100400#32, began := 0, per := 0, onFrom := 0, onTo := 0, level := false,
    running := false, held := false, dead := false, phaseAt := 0, ended := false, whole := 0, refresh := 0 }

/-- The PWM block beside its registers: the channels, and the units whose counters wait for their first sync event (R219). -/
structure Pwm where
  ch : SMap PwmCh
  waiting : SMap Bool
  /-- The sync events of each unit that are still to come, in the order of their source events: between which instants each falls, ns since reset (R207, R208). -/
  sync : SMap (List (Nat × Nat))
  /-- When the last 100 ns pulses on SYNCOUT0 and SYNCOUT1 began, ns since reset (R208). -/
  syncOut0 : Option Nat
  syncOut1 : Option Nat
  /-- When each unit's fault force was last set, ns since reset (R216). -/
  forcedAt : SMap Nat
  deriving DecidableEq, Repr

def Pwm.reset : Pwm := { ch := [], waiting := [], sync := [], syncOut0 := none, syncOut1 := none, forcedAt := [] }

/-! ### Load switch channels and banks (R224 to R255) -/

/-- One switch channel beside its registers. -/
structure LswCh where
  /-- A command that entered at the boundary and waits for its EDGE offset (R226). -/
  wait : Option Word
  /-- The words of the profile in force since the last turn-on (R228). -/
  win : Word
  inr : Word
  lim : Word
  rty : Word
  /-- The inrush or boost time of this turn-on runs (R230, R231). -/
  inrush : Bool
  /-- The boosted 36 A limit is in force (R231). -/
  boost : Bool
  /-- It has turned on since the last BOOT (R231). -/
  wasOn : Bool
  /-- When it last turned off and on, and when its input last changed, ns since reset. -/
  offAt : Nat
  onAt : Nat
  inAt : Nat
  /-- TLATCH was set while the channel was on, or an OCOFF awaits its retry behind a TLATCH (R238); when the retry timer last started, ns since
  reset. -/
  retryDue : Bool
  retryAt : Nat
  /-- Consecutive frame values below and above the window, and whether that fault was raised since a value lay inside it
  (R233). -/
  ucRun : Nat
  ocRun : Nat
  ucDone : Bool
  ocDone : Bool
  /-- Consecutive counting frames of the off-state detection (R234). -/
  olRun : Nat
  stbRun : Nat
  /-- LOCK was cleared; the channel follows its input from the next boundary (R239). -/
  unlocking : Bool
  /-- Whether its frame values of this frame and the two before it are compared with the window, newest first (R233, R250). -/
  tests : List Bool
  /-- The level of its PWM channel as last seen (R167), and the level that its outlet's marks follow (R160, R174). -/
  fed : Bool
  marked : Bool
  deriving DecidableEq, Repr

def LswCh.reset : LswCh :=
  { wait := none, win := 0x09C40064#32, inr := 0x00201770#32, lim := 0x000A0014#32, rty := 0x30640064#32, inrush := false,
    boost := false, wasOn := false, offAt := 0, onAt := 0, inAt := 0, retryDue := false, retryAt := 0, ucRun := 0, ocRun := 0, ucDone := false,
    ocDone := false, olRun := 0, stbRun := 0, unlocking := false, tests := [], fed := false, marked := false }

/-- The state of a bank supply (R243). -/
inductive BankSupply where
  | normal | crank | uv | ov
  deriving DecidableEq, Repr

/-- One bank beside its registers. -/
structure Bank where
  supply : BankSupply
  /-- Tokens that count at the next boundary and at the one after (R23, R244). -/
  tokNext : List Word
  tokAfter : List Word
  /-- The bank has expired and keeps its FS pattern (R245, R246). -/
  expired : Bool
  /-- The last evaluated boundary had a valid token (R246). -/
  lastValid : Bool
  /-- The watchdog was enabled at this boundary (R247). -/
  fresh : Bool
  /-- The isolator's commanded state; a cause of R241 opens it until a new commit (R240, R241). -/
  isoCmd : Bool
  /-- Consecutive frames with the bank sum above LIM (R242). -/
  bocRun : Nat
  /-- The bank over-current cause of R241 is present. -/
  boc : Bool
  /-- The isolator's drop has disagreed and was reported (R242). -/
  isoBad : Bool
  deriving DecidableEq, Repr

def Bank.reset : Bank :=
  { supply := .normal, tokNext := [], tokAfter := [], expired := false, lastValid := false, fresh := false, isoCmd := false,
    bocRun := 0, boc := false, isoBad := false }

/-- The LSW block beside its registers. -/
structure Lsw where
  ch : SMap LswCh
  bank : SMap Bank
  /-- DIN00 to DIN15 after their filters (R227). -/
  din : BitVec 16
  /-- Channels held at their FS pattern by a shed task's heat group (R115, R248 line 7). -/
  shed : List Nat
  /-- The channels whose command took effect at the start of this frame, each with its command before (R15). -/
  entered : List (Nat × Word)
  deriving DecidableEq, Repr

def Lsw.reset : Lsw := { ch := [], bank := [], din := 0, shed := [], entered := [] }

/-! ### Gauge (R165 to R169) -/

/-- A search in progress: its channel, the edge it follows and the edge's instant, and whether marking follows that edge (R174). -/
structure GSearch where
  ch : Nat
  onEdge : Bool
  frame : Nat
  offset : Nat
  mark : Bool
  deriving DecidableEq, Repr

structure Gauge where
  searches : List GSearch
  deriving DecidableEq, Repr

def Gauge.reset : Gauge := ⟨[]⟩

/-- The sample a channel takes for the frame value: its current in mA, its output voltage in 10 mV units, whether it is in its
current limit, and whether its output stands above its bank node (R249). -/
structure ChSample where
  i : BitVec 16
  v : BitVec 16
  lim : Bool
  revb : Bool
  deriving DecidableEq, Repr

def ChSample.zero : ChSample := ⟨0, 0, false, false⟩

/-! ### Faults (R407 to R419) and the recorder (R420 to R428) -/

/-- An armed injection (R418): it fires in the first frame that begins after the write arrived. -/
structure Inject where
  src : Nat
  ofs : Nat
  det : Word
  ready : Bool
  deriving DecidableEq, Repr

/-- The raise that last restarted the quiet period (R417): its CORE cycle and its place among the raises of that cycle (R411), the source, the
detail and the payload. -/
structure LastRaise where
  cycle : Nat
  rank : Nat
  src : Nat
  det : Word
  payload : List Word
  deriving DecidableEq, Repr

structure Flt where
  /-- Level sources asserted now, ascending (R407). -/
  asserted : List Nat
  /-- Level sources that are asserted and have not been raised yet, with their details: the collector takes them when it works (R407, R430). -/
  waiting : SMap Word
  /-- Severity of the reaction in force: 0 none, 1 DEGRADE, 2 SAFE, 3 HALT (R521). -/
  reaction : Nat
  /-- HALT is latched (R412). -/
  halt : Bool
  /-- Sources raised while the reaction was in force, ascending (R415). -/
  raised : List Nat
  /-- Reactions that have ended and whose ends take effect at step (3) of the next boundary (R416), in order: the severity, and whether CLEAR ended
  it. -/
  ending : List (Nat × Bool)
  last : Option LastRaise
  inj : Option Inject
  /-- How long the quiet period has run since it restarted, in advances of the operating time (R414). -/
  quiet : Nat
  /-- Advances of the operating time since a reaction was last in force or the recovery count last fell (R417). -/
  calm : Nat
  deriving DecidableEq, Repr

def Flt.reset : Flt :=
  { asserted := [], waiting := [], reaction := 0, halt := false, raised := [], ending := [], last := none, inj := none, quiet := 0, calm := 0 }

/-- A record that waits for its MRAM write; RSEQ, LINK and CRC are given when it is written (R420). -/
structure QRec where
  code : Nat
  sev : Nat
  inj : Bool
  injx : Bool
  esc : Bool
  frame : Nat
  offset : Nat
  optime : Nat
  pcyc : Nat
  detail : Word
  payload : List Word
  /-- Formed by the recorder itself, so never lost (R425). -/
  own : Bool
  deriving DecidableEq, Repr

/-- The token bucket of one record code and its run of suppressions (R424). Tokens are held in millionths. -/
structure Bucket where
  micro : Nat
  /-- Operating time of the last refill. -/
  at_ : Nat
  /-- A run of suppressions is open. -/
  run : Bool
  /-- Suppressed occurrences not yet carried by a summary, the highest severity among them, and their first and last instants. -/
  count : Nat
  sev : Nat
  firstFrame : Nat
  firstOfs : Nat
  lastFrame : Nat
  lastOfs : Nat
  /-- Operating time of the last summary of this code. -/
  summed : Nat
  deriving DecidableEq, Repr

def Bucket.none : Bucket :=
  { micro := 0, at_ := 0, run := false, count := 0, sev := 0, firstFrame := 0, firstOfs := 0, lastFrame := 0, lastOfs := 0,
    summed := 0 }

/-- A checkpoint that waits for Peg: its RSEQ, its severity and the hash to be signed (R422). -/
structure SigWait where
  rseq : Word
  sev : Nat
  hash : List Byte
  deriving DecidableEq, Repr

structure Rec where
  /-- The queue of R425, oldest first. -/
  queue : List QRec
  /-- Records the recorder formed itself that found the queue full, oldest first. -/
  overdue : List QRec
  /-- The records in MRAM: slot to the sixteen words of R420. -/
  slots : SMap (List Word)
  /-- Records written since the last checkpoint (R422). -/
  since : Nat
  /-- Chain hash after the last record and before it: H(k) and H(k - 1) (R422). -/
  hash : List Byte
  hashPrev : List Byte
  buckets : SMap Bucket
  sigs : List SigWait
  /-- Records lost since the last record of code 520 (R425). -/
  lost : Nat
  /-- Records counted as lost at the last power-down (R425, kept in the Sill domain). -/
  lostPower : Nat
  /-- A stream of space 4 has started since power-up (R428). -/
  readYet : Bool
  /-- Dowel tags that the words of REC_SWDATA0 to 7 arrived with, by number (R426). -/
  swTag : SMap Byte
  /-- Advances of the operating time since the recorder freeze in force was taken (R427). -/
  frozen : Nat
  deriving DecidableEq, Repr

def Rec.reset : Rec :=
  { queue := [], overdue := [], slots := [], since := 0, hash := List.replicate 32 0, hashPrev := List.replicate 32 0,
    buckets := [], sigs := [], lost := 0, lostPower := 0, readYet := false, swTag := [], frozen := 0 }

/-! ### The host port (R350 to R379) -/

/-- A page of the mirror window (R363). -/
structure Page where
  seq : Word
  stale : Bool
  dowel : Bool
  frame : Nat
  data : List Word
  /-- Read since SEQ last advanced (R366). -/
  read : Bool
  deriving DecidableEq, Repr

def Page.reset : Page :=
  { seq := 0, stale := true, dowel := false, frame := 0, data := [], read := false }

/-- A copy of a page taken from FMEM (R364): the frame it was taken in, the first word that failed its check with its value and
tag (R367), and the payload. -/
structure PageCopy where
  frame : Nat
  bad : Option (Nat × Word × Byte)
  data : List Word
  deriving DecidableEq, Repr

/-- The stream that was last started (R369 to R373). -/
structure Stream where
  /-- It still runs (HP_SSTAT.BUSY); a read stream that has ended keeps the halves that are still in the buffer. -/
  busy : Bool
  space : Nat
  write : Bool
  /-- Offset in its space of the next word to take into the buffer or to write; in space 4 the RSEQ of the next record to take. -/
  pos : Nat
  /-- Bytes still to take into the buffer or to write; not used in space 4. -/
  left : Nat
  /-- RSEQ at which a stream of space 4 ends. -/
  stop : Nat
  /-- The low half of a word being written. -/
  half : Option (BitVec 16)
  /-- Halves ready to read (R371); each with the RSEQ of its record when it is the last half of one (R428). -/
  buf : List (BitVec 16 × Option Word)
  /-- Free places of the buffer in a write stream. -/
  room : Nat
  deriving DecidableEq, Repr

structure HostPort where
  /-- HD as last driven by a read. -/
  hd : BitVec 16
  /-- The latched high half and its word address (R354). -/
  latch : Option (Nat × BitVec 16)
  /-- The held low half of a write (R355). -/
  held : Option (Nat × BitVec 16)
  /-- Posted words on their way to the blocks (R356). -/
  posted : List (Nat × Word)
  /-- What reads of the present image of a snapshot-class count have cleared, by register (R360). -/
  rcDone : SMap Nat
  /-- What the image showed of the live-class words at the last flip, and those whose last refresh failed: the address, the value that was to be
  shown, and the value kept (R362). -/
  seen : SMap Word
  stuck : List (Nat × Word × Word)
  pages : SMap Page
  /-- Copies of pages being taken, oldest first, those for the flip of the present frame, and those for the two flips after it (R364). -/
  copying : List (Nat × PageCopy)
  copyNow : List (Nat × PageCopy)
  copyNext : List (Nat × PageCopy)
  copyAfter : List (Nat × PageCopy)
  stream : Option Stream
  deriving DecidableEq, Repr

def HostPort.reset : HostPort :=
  { hd := 0, latch := none, held := none, posted := [], rcDone := [], seen := [], stuck := [], pages := [], copying := [], copyNow := [], copyNext := [],
    copyAfter := [], stream := none }

/-! ### Mode, resets, clocks and supplies (R462 to R505) -/

/-- The states of a logic feed (R491). -/
inductive FeedState where
  | normal | crank | low | ov
  deriving DecidableEq, Repr

/-- A write that reached a block register (R50): its rank, an engine's number or 8 for the host, the task of an engine, the register, the
value and its tag. -/
structure Arrival where
  rank : Nat
  task : Nat
  addr : Nat
  val : Word
  tag : Byte
  deriving DecidableEq, Repr

/-- Frames of one period that follow one another: the start of the first, ns since reset, its number, and FRAME_PERIOD (R16, R40). -/
structure FrameSpan where
  at_ : Nat
  frame : Nat
  period : Nat
  deriving DecidableEq, Repr

structure Sys where
  mode : Mode
  /-- The mode decided at the last output cutoff and its cause (R462, R466); whether LIMP_REQ was 1 there. -/
  decided : Option (Mode × Nat)
  limpReq : Bool
  /-- An accepted BOOT or SILL request that has not yet taken effect, with its owner's cause code (R467). -/
  reqBoot : Option Nat
  reqSill : Option Nat
  /-- Owner's cause code of the last accepted request for IDLE, RUN or SERVICE (R466). -/
  reqBy : Nat
  /-- The key-off timeout has run out (R473). -/
  keyOff : Bool
  /-- Advances of the operating time since IGN became inactive, which the key-off timer counts (R473). -/
  koRun : Nat
  /-- BOOT has ended: the mode to enter at the next boundary (R465). -/
  bootDone : Option Mode
  /-- FREEZE: held by the pin, held as a debug freeze, and the mode to return to (R482, R483). -/
  frzPin : Bool
  frzDbg : Bool
  before : Mode
  /-- The IGN level at the pin, and the watch that follows a power-on reset, in which the device is as in SILL (R472). -/
  ign : Bool
  watch : Bool
  /-- IGN has been inactive at some instant since entry to SILL began (R472). -/
  ignSeenLow : Bool
  /-- The IGN level after debounce (R474). -/
  ignDeb : Bool
  /-- When BOOT last began, ns (R495). -/
  bootAt : Nat
  /-- Entry to SILL is complete; the first wake source that acted during the entry (R470). -/
  sillDone : Bool
  wakeLatched : Option Nat
  /-- A power-fail has been declared (R496); the save at the last entry to SILL or declared power-fail was completed (R471). -/
  powerFail : Bool
  saved : Bool
  /-- Counts saved in MRAM: operating time, power cycles (R471). -/
  savedOptime : Nat
  savedPcyc : Nat
  /-- The operating time (R13, R471), 44 bits. -/
  optime : Nat
  /-- Straps and factory values (R1, R351, R383, R488). -/
  variant : Nat
  dierev : Nat
  hsync : Bool
  tside : Bool
  /-- REFCLK is present and within tolerance, its rate is 25 MHz, and the internal oscillator is good (R480). -/
  refPresent : Bool
  ref25 : Bool
  tcxoGood : Bool
  /-- Since when both feeds have been LOW, ns since reset (R496, R497). -/
  bothLow : Option Nat
  /-- Outputs on the VIO_H and VIO_G rails are high-impedance (R493). -/
  viohFloat : Bool
  viogFloat : Bool
  /-- Temperature points that have failed (R500). -/
  tpBad : List Nat
  /-- The first entry to RUN since a BOOT that loaded an image has been made (R439). -/
  ranOnce : Bool
  /-- The CORE cycle in which a write last reached a block register, and the writes of that cycle, ascending in rank (R50). -/
  arrivedAt : Nat
  arrived : List Arrival
  /-- The frames since reset, newest first: runs of frames of one period, each with its first frame's start, ns since reset, and number. -/
  spans : List FrameSpan
  deriving DecidableEq, Repr

/-- After a power-on reset: the watch of R472, with IGN at the pin (DESIGN CHOICE, log entry 31) and the factory values of a first power-up
(DESIGN CHOICE, log entry 32). -/
def Sys.reset : Sys :=
  { mode := .sill, decided := none, limpReq := false, reqBoot := none, reqSill := none, reqBy := 1, keyOff := false, koRun := 0, bootDone := none,
    frzPin := false, frzDbg := false, before := .boot, ign := true, watch := true, ignSeenLow := false, ignDeb := false, bootAt := 0,
    sillDone := true, wakeLatched := none, powerFail := false, saved := false, savedOptime := 0, savedPcyc := 0, optime := 0,
    variant := 0, dierev := 0, hsync := false, tside := false, refPresent := false, ref25 := true, tcxoGood := true, bothLow := none,
    viohFloat := false, viogFloat := false, tpBad := [], ranOnce := false, arrivedAt := 0, arrived := [], spans := [⟨0, 0, 100000⟩] }

/-! ### Test port (R484, R485) -/

/-- The instruction in the test port's instruction register. -/
inductive TestInstr where
  | extest | idcode | samplePreload | frzEnter | frzResume | dbgSel | dbgRead | bypass
  deriving DecidableEq, Repr

/-- The codes of the instructions; every other code is BYPASS (R484). -/
def TestInstr.code : TestInstr → BitVec 8
  | .extest => 0x00 | .idcode => 0x01 | .samplePreload => 0x02 | .frzEnter => 0x20 | .frzResume => 0x21 | .dbgSel => 0x22
  | .dbgRead => 0x23 | .bypass => 0xFF
def TestInstr.ofCode (c : BitVec 8) : TestInstr :=
  (([.extest, .idcode, .samplePreload, .frzEnter, .frzResume, .dbgSel, .dbgRead] : List TestInstr).find? (fun i => decide (i.code = c))).getD .bypass

/-- The test port: the code in its 8-bit instruction register, what it acts as, the selection of DBG_SEL, the data register last shifted out, and
the boundary-scan cells as last captured and as last loaded. -/
structure Jtag where
  ir : BitVec 8
  acts : TestInstr
  sel : BitVec 36
  out : BitVec 40
  captured : List Bool
  cells : List Bool
  deriving DecidableEq, Repr

/-- Test-Logic-Reset loads IDCODE. -/
def Jtag.reset : Jtag := { ir := TestInstr.idcode.code, acts := .idcode, sel := 0, out := 0, captured := [], cells := [] }

/-! ### Frame engines (R42 to R92) -/

/-- The addressable registers of an engine with their Dowel tags (R42). Vector lanes are keyed 8 v + lane; G0 and P0 are
hard-wired by the operations that read and write them. -/
structure RegFile where
  g : SMap Word
  gt : SMap Byte
  v : SMap Word
  vt : SMap Byte
  p : BitVec 8
  deriving DecidableEq, Repr

def RegFile.zero : RegFile := { g := [], gt := [], v := [], vt := [], p := 0 }

/-- One entry of the loop stack: the body's first and last index, the passes left, and the call depth it was pushed at. -/
structure Loop where
  start : Nat
  stop : Nat
  left : Nat
  depth : Nat
  deriving DecidableEq, Repr

/-- STATE of an engine (R92). -/
inductive EngState where
  | off | idle | run | halted | rehash
  deriving DecidableEq, Repr

/-- What a waiting instruction of an engine waits for (R50, R522). -/
inductive EngWait where
  /-- Nothing. -/
  | none
  /-- FENCE: every earlier BLOCK store has arrived. -/
  | fence
  /-- TCOMMIT behind BLOCK stores that have not arrived (DEDUCED, log entry 36), and TCOMMIT with its COMMIT made: the result goes to
  register d. -/
  | commitDue (d : Nat)
  | commit (d : Nat)
  /-- SWAIT: the predicate that takes the result of the query with this ticket. -/
  | query (p : Nat) (ticket : Word)
  /-- JSYNC: the predicate that takes the result for the entry whose SEQ has these low bits, and the instant, ns since reset, of its bound
  (R83). -/
  | journal (p : Nat) (seq : Word) (bound : Nat)
  deriving DecidableEq, Repr

/-- A BLOCK store on its way to its block: host address, value, tag, and the task that issued it (R50, R82). -/
structure BlockStore where
  addr : Nat
  val : Word
  tag : Byte
  task : Nat
  /-- A token on its way to the switch banks of this mask (R77). -/
  token : Option (BitVec 12)
  deriving DecidableEq, Repr

/-- A BLOCK load that waits for earlier BLOCK stores of its engine (R50): its destination register, its BLOCK address, the stores still
ahead of it, and the cycle of its issue. -/
structure PLoad where
  d : Nat
  addr : Nat
  ahead : Nat
  cyc : Nat
  deriving DecidableEq, Repr

/-- The header of an instruction, without its opcode (R51). -/
structure Hdr where
  pair : Bool
  neg : Bool
  pred : BitVec 3
  deriving DecidableEq, Repr

/-- The body of an instruction in each of the five formats (R52). -/
structure FmtR where
  d : BitVec 5
  a : BitVec 5
  b : BitVec 5
  c : BitVec 5
  mask : BitVec 8
  mod : BitVec 7
  zero : BitVec 16
  deriving DecidableEq, Repr

structure FmtI where
  d : BitVec 5
  a : BitVec 5
  mod : BitVec 9
  imm : BitVec 32
  deriving DecidableEq, Repr

structure FmtM where
  d : BitVec 5
  a : BitVec 5
  b : BitVec 5
  shift : BitVec 3
  space : BitVec 2
  zero : BitVec 3
  offset : BitVec 28
  deriving DecidableEq, Repr

structure FmtC where
  a : BitVec 5
  bound : BitVec 16
  target : BitVec 15
  aux : BitVec 15
  deriving DecidableEq, Repr

structure FmtX where
  d : BitVec 5
  a : BitVec 5
  b : BitVec 5
  sub : BitVec 4
  imm : BitVec 32
  deriving DecidableEq, Repr

/-- The second instruction of a bundle that has issued: the registers it reads, its cycle, its slice and its index (R55, R56). -/
structure Slot1 where
  rf : RegFile
  cyc : Nat
  slice : Word
  idx : Nat
  deriving DecidableEq, Repr

structure Eng where
  /-- Instruction memory by index, and DMEM with its tags (R46, R48, R49). -/
  imem : SMap DWord
  dmem : SMap Byte
  dmemTag : SMap Byte
  /-- Instruction words with an error: 1 for a single-bit error, 2 or more for one that SECDED does not correct (R49). -/
  imemErr : SMap Nat
  /-- The registers (R42). -/
  rf : RegFile
  /-- The registers as slot 0 of the bundle read them and the cycle at which the bundle issued, while its slot 1 is still to come
  (R56). -/
  old : Option (RegFile × Nat)
  /-- STATE, the index of the next instruction, and the call and loop stacks (R43, R73 to R75, R92). -/
  state : EngState
  pc : Nat
  ret : List Nat
  loops : List Loop
  /-- SLICE and the declared budget of the running slice; its SCRIBE bit (R43, R95). -/
  slice : Word
  budget : Nat
  scribe : Bool
  /-- Cycles from the first bundle to the earliest issue of the next one, and where the first bundle stood in the frame. -/
  cyc : Nat
  startEdge : Nat
  /-- Cycle at which each register's result may be read: G r at r, V r at 32 + r, P r at 64 + r (R57). -/
  ready : SMap Nat
  /-- Cycle from which another division may issue (R522). -/
  divAt : Nat
  /-- What it waits for, its BLOCK stores on their way and its BLOCK loads that wait for them, oldest first (R50, R522). -/
  wait : EngWait
  stores : List BlockStore
  loads : List PLoad
  /-- The rehash matched; the engine is IDLE from the next boundary (R90). -/
  rehashed : Bool
  /-- The slot 1 of a bundle whose slot 0 abandoned the slice: it issued in the same cycle, so its mismatch is still recorded (R89). -/
  after : Option Slot1
  /-- Primary and duplicate units disagree in every result under rule Z (R58, R61). No command makes this state (log entry 60). -/
  unitBad : Bool
  deriving DecidableEq, Repr

def Eng.reset : Eng :=
  { imem := [], imemErr := [], dmem := [], dmemTag := [], rf := RegFile.zero, old := none, state := .off, pc := 0, ret := [], loops := [],
    slice := 0, budget := 0, scribe := false, cyc := 0, startEdge := 0, ready := [], divAt := 0, wait := .none, stores := [], loads := [],
    rehashed := false, after := none, unitBad := false }

/-! ### Transactions (R118 to R128) -/

/-- STATE of the transaction slot (R130). -/
inductive TxnState where
  | free | opened | checking | pending
  deriving DecidableEq, Repr

/-- The holder of the slot: the host or the twin with its token, or the engines for one task (R118). -/
inductive Holder where
  | none | host (token : Nat) | engines (task : Nat) | twin (token : Nat)
  deriving DecidableEq, Repr

/-- A BEGIN that reached the slot in the CORE cycle in which it opened (R119): its rank, 0 for the twin, 1 for the host, 2 + e for engine e; its
owner; and the engine and predicate that learn its result. -/
structure BeginReq where
  rank : Nat
  holder : Holder
  pred : Option (Nat × Nat)
  deriving DecidableEq, Repr

structure Txn where
  state : TxnState
  holder : Holder
  /-- The shadow bank: register words by host address, ascending (R120). -/
  shadow : List (Nat × Word)
  /-- Distinct registers written beyond the capacity of the bank, not stored (R120). -/
  beyond : List Nat
  /-- Advances of the operating time since the owner's last TX write (R127). -/
  idle : Nat
  /-- The boundary at which the commit applies (R23). -/
  applyAt : Nat
  /-- The engine whose TCOMMIT waits for the result (R82). -/
  waiter : Option Nat
  /-- The DIG of the COMMIT command equals the shadow digest, or none is asked for (R451). -/
  digOk : Bool
  /-- The CORE cycle in which the slot opened, and the BEGINs of that cycle (R119). -/
  beganAt : Nat
  begins : List BeginReq
  deriving DecidableEq, Repr

def Txn.reset : Txn :=
  { state := .free, holder := .none, shadow := [], beyond := [], idle := 0, applyAt := 0, waiter := none, digOk := true, beganAt := 0,
    begins := [] }

/-! ### Images and the scheduler (R93 to R117) -/

/-- A loaded image: its header fields, its slice table, and the DMEM section kept for a reload (R94, R97). -/
structure Image where
  minPeriod : Nat
  version : Nat
  ninsn : Nat
  slices : List (Word × Word)
  dmem : List Byte
  deriving DecidableEq, Repr

/-- A slice placed in the coming or the present frame (R107). -/
structure Placed where
  engine : Nat
  task : Nat
  slice : Nat
  seq : Nat
  start : Nat
  stop : Nat
  deriving DecidableEq, Repr

/-- What the loader answers (R96): the reject code, 0 for none, with SLICE and PROVEN. -/
structure Reject where
  code : Nat
  slice : Nat
  proven : Nat
  deriving DecidableEq, Repr

def Reject.none : Reject := ⟨0, 0, 0⟩

/-- What the scheduler latches of a switch channel at the output cutoff (R110): its cell's temperature, its current in mA, its staged duty as
a fraction, and its thermal latch. -/
structure CellLatch where
  temp : Int
  cur : Nat
  dutyNum : Nat
  dutyDen : Nat
  tlatch : Bool
  deriving DecidableEq, Repr

def CellLatch.zero : CellLatch := ⟨0, 0, 0, 1, false⟩

structure Sched where
  image : Option Image
  /-- A VERIFY in progress: the bank and what its check, begun with the bank as it stood, will answer (R99). -/
  verify : Option (Nat × Reject)
  /-- The cells as latched at the last cutoff, in order, and the two feeds, 10 mV (R110). -/
  cells : List CellLatch
  vbat1 : Nat
  vbat2 : Nat
  /-- Tasks that were due and have not run since (R103). -/
  owed : List Nat
  /-- Slices of the coming frame, decided at the exchange deadline, and of the present one (R107). -/
  planned : List Placed
  plan : List Placed
  /-- The class under recovery and its consecutive passing frames (R116). -/
  recClass : Nat
  recover : Nat
  /-- Classes shed by the last decision, whose axes stop at the next boundary (R115). -/
  justShed : List Nat
  /-- Number of slices started on each engine in the present frame. -/
  started : SMap Nat
  deriving DecidableEq, Repr

def Sched.reset : Sched :=
  { image := none, verify := none, cells := [], vbat1 := 0, vbat2 := 0, owed := [], planned := [], plan := [], recClass := 0, recover := 0,
    justShed := [], started := [] }

/-! ### Motion generators, ports and feedback (R256 to R285) -/

/-- The four limits of a profile: units/s, units/s², units/s², 256 units/s³ (R286). -/
structure Limits where
  vmax : Nat
  amax : Nat
  dmax : Nat
  jmax : Nat
  deriving DecidableEq, Repr

/-- A segment of constant jerk (2^-32 units/s³) of a profile, and its length in 2^-64 s (R261). -/
structure JerkSeg where
  jerk : Int
  len : Nat
  deriving DecidableEq, Repr

/-- The profile an axis follows, planned at one servo boundary and sampled at those after it (R261, R262). -/
structure AxisPlan where
  /-- 0 a stop, 1 a move to a target, 2 a ramp to a velocity. -/
  kind : Nat
  /-- Position, velocity and acceleration where it began, the last two in 2^-32 units. -/
  from_ : Nat
  v : Int
  a : Int
  segs : List JerkSeg
  /-- The velocity after it, in 2^-32 units/s. -/
  goal : Int
  /-- Time followed so far, ns. -/
  used : Nat
  /-- The time of the standstill at which the axis turns back, in 2^-64 s; 0 where it does not (R262). -/
  rest : Nat
  deriving DecidableEq, Repr

/-- One axis beside its registers. AX_POS is the setpoint of the last servo boundary, AX_VEL its velocity, and AX_VMAX,
AX_AMAX, AX_DMAX, AX_JMAX, AX_TGT and AX_SETP the values in use. -/
structure Axis where
  /-- Velocity and acceleration at the last servo boundary, in 2^-32 units/s and units/s², and the profile followed. -/
  vel : Int
  acc : Int
  plan : Option AxisPlan
  /-- The setpoint before AX_POS, from which the commanded position moves, when that motion began and how long it takes, ns (R258). -/
  from_ : Nat
  fromAt : Nat
  span : Nat
  /-- When the commanded position last came to rest, ns (R270). -/
  restAt : Nat
  /-- Limits that entered and are not yet taken, and limits deferred to the next move (R260, R263). -/
  newLim : Option Limits
  defLim : Option Limits
  /-- Targets, increments and presets that entered and are not yet taken (R260). -/
  newTgt : Option Nat
  newInc : Option Word
  newPset : Option Nat
  /-- The target of the move in progress, and a target that waits for START (R265). -/
  target : Option Nat
  waiting : Option Nat
  /-- A START bit has entered for the waiting target. -/
  started : Bool
  /-- The increment in force and its consecutive repeats (R264). -/
  inc : Option Word
  repeats : Nat
  /-- A controlled stop is under way (R266). -/
  stopping : Bool
  /-- Steps emitted so far, as the last multiple of 256 units reached (R268), and the level of DIR. -/
  stepAt : Nat
  steps : Nat
  dir : Bool
  /-- The instant of the last step, and that at which DIR took its level, ns (R268). -/
  lastStep : Option Nat
  dirAt : Nat
  /-- The instant of the chosen reference edge, until it is latched (R273). -/
  refAt : Option Nat
  /-- Consecutive servo periods with the load angle above ANG (R271). -/
  stallRun : Nat
  /-- Sum and number of load-angle samples of this servo period. -/
  loadSum : Int
  loadN : Nat
  /-- The coil current reference is IHOLD (R270). -/
  holdCur : Bool
  /-- Last values written to AX_TGT_LO and AX_PSET_LO, with which the high halves stage (R260). -/
  tgtLo : Word
  psetLo : Word
  deriving DecidableEq, Repr

def Axis.reset : Axis :=
  { vel := 0, acc := 0, plan := none, from_ := 0, fromAt := 0, span := 0, restAt := 0, newLim := none, defLim := none, newTgt := none, newInc := none, newPset := none,
    target := none, waiting := none, started := false, inc := none, repeats := 0, stopping := false, stepAt := 0, steps := 0,
    dir := false, lastStep := none, dirAt := 0, refAt := none, stallRun := 0, loadSum := 0, loadN := 0, holdCur := true, tgtLo := 0, psetLo := 0 }

/-- One gate-driver port beside its registers: whether the last sample of coils A and B was above the limit (R274), and the currents of the
sample before, mA (R271). -/
structure Port where
  ocA : Bool
  ocB : Bool
  lastA : Int
  lastB : Int
  deriving DecidableEq, Repr

/-- One feedback channel beside its registers. -/
structure Fbk where
  /-- Instants of the last accepted rising A edges, ns, newest first, up to PAVG + 1 of them, and when the channel began to wait for the first
  (R279). -/
  edges : List Nat
  since : Nat
  /-- The frame in which the present gate began, its rising edges, and the instants of the first and the last (R279). -/
  gateFrom : BitVec 48
  gateN : Nat
  gateFirst : Nat
  gateLast : Nat
  /-- The count of the index before, and the last direction of motion (R278). -/
  index : Option Word
  up : Bool
  /-- The last accepted edges of A, B and Z, ns (R276). -/
  edgeA : Option Nat
  edgeB : Option Nat
  edgeZ : Option Nat
  /-- An accepted edge of Z at the IDXPOL level, whose index is yet to be taken (R278). -/
  indexDue : Bool
  deriving DecidableEq, Repr

def Fbk.reset : Fbk :=
  { edges := [], since := 0, gateFrom := 0, gateN := 0, gateFirst := 0, gateLast := 0, index := none, up := true, edgeA := none, edgeB := none,
    edgeZ := none, indexDue := false }

/-- One sin/cos pair beside its registers: the last angle, consecutive samples outside the window, and whether it is out. -/
structure Sc where
  angle : Nat
  run : Nat
  out : Bool
  deriving DecidableEq, Repr

def Sc.reset : Sc := { angle := 0, run := 0, out := false }

structure Motion where
  ax : SMap Axis
  port : SMap Port
  fb : SMap Fbk
  sc : SMap Sc
  /-- The words last entered at step (3), by host address: the shadows of R519. -/
  sh : SMap Word
  deriving DecidableEq, Repr

def Motion.reset : Motion := { ax := [], port := [], fb := [], sc := [], sh := [] }

/-! ### The pair and the journal (R381 to R406) -/

/-- What a Truss block carries (chapter 12): a part of the twin's input record, its output digest and configuration CRC, or its
health word. Journal confirmations and Scarf data have commands of their own. -/
inductive TrussContent where
  | record (items : List RecItem) (last : Bool)
  | digest (output config : Word)
  | health (unagreed suspect halt : Bool)
  deriving DecidableEq, Repr

/-- What Truss learns of the device at the other end of the link (R383, R384, R393): its side, its variant, its attested
image hash, the hash of its owner keys and its key check values (R447), its period code, whether it is in IDLE or SERVICE, whether it leads alone, and
the frame number of its next boundary. -/
structure Joiner where
  side : Bool
  variant : Nat
  imgHash : List Word
  ownHash : List Byte
  checks : List Word
  period : Nat
  ready : Bool
  leads : Bool
  frame : BitVec 48
  deriving DecidableEq, Repr

/-- A part of what Scarf copies to the replacement (R392). -/
inductive ScarfItem where
  | reg (addr : Nat) (val : Word)
  | dram (addr : Nat) (bytes : List Byte)
  | fmem (ofs : Nat) (words : List Word)
  | dmem (e : Nat) (ofs : Nat) (words : List Word)
  | journal (head : Nat) (entries : List (Nat × List Word))
  | recorder (head oldest : Word) (hash hashPrev : List Byte) (slots : List (Nat × List Word))
  deriving DecidableEq, Repr

/-- The exchange of a frame as one device sends it (R19, R24, R26, R387, R388): its input record, its output digest, its configuration CRC,
and its health word. -/
structure TwinExchange where
  items : List RecItem
  output : Word
  config : Word
  unagreed : Bool
  suspect : Bool
  halt : Bool
  deriving DecidableEq, Repr

structure Truss where
  /-- Blocks of the present exchange by number, and those requested again (R382). -/
  blocks : SMap TrussContent
  asked : List Nat
  /-- The exchange deadline of this frame has passed; the agreement it decided for the next frame (R24, R26). -/
  passed : Bool
  agreedNext : Bool
  /-- The twin's record as kept for comparison (R385), and the last health word taken (R27, R388). -/
  twinRec : List RecItem
  twinUnagreed : Bool
  /-- A fault of severity DEGRADE or above was latched since the last agreed frame (R388). -/
  suspect : Bool
  /-- Consecutive late boundaries (R382). -/
  lateRun : Nat
  /-- The staged bank is held at the next boundary (R28, R388). -/
  hold : Bool
  /-- A takeover was detected, and its deadline has passed (R391). -/
  takeDet : Bool
  takeArm : Bool
  /-- This device drives KILL (R389). -/
  killOut : Bool
  /-- The device at the other end, and the pair has once been formed since both came up (R383). -/
  joiner : Option Joiner
  pairedOnce : Bool
  /-- This device joins the lead at the next boundary with this frame number (R384, R392). -/
  joinAt : Option (BitVec 48)
  /-- One more than the clean frames of probation still to come, 0 outside probation (R392). -/
  probation : Nat
  /-- The lead's commit of ISO on the replacement waits for its boundary: whether it came after the cutoff, so that one more passes before it
  applies (R23, R392). -/
  isoCommit : Option Bool
  /-- The output digest computed at the last cutoff (R19, R519). -/
  digest : Word
  /-- The registers as they stood after step (2) of the last boundary, for the configuration CRC (R387). -/
  config : SMap Word
  /-- The exchange that this device sends in the window of the present frame (R19, R26). -/
  sent : Option TwinExchange
  deriving DecidableEq, Repr

def Truss.reset : Truss :=
  { blocks := [], asked := [], passed := false, agreedNext := false, twinRec := [], twinUnagreed := false,
    suspect := false, lateRun := 0, hold := false, takeDet := false, takeArm := false, killOut := false, joiner := none,
    pairedOnce := false, joinAt := none, probation := 0, isoCommit := none, digest := 0, config := [], sent := none }

/-- What the twin has confirmed of an entry (R397): its confirmation has come with an equal CRC, or with a different one; a
confirmation that came before the entry was appended here is held with its CRC. -/
structure JLive where
  confirmed : Bool
  diverged : Bool
  early : Option Word
  deriving DecidableEq, Repr

def JLive.none : JLive := { confirmed := false, diverged := false, early := Option.none }

/-- A completion mark in the Sill-domain buffer (R336, R399, R400). -/
structure JMark where
  ctl : Nat
  entry : Nat
  jseq : Word
  retx : Bool
  frame : Nat
  deriving DecidableEq, Repr

structure Jrn where
  /-- The ring in MRAM: slot to the sixteen words of its entry (R395). -/
  ring : SMap (List Word)
  /-- Next SEQ (JRN_SEQ_LO, JRN_SEQ_HI). -/
  head : Nat
  /-- Entries appended and not yet written in MRAM, oldest first. -/
  writing : List (Nat × List Word)
  live : SMap JLive
  /-- SEQ of the entries that are not retired, ascending (R396). -/
  opened : List Nat
  marks : List JMark
  /-- A drain was cut short; its fault is still to be raised after this power-up (R400). -/
  cutShort : Bool
  /-- Replay: SEQ of the open entries still to be placed (R401). -/
  replay : List Nat
  /-- A replay was requested or is due at entry to IDLE. -/
  replayDue : Bool
  /-- Confirmations sent to the twin in the present frame: SEQ and CRC of each entry written in the own MRAM (R39, R397). -/
  told : List (Nat × Word)
  deriving DecidableEq, Repr

def Jrn.reset : Jrn :=
  { ring := [], head := 0, writing := [], live := [], opened := [], marks := [], cutShort := false, replay := [],
    replayDue := false, told := [] }

/-! ### The sensor converter (R181 to R196) -/

/-- A trigger list with the inputs it has still to convert, 0 to 15 within a converter; with CONV 3 it stands on both
converters (R184 to R186). -/
structure AdcList where
  trg : Nat
  both : Bool
  frameStart : Bool
  /-- An input of it has been taken. -/
  begun : Bool
  left : List Nat
  /-- When its trigger fired, ns since reset (R186). -/
  firedAt : Nat
  deriving DecidableEq, Repr

/-- An input being converted, with its ADC_INCFG and ADC_WIN when the conversion began (R193), whether its shunt was open then, and the changes of
the shunt since, newest first, each with its instant, ns since reset (R196); and its list as it stood before the input was taken. -/
structure AdcConv where
  input : Nat
  trg : Nat
  frameStart : Bool
  cfg : Word
  win : Word
  shunt : Bool
  turns : List (Nat × Bool)
  list : AdcList
  deriving DecidableEq, Repr

/-- One of the two converters: the conversion in progress, the frame-start lists, the reference check of this frame, and the
other pending lists (R186, R188). -/
structure AdcUnit where
  cur : Option AdcConv
  fs : List AdcList
  refDue : Bool
  pend : List AdcList
  refBad : Bool
  deriving DecidableEq, Repr

def AdcUnit.reset : AdcUnit := { cur := none, fs := [], refDue := false, pend := [], refBad := false }

structure Adc where
  a : AdcUnit
  b : AdcUnit
  /-- Events of each trigger since it last fired (R184). -/
  divs : SMap Nat
  /-- Triggers whose source event has come and that fire at an instant, ns since reset (R184, R280). -/
  due : List (Nat × Nat)
  /-- Shunts that an over-current has opened and no write has connected since (R183). -/
  tripped : BitVec 32
  /-- Consecutive results of each input outside its window, and the inputs with a result inside it since the last fault (R192). -/
  winRun : SMap Nat
  winArm : SMap Bool
  deriving DecidableEq, Repr

def Adc.reset : Adc := { a := AdcUnit.reset, b := AdcUnit.reset, divs := [], due := [], tripped := 0, winRun := [], winArm := [] }

/-- An operand of an event with the event's instant, an EDGE offset in the present frame (log entry 9). -/
structure Timed (α : Type) where
  at_ : Nat
  val : α
  deriving DecidableEq, Repr

/-- The 128 temperature points as sampled, 0.125 °C units, signed, with what is told of them (R499, R501). -/
structure Samples (α : Type) where
  val : α
  temps : List (BitVec 16)
  deriving DecidableEq, Repr

/-- A temperature point that fails, with its reading; none where it is no longer updated (R500). -/
structure PointFail where
  point : Fin 128
  reading : Option (BitVec 16)
  deriving DecidableEq, Repr

/-! ### GNSS baseband, receiver time, inertial unit (R288 to R319) -/

/-- What a channel measures at an epoch, beside what the device itself keeps (R299, R300): its running counts of code periods and carrier phase,
from which the record takes those of TRACK's start. -/
structure GMeas where
  codeph : BitVec 32
  codecnt : BitVec 32
  carr : BitVec 64
  dop : BitVec 32
  plock : Bool
  clock : Bool
  deriving DecidableEq, Repr

def GMeas.zero : GMeas := ⟨0, 0, 0, 0, false, false⟩

/-- The signal that a channel finds (R294, R295): the channel, its Doppler in mHz and its code phase in 2^-16 chip. -/
structure GFind where
  n : Fin 288
  dop : BitVec 32
  code : Nat
  deriving DecidableEq, Repr

/-- The lock of a channel (R294, R300): the channel, and its running counts of code periods and carrier phase then. -/
structure GLock where
  n : Fin 288
  count : BitVec 32
  carr : BitVec 64
  deriving DecidableEq, Repr

/-- One tracking channel beside its registers. -/
structure Gch where
  /-- The state it entered PULLIN from (R294). -/
  back : Nat
  /-- It has been in TRACK since it was last enabled or changed (R303). -/
  found : Bool
  /-- SLIP is to be set at the next epoch; the instant LOCKT counts from, ns (R300). -/
  slip : Bool
  slipAt : Nat
  /-- Synchronised to the secondary code (R302). -/
  sync : Bool
  /-- The channel's counts of code periods and of carrier phase when TRACK began (R299, R300). -/
  count0 : BitVec 32
  carr0 : BitVec 64
  /-- The search window taken when the search began, Hz (R294, R295). -/
  centre : Int
  win : Nat
  /-- The last tracked Doppler, mHz, and code phase, 2^-16 chip, and the instant of the latter, ns (R295); and those found last, which are
  tracked from the lock on. -/
  dop : Int
  code : Nat
  codeAt : Nat
  foundDop : Int
  foundCode : Nat
  foundAt : Nat
  /-- When PULLIN or REACQ was entered last, and since when the C/N0 shown has been below LOSSCN, ns (R294). -/
  enteredAt : Nat
  lowSince : Option Nat
  deriving DecidableEq, Repr

def Gch.reset : Gch :=
  { back := 1, found := false, slip := false, slipAt := 0, sync := false, count0 := 0, carr0 := 0, centre := 0, win := 5000, dop := 0, code := 0,
    codeAt := 0, foundDop := 0, foundCode := 0, foundAt := 0, enteredAt := 0, lowSince := none }

structure Gnss where
  ch : SMap Gch
  /-- Receiver time and the pending correction, in units of 10^-12 ns, as they stood at `at_` (ns since reset) (R304, R307). -/
  rt : Nat
  resid : Int
  at_ : Nat
  /-- Instant of the last phase write since BOOT, and GNS_UNC at that write (R306, R308, R318). -/
  phAt : Option Nat
  uAt : Nat
  /-- The step that waits, and the receiver time at which it is applied, ns (R307). -/
  step : Int
  stepDue : Nat
  /-- Receiver time after the last step or time set, in the unit of `rt`: what lies before it was passed over (R297, R309). -/
  floor : Option Nat
  /-- The period boundary of receiver time last pulsed, ns, and when that pulse began, ns since reset (R309). -/
  lastPulse : Option Nat
  pulseAt : Option Nat
  /-- The next epoch carries STEPPED; receiver time of the last latched epoch, ns since week 0 (R297, R298). -/
  stepped : Bool
  lastEpoch : Option Nat
  seq : Word
  /-- The records of latched epochs, not yet complete: when each is, ns since reset, and its words (R298, R301). -/
  latched : List (Nat × List Word)
  /-- Open faults already raised, per antenna (R289). -/
  openDone : SMap Bool
  deriving DecidableEq, Repr

def Gnss.reset : Gnss :=
  { ch := [], rt := 0, resid := 0, at_ := 0, phAt := none, uAt := 0, step := 0, stepDue := 0, floor := none, lastPulse := none, pulseAt := none,
    stepped := false, lastEpoch := none, seq := 0, latched := [], openDone := [] }

/-- The inertial values at a frame-start latch (R312): RATE, ACC, DANG, DVEL, each x, y, z; the temperature; clamped samples; and
whether the unit has settled. -/
structure ImuSample where
  vals : List (BitVec 32)
  temp : BitVec 16
  satg : Bool
  sata : Bool
  settled : Bool
  deriving DecidableEq, Repr

def ImuSample.zero : ImuSample := ⟨[], 0, false, false, false⟩

/-- What the bus is doing for a controller at an instant: nothing, arbitrating for it, sending its frame with the arbitration won, or carrying a
frame of another's. -/
inductive BusPhase where
  | idle | arbitrating | won | other
  deriving DecidableEq, Repr

/-- What stands at the inputs at a frame-start latch beside what State holds: the inertial values (R312), the bias current and gain code of each
antenna port (R289, R318), the present C/N0 of each tracking channel (R318), and what each message bus is doing, with how long ago its frame
began, ns (R334, R346). -/
structure FrameSample where
  imu : ImuSample
  ants : List (BitVec 16 × BitVec 8)
  cn0 : List (BitVec 8)
  bus : List (BusPhase × Nat)
  deriving DecidableEq, Repr

def FrameSample.zero : FrameSample := ⟨ImuSample.zero, [], [], []⟩

/-- The inertial unit holds its last good values (R313); the instant of the last latch, ns, where its integrals begin (R312). -/
structure Imu where
  held : Bool
  last : Nat
  deriving DecidableEq, Repr

/-! ### Message bus controllers (R320 to R349) -/

/-- Where a transmit entry stands beside BUS_TXST.STATE: not requested, waiting for TXAT, pending, or on the bus. -/
inductive TxStage where
  | none | timed | pending | onBus
  deriving DecidableEq, Repr

/-- A transmit entry as accepted (R331 to R334). -/
structure TxEnt where
  stage : TxStage
  hdr : List Word
  data : List Byte
  /-- Order of the requests, and since when it is pending, ns. -/
  order : Nat
  since : Nat
  /-- A cancel is held (R334); the arbitration is won. -/
  cancel : Bool
  won : Bool
  /-- The freshness value of its attempts (R344), and whether a completion mark was written (R336). -/
  fresh : Option Nat
  marked : Bool
  /-- An attempt has begun: the freshness value stays (R344). -/
  begun : Bool
  deriving DecidableEq, Repr

def TxEnt.reset : TxEnt :=
  { stage := .none, hdr := [], data := [], order := 0, since := 0, cancel := false, won := false, fresh := none, marked := false,
    begun := false }

/-- A frame as the bus carries it (R328). -/
structure CanFrame where
  fdf : Bool
  rtr : Bool
  ide : Bool
  id : BitVec 29
  len : Nat
  brs : Bool
  esi : Bool
  data : List Byte
  deriving DecidableEq, Repr

/-- Where in its frame a transmission failed: before its arbitration was won, after that, or after the ACK delimiter, in end of frame (R334,
R336). -/
inductive TxPlace where
  | arbitration | frame | afterAck
  deriving DecidableEq, Repr

/-- One controller beside its registers. -/
structure BusCtl where
  tx : SMap TxEnt
  nextOrder : Nat
  /-- Entries of each queue that belong to software, frames stored since enable, and whether a run of discards is open (R329). -/
  owned : SMap Nat
  stored : SMap Nat
  ovf : SMap Bool
  /-- Frames still to enter an input record, each with whether it was stored after the cutoff (R330). -/
  rx : List (Bool × RecItem)
  /-- A reference message is requested, since when, and again while that request waits or its frame runs; its cycle count; whole cycles that saw no
  reference message of another's, and whether the present one has seen one, once there is a present one (R341, R342). -/
  refReq : Bool
  refSince : Nat
  refAgain : Option Nat
  refCount : Nat
  missed : Nat
  refSeen : Option Bool
  /-- It is bus-off, whatever EN says (R338); it goes offline after the frame in progress (R346). -/
  off : Bool
  closing : Bool
  /-- A frame was in progress at the last boundary (R346). -/
  inFrame : Bool
  /-- The frame last sent (R335, R341, R343). -/
  sent : Option CanFrame
  deriving DecidableEq, Repr

def BusCtl.reset : BusCtl :=
  { tx := [], nextOrder := 0, owned := [], stored := [], ovf := [], rx := [], refReq := false, refSince := 0, refAgain := none,
    refCount := 0, missed := 0, refSeen := none, off := false, closing := false, inFrame := false, sent := none }

/-- The controllers, the transmit and receive freshness counters of the 64 slots (R344), and the message keys loaded into them
(R443). -/
structure Buses where
  ctl : SMap BusCtl
  txFresh : SMap Nat
  rxFresh : SMap Nat
  keys : SMap (List Byte)
  /-- What commits changed in the controllers' registers, newest first: when, ns, the address, and the value before, which frames that had
  begun keep to (R326, R346). -/
  past : List (Nat × Nat × Word)
  deriving DecidableEq, Repr

def Buses.reset : Buses := { ctl := [], txFresh := [], rxFresh := [], keys := [], past := [] }

/-! ### The trust anchor (R433 to R461) -/

/-- A request of Peg's public-key engine (R455). -/
inductive PkJob where
  | checkpoint | image | key | report
  deriving DecidableEq, Repr

/-- What Peg holds beside its registers. An empty key is the empty list. -/
structure Peg where
  /-- Owner public keys OK0 to OK3, 64 bytes each, and the host key. Message keys are in the bus controllers' part. -/
  owner : SMap (List Byte)
  hostKey : List Byte
  /-- The result of the key command that is running, with its OP and SLOT (R442). -/
  running : Option (Nat × Nat × Nat)
  /-- Operating time at which the grant ends; none for a grant without a duration (R454). -/
  grantEnd : Option Nat
  /-- SHA-256 of the instruction section of the loaded image (R437). -/
  isecHash : List Byte
  /-- The report being built, without its signature (R446). -/
  report : Option (List Word)
  /-- The policy of a running OP 8, HAUTH and AUTOROLL, which applies once its RESULT reads 0 (R444). -/
  policy : Option (Bool × Bool)
  /-- What the public-key engine works on, and whether the running key command asks for it (R455). -/
  serving : Option PkJob
  keyWaits : Bool
  /-- A grant is in force, be it one with no bits (R454). -/
  granted : Bool
  /-- The instant until which a host command executes, and whether another has come meanwhile (R450). -/
  hcUntil : Nat
  hcBusy : Bool
  deriving DecidableEq, Repr

def Peg.reset : Peg := { owner := [], hostKey := [], running := none, grantEnd := none, isecHash := [], report := none, policy := none,
                         serving := none, keyWaits := false, granted := false, hcUntil := 0, hcBusy := false }

/-- What the tests of a BOOT find (R437): the failing self-test (0 none, else 1 to 5), the copies of key slots whose CRC-32C fails, the second
of a slot marked (R436: 0 to 3 owner, 16 to 79 message keys, 96 host key, 97 counters), and whether the identity key's halves disagree. -/
structure BootReport where
  selfTest : Nat
  badCopies : List (Nat × Bool)
  dikBad : Bool
  deriving DecidableEq, Repr

/-- The key slots, and those both of whose copies fail; a single bad copy is rewritten from the other, so that its slot stands (R436). -/
def keySlots : List Nat := List.range 4 ++ (List.range 64).map (· + 16) ++ [96, 97]
def BootReport.badSlots (r : BootReport) : List Nat :=
  keySlots.filter (fun k => r.badCopies.contains (k, false) && r.badCopies.contains (k, true))

/-- The PLLs that can lose lock (R478). -/
inductive Pll where
  | gnss | bus | core | edge | mem
  deriving DecidableEq, Repr

end Sys2Proof.Machine
end

