-- ==== Sys2Proof/Syntax.lean ====
section
/-! DEFINITION. The commands of the block: one constructor for each row of the opcode table, under the row's name and with its rule. The table gives no
row any bits. A command's operands are what the world outside decides (an address, a value, a level at a pin, a sample) and, where a step may fall
at any place in the frame, `t`, its EDGE offset in ns (R12). An instruction of a frame engine carries its engine, its header and its body (R51, R52). -/
namespace Sys2Proof

open Machine

inductive Instr where
  /-- OUTPUT_CUTOFF (R19). -/
  | outputCutoff (temps : List (Option (BitVec 16))) (v1 v2 hold : BitVec 16)
  /-- EXCHANGE_DEADLINE (R24). -/
  | exchangeDeadline
  /-- FRAME_BOUNDARY (R19). -/
  | frameBoundary (m : FrameSample)
  /-- SILL_ENTRY_COMPLETE (R470). -/
  | sillEntryComplete
  /-- SNAPSHOT_FLIP (R358). -/
  | snapshotFlip (bad : List (Nat × Word × Byte))
  /-- SLICE_START (R87). -/
  | sliceStart (e : Fin 8)
  /-- BUDGET_EXHAUSTED (R88). -/
  | budgetExhausted (e : Fin 8)
  /-- NOP (R62). -/
  | nop (e : Fin 8) (h : Hdr) (f : FmtC)
  /-- BR (R62). -/
  | br (e : Fin 8) (h : Hdr) (f : FmtC)
  /-- CALL (R62). -/
  | call (e : Fin 8) (h : Hdr) (f : FmtC)
  /-- RET (R62). -/
  | ret (e : Fin 8) (h : Hdr) (f : FmtC)
  /-- LOOP (R62). -/
  | loop (e : Fin 8) (h : Hdr) (f : FmtC)
  /-- JT (R76). -/
  | jt (e : Fin 8) (h : Hdr) (f : FmtC)
  /-- END (R62). -/
  | end_ (e : Fin 8) (h : Hdr) (f : FmtC)
  /-- ADD (R63). -/
  | add (e : Fin 8) (h : Hdr) (f : FmtR)
  /-- SUB (R63). -/
  | sub (e : Fin 8) (h : Hdr) (f : FmtR)
  /-- ADDS (R63). -/
  | adds (e : Fin 8) (h : Hdr) (f : FmtR)
  /-- SUBS (R63). -/
  | subs (e : Fin 8) (h : Hdr) (f : FmtR)
  /-- MUL (R63). -/
  | mul (e : Fin 8) (h : Hdr) (f : FmtR)
  /-- MULHU (R63). -/
  | mulhu (e : Fin 8) (h : Hdr) (f : FmtR)
  /-- MULHS (R63). -/
  | mulhs (e : Fin 8) (h : Hdr) (f : FmtR)
  /-- MAC (R63). -/
  | mac (e : Fin 8) (h : Hdr) (f : FmtR)
  /-- MIN (R63). -/
  | min (e : Fin 8) (h : Hdr) (f : FmtR)
  /-- MAX (R63). -/
  | max (e : Fin 8) (h : Hdr) (f : FmtR)
  /-- MINU (R63). -/
  | minu (e : Fin 8) (h : Hdr) (f : FmtR)
  /-- MAXU (R63). -/
  | maxu (e : Fin 8) (h : Hdr) (f : FmtR)
  /-- ABS (R63). -/
  | abs (e : Fin 8) (h : Hdr) (f : FmtR)
  /-- NEG (R63). -/
  | neg (e : Fin 8) (h : Hdr) (f : FmtR)
  /-- DIV (R63). -/
  | div (e : Fin 8) (h : Hdr) (f : FmtR)
  /-- DIVU (R63). -/
  | divu (e : Fin 8) (h : Hdr) (f : FmtR)
  /-- ADDI (R64). -/
  | addi (e : Fin 8) (h : Hdr) (f : FmtI)
  /-- MULI (R64). -/
  | muli (e : Fin 8) (h : Hdr) (f : FmtI)
  /-- MOVI (R64). -/
  | movi (e : Fin 8) (h : Hdr) (f : FmtI)
  /-- MINI (R64). -/
  | mini (e : Fin 8) (h : Hdr) (f : FmtI)
  /-- MAXI (R64). -/
  | maxi (e : Fin 8) (h : Hdr) (f : FmtI)
  /-- ANDI (R64). -/
  | andi (e : Fin 8) (h : Hdr) (f : FmtI)
  /-- ORI (R64). -/
  | ori (e : Fin 8) (h : Hdr) (f : FmtI)
  /-- XORI (R64). -/
  | xori (e : Fin 8) (h : Hdr) (f : FmtI)
  /-- SHLI (R64). -/
  | shli (e : Fin 8) (h : Hdr) (f : FmtI)
  /-- SHRI (R64). -/
  | shri (e : Fin 8) (h : Hdr) (f : FmtI)
  /-- SARI (R64). -/
  | sari (e : Fin 8) (h : Hdr) (f : FmtI)
  /-- CMPI (R66). -/
  | cmpi (e : Fin 8) (h : Hdr) (f : FmtI)
  /-- EXT (R64). -/
  | ext (e : Fin 8) (h : Hdr) (f : FmtI)
  /-- INS (R64). -/
  | ins (e : Fin 8) (h : Hdr) (f : FmtI)
  /-- SATS (R64). -/
  | sats (e : Fin 8) (h : Hdr) (f : FmtI)
  /-- SATU (R64). -/
  | satu (e : Fin 8) (h : Hdr) (f : FmtI)
  /-- AND (R65). -/
  | and (e : Fin 8) (h : Hdr) (f : FmtR)
  /-- OR (R65). -/
  | or (e : Fin 8) (h : Hdr) (f : FmtR)
  /-- XOR (R65). -/
  | xor (e : Fin 8) (h : Hdr) (f : FmtR)
  /-- ANDN (R65). -/
  | andn (e : Fin 8) (h : Hdr) (f : FmtR)
  /-- NOT (R65). -/
  | not (e : Fin 8) (h : Hdr) (f : FmtR)
  /-- SHL (R65). -/
  | shl (e : Fin 8) (h : Hdr) (f : FmtR)
  /-- SHR (R65). -/
  | shr (e : Fin 8) (h : Hdr) (f : FmtR)
  /-- SAR (R65). -/
  | sar (e : Fin 8) (h : Hdr) (f : FmtR)
  /-- ROL (R65). -/
  | rol (e : Fin 8) (h : Hdr) (f : FmtR)
  /-- CLZ (R65). -/
  | clz (e : Fin 8) (h : Hdr) (f : FmtR)
  /-- POPC (R65). -/
  | popc (e : Fin 8) (h : Hdr) (f : FmtR)
  /-- CMP (R66). -/
  | cmp (e : Fin 8) (h : Hdr) (f : FmtR)
  /-- PAND (R66). -/
  | pand (e : Fin 8) (h : Hdr) (f : FmtR)
  /-- POR (R66). -/
  | por (e : Fin 8) (h : Hdr) (f : FmtR)
  /-- PXOR (R66). -/
  | pxor (e : Fin 8) (h : Hdr) (f : FmtR)
  /-- MOV (R67). -/
  | mov (e : Fin 8) (h : Hdr) (f : FmtR)
  /-- SEL (R67). -/
  | sel (e : Fin 8) (h : Hdr) (f : FmtR)
  /-- MFS (R67). -/
  | mfs (e : Fin 8) (h : Hdr) (f : FmtR)
  /-- MOVV (R67). -/
  | movv (e : Fin 8) (h : Hdr) (f : FmtR)
  /-- MOVG (R67). -/
  | movg (e : Fin 8) (h : Hdr) (f : FmtR)
  /-- PTOG (R67). -/
  | ptog (e : Fin 8) (h : Hdr) (f : FmtR)
  /-- LD (R68). -/
  | ld (e : Fin 8) (h : Hdr) (f : FmtM)
  /-- ST (R68). -/
  | st (e : Fin 8) (h : Hdr) (f : FmtM)
  /-- LDV (R68). -/
  | ldv (e : Fin 8) (h : Hdr) (f : FmtM)
  /-- STV (R68). -/
  | stv (e : Fin 8) (h : Hdr) (f : FmtM)
  /-- BLOCK_STORE_ARRIVAL (R50). -/
  | blockStoreArrival (t : Nat) (e : Fin 8) (ph : BusPhase) (ago : Nat)
  /-- LUT (R69). -/
  | lut (e : Fin 8) (h : Hdr) (f : FmtI)
  /-- LUTI (R71). -/
  | luti (e : Fin 8) (h : Hdr) (f : FmtI)
  /-- VADD (R72). -/
  | vadd (e : Fin 8) (h : Hdr) (f : FmtR)
  /-- VSUB (R72). -/
  | vsub (e : Fin 8) (h : Hdr) (f : FmtR)
  /-- VADDS (R72). -/
  | vadds (e : Fin 8) (h : Hdr) (f : FmtR)
  /-- VMUL (R72). -/
  | vmul (e : Fin 8) (h : Hdr) (f : FmtR)
  /-- VMAC (R72). -/
  | vmac (e : Fin 8) (h : Hdr) (f : FmtR)
  /-- VMIN (R72). -/
  | vmin (e : Fin 8) (h : Hdr) (f : FmtR)
  /-- VMAX (R72). -/
  | vmax (e : Fin 8) (h : Hdr) (f : FmtR)
  /-- VSPL (R72). -/
  | vspl (e : Fin 8) (h : Hdr) (f : FmtR)
  /-- VSUM (R72). -/
  | vsum (e : Fin 8) (h : Hdr) (f : FmtR)
  /-- VAND (R72). -/
  | vand (e : Fin 8) (h : Hdr) (f : FmtR)
  /-- VOR (R72). -/
  | vor (e : Fin 8) (h : Hdr) (f : FmtR)
  /-- VXOR (R72). -/
  | vxor (e : Fin 8) (h : Hdr) (f : FmtR)
  /-- VSHL (R72). -/
  | vshl (e : Fin 8) (h : Hdr) (f : FmtR)
  /-- VSHR (R72). -/
  | vshr (e : Fin 8) (h : Hdr) (f : FmtR)
  /-- VSAR (R72). -/
  | vsar (e : Fin 8) (h : Hdr) (f : FmtR)
  /-- VSATS (R72). -/
  | vsats (e : Fin 8) (h : Hdr) (f : FmtR)
  /-- VCMP (R72). -/
  | vcmp (e : Fin 8) (h : Hdr) (f : FmtR)
  /-- VSEL (R72). -/
  | vsel (e : Fin 8) (h : Hdr) (f : FmtR)
  /-- TIME (R77). -/
  | time (e : Fin 8) (h : Hdr) (f : FmtX)
  /-- INREC (R77). -/
  | inrec (e : Fin 8) (h : Hdr) (f : FmtX)
  /-- TOKEN (R77). -/
  | token (e : Fin 8) (h : Hdr) (f : FmtX)
  /-- FENCE (R77). -/
  | fence (e : Fin 8) (h : Hdr) (f : FmtX)
  /-- SPOSE (R144). -/
  | spose (e : Fin 8) (h : Hdr) (f : FmtX)
  /-- SQRY (R78). -/
  | sqry (e : Fin 8) (h : Hdr) (f : FmtX)
  /-- SCRIBE_QUERY_COMPLETE (R155). -/
  | scribeQueryComplete (t : Nat) (ticket : Word)
  /-- SCRIBE_QUERY_TIMEOUT (R159). -/
  | scribeQueryTimeout (t : Nat) (ticket : Word)
  /-- SWAIT (R78). -/
  | swait (e : Fin 8) (h : Hdr) (f : FmtX)
  /-- SMARK (R160). -/
  | smark (e : Fin 8) (h : Hdr) (f : FmtX)
  /-- TBEGIN (R82). -/
  | tbegin (e : Fin 8) (h : Hdr) (f : FmtX)
  /-- TCOMMIT (R82). -/
  | tcommit (e : Fin 8) (h : Hdr) (f : FmtX)
  /-- TROLL (R82). -/
  | troll (e : Fin 8) (h : Hdr) (f : FmtX)
  /-- JPUT (R83). -/
  | jput (e : Fin 8) (h : Hdr) (f : FmtX)
  /-- JSYNC (R83). -/
  | jsync (e : Fin 8) (h : Hdr) (f : FmtX)
  /-- JSYNC_TIMEOUT (R83). -/
  | jsyncTimeout (t : Nat) (e : Fin 8)
  /-- CHK (R84). -/
  | chk (e : Fin 8) (h : Hdr) (f : FmtX)
  /-- FAULT (R84). -/
  | fault (e : Fin 8) (h : Hdr) (f : FmtX)
  /-- BKPT (R84). -/
  | bkpt (e : Fin 8) (h : Hdr) (f : FmtX)
  /-- BE_RST (R90). -/
  | beRst (t : Nat)
  /-- REHASH_COMPLETE (R90). -/
  | rehashComplete (e : Fin 8)
  /-- VERIFY (R99). -/
  | verify (t : Nat)
  /-- VERIFY_COMPLETE (R99). -/
  | verifyComplete
  /-- BEGIN (R118). -/
  | begin (t : Nat)
  /-- COMMIT (R121). -/
  | commit (t : Nat)
  /-- ROLLBACK (R125). -/
  | rollback (t : Nat)
  /-- COMMIT_CHECK_COMPLETE (R121). -/
  | commitCheckComplete (t : Nat)
  /-- TX_REGISTER_WRITE (R120). -/
  | txRegisterWrite (t : Nat)
  /-- TRANSACTION_TIMEOUT (R127). -/
  | transactionTimeout
  /-- SCHED_CTRL_RESTART (R116). -/
  | schedCtrlRestart (t : Nat)
  /-- GAUGE_MEASUREMENT (R166). -/
  | gaugeMeasurement (t : Nat) (c : Fin 108) (samples : List (BitVec 16))
  /-- GAUGE_MISS (R167). -/
  | gaugeMiss (t : Nat) (c : Fin 108) (samples : List (BitVec 16))
  /-- ADC_TRIGGER (R184). -/
  | adcTrigger (t : Nat) (trg : Fin 16)
  /-- ADC_SWTRG (R184). -/
  | adcSwtrg (t : Nat)
  /-- ADC_CONVERSION_COMPLETE (R189). -/
  | adcConversionComplete (t : Nat) (b : Bool) (codes : List (BitVec 16))
  /-- ADC_REFERENCE_CHECK (R188). -/
  | adcReferenceCheck (t : Nat) (b : Bool) (code : BitVec 16)
  /-- ADC_SHUNT_OPEN (R183). -/
  | adcShuntOpen (t : Nat) (i : Fin 32)
  /-- ADC_SHUNT (R183). -/
  | adcShunt (t : Nat)
  /-- PERIOD_BOUNDARY (R203). -/
  | periodBoundary (t : Nat) (c : Fin 192)
  /-- COMPARE_MATCH (R205). -/
  | compareMatch (t : Nat) (c : Fin 192) (b : Bool)
  /-- SYNC_EVENT (R209). -/
  | syncEvent (t : Nat) (u : Fin 24)
  /-- SYNCIN_EDGE (R208). -/
  | syncinEdge (t : Nat) (i : Fin 2)
  /-- DEAD_TIME_WAIT_END (R212). -/
  | deadTimeWaitEnd (c : Timed (Fin 64)) (tout : Bool)
  /-- FAULT_PIN (R216). -/
  | faultPin (t : Nat) (n : Fin 16)
  /-- FLATCH_CLEAR (R218). -/
  | flatchClear (t : Nat)
  /-- UNIT_ENABLE (R219). -/
  | unitEnable (t : Nat)
  /-- UNIT_DISABLE (R219). -/
  | unitDisable (t : Nat)
  /-- CHANNEL_COMMAND_EFFECT (R226). -/
  | channelCommandEffect (c : Fin 108)
  /-- DIN_EDGE (R227). -/
  | dinEdge (t : Nat) (n : Fin 16) (level : Bool)
  /-- FRAME_VALUE_SAMPLE (R232). -/
  | frameValueSample (chs : List ChSample) (banks : List (BitVec 16))
  /-- OFF_STATE_DETECTION (R234). -/
  | offStateDetection (t : Nat) (c : Fin 108) (above : Bool)
  /-- CURRENT_LIMIT_TIMEOUT (R236). -/
  | currentLimitTimeout (t : Nat) (c : Fin 108)
  /-- THERMAL_SHUTDOWN (R236). -/
  | thermalShutdown (t : Nat) (c : Fin 108)
  /-- TLATCH_RELEASE (R237). -/
  | tlatchRelease (t : Nat) (c : Fin 108)
  /-- RETRY_TIMER_EXPIRY (R238). -/
  | retryTimerExpiry (t : Nat) (c : Fin 108)
  /-- STABLE_ON_EXPIRY (R238). -/
  | stableOnExpiry (c : Timed (Fin 108))
  /-- LOCK_CLEAR (R239). -/
  | lockClear (t : Nat)
  /-- ISOLATOR_CLOSE_COMPLETE (R240). -/
  | isolatorCloseComplete (t : Nat) (b : Fin 12)
  /-- ISOLATOR_FAULT (R242). -/
  | isolatorFault (t : Nat) (b : Fin 12) (disagree : Bool)
  /-- BANK_SUPPLY_STATE_CHANGE (R243). -/
  | bankSupplyStateChange (t : Nat) (b : Fin 12) (st : BankSupply)
  /-- LSW_WDTOK (R244). -/
  | lswWdtok (t : Nat)
  /-- WDEXP_CLEAR (R246). -/
  | wdexpClear (t : Nat)
  /-- SETPOINT_TIMEOUT (R264). -/
  | setpointTimeout (a : Fin 16)
  /-- STOP_CONTROLLED (R266). -/
  | stopControlled (t : Nat)
  /-- STOP_IMMEDIATE (R266). -/
  | stopImmediate (t : Nat)
  /-- STALL_DETECTED (R271). -/
  | stallDetected (t : Nat) (a : Fin 8)
  /-- REFERENCE_LATCH (R273). -/
  | referenceLatch (t : Nat) (a : Fin 16)
  /-- PORT_FAULT (R274). -/
  | portFault (t : Nat) (p : Fin 8) (flags : BitVec 8)
  /-- FEEDBACK_EDGE (R275). -/
  | feedbackEdge (x : Timed Nat) (n : Fin 24) (a b z : Bool)
  /-- INDEX_PULSE (R278). -/
  | indexPulse (t : Nat) (n : Fin 24)
  /-- PERIOD_STALE (R279). -/
  | periodStale (n : Timed (Fin 24))
  /-- FREQUENCY_GATE_END (R279). -/
  | frequencyGateEnd (n : Fin 24)
  /-- SINCOS_AMPLITUDE_FAULT (R282). -/
  | sincosAmplitudeFault (t : Nat) (p : Fin 8)
  /-- ANTENNA_BIAS_SHORT (R289). -/
  | antennaBiasShort (t : Nat) (a : Fin 3)
  /-- BIAS_RETRY (R289). -/
  | biasRetry (a : Fin 3)
  /-- ANTENNA_OPEN (R289). -/
  | antennaOpen (t : Nat) (a : Fin 3) (below : Bool)
  /-- SIGNAL_FOUND (R294). -/
  | signalFound (x : Timed GFind)
  /-- CODE_CARRIER_LOCK (R294). -/
  | codeCarrierLock (t : Nat) (x : GLock)
  /-- PULLIN_TIMEOUT (R294). -/
  | pullinTimeout (n : Timed (Fin 288))
  /-- SIGNAL_LOSS (R294). -/
  | signalLoss (n : Timed (Fin 288))
  /-- REACQ_TIMEOUT (R294). -/
  | reacqTimeout (n : Timed (Fin 288))
  /-- EPOCH (R297). -/
  | epoch (t : Nat) (ms : List GMeas) (cn0 : List (BitVec 16))
  /-- EPOCH_RECORD_COMPLETE (R301). -/
  | epochRecordComplete (t : Nat)
  /-- SYMBOL_WORD (R302). -/
  | symbolWord (t : Nat) (n : Fin 288) (back : Nat) (symbols : BitVec 32)
  /-- BURST_START (R303). -/
  | burstStart
  /-- BURST_END (R303). -/
  | burstEnd
  /-- GNS_STEER_FR (R305). -/
  | gnsSteerFr (t : Nat)
  /-- GNS_STEER_PH (R307). -/
  | gnsSteerPh (t : Nat)
  /-- GNS_STEER_STEP (R307). -/
  | gnsSteerStep (t : Nat)
  /-- PENDING_STEP_APPLY (R307). -/
  | pendingStepApply (t : Nat)
  /-- SLEW_COMPLETE (R307). -/
  | slewComplete (t : Nat)
  /-- GNS_TSET_S (R305). -/
  | gnsTsetS (t : Nat)
  /-- HOLDTO_EXPIRY (R306). -/
  | holdtoExpiry (t : Nat)
  /-- UNC_OVER (R308). -/
  | uncOver (t : Nat)
  /-- TPULSE (R309). -/
  | tpulse (t : Nat)
  /-- IMU_TEST (R313). -/
  | imuTest (t : Nat)
  /-- IMU_SELF_TEST_COMPLETE (R313). -/
  | imuSelfTestComplete (t : Nat) (passed : Bool)
  /-- IMU_FAULT (R313). -/
  | imuFault (t : Nat)
  /-- FRAME_RECEIVED (R328). -/
  | frameReceived (t : Nat) (n : Fin 4) (f : CanFrame) (ago : Nat)
  /-- BUS_QACK (R329). -/
  | busQack (t : Nat)
  /-- BUS_TXREQ (R332). -/
  | busTxreq (t : Nat)
  /-- TXAT_REACHED (R332). -/
  | txatReached (t : Nat) (n : Fin 4) (k : Fin 64)
  /-- BUS_TXCAN (R334). -/
  | busTxcan (t : Nat) (ph : BusPhase) (ago : Nat)
  /-- TRANSMISSION_COMPLETE (R335). -/
  | transmissionComplete (t : Nat) (n : Fin 4) (ago : Nat)
  /-- TRANSMISSION_ERROR (R338). -/
  | transmissionError (t : Nat) (n : Fin 4) (ago : Nat) (lec : Fin 8) (dom arb : Bool) (place : TxPlace)
  /-- BUS_OFF_RECOVERY (R338). -/
  | busOffRecovery (n : Fin 4)
  /-- BUS_CMD_RESTART (R338). -/
  | busCmdRestart (t : Nat)
  /-- REFERENCE_MESSAGE (R341). -/
  | referenceMessage (n : Fin 4)
  /-- REFERENCE_MISSING (R342). -/
  | referenceMissing (n : Fin 4)
  /-- DOMINANT_TIMEOUT (R321). -/
  | dominantTimeout (t : Nat) (n : Fin 4)
  /-- LOW_HALF_WRITE (R355). -/
  | lowHalfWrite (t : Nat) (a : BitVec 24) (v : BitVec 16)
  /-- HIGH_HALF_WRITE (R355). -/
  | highHalfWrite (t : Nat) (a : BitVec 24) (v : BitVec 16)
  /-- REGISTER_WRITE (R23). -/
  | registerWrite (t : Nat)
  /-- LOW_HALF_READ (R354). -/
  | lowHalfRead (a : BitVec 24)
  /-- HIGH_HALF_READ (R354). -/
  | highHalfRead (a : BitVec 24)
  /-- RC_READ (R360). -/
  | rcRead (a : BitVec 24) (high : Bool)
  /-- PAGE_HEADER_READ (R366). -/
  | pageHeaderRead (p : Fin 64)
  /-- PUBLISH (R364). -/
  | publish (t : Nat)
  /-- PAGE_COPY_COMPLETE (R364). -/
  | pageCopyComplete (t : Nat) (p : Fin 64)
  /-- STREAM_GO (R370). -/
  | streamGo (t : Nat)
  /-- STREAM_STOP (R370). -/
  | streamStop (t : Nat)
  /-- STREAM_READ (R371). -/
  | streamRead
  /-- STREAM_WRITE (R372). -/
  | streamWrite (v : BitVec 16)
  /-- TRUSS_BLOCK_RECEIVED (R382). -/
  | trussBlockReceived (t : Nat) (n : Nat) (ok : Bool) (c : TrussContent)
  /-- LINK_LOSS (R382). -/
  | linkLoss (t : Nat)
  /-- SKEW_FAULT (R384). -/
  | skewFault (t : Nat) (skew : BitVec 16)
  /-- KILL_INPUT (R390). -/
  | killInput (t : Nat) (on : Bool)
  /-- KILL_LINE_FAULT (R389). -/
  | killLineFault (t : Nat)
  /-- TRU_KILL_ASSERT (R389). -/
  | truKillAssert (t : Nat)
  /-- TRU_KILL_RELEASE (R389). -/
  | truKillRelease (t : Nat)
  /-- SCARF_GO (R392). -/
  | scarfGo (t : Nat)
  /-- SCARF_PHASE_COMPLETE (R392). -/
  | scarfPhaseComplete (t : Nat) (frame : BitVec 48) (items : List ScarfItem)
  /-- PROBATION_END (R392). -/
  | probationEnd (t : Nat) (iso : BitVec 12)
  /-- JOURNAL_WRITE_COMPLETE (R397). -/
  | journalWriteComplete (t : Nat)
  /-- JOURNAL_CONFIRMATION (R397). -/
  | journalConfirmation (t : Nat) (seq : BitVec 64) (crc : Word)
  /-- MARK_DRAIN (R400). -/
  | markDrain
  /-- REPLAY (R401). -/
  | replay (t : Nat)
  /-- NEXT (R401). -/
  | next (t : Nat)
  /-- FAULT_RAISE (R409). -/
  | faultRaise (t : Nat) (src : Fin 512) (on : Bool) (det : Word) (val : Word) (tag : Byte) (addr : Word)
  /-- QUIET_PERIOD_EXPIRY (R415). -/
  | quietPeriodExpiry (t : Nat)
  /-- RECOVERY_DECAY (R417). -/
  | recoveryDecay
  /-- CLEAR (R415). -/
  | clear (t : Nat)
  /-- RCLR (R417). -/
  | rclr (t : Nat)
  /-- INJECTION_ARM (R418). -/
  | injectionArm (t : Nat)
  /-- INJECTION_FIRE (R418). -/
  | injectionFire
  /-- RECORD_WRITE_COMPLETE (R423). -/
  | recordWriteComplete
  /-- CHECKPOINT_SIGNED (R422). -/
  | checkpointSigned (t : Nat) (k : BitVec 256)
  /-- SUMMARY_DUE (R424). -/
  | summaryDue (code : Fin 1024)
  /-- REC_SWCODE (R426). -/
  | recSwcode (t : Nat)
  /-- REC_FREEZE (R427). -/
  | recFreeze (t : Nat)
  /-- REC_RELEASE (R427). -/
  | recRelease (t : Nat)
  /-- FREEZE_TIMEOUT (R427). -/
  | freezeTimeout
  /-- KEY_ENROL (R441). -/
  | keyEnrol (t : Nat) (stored : Bool)
  /-- KEY_REVOKE (R441). -/
  | keyRevoke (t : Nat) (stored : Bool)
  /-- LOAD_MESSAGE_KEY (R443). -/
  | loadMessageKey (t : Nat) (stored : Bool)
  /-- LOAD_HOST_KEY (R441). -/
  | loadHostKey (t : Nat) (stored : Bool)
  /-- RAISE_ROLLBACK (R441). -/
  | raiseRollback (t : Nat) (stored : Bool)
  /-- RELEASE_OWNERSHIP (R445). -/
  | releaseOwnership (t : Nat) (stored : Bool)
  /-- GRANT (R453). -/
  | grant (t : Nat) (stored : Bool)
  /-- SET_POLICY (R441). -/
  | setPolicy (t : Nat) (stored : Bool)
  /-- KEY_COMMAND_COMPLETE (R442). -/
  | keyCommandComplete
  /-- ATTESTATION (R446). -/
  | attestation (t : Nat)
  /-- REPORT_COMPLETE (R446). -/
  | reportComplete (t : Nat) (k : BitVec 256)
  /-- HOST_COMMAND (R450). -/
  | hostCommand (t : Nat) (ph : BusPhase) (ago : Nat)
  /-- REVOKE (R454). -/
  | revoke (t : Nat)
  /-- GRANT_EXPIRY (R454). -/
  | grantExpiry
  /-- REQUEST_BOOT (R467). -/
  | requestBoot (t : Nat)
  /-- REQUEST_IDLE (R467). -/
  | requestIdle (t : Nat)
  /-- REQUEST_RUN (R467). -/
  | requestRun (t : Nat)
  /-- REQUEST_SERVICE (R467). -/
  | requestService (t : Nat)
  /-- REQUEST_SILL (R467). -/
  | requestSill (t : Nat)
  /-- IGN_CHANGE (R474). -/
  | ignChange (active : Bool)
  /-- IGN_DEBOUNCE_EXPIRY (R472). -/
  | ignDebounceExpiry
  /-- WAKE_UP_PATTERN (R472). -/
  | wakeUpPattern
  /-- WAKE_TIMER_EXPIRY (R472). -/
  | wakeTimerExpiry
  /-- KEY_OFF_TIMEOUT (R473). -/
  | keyOffTimeout (t : Nat)
  /-- POWER_ON_RESET (R475). -/
  | powerOnReset (ign hsync tside : Bool)
  /-- SYS_RST (R475). -/
  | sysRst (t : Nat)
  /-- BOOT_COMPLETE (R465). -/
  | bootComplete (t : Nat) (r : BootReport)
  /-- OPERATING_TIME_ADVANCE (R471). -/
  | operatingTimeAdvance
  /-- SILL_SAVE (R471). -/
  | sillSave
  /-- REFCLK_LOSS (R481). -/
  | refclkLoss (t : Nat)
  /-- REFCLK_RETURN (R481). -/
  | refclkReturn (t : Nat) (r25 : Bool)
  /-- OSCILLATOR_FAIL (R481). -/
  | oscillatorFail (t : Nat)
  /-- PLL_UNLOCK (R481). -/
  | pllUnlock (t : Nat) (p : Pll)
  /-- SILL_OSCILLATOR_FAULT (R486). -/
  | sillOscillatorFault (t : Nat)
  /-- FREEZE_PIN (R482). -/
  | freezePin (t : Nat)
  /-- FREEZE_RELEASE (R483). -/
  | freezeRelease
  /-- EXTEST (R484). -/
  | extest (captured cells : List Bool)
  /-- IDCODE (R484). -/
  | idcode
  /-- SAMPLE_PRELOAD (R484). -/
  | samplePreload (captured cells : List Bool)
  /-- BYPASS (R484). -/
  | bypass
  /-- FRZ_ENTER (R482). -/
  | frzEnter (t : Nat)
  /-- FRZ_RESUME (R483). -/
  | frzResume
  /-- DBG_SEL (R485). -/
  | dbgSel (v : BitVec 36)
  /-- DBG_READ (R485). -/
  | dbgRead
  /-- FEED_STATE_CHANGE (R491). -/
  | feedStateChange (t : Nat) (second : Bool) (st : FeedState) (v1 v2 : BitVec 16)
  /-- POWER_FAIL (R496). -/
  | powerFail (t : Nat) (drained : Bool)
  /-- HOLD_FAULT (R495). -/
  | holdFault (t : Nat) (v : BitVec 16)
  /-- VIO_FAULT (R493). -/
  | vioFault (t : Nat) (g : Bool) (v : BitVec 16)
  /-- VIO_RECOVERY (R493). -/
  | vioRecovery (t : Nat) (g : Bool)
  /-- TEMPERATURE_POINT_FAIL (R500). -/
  | temperaturePointFail (t : Nat) (p : PointFail)
  /-- TEMPERATURE_WARNING (R501). -/
  | temperatureWarning (t : Nat) (d : Option (Fin 3)) (x : List (BitVec 16))
  /-- CONTROL_DIE_OVERTEMP (R501). -/
  | controlDieOvertemp (t : Nat) (x : List (BitVec 16))
  /-- DIE_LINK_BLOCK (R15). -/
  | dieLinkBlock (t : Nat) (die : Fin 3) (chs : List (Fin 108)) (ok : Bool)
  /-- PLL_RELOCK (R481). -/
  | pllRelock (t : Nat) (bus : Bool)
  /-- ISOLATOR_OPEN_COMPLETE (R240). -/
  | isolatorOpenComplete (t : Nat) (b : Fin 12)
  /-- INRUSH_END (R230). -/
  | inrushEnd (c : Timed (Fin 108))
  /-- HOLD_CURRENT_SWITCH (R270). -/
  | holdCurrentSwitch (a : Timed (Fin 8))
  /-- STEP_PULSE (R268). -/
  | stepPulse (t : Nat) (a : Fin 16)
  /-- COIL_CURRENT_SAMPLE (R270). -/
  | coilCurrentSample (t : Nat) (p : Fin 8) (ia ib : BitVec 16) (vm : BitVec 16)
  /-- DUTY_EDGE (R199). -/
  | dutyEdge (t : Nat) (c : Fin 192)
  /-- FAULT_PIN_RELEASE (R216). -/
  | faultPinRelease (n : Fin 16)
  /-- PORT_CONDITION_END (R274). -/
  | portConditionEnd (p : Fin 8)
  /-- TEMPERATURE_RELEASE (R501). -/
  | temperatureRelease (t : Nat) (x : Samples (Fin 3))
  /-- HOLD_CHARGED (R495). -/
  | holdCharged (t : Nat)
  /-- TRUSS_LINK_UP (R383). -/
  | trussLinkUp (t : Nat) (j : Joiner)
  /-- ARBITRATION_LOST (R334). -/
  | arbitrationLost (t : Nat) (n : Fin 4) (ago : Nat) (ide : Bool) (id : BitVec 29)
  /-- RECEIVE_ERROR (R338). -/
  | receiveError (t : Nat) (n : Fin 4) (lec : Fin 8) (eight : Bool)
  /-- CARRIER_LOCK_LOSS (R300). -/
  | carrierLockLoss (n : Fin 288)
  /-- SECONDARY_CODE_SYNC (R302). -/
  | secondaryCodeSync (n : Fin 288)
  /-- SINCOS_SAMPLE (R281). -/
  | sincosSample (t : Nat) (p : Fin 8) (sin cos : BitVec 16)
  /-- IMU_SAMPLES_RESUME (R313). -/
  | imuSamplesResume
  /-- TEST_LOGIC_RESET (R484). -/
  | testLogicReset
  deriving DecidableEq, Repr

end Sys2Proof
end

