-- ==== Sys2Proof/Decode.lean ====
section
/-! DEFINITION. The commands that words spell. The opcode table gives no row any bits: a command reaches the block by the queue of the state, and no
word spells one. -/
namespace Sys2Proof

/-- The command that `nbits` bits of value `w` spell by the opcode table: none, because no row has bits. -/
def decodeTableWord (_nbits _w : Nat) : Option Instr := none

end Sys2Proof
end

