-- ==== Sys2Proof/Machine/Bits.lean ====
section
/-! DEFINITION. Bit fields, signed readings, saturation and byte order (R5, R9): the helpers every chapter's arithmetic uses. -/
namespace Sys2Proof.Machine

/-- Bits `lo + n - 1 : lo` of a word, as a number. -/
def fld (w : Word) (lo n : Nat) : Nat := w.toNat / 2 ^ lo % 2 ^ n

/-- Word `w` with bits `lo + n - 1 : lo` replaced by `v` (taken modulo the width of the field). -/
def put (w : Word) (lo n v : Nat) : Word :=
  let mask : Word := BitVec.ofNat 32 ((2 ^ n - 1) * 2 ^ lo)
  (w &&& ~~~mask) ||| (BitVec.ofNat 32 ((v % 2 ^ n) * 2 ^ lo))

/-- Bit `i` of a word. -/
def bit (w : Word) (i : Nat) : Bool := w.getLsbD i

/-- A field of width `n` that counts and stays at its highest value (a saturating count). -/
def satAdd (n v k : Nat) : Nat := min (v + k) (2 ^ n - 1)

/-- The two's-complement reading of the low `n` bits of a number. -/
def signed (n v : Nat) : Int :=
  let m := v % 2 ^ n
  if 2 ^ (n - 1) ≤ m then (m : Int) - (2 ^ n : Nat) else m

/-- The 32-bit pattern of an integer, modulo 2^32. -/
def wrap (i : Int) : Word := BitVec.ofInt 32 i

/-- An integer held to `lo .. hi`. -/
def clampI (lo hi i : Int) : Int := if i < lo then lo else if hi < i then hi else i

/-- Signed saturation to 32 bits. -/
def satS (i : Int) : Word := wrap (clampI (-2147483648) 2147483647 i)

/-- One bit as a number. -/
def b2n (b : Bool) : Nat := if b then 1 else 0

/-- One bit as a word. -/
def b2w (b : Bool) : Word := if b then 1#32 else 0#32

/-- Floor of the square root: the greatest `r` with `r * r ≤ n`, by bits from `k - 1` down. -/
def isqrtGo (n : Nat) : Nat → Nat → Nat
  | 0, r => r
  | k + 1, r =>
    let c := r + 2 ^ k
    isqrtGo n k (if c * c ≤ n then c else r)

/-- Floor of the square root of `n`, for `n` below 2^128. -/
def isqrt (n : Nat) : Nat := isqrtGo n 64 0

/-- The four bytes of a word, lowest address first (R5). -/
def bytesOf (w : Word) : List Byte :=
  [w.extractLsb' 0 8, w.extractLsb' 8 8, w.extractLsb' 16 8, w.extractLsb' 24 8]

/-- The word of four bytes, lowest address first (R5). -/
def wordOf (b0 b1 b2 b3 : Byte) : Word := b3 ++ b2 ++ b1 ++ b0

/-- The words of a byte string, little-endian; a last part of fewer than four bytes is filled with zero bytes. -/
def wordsOf : List Byte → List Word
  | a :: b :: c :: d :: r => wordOf a b c d :: wordsOf r
  | [] => []
  | [a] => [wordOf a 0 0 0]
  | [a, b] => [wordOf a b 0 0]
  | [a, b, c] => [wordOf a b c 0]

/-- The bytes of a run of words, little-endian. -/
def bytesOfWords (ws : List Word) : List Byte := ws.flatMap bytesOf

/-- One bit-step of the reflected CRC-32C division (polynomial 0x1EDC6F41, reflected 0x82F63B78). -/
def crcBit (c : Word) : Word :=
  if c.getLsbD 0 then (c >>> 1) ^^^ 0x82F63B78#32 else c >>> 1

/-- One byte of CRC-32C. -/
def crcByte (c : Word) (b : Byte) : Word :=
  crcBit (crcBit (crcBit (crcBit (crcBit (crcBit (crcBit (crcBit (c ^^^ b.zeroExtend 32))))))))

/-- CRC-32C of a byte string, with initial value and final inversion of all ones. PRESUMED (log entry 3): the spec names
CRC-32C and gives neither its polynomial nor its bit order; these are those of the Castagnoli code. -/
def crc32c (bs : List Byte) : Word := ~~~(bs.foldl crcByte 0xFFFFFFFF#32)

end Sys2Proof.Machine
end

