-- ==== Sys2Proof/Config.lean ====
section
/-! DEFINITION. What the spec leaves open. Every constant here is opaque: it has no body, so no proof can rest on a value
of it, and a statement that mentions one holds whatever it is. Each is named in a log entry. -/
namespace Sys2Proof.Config

/-- A fresh free number; the state's counter `free` says which (log entry 2). -/
opaque freeNat : Nat → Nat

/-- How a position or velocity that lies between two units is rounded where a profile is sampled (R261, log entry 6): by how many units it
lies off the nearest, which the model holds to one. -/
opaque axisRound : Int → Int

/-- The load angle of a stepper port that has no current, no back-EMF or no direction of motion (R271, log entry 6). -/
opaque loadAngle : List Int → BitVec 16

/-- The coil voltage fraction of the current controller, as a duty in ns (R270, log entry 6). -/
opaque coilDuty : List Int → Nat

/-- Whether an angle that lies between two values of 1/65,536 turn takes the upper (R271, R281), and the angle of the vector 0: the spec gives
neither (log entry 6). -/
opaque angleUp : Int → Int → Bool
opaque angleOfZero : BitVec 16

/-- How far VALUE of a converter result lies from code × full scale ÷ 65,536, in µV or nA, for its input, its range and its mean code: the
factory trim of R189 is not given, and R182 bounds it (log entry 13). -/
opaque adcTrim : Nat → Nat → Nat → Int

/-- The identity private key that the device generated at its first BOOT from its random generator (R433, log entry 4). -/
opaque identityKey : Nat

/-- The bytes of an input record in shared frame memory, and where the record of a frame begins there: the spec gives an input
record's items and no layout (log entry 7). -/
opaque recordBytes : List (Nat × List Nat) → List Byte
opaque recordSlot : Nat → Nat

/-- How far Scribe's predicted ground point and speed lie from the exact value for given operands (R151): the spec bounds them and gives no
arithmetic (log entry 24). -/
opaque scribeDev : List Int → Int × Int × Int

/-- The length and the bytes of the certificate that Narfeim writes over the identity public key and the serial, given here in that order (R433,
R434, log entry 32). -/
opaque certLength : List Byte → Nat
opaque certByte : List Byte → Nat → Byte

/-- Narfeim's manufacturer identity in the IDCODE, as the BSDL file gives it (R484, log entry 33). -/
opaque maker : BitVec 11

end Sys2Proof.Config
end

