-- ==== Sys2Proof/Machine/Crypto.lean ====
section
/-! DEFINITION. The algorithms the spec names and does not write out: SHA-256, AES-128 with its CMAC and key wrap, ECDSA and ECDH on
P-256 (R94, R343, R422, R433, R443, R449). PRESUMED (log entry 4): they are those of FIPS 180-4, FIPS 197, SP 800-38B, RFC 3394 and
SEC 1, which the spec cites by name. -/
namespace Sys2Proof.Machine

/-! ### SHA-256 -/

/-- The round constants. -/
def shaK : List Word :=
  [0x428a2f98#32, 0x71374491#32, 0xb5c0fbcf#32, 0xe9b5dba5#32, 0x3956c25b#32, 0x59f111f1#32, 0x923f82a4#32, 0xab1c5ed5#32] ++
  [0xd807aa98#32, 0x12835b01#32, 0x243185be#32, 0x550c7dc3#32, 0x72be5d74#32, 0x80deb1fe#32, 0x9bdc06a7#32, 0xc19bf174#32] ++
  [0xe49b69c1#32, 0xefbe4786#32, 0x0fc19dc6#32, 0x240ca1cc#32, 0x2de92c6f#32, 0x4a7484aa#32, 0x5cb0a9dc#32, 0x76f988da#32] ++
  [0x983e5152#32, 0xa831c66d#32, 0xb00327c8#32, 0xbf597fc7#32, 0xc6e00bf3#32, 0xd5a79147#32, 0x06ca6351#32, 0x14292967#32] ++
  [0x27b70a85#32, 0x2e1b2138#32, 0x4d2c6dfc#32, 0x53380d13#32, 0x650a7354#32, 0x766a0abb#32, 0x81c2c92e#32, 0x92722c85#32] ++
  [0xa2bfe8a1#32, 0xa81a664b#32, 0xc24b8b70#32, 0xc76c51a3#32, 0xd192e819#32, 0xd6990624#32, 0xf40e3585#32, 0x106aa070#32] ++
  [0x19a4c116#32, 0x1e376c08#32, 0x2748774c#32, 0x34b0bcb5#32, 0x391c0cb3#32, 0x4ed8aa4a#32, 0x5b9cca4f#32, 0x682e6ff3#32] ++
  [0x748f82ee#32, 0x78a5636f#32, 0x84c87814#32, 0x8cc70208#32, 0x90befffa#32, 0xa4506ceb#32, 0xbef9a3f7#32, 0xc67178f2#32]

/-- The initial hash value. -/
def shaInit : List Word := [0x6a09e667#32, 0xbb67ae85#32, 0x3c6ef372#32, 0xa54ff53a#32,
  0x510e527f#32, 0x9b05688c#32, 0x1f83d9ab#32, 0x5be0cd19#32]

/-- The message schedule, newest word first: `n` more words after those given. -/
def shaExpand : Nat → List Word → List Word
  | 0, w => w.reverse
  | n + 1, w =>
    let a := w.getD 1 0
    let b := w.getD 14 0
    let s1 := a.rotateRight 17 ^^^ a.rotateRight 19 ^^^ (a >>> 10)
    let s0 := b.rotateRight 7 ^^^ b.rotateRight 18 ^^^ (b >>> 3)
    shaExpand n ((s1 + w.getD 6 0 + s0 + w.getD 15 0) :: w)

/-- One round over the eight working words. -/
def shaRound (v : List Word) (kw : Word × Word) : List Word :=
  match v with
  | [a, b, c, d, e, f, g, h] =>
    let t1 := h + (e.rotateRight 6 ^^^ e.rotateRight 11 ^^^ e.rotateRight 25) + ((e &&& f) ^^^ (~~~e &&& g)) + kw.1 + kw.2
    let t2 := (a.rotateRight 2 ^^^ a.rotateRight 13 ^^^ a.rotateRight 22) + ((a &&& b) ^^^ (a &&& c) ^^^ (b &&& c))
    [t1 + t2, a, b, c, d + t1, e, f, g]
  | other => other

/-- Four bytes, most significant first. -/
def beWord (l : List Byte) : Word := wordOf (l.getD 3 0) (l.getD 2 0) (l.getD 1 0) (l.getD 0 0)

/-- One 64-byte block. -/
def shaBlock (h : List Word) (block : List Byte) : List Word :=
  let w := shaExpand 48 (((List.range 16).map fun i => beWord (block.drop (4 * i))).reverse)
  List.zipWith (· + ·) h ((shaK.zip w).foldl shaRound h)

/-- The bytes of a number, most significant first, in `n` bytes. -/
def beBytes (n v : Nat) : List Byte := (List.range n).map fun i => BitVec.ofNat 8 (v / 2 ^ (8 * (n - 1 - i)))

/-- The number of a byte string, most significant byte first. -/
def beNat (bs : List Byte) : Nat := bs.foldl (fun a b => a * 256 + b.toNat) 0

/-- SHA-256 of a byte string: 32 bytes. -/
def sha256 (msg : List Byte) : List Byte :=
  let n := msg.length
  let padded := msg ++ [0x80#8] ++ List.replicate ((119 - n % 64) % 64) 0#8 ++ beBytes 8 (8 * n)
  let h := (List.range (padded.length / 64)).foldl (fun h i => shaBlock h ((padded.drop (64 * i)).take 64)) shaInit
  beBytes 32 (h.foldl (fun a w => a * 2 ^ 32 + w.toNat) 0)

/-! ### AES-128 -/

/-- Doubling in the field of 256 elements. -/
def gfDouble (a : Byte) : Byte := (a <<< 1) ^^^ (if a.getLsbD 7 then 0x1B#8 else 0#8)

/-- The product of two field elements, over the `n` low bits of the second. -/
def gfMul : Nat → Byte → Byte → Byte
  | 0, _, _ => 0
  | n + 1, a, b => (if b.getLsbD 0 then a else 0#8) ^^^ gfMul n (gfDouble a) (b >>> 1)

/-- The inverse of a field element, its 254th power; 0 for 0. -/
def gfInv (a : Byte) : Byte :=
  let sq (x : Byte) := gfMul 8 x x
  let a2 := sq a
  let a4 := sq a2
  let a8 := sq a4
  let a16 := sq a8
  let a32 := sq a16
  let a64 := sq a32
  [a4, a8, a16, a32, a64, sq a64].foldl (gfMul 8) a2

/-- The substitution of a byte, and its inverse. -/
def aesSub (a : Byte) : Byte :=
  let b := gfInv a
  b ^^^ b.rotateLeft 1 ^^^ b.rotateLeft 2 ^^^ b.rotateLeft 3 ^^^ b.rotateLeft 4 ^^^ 0x63#8
def aesUnsub (a : Byte) : Byte := gfInv (a.rotateLeft 1 ^^^ a.rotateLeft 3 ^^^ a.rotateLeft 6 ^^^ 0x05#8)

/-- The bytes of two strings combined. -/
def xorBytes (a b : List Byte) : List Byte := List.zipWith (· ^^^ ·) a b

/-- The round keys, newest first: `n` more after those given. -/
def aesKeys : Nat → Byte → List (List Byte) → List (List Byte)
  | 0, _, ks => ks
  | n + 1, rcon, ks =>
    let k := ks.headD []
    let t := ([13, 14, 15, 12] : List Nat).map fun i => aesSub (k.getD i 0)
    let w0 := xorBytes (k.take 4) (xorBytes t [rcon, 0, 0, 0])
    let w1 := xorBytes ((k.drop 4).take 4) w0
    let w2 := xorBytes ((k.drop 8).take 4) w1
    aesKeys n (gfDouble rcon) ((w0 ++ w1 ++ w2 ++ xorBytes (k.drop 12) w2) :: ks)

/-- The eleven round keys of a key, last first. -/
def aesSchedule (key : List Byte) : List (List Byte) := aesKeys 10 1 [key]

/-- Rows moved by `k` columns per row number. -/
def aesShift (k : Nat) (x : List Byte) : List Byte := (List.range 16).map fun i => x.getD ((i % 4 + 4 * (i / 4 + k * (i % 4))) % 16) 0

/-- Columns multiplied by the circulant matrix whose first row is given. -/
def aesMix (row : List Byte) (x : List Byte) : List Byte :=
  (List.range 16).map fun i =>
    ((List.range 4).map fun j => gfMul 8 (x.getD (4 * (i / 4) + j) 0) (row.getD ((j + 4 - i % 4) % 4) 0)).foldl (· ^^^ ·) 0

/-- AES-128 encryption of one block. -/
def aesEncrypt (key x : List Byte) : List Byte :=
  let ks := (aesSchedule key).reverse
  let mid := ((ks.drop 1).take 9).foldl (fun st k => xorBytes (aesMix [2, 3, 1, 1] (aesShift 1 (st.map aesSub))) k) (xorBytes x (ks.getD 0 []))
  xorBytes (aesShift 1 (mid.map aesSub)) (ks.getD 10 [])

/-- AES-128 decryption of one block. -/
def aesDecrypt (key x : List Byte) : List Byte :=
  let ks := aesSchedule key
  let back (st : List Byte) : List Byte := (aesShift 3 st).map aesUnsub
  let mid := ((ks.drop 1).take 9).foldl (fun st k => aesMix [14, 11, 13, 9] (xorBytes (back st) k)) (xorBytes x (ks.getD 0 []))
  xorBytes (back mid) (ks.getD 10 [])

/-- A 128-bit value doubled in the field of CMAC. -/
def cmacDouble (x : List Byte) : List Byte :=
  let v := beNat x
  let w := beBytes 16 (v * 2)
  if 2 ^ 127 ≤ v then xorBytes w (List.replicate 15 0#8 ++ [0x87#8]) else w

/-- AES-128-CMAC of a byte string: 16 bytes. -/
def cmac (key msg : List Byte) : List Byte :=
  let k1 := cmacDouble (aesEncrypt key (List.replicate 16 0#8))
  let n := (msg.length + 15) / 16 - 1
  let rest := msg.drop (16 * n)
  let last := if rest.length = 16 then xorBytes rest k1
    else xorBytes (rest ++ [0x80#8] ++ List.replicate (15 - rest.length) 0#8) (cmacDouble k1)
  let c := (List.range n).foldl (fun c i => aesEncrypt key (xorBytes c ((msg.drop (16 * i)).take 16))) (List.replicate 16 0#8)
  aesEncrypt key (xorBytes c last)

/-- One step of the key unwrap, with step number `t`: A and the two halves. -/
def unwrapStep (kek : List Byte) (v : List Byte × List Byte × List Byte) (t : Nat) : List Byte × List Byte × List Byte :=
  let half := if t % 2 = 1 then v.2.1 else v.2.2
  let b := aesDecrypt kek (xorBytes v.1 (beBytes 8 t) ++ half)
  if t % 2 = 1 then (b.take 8, b.drop 8, v.2.2) else (b.take 8, v.2.1, b.drop 8)

/-- The AES-128 key wrapped in 24 bytes under a key-encryption key; none when its integrity check fails (R443). -/
def keyUnwrap (kek c : List Byte) : Option (List Byte) :=
  let r := ([12, 11, 10, 9, 8, 7, 6, 5, 4, 3, 2, 1] : List Nat).foldl (unwrapStep kek) (c.take 8, (c.drop 8).take 8, c.drop 16)
  if r.1 = List.replicate 8 0xA6#8 then some (r.2.1 ++ r.2.2) else none

/-! ### P-256 -/

/-- The prime of the field, the order of the group, the constant b and the base point. -/
def p256 : Nat := 2 ^ 256 - 2 ^ 224 + 2 ^ 192 + 2 ^ 96 - 1
def n256 : Nat := 0xffffffff00000000ffffffffffffffffbce6faada7179e84f3b9cac2fc632551
def b256 : Nat := 0x5ac635d8aa3a93e7b3ebbd55769886bc651d06b0cc53b0f63bce3c3e27d2604b
def g256 : Nat × Nat := (0x6b17d1f2e12c4247f8bce6e563a440f277037d812deb33a0f4a13945d898c296,
  0x4fe342e2fe1a7f9b8ee7eb4a7c0f9e162bce33576b315ececbb6406837bf51f5)

/-- A power modulo `m`, over at most the given number of bits of the exponent. -/
def powMod (m : Nat) : Nat → Nat → Nat → Nat
  | 0, _, _ => 1 % m
  | k + 1, x, e => (if e % 2 = 1 then x else 1) * powMod m k (x * x % m) (e / 2) % m

/-- The inverse modulo a prime. -/
def invMod (m x : Nat) : Nat := powMod m 256 (x % m) (m - 2)

/-- The sum of two points; none is the point at infinity. -/
def ecAdd : Option (Nat × Nat) → Option (Nat × Nat) → Option (Nat × Nat)
  | none, q => q
  | q, none => q
  | some (x, y), some (u, v) =>
    if x = u ∧ (y + v) % p256 = 0 then none
    else
      let m := if x = u then 3 * (x * x + (p256 - 1)) * invMod p256 (2 * y) % p256 else (v + p256 - y) * invMod p256 (u + p256 - x) % p256
      let w := (m * m + 2 * p256 - x - u) % p256
      some (w, (m * (x + p256 - w) + p256 - y) % p256)

/-- A multiple of a point, over at most the given number of bits of the factor. -/
def ecMul : Nat → Nat → Option (Nat × Nat) → Option (Nat × Nat)
  | 0, _, _ => none
  | k + 1, d, q => ecAdd (if d % 2 = 1 then q else none) (ecMul k (d / 2) (ecAdd q q))

/-- The point of 64 bytes, x then y (SEC 1), when it lies on the curve. -/
def ecPoint (key : List Byte) : Option (Nat × Nat) :=
  let x := beNat (key.take 32)
  let y := beNat (key.drop 32)
  if x < p256 ∧ y < p256 ∧ y * y % p256 = (x * x * x + (p256 - 3) * x + b256) % p256 then some (x, y) else none

/-- An ECDSA signature (r then s, 64 bytes) verifies under a public key (x then y) over a 32-byte digest. -/
def ecdsaVerify (key digest sig : List Byte) : Bool :=
  let r := beNat (sig.take 32)
  let s := beNat (sig.drop 32)
  match ecPoint key with
  | none => false
  | some q =>
    if r = 0 ∨ n256 ≤ r ∨ s = 0 ∨ n256 ≤ s then false
    else
      let w := invMod n256 s
      match ecAdd (ecMul 256 (beNat digest * w % n256) (some g256)) (ecMul 256 (r * w % n256) (some q)) with
      | none => false
      | some z => decide (z.1 % n256 = r)

/-- The identity private key, as a number of the group (R433). -/
def idKey : Nat := 1 + Config.identityKey % (n256 - 1)

/-- The identity public key: the private key times the base point, x then y, big-endian (R433, R434). -/
def idPublic : List Byte :=
  let p := (ecMul 256 idKey (some g256)).getD (0, 0)
  beBytes 32 p.1 ++ beBytes 32 p.2

/-- The ECDSA signature of a 32-byte digest by the identity key, with the number that the random generator draws for it: r and s (R433). Of a
number that would give r or s the value 0, which SEC 1 has drawn again, the model keeps the signature (log entry 4). -/
def ecdsaSign (digest : List Byte) (k : BitVec 256) : Nat × Nat :=
  let j := 1 + k.toNat % (n256 - 1)
  let r := ((ecMul 256 j (some g256)).getD (0, 0)).1 % n256
  (r, invMod n256 j * (beNat digest + r * idKey) % n256)

/-- The key a command loads: ECDH of the identity key and the ephemeral key, the first 16 bytes of SHA-256 of the secret's x coordinate,
SERIAL and NONCE, and the key wrap of RFC 3394 (R443). The identity private key is the device's own (log entry 4). -/
def unwrapKey (ephemeral wrapped serial nonce : List Byte) : Option (List Byte) :=
  match ecPoint ephemeral with
  | none => none
  | some q =>
    match ecMul 256 idKey (some q) with
    | none => none
    | some z => keyUnwrap ((sha256 (beBytes 32 z.1 ++ serial ++ nonce)).take 16) wrapped

end Sys2Proof.Machine
end

