-- ==== Sys2Proof/Machine/SMap.lean ====
section
/-! DEFINITION. The sparse map: reading one key, writing one key, and the canonical form every write keeps. -/
namespace Sys2Proof.Machine

/-- The value at key `k`; the default `d` where the map lists nothing. -/
def SMap.get {α : Type} (d : α) : SMap α → Nat → α
  | [], _ => d
  | (a, v) :: m, k => if k = a then v else SMap.get d m k

/-- The map without key `k`. -/
def SMap.erase {α : Type} : SMap α → Nat → SMap α
  | [], _ => []
  | (a, w) :: m, k =>
    if k = a then SMap.erase m k else (a, w) :: SMap.erase m k

/-- The map with the value `v` listed at key `k`, keys rising. -/
def SMap.insert {α : Type} : SMap α → Nat → α → SMap α
  | [], k, v => [(k, v)]
  | (a, w) :: m, k, v =>
    if k < a then (k, v) :: (a, w) :: m
    else if k = a then (k, v) :: m
    else (a, w) :: SMap.insert m k v

/-- Write `v` at key `k`: the default value is not listed, so equal maps are equal data. -/
def SMap.set {α : Type} [DecidableEq α] (d : α) (m : SMap α) (k : Nat) (v : α) : SMap α :=
  if v = d then SMap.erase m k else SMap.insert m k v

/-- Every key of the map is above `k` (keys rising, so the first one decides). -/
def SMap.above {α : Type} (k : Nat) : SMap α → Bool
  | [] => true
  | (a, _) :: _ => decide (k < a)

/-- The canonical form: keys strictly rising, and no entry equal to what an unlisted key reads as. -/
def SMap.wf {α : Type} [DecidableEq α] (d : Nat → α) : SMap α → Bool
  | [] => true
  | (a, v) :: m => SMap.above a m && decide (v ≠ d a) && SMap.wf d m

end Sys2Proof.Machine
end

