-- ==== Sys2Proof/Machine/State.lean ====
section
/-! DEFINITION. The machine: the queue of commands, the register file, and what each block holds beside its registers; the two ways in which a
command may stop; and the state right after a power-on reset (R8, R472, R476). -/
namespace Sys2Proof.Machine

/-- The machine stops. The spec gives every command an effect in every state, so nothing raises a fault: the type has no constructor. -/
inductive Fault where
  deriving DecidableEq, Repr

/-- The model turns a command away. Safe: a claim about a next state says nothing then. -/
inductive Refusal where
  /-- Raised only by an arm of `exec` whose command has no meaning yet; no meaning answers with it. -/
  | notModelled (mnemonic : String)
  deriving DecidableEq, Repr

structure State where
  /-- Commands that wait, the front first. -/
  pending : List Instr
  /-- The frame number (R17), the EDGE offset in the frame, ns (R12), and whether this frame's output cutoff has passed (R23). -/
  frame : BitVec 48
  edge : Nat
  closed : Bool
  /-- ns since reset at which the present frame began. -/
  base : Nat
  /-- How many free values have been used: the model's own field, not the spec's (log entry 2). -/
  free : Nat
  /-- Register words in force, by host address; one that is not listed holds its reset value (R8, R376). -/
  regs : SMap Word
  /-- Staged outputs for the next boundary and for the one after it, by host address (R19, R23). -/
  stNext : List (Nat × Word)
  stAfter : List (Nat × Word)
  /-- Snapshot-class registers of the host image, and those captured for the next flip (R358). -/
  image : SMap Word
  capt : SMap Word
  /-- Input records (R19, R24). -/
  inrec : InRec
  /-- Shared frame memory with its Dowel tags (R46, R48), DRAM, and DRAM bytes with an uncorrectable error (R136). -/
  fmem : SMap Byte
  fmemTag : SMap Byte
  dram : SMap Byte
  dramBad : List Nat
  /-- Words of MRAM with an uncorrectable error (R373), by the space of a stream and the byte offset in it; in space 4 the
  slots follow one another, 64 bytes each. -/
  mramBad : List (Nat × Nat)
  /-- Modes, resets, clocks, supplies (chapters 15 and 16), and the test port. -/
  sys : Sys
  jtag : Jtag
  /-- Frame engines (chapter 2), the transaction slot, the scheduler and the loaded image (chapter 3), and the two MRAM program banks. -/
  eng : SMap Eng
  txn : Txn
  sched : Sched
  prog : SMap Byte
  /-- Chapters 8, 6, 7, 5, 4, 13, 5, 9, 10, 11, 12 and 14. -/
  mot : Motion
  pwm : Pwm
  lsw : Lsw
  gauge : Gauge
  scr : Scribe
  flt : Flt
  rcd : Rec
  adc : Adc
  gns : Gnss
  imu : Imu
  bus : Buses
  hp : HostPort
  tru : Truss
  jrn : Jrn
  peg : Peg
  deriving DecidableEq, Repr

/-- Right after a power-on reset of an NGK-9612-GA that has never run: every register at its reset value, memories zero, MRAM empty, the
journal at SEQ 0, no key held, and the watch of R472 begun. PEG_CERTLEN, a factory value from 1 to 1,024 (R461), stands at 1 (DESIGN CHOICE,
log entry 32). -/
def State.reset : State :=
  { pending := [], frame := 0, edge := 0, closed := false, base := 0, free := 0, regs := [(0x0B0010, 1#32)], stNext := [], stAfter := [], image := [],
    capt := [], inrec := InRec.reset, fmem := [], fmemTag := [], dram := [], dramBad := [], mramBad := [], sys := Sys.reset, jtag := Jtag.reset,
    eng := [], txn := Txn.reset, sched := Sched.reset, prog := [], mot := Motion.reset, pwm := Pwm.reset, lsw := Lsw.reset,
    gauge := Gauge.reset, scr := Scribe.reset, flt := Flt.reset, rcd := Rec.reset, adc := Adc.reset, gns := Gnss.reset,
    imu := ⟨false, 0⟩, bus := Buses.reset, hp := HostPort.reset, tru := Truss.reset, jrn := Jrn.reset, peg := Peg.reset }

end Sys2Proof.Machine
end

