-- ==== Sys2Proof/Machine/Ops.lean ====
section
/-! DEFINITION. The named operations over registers, memories, time and free values that every meaning is written with. -/
namespace Sys2Proof.Machine

/-! ### Registers -/

/-- The word of a register file at a host address; the reset value (R8) where nothing is listed. -/
def Regs.get (m : SMap Word) (a : Nat) : Word := SMap.get (Reg.resetOf a) m a

/-- A register file with one word written. -/
def Regs.set (m : SMap Word) (a : Nat) (v : Word) : SMap Word := SMap.set (Reg.resetOf a) m a v

/-- The register word at a host address. -/
def State.rd (s : State) (a : Nat) : Word := Regs.get s.regs a

/-- Write a whole register word, whatever its access codes: the block's own write. -/
def State.wr (s : State) (a : Nat) (v : Word) : State := { s with regs := Regs.set s.regs a v }

/-- A field of a register. -/
def State.rf (s : State) (a lo n : Nat) : Nat := fld (s.rd a) lo n

/-- A one-bit field. -/
def State.flag (s : State) (a i : Nat) : Bool := bit (s.rd a) i

/-- Write one field of a register. -/
def State.setFld (s : State) (a lo n v : Nat) : State := s.wr a (put (s.rd a) lo n v)

/-- Write one bit of a register. -/
def State.setFlag (s : State) (a i : Nat) (b : Bool) : State := s.wr a (put (s.rd a) i 1 (b2n b))

/-- Advance a counting field by `k`, saturating. -/
def State.count (s : State) (a lo n k : Nat) : State := s.setFld a lo n (satAdd n (s.rf a lo n) k)

/-- Apply `f` to 0, 1, …, n - 1 in ascending order. -/
def each (n : Nat) (f : Nat → State → State) (s : State) : State :=
  match n with
  | 0 => s
  | k + 1 => f k (each k f s)

/-- Apply `f` to each member of a list, first to last. -/
def eachOf {α : Type} (l : List α) (f : α → State → State) (s : State) : State := l.foldl (fun t x => f x t) s

/-- Apply `f` where the condition holds. -/
def State.iff (s : State) (c : Bool) (f : State → State) : State := if c then f s else s

/-! ### Memories: bytes, little-endian (R5) -/

/-- The word at byte address `a` of a memory; an unlisted byte reads 0 (log entry 5). -/
def Mem.ld (m : SMap Byte) (a : Nat) : Word :=
  wordOf (SMap.get 0 m a) (SMap.get 0 m (a + 1)) (SMap.get 0 m (a + 2)) (SMap.get 0 m (a + 3))

/-- A memory with a run of bytes stored from address `a` upwards. -/
def Mem.stBytes (m : SMap Byte) (a : Nat) : List Byte → SMap Byte
  | [] => m
  | b :: bs => Mem.stBytes (SMap.set 0 m a b) (a + 1) bs

/-- A memory with one word stored at byte address `a`, lowest byte first. -/
def Mem.st (m : SMap Byte) (a : Nat) (w : Word) : SMap Byte := Mem.stBytes m a (bytesOf w)

/-- `n` bytes from address `a`. -/
def Mem.bytes (m : SMap Byte) (a n : Nat) : List Byte := (List.range n).map fun i => SMap.get 0 m (a + i)

/-- `n` words from address `a`. -/
def Mem.words (m : SMap Byte) (a n : Nat) : List Word := (List.range n).map fun i => Mem.ld m (a + 4 * i)

/-- A memory with a run of words stored from address `a` upwards. -/
def Mem.stWords (m : SMap Byte) (a : Nat) (ws : List Word) : SMap Byte := Mem.stBytes m a (bytesOfWords ws)

/-- The Dowel tag of a value: its residue modulo 251 (R34). -/
def tagOf (w : Word) : Byte := BitVec.ofNat 8 (w.toNat % 251)

/-- Tag maps with the tags of a run of words created from their values (R35). -/
def Mem.tagWords (m : SMap Byte) (a : Nat) : List Word → SMap Byte
  | [] => m
  | w :: ws => Mem.tagWords (SMap.set 0 m a (tagOf w)) (a + 4) ws

/-- Store words into FMEM at an offset and create their tags. -/
def State.fmemPut (s : State) (ofs : Nat) (ws : List Word) : State :=
  { s with fmem := Mem.stWords s.fmem ofs ws, fmemTag := Mem.tagWords s.fmemTag ofs ws }

/-! ### Free values -/

/-- `n` bytes of a space of MRAM are written, and words with an error among them read well again (R373). -/
def State.mramWritten (s : State) (space ofs n : Nat) : State :=
  { s with mramBad := s.mramBad.filter (fun x => !(decide (x.1 = space) && decide (ofs ≤ x.2) && decide (x.2 < ofs + n))) }

/-- A word of a space of MRAM has an uncorrectable error (R373). -/
def mramFails (s : State) (space ofs : Nat) : Bool := s.mramBad.any (fun x => decide (x.1 = space) && decide (ofs ≤ x.2) && decide (x.2 < ofs + 4))

/-- The next free number: nothing constrains it (log entry 2). -/
def State.freeNat (s : State) : Nat := Config.freeNat s.free

/-- The next free word. -/
def State.freeWord (s : State) : Word := BitVec.ofNat 32 s.freeNat

/-- A free value has been used; the next one is another. -/
def State.spend (s : State) : State := { s with free := s.free + 1 }

/-! ### Time (R12, R16, R17, R31) -/

/-- FRAME_PERIOD in ns, by the code of SYS_FRMCFG.PERIOD (R40). Codes 6 and 7 are never committed. -/
def periodOf (code : Nat) : Nat :=
  match code with
  | 0 => 50000
  | 1 => 100000
  | 2 => 200000
  | 3 => 250000
  | 4 => 500000
  | _ => 1000000

/-- FRAME_PERIOD in ns. -/
def State.period (s : State) : Nat := periodOf (s.rf Reg.SYS_FRMCFG 0 3)

/-- The device's present instant, in ns since reset. -/
def State.now (s : State) : Nat := s.base + s.edge

/-- The command's own EDGE offset becomes the present instant, when it lies in this frame and not in the past. -/
def State.at (s : State) (t : Nat) : State := if s.edge ≤ t ∧ t < s.period then { s with edge := t } else s

/-- An instant: frame number and EDGE offset (R12). -/
structure Instant where
  frame : Nat
  ofs : Nat
  deriving DecidableEq, Repr

/-- The present instant. -/
def State.instant (s : State) : Instant := ⟨s.frame.toNat, s.edge⟩

/-- An instant a number of ns later, at the period given (R31). -/
def Instant.add (p : Nat) (i : Instant) (ns : Nat) : Instant := ⟨(i.frame + (i.ofs + ns) / p) % 2 ^ 48, (i.ofs + ns) % p⟩

/-- The instant of a time since reset, in the frame that it lay in (R12). -/
def State.instantOf (s : State) (t : Nat) : Instant :=
  match s.sys.spans.find? (fun x => decide (x.at_ ≤ t)) with
  | some x => ⟨(x.frame + (t - x.at_) / x.period) % 2 ^ 48, (t - x.at_) % x.period⟩
  | none => s.instant

/-- The instant some ns before the present one. -/
def State.ago (s : State) (ns : Nat) : Instant := s.instantOf (s.now - ns)

/-- The frame that begins opens a new run of frames where its period, or its number, does not follow from the run before. -/
def State.spanNow (s : State) : State :=
  match s.sys.spans with
  | x :: _ =>
    if x.period = s.period ∧ s.instantOf s.base = ⟨s.frame.toNat, 0⟩ then s
    else { s with sys := { s.sys with spans := (⟨s.base, s.frame.toNat, s.period⟩ :: s.sys.spans).take 16 } }
  | [] => { s with sys := { s.sys with spans := [⟨s.base, s.frame.toNat, s.period⟩] } }

/-- ns of an instant on a scale of periods, for comparing two of them. -/
def Instant.ns (p : Nat) (i : Instant) : Nat := i.frame * p + i.ofs

/-- The low 12 frame bits and the offset in one word: the stamp format of results and records. -/
def Instant.stamp (i : Instant) : Word := BitVec.ofNat 32 (i.frame % 4096 * 2 ^ 20 + i.ofs % 2 ^ 20)

/-- The code of a mode in SYS_MODE.MODE (R8). -/
def Mode.code : Mode → Nat
  | .sill => 0 | .boot => 1 | .idle => 2 | .run => 3 | .limp => 4 | .safe => 5 | .freeze => 6 | .service => 7

/-- The clocks run: every mode but SILL and FREEZE, and no power-fail declared (R41, R479, R496). -/
def State.clocked (s : State) : Bool := s.sys.mode ≠ .sill && s.sys.mode ≠ .freeze && !s.sys.powerFail

/-- An instant that a command of any mode carries: the model's time stands still with the clocks (R482). -/
def State.atRun (s : State) (t : Nat) : State := if s.clocked then s.at t else s

/-- Entry to SILL runs (R470). -/
def State.entersSill (s : State) : Bool := s.sys.mode = .sill && !s.sys.sillDone && !s.sys.watch && !s.sys.powerFail

/-- The device is one of a pair (R30, R383). -/
def State.solo (s : State) : Bool := s.flag Reg.SYS_FRMSTAT 1

/-- The lead of a pair (R383). -/
def State.isLead (s : State) : Bool := s.flag Reg.TRU_STAT 4

/-- A paired device that is not the lead. -/
def State.follower (s : State) : Bool := !s.solo && !s.isLead

/-! ### Staged outputs (R19, R23) -/

/-- A staged write that reached its block now: it belongs to the next boundary, or to the one after once the cutoff has passed. -/
def State.stage (s : State) (a : Nat) (v : Word) : State :=
  if s.closed then { s with stAfter := SMap.insert s.stAfter a v } else { s with stNext := SMap.insert s.stNext a v }

/-! ### The host port's flags (R375) -/

/-- Set a bit of HP_ISTAT. -/
def State.irq (s : State) (i : Nat) : State := s.setFlag Reg.HP_ISTAT i true

/-- Set an error bit of HP_STAT, and HPERR with it. -/
def State.hpErr (s : State) (i : Nat) : State := (s.setFlag Reg.HP_STAT i true).irq 6

/-- HINT_N is driven low: a bit of HP_ISTAT is 1 with its HP_IEN bit set, and the port is powered, with VIO_H in range (R375, R379, R493). -/
def State.hint (s : State) : Bool :=
  decide (s.rf Reg.HP_ISTAT 0 7 &&& s.rf Reg.HP_IEN 0 7 ≠ 0) && s.sys.mode ≠ .sill && !s.sys.viohFloat

/-! ### Input records (R19, R23, R301) -/

/-- An item enters the input record that closes at the next boundary. -/
def State.record (s : State) (i : RecItem) : State := { s with inrec := { s.inrec with next := s.inrec.next ++ [i] } }

/-- An item enters the input record that closes at the start of the present frame. -/
def State.recordCur (s : State) (i : RecItem) : State := { s with inrec := { s.inrec with cur := s.inrec.cur ++ [i] } }

/-- An item enters the next input record, or the one after it once the output cutoff has passed. -/
def State.recordCut (s : State) (i : RecItem) : State :=
  if s.closed then { s with inrec := { s.inrec with after := s.inrec.after ++ [i] } } else s.record i

end Sys2Proof.Machine
end

