-- ==== Sys2Proof/Machine/PwmOut.lean ====
section
/-! DEFINITION. What a PWM channel puts out (R197, R198, R211 to R216), as every block that follows it reads it. -/
namespace Sys2Proof.Machine

/-- A PWM channel beside its registers. -/
def State.pch (s : State) (c : Nat) : PwmCh := SMap.get PwmCh.reset s.pwm.ch c

/-- Write a PWM channel. -/
def State.setPch (s : State) (c : Nat) (x : PwmCh) : State :=
  { s with pwm := { s.pwm with ch := SMap.set PwmCh.reset s.pwm.ch c x } }

/-- The severity whose forces stand now: the reaction in force, or an ended one until step (3) of the boundary (R416, R521). -/
def State.reactSev (s : State) : Nat :=
  s.flt.ending.foldl (fun m e => max m e.1) s.flt.reaction

/-- A SAFE or HALT reaction holds the hardware safe state (R412). -/
def State.safeState (s : State) : Bool := decide (2 ≤ s.reactSev)

/-- The carrier of the unit a channel belongs to is a complementary pair with the channel below (R211). -/
def pairOdd (s : State) (c : Nat) : Bool := decide (c < 64) && decide (c % 2 = 1) && bit (s.pch c).cfg 19

/-- The even channel of a complementary pair (R211). -/
def pairEven (s : State) (c : Nat) : Bool := decide (c < 64) && decide (c % 2 = 0) && bit (s.pch (c + 1)).cfg 19

/-- The carrier's output: the requested signal, or in a pair the gate signal after the dead-time wait (R199, R211, R212). -/
def pwmCarrier (s : State) (c : Nat) : Bool :=
  if pairOdd s c then
    let e := s.pch (c - 1)
    !e.dead && (!e.level || decide (e.refresh = 2))
  else if pairEven s c then
    let e := s.pch c
    !e.dead && e.level && decide (e.refresh = 0)
  else (s.pch c).level

/-- Priority 1 to 4 of R215 applies. -/
def pwmForced (s : State) (c : Nat) : Bool :=
  s.sys.mode = .freeze || s.sys.mode = .service || s.flag (Reg.PWM_UFSTAT (c / 8)) 0 || s.sys.mode = .safe

/-- A channel is at its active level: the first line of R215 that applies, with the states of SILL, BOOT and a declared
power-fail ahead of it (R222, R496). -/
def pwmOut (s : State) (c : Nat) : Bool :=
  let cfg := s.rd (Reg.PWM_CHCFG c)
  if s.sys.mode = .sill ∨ s.sys.mode = .boot ∨ s.sys.powerFail then false
  else if s.sys.mode = .freeze then bit cfg 24
  else if s.sys.mode = .service then false
  else if s.flag (Reg.PWM_UFSTAT (c / 8)) 0 ∨ s.sys.mode = .safe then bit cfg 24
  else if ¬ s.flag (Reg.PWM_UCTRL (c / 8)) 0 then bit cfg 23
  else if (s.pch c).held then bit cfg 24
  else pwmCarrier s c

/-- A channel's counter (R199). -/
def pwmCounter (s : State) (c : Nat) : Int := s.now - (s.pch c).began

/-! ### Pins (R197, R198, R208, R222, R493) -/

/-- The level of an output land on VIO_G: none while it is high-impedance. -/
def landG (s : State) (v : Bool) : Option Bool := if s.sys.mode = .sill ∨ s.sys.viogFloat then none else some v

/-- What TDO shifts out; none while the land is high-impedance (R493, R515). -/
def tdoLand (s : State) : Option (BitVec 40) := if s.sys.mode = .sill ∨ s.sys.viogFloat then none else some s.jtag.out

/-- HD[15:0] as the port last drove them; none while they are high-impedance (R379, R493). -/
def hdLand (s : State) : Option (BitVec 16) := if s.sys.mode = .sill ∨ s.sys.viohFloat then none else some s.hp.hd

/-- The PWM channel that drives pin EP00 to EP19. -/
def epChannel (n : Nat) : Nat := if n < 2 then 166 + n else 172 + n

/-- The level at a pin EP00 to EP19: high at the active level, and inverted by POL. -/
def epPin (s : State) (n : Nat) : Option Bool := landG s (pwmOut s (epChannel n) != s.flag (Reg.PWM_CHCFG (epChannel n)) 25)

/-- The level at SYNCOUT0 or SYNCOUT1. -/
def syncOutPin (s : State) (second : Bool) : Option Bool :=
  landG s (match (if second then s.pwm.syncOut1 else s.pwm.syncOut0) with
    | some t => decide (t ≤ s.now) && decide (s.now < t + 100)
    | none => false)

/-- The PWM channel that feeds a switch channel (R197): L-channels from PW8 to PW19, H-channels from PW20 and PW21. -/
def pwmOfSwitch (c : Nat) : Nat := if c < 96 then 64 + c else if c < 102 then 160 + (c - 96) else 168 + (c - 102)

/-- The switch channel that a PWM channel feeds, if any (R197); PW14 to PW19 drive nothing on the NGK-4806-GA (R4). -/
def switchOfPwm (s : State) (p : Nat) : Option Nat :=
  if 64 ≤ p ∧ p < 160 then (if s.sys.variant = 2 ∧ 112 ≤ p then none else some (p - 64))
  else if 160 ≤ p ∧ p < 166 then some (96 + (p - 160))
  else if 168 ≤ p ∧ p < 174 then (if s.sys.variant = 2 then none else some (102 + (p - 168)))
  else none

end Sys2Proof.Machine
end

