-- ==== Sys2Proof/Machine/Gauge.lean ====
section
/-! DEFINITION. Gauge, the latency learner (R165 to R169), and the mark events the device forms itself (R160, R164). -/
namespace Sys2Proof.Machine

/-- A word of the outlet table's OUT_CFG that names switch channel `c` in an enabled entry (R142). -/
def outletNames (c : Nat) (w : Word) : Bool :=
  bit w 31 && ((decide (fld w 28 3 = 1) && decide (fld w 18 8 = c)) || (decide (fld w 28 3 = 2) && decide (96 + fld w 18 8 = c)))

/-- The enabled outlet that a switch channel drives (R142, R165): the outlet entries stand among the listed registers,
because an unlisted OUT_CFG is disabled. -/
def State.outletOf (s : State) (c : Nat) : Option Nat :=
  s.regs.findSome? fun x =>
    if 0x024000 ≤ x.1 ∧ x.1 < 0x026000 ∧ (x.1 - 0x024000) % 0x20 = 0 ∧ outletNames c x.2 then some ((x.1 - 0x024000) / 0x20)
    else none

/-- The delay in use for an edge of an outlet, 10 µs units (R147): the learned one where LEARN is set and its confidence
reaches CUSE, else the configured one. -/
def delayInUse (s : State) (k : Nat) (onEdge : Bool) : Nat :=
  let cfg := s.rd (Reg.OUT_CFG k)
  let c := if fld cfg 28 3 = 2 then 96 + fld cfg 18 8 else fld cfg 18 8
  let g := s.rd (if onEdge then Reg.GAU_ON c else Reg.GAU_OFF c)
  if bit cfg 17 ∧ s.rf Reg.GAU_CFG1 0 8 ≤ fld g 24 8 then fld g 0 15
  else s.rf (Reg.OUT_FIX k) (if onEdge then 0 else 16) 15

/-- The add-on of an edge of an outlet, 10 µs units (R147). -/
def addOn (s : State) (k : Nat) (onEdge : Bool) : Nat := s.rf (Reg.OUT_ADD k) (if onEdge then 0 else 16) 15

/-- A mark event the device forms: outlet, edge and delivery instant, carried in the next input record (R164). -/
def State.formMark (s : State) (k : Nat) (onEdge : Bool) (i : Instant) (units : Nat) : State :=
  let d := i.add s.period (units * 10000)
  s.record ⟨.mark, [k, b2n onEdge, d.frame, d.ofs]⟩

/-- A mark whose instant is formed from the input edge: edge instant + D + A (R160, MARKSRC 2). -/
def State.edgeMark (s : State) (k : Nat) (onEdge : Bool) (i : Instant) : State :=
  s.formMark k onEdge i (delayInUse s k onEdge + addOn s k onEdge)

/-- GAU_LAST of a channel: edge, result and value (R175). -/
def State.gaugeLast (s : State) (c : Nat) (onEdge : Bool) (result value : Nat) : State :=
  s.wr (Reg.GAU_LAST c) (BitVec.ofNat 32 (b2n onEdge * 2 ^ 31 + result * 2 ^ 29 + value % 2 ^ 15))

/-- MARKSRC of an outlet. -/
def markSrc (s : State) (k : Nat) : Nat := s.rf (Reg.OUT_CFG k) 15 2

/-- Gauge watches a channel (R165). -/
def gaugeWatched (s : State) (c : Nat) : Bool :=
  match s.outletOf c with
  | some k => s.flag (Reg.OUT_CFG k) 17 || decide (markSrc s k = 3)
  | none => false

/-- Gauge learns in IDLE, RUN, LIMP and SAFE (R174). -/
def gaugeRuns (s : State) : Bool :=
  s.sys.mode = .idle || s.sys.mode = .run || s.sys.mode = .limp || s.sys.mode = .safe

/-- The end of a search without a measurement: an outlet with MARKSRC 3 marks as one with MARKSRC 2 (R160). -/
def State.searchFails (s : State) (g : GSearch) : State :=
  match s.outletOf g.ch with
  | some k => if g.mark ∧ markSrc s k = 3 then s.edgeMark k g.onEdge ⟨g.frame, g.offset⟩ else s
  | none => s

/-- Take the search of a channel out of the list. -/
def State.dropSearch (s : State) (c : Nat) : State :=
  { s with gauge := { s.gauge with searches := s.gauge.searches.filter (fun g => decide (g.ch ≠ c)) } }

/-- Abort the search of a channel, if one runs: counted, with no effect on confidence (R167). -/
def State.gaugeAbort (s : State) (c : Nat) : State :=
  match s.gauge.searches.find? (fun g => decide (g.ch = c)) with
  | some g => (((s.dropSearch c).count (Reg.GAU_CNT c) 24 8 1).gaugeLast c g.onEdge 3 0).searchFails g
  | none => s

/-- Abort every search in progress (R32, R174). -/
def State.gaugeAbortAll (s : State) : State := eachOf (s.gauge.searches.map (·.ch)) (fun c t => t.gaugeAbort c) s

/-- An edge that an outlet's marks follow, without a search of its own: MARKSRC 2, and MARKSRC 3 as MARKSRC 2 (R160). -/
def State.markEdge (s : State) (c : Nat) (onEdge : Bool) : State :=
  match s.outletOf c with
  | some k => if 2 ≤ markSrc s k then s.edgeMark k onEdge s.instant else s
  | none => s

/-- An input edge of a switch channel: a search in progress is aborted, a watched channel starts a new one, and where marking follows the edge
an outlet with MARKSRC 2 forms its mark (R160, R165, R167). -/
def State.gaugeEdge (s : State) (c : Nat) (onEdge mark : Bool) : State :=
  let s := s.gaugeAbort c
  match s.outletOf c with
  | none => s
  | some k =>
    let s := if mark ∧ markSrc s k = 2 then s.edgeMark k onEdge s.instant else s
    if gaugeWatched s c && gaugeRuns s then
      { s with gauge := { s.gauge with searches := s.gauge.searches ++ [⟨c, onEdge, s.frame.toNat, s.edge, mark⟩] } }
    else if mark ∧ markSrc s k = 3 then s.edgeMark k onEdge s.instant else s

/-- The state of the dip or bump search of R166 while it runs over the samples. -/
structure Search where
  armed : Bool
  ext : Nat
  peak : Nat
  k : Nat
  found : Option Nat
  deriving DecidableEq, Repr

/-- One sample of the on-edge search (R166): falls by DIPMIN from the running maximum, then rises by half of it. -/
def Search.onStep (dip : Nat) (x : Search) (k v : Nat) : Search :=
  if x.found.isSome then x
  else if !x.armed then
    if x.ext < v then { x with ext := v }
    else if dip ≤ x.ext - v then { x with armed := true, peak := v, k := k } else x
  else if v < x.peak then { x with peak := v, k := k }
  else if dip ≤ 2 * (v - x.peak) then { x with found := some x.k } else x

/-- One sample of the off-edge search (R166): the same with the senses reversed and BUMPMIN. -/
def Search.offStep (bump : Nat) (x : Search) (k v : Nat) : Search :=
  if x.found.isSome then x
  else if !x.armed then
    if v < x.ext then { x with ext := v }
    else if bump ≤ v - x.ext then { x with armed := true, peak := v, k := k } else x
  else if x.peak < v then { x with peak := v, k := k }
  else if bump ≤ 2 * (x.peak - v) then { x with found := some x.k } else x

/-- Run a search over the samples from k = 100 on; the measurement, if the event is found by k = 20,000 (R166). -/
def runSearch (s : State) (onEdge : Bool) (samples : List Nat) : Option Nat :=
  let dip := s.rf Reg.GAU_THR 0 16
  let bump := s.rf Reg.GAU_THR 16 16
  let start : Search := ⟨false, if onEdge then 0 else samples.headD 0, 0, 0, none⟩
  (((List.range 19901).zip samples).foldl
    (fun x p => if onEdge then Search.onStep dip x (p.1 + 100) p.2 else Search.offStep bump x (p.1 + 100) p.2) start).found

/-- The update of R168: the delay and confidence of an edge after a measurement, and whether it was an outlier. -/
def gaugeLearn (s : State) (w : Word) (m : Nat) : Word × Bool :=
  let d := fld w 0 15
  let conf := fld w 24 8
  let cinc := s.rf Reg.GAU_CFG0 8 8
  let tol := s.rf Reg.GAU_CFG1 8 8
  let cuse := s.rf Reg.GAU_CFG1 0 8
  let diff : Int := (m : Int) - d
  if conf = 0 then (BitVec.ofNat 32 (cinc * 2 ^ 24 + m % 2 ^ 15), false)
  else if diff.natAbs ≤ tol ∨ conf < cuse then
    let d' := ((d : Int) + diff.shiftRight (s.rf Reg.GAU_CFG0 0 3)).toNat
    (BitVec.ofNat 32 (min 255 (conf + cinc) * 2 ^ 24 + d' % 2 ^ 15), false)
  else (put w 24 8 (conf - s.rf Reg.GAU_CFG0 16 8), true)

/-- A measurement carried in the record updates the delay and the counts of its edge (R168, R169). -/
def State.gaugeUpdate (s : State) (c : Nat) (onEdge : Bool) (m : Nat) : State :=
  let a := if onEdge then Reg.GAU_ON c else Reg.GAU_OFF c
  let r := gaugeLearn s (s.rd a) m
  ((s.wr a r.1).count (Reg.GAU_CNT c) (if r.2 then 8 else 0) 8 1).gaugeLast c onEdge (b2n r.2) m

/-- A miss lowers the confidence of its edge, when it happens: only measurements are said to travel in the record (R167, R169). -/
def State.gaugeMissed (s : State) (c : Nat) (onEdge : Bool) : State :=
  let a := if onEdge then Reg.GAU_ON c else Reg.GAU_OFF c
  ((s.setFld a 24 8 (s.rf a 24 8 - s.rf Reg.GAU_CFG0 24 8)).count (Reg.GAU_CNT c) 16 8 1).gaugeLast c onEdge 2 0

/-! ### The end of a search -/

/-- GAUGE_MEASUREMENT: the samples of a search, from k = 100 on, hold its dip or bump: the measurement is carried in the next input record, and
an outlet with MARKSRC 3 forms its mark (R160, R166, R169). -/
def execGaugeMeasurement (t : Nat) (c : Fin 108) (samples : List (BitVec 16)) (s : State) : Host.Outcome State Fault Refusal :=
  .next (match s.gauge.searches.find? (fun g => decide (g.ch = c.val)) with
    | none => s
    | some g =>
      match s.clocked, runSearch s g.onEdge (samples.map BitVec.toNat) with
      | true, some m =>
        let s1 := ((s.at t).dropSearch c).record ⟨.gauge, [c.val, b2n g.onEdge, m]⟩
        (match s1.outletOf c with
         | some k => if g.mark ∧ markSrc s1 k = 3 then s1.formMark k g.onEdge ⟨g.frame, g.offset⟩ (m + addOn s1 k g.onEdge) else s1
         | none => s1)
      | _, _ => s)

/-- GAUGE_MISS: the samples of a search reach k = 20,000 without an event (R166, R167). -/
def execGaugeMiss (t : Nat) (c : Fin 108) (samples : List (BitVec 16)) (s : State) : Host.Outcome State Fault Refusal :=
  .next (match s.gauge.searches.find? (fun g => decide (g.ch = c.val)) with
    | none => s
    | some g =>
      match s.clocked, runSearch s g.onEdge (samples.map BitVec.toNat) with
      | true, none => if samples.length < 19901 then s else (((s.at t).dropSearch c).gaugeMissed c g.onEdge).searchFails g
      | _, _ => s)

end Sys2Proof.Machine
end

