-- ==== Sys2Proof/Machine/Lsw.lean ====
section
/-! DEFINITION. The load switch channels: which state each takes (R225, R248), what a turn-on and a turn-off do, the
isolators (R240, R241) and the banks' watchdog (R244 to R247). -/
namespace Sys2Proof.Machine

/-- The number of switch channels and of banks. -/
def lswChannels : Nat := 108
def lswBanks : Nat := 12

/-- The bank of a switch channel: L-banks of 12, H-banks of 3 (chapter 07). -/
def bankOf (c : Nat) : Nat := if c < 96 then c / 12 else 8 + (c - 96) / 3

/-- The place of a switch channel in its bank, the bit of FS.PAT that is its own. -/
def placeInBank (c : Nat) : Nat := if c < 96 then c % 12 else (c - 96) % 3

/-- The first channel of a bank and how many it has. -/
def bankFirst (b : Nat) : Nat := if b < 8 then 12 * b else 96 + 3 * (b - 8)
def bankSize (b : Nat) : Nat := if b < 8 then 12 else 3

/-- The channel is absent on the variant (R4). -/
def chAbsent (s : State) (c : Nat) : Bool :=
  decide (s.sys.variant = 2) && ((decide (48 ≤ c) && decide (c < 96)) || decide (102 ≤ c))

/-- A switch channel beside its registers. -/
def State.lch (s : State) (c : Nat) : LswCh := SMap.get LswCh.reset s.lsw.ch c

def State.setLch (s : State) (c : Nat) (x : LswCh) : State :=
  { s with lsw := { s.lsw with ch := SMap.set LswCh.reset s.lsw.ch c x } }

/-- A bank beside its registers. -/
def State.bank (s : State) (b : Nat) : Bank := SMap.get Bank.reset s.lsw.bank b

def State.setBank (s : State) (b : Nat) (x : Bank) : State :=
  { s with lsw := { s.lsw with bank := SMap.set Bank.reset s.lsw.bank b x } }

/-- The channel's input: CH_CMD.ON with its PWM channel or its DIN pin (R225). -/
def lswInput (s : State) (c : Nat) : Bool :=
  let cfg := s.rd (Reg.CH_CFG c)
  s.flag (Reg.CH_CMD c) 31 &&
    (match fld cfg 28 2 with
     | 0 => true
     | 1 => pwmOut s (pwmOfSwitch c)
     | 2 => s.lsw.din.getLsbD (fld cfg 16 4)
     | _ => false)

/-- The channel's state in the FS pattern of its bank. -/
def fsPattern (s : State) (c : Nat) : Bool := s.flag (Reg.FS (bankOf c)) (placeInBank c)

/-- Line 1 of R248: isolator open, bank in OV or UV, or channel absent. -/
def lswNoSupply (s : State) (c : Nat) : Bool :=
  !s.flag (Reg.BSTAT (bankOf c)) 0 || (s.bank (bankOf c)).supply = .ov || (s.bank (bankOf c)).supply = .uv || chAbsent s c

/-- Line 2 of R248: TLATCH, a retry timer, an OCOFF awaiting its retry, or LOCK. -/
def lswProtected (s : State) (c : Nat) : Bool :=
  let w := s.rd (Reg.CH_STAT c)
  bit w 3 || bit w 4 || bit w 5 || (s.lch c).retryDue || (s.lch c).unlocking

/-- The state a channel takes: the first line of R248 that applies; a declared power-fail turns it off (R496). -/
def lswState (s : State) (c : Nat) (input : Bool) : Bool :=
  if s.sys.powerFail ∨ lswNoSupply s c then false
  else if lswProtected s c then false
  else if s.sys.mode = .freeze then fsPattern s c
  else if s.sys.mode = .service ∨ s.sys.mode = .boot ∨ s.sys.mode = .sill then false
  else if s.sys.mode = .safe ∨ (s.safeState ∧ s.flag (Reg.BCFG (bankOf c)) 1) then fsPattern s c
  else if (s.bank (bankOf c)).expired then fsPattern s c
  else if s.lsw.shed.contains c then fsPattern s c
  else input

/-- The profile words a channel takes at a turn-on (R228). -/
def State.loadProfile (s : State) (c : Nat) : LswCh :=
  let p := s.rf (Reg.CH_CFG c) 24 3
  { s.lch c with win := s.rd (Reg.PRF_WIN p), inr := s.rd (Reg.PRF_INR p), lim := s.rd (Reg.PRF_LIM p), rty := s.rd (Reg.PRF_RTY p) }

/-- A turn-on: the profile takes effect, and the inrush or boost time begins (R228, R230, R231). An H-channel's boost
starts only at its first turn-on since BOOT or after 10 × INR_T ms off. -/
def State.turnOn (s : State) (c : Nat) : State :=
  let x := s.loadProfile c
  let inrT := fld x.inr 24 8
  let boosted := decide (c < 96) || !x.wasOn || decide (10 * inrT * 1000000 ≤ s.now - x.offAt)
  s.setLch c { x with inrush := boosted && decide (0 < inrT), boost := boosted && decide (96 ≤ c) && decide (0 < inrT),
                      wasOn := true, onAt := s.now, olRun := 0, stbRun := 0 }

/-- A turn-off: its instant is kept for R231, and the detection of R234 begins anew. -/
def State.turnOff (s : State) (c : Nat) : State :=
  s.setLch c { s.lch c with offAt := s.now, inrush := false, boost := false, olRun := 0, stbRun := 0 }

/-- The level that the marks of a channel's outlet follow: its input (R160), in SAFE the fail-safe output, and in FREEZE none, so that the last
one stays (R174; DEDUCED, log entry 67). -/
def markLevel (s : State) (last inp out : Bool) : Bool :=
  if s.sys.mode = .safe then out else if s.sys.mode = .freeze then last else inp

/-- What a channel's levels start: a search and marks at an input edge, and the marks of a fail-safe output that moves by itself; a pulse of
the PWM channel that feeds it aborts its search (R160, R165, R167, R174). `was` is its input before. -/
def State.follow (s : State) (c : Nat) (was inp out : Bool) : State :=
  let x := s.lch c
  let fed := pwmOut s (pwmOfSwitch c)
  let lvl := markLevel s x.marked inp out
  let s1 := if fed ≠ x.fed ∧ s.rf (Reg.CH_CFG c) 28 2 = 1 then s.gaugeAbort c else s
  let s2 := s1.setLch c { s1.lch c with fed := fed, marked := lvl, inAt := if was = inp then x.inAt else s1.now }
  let mark := decide (x.marked ≠ lvl)
  let own := decide (was ≠ inp) && mark && decide (lvl = inp)
  let s3 := if was = inp then s2 else s2.gaugeEdge c inp own
  if mark && !own then s3.markEdge c lvl else s3

/-- Bring one channel to its input and its state, with everything an edge of either starts (R225, R243, R248, R165). No search goes on in CRANK
(R243), or behind the flag UVOFF (R167). -/
def State.settle (s : State) (c : Nat) : State :=
  let st := s.rd (Reg.CH_STAT c)
  let inp := lswInput s c
  let out := lswState s c inp
  let uv := inp && decide ((s.bank (bankOf c)).supply = .uv)
  let st' := put (put st 0 1 (b2n inp)) 1 1 (b2n out)
  let held := if out then st' else put st' 2 1 0
  let s1 := (s.wr (Reg.CH_STAT c) (if uv then put held 15 1 1 else held)).follow c (bit st 0) inp out
  let s2 := if uv || decide ((s.bank (bankOf c)).supply = .crank) then s1.gaugeAbort c else s1
  if bit st 1 = out then s2 else if out then s2.turnOn c else s2.turnOff c

/-- Set a sticky flag of a channel; its Gauge search is aborted (R167). -/
def State.chFlag (s : State) (c i : Nat) : State := (s.setFlag (Reg.CH_STAT c) i true).gaugeAbort c

/-- Bring every channel to its state. -/
def State.settleAll (s : State) : State := each lswChannels (fun c t => t.settle c) s

/-- Bring the channels of one bank to their states. -/
def State.settleBank (s : State) (b : Nat) : State := each (bankSize b) (fun i t => t.settle (bankFirst b + i)) s

/-- A PWM channel's output has changed: the switch channel it feeds follows (R225). -/
def State.pwmMoved (s : State) (p : Nat) : State :=
  match switchOfPwm s p with
  | some c => if s.rf (Reg.CH_CFG c) 28 2 = 1 then s.settle c else s
  | none => s

/-- Some cause of R241 keeps the isolator open: the KILL line, a HALT reaction with HALTISO, a bank over-current with
BOCISO, or SILL. -/
def isoCause (s : State) (b : Nat) : Bool :=
  s.flag Reg.TRU_STAT 7 || s.flag Reg.TRU_STAT 9 || (s.flt.halt && s.flag (Reg.BCFG b) 2)
    || ((s.bank b).boc && s.flag (Reg.BCFG b) 3) || s.sys.mode = .sill

/-- Command an isolator open: its channels turn off as it opens, and only a new commit of ISO = 1 closes it (R241). -/
def State.openIso (s : State) (b : Nat) : State := s.setBank b { s.bank b with isoCmd := false }

/-- The isolator is open: ISOST reads 0 and every channel of the bank is off (R240). -/
def State.isoOpened (s : State) (b : Nat) : State := (s.setFlag (Reg.BSTAT b) 0 false).settleBank b

/-- The isolator is closed: ISOST reads 1 and the channels follow their states (R240). -/
def State.isoClosed (s : State) (b : Nat) : State := (s.setFlag (Reg.BSTAT b) 0 true).settleBank b

/-- Step (2) of the boundary at which a committed BCFG applies: ISO closes the isolator when no cause of R241 is present,
and opens it otherwise (R240, R241). A newly enabled watchdog starts with MISS = 0 (R247). -/
def State.applyBcfg (s : State) (b : Nat) (old : Word) : State :=
  let x := s.bank b
  let new := s.rd (Reg.BCFG b)
  let s := s.setBank b { x with isoCmd := bit new 0 && !isoCause s b, fresh := bit new 8 && !bit old 8 }
  s.iff (bit new 8 && !bit old 8) (fun t => t.setFld (Reg.BSTAT b) 8 7 0)

/-! ### The watchdog (R244 to R247) -/

/-- Present a token to the banks of a mask: it counts for the next boundary, or for the one after once the cutoff has
passed (R23, R244). -/
def State.token (s : State) (mask : Nat) (v : Word) : State :=
  each lswBanks (fun b t =>
    if mask.testBit b then
      let x := t.bank b
      t.setBank b (if t.closed then { x with tokAfter := x.tokAfter ++ [v] } else { x with tokNext := x.tokNext ++ [v] })
    else t) s

/-- The value a token must have for boundary M: the seed XOR bits 31:0 of M (R244). -/
def tokenFor (s : State) : Word := s.rd Reg.LSW_WDSEED ^^^ BitVec.ofNat 32 s.frame.toNat

/-- The watchdog runs in IDLE, RUN, LIMP and SAFE (R254). -/
def watchdogOn (s : State) : Bool := gaugeRuns s

/-- Step (4) of R19 for one bank: BADTOK, MISS and expiry (R244, R245); the frame number is already that of the boundary.
The answer says whether the bank expires now, with its MISS. -/
def State.watchdog (s : State) (b : Nat) : State × Option Nat :=
  let x := s.bank b
  let toks := x.tokNext
  let moved := { x with tokNext := x.tokAfter, tokAfter := [], fresh := false }
  if !(s.flag (Reg.BCFG b) 8 && watchdogOn s) || x.fresh then (s.setBank b moved, none)
  else
    let valid := toks.any (fun v => decide (v = tokenFor s))
    let bad := toks.any (fun v => decide (v ≠ tokenFor s))
    let s1 := s.iff bad (fun t => t.setFlag (Reg.BSTAT b) 6 true)
    let miss := if valid then 0 else min 64 (s.rf (Reg.BSTAT b) 8 7 + 1)
    let s2 := s1.setFld (Reg.BSTAT b) 8 7 miss
    let expires := !valid && !x.expired && decide (s.rf (Reg.BCFG b) 16 6 + 1 ≤ miss)
    let s3 := s2.setBank b { moved with lastValid := valid, expired := x.expired || expires }
    if expires then
      (((s3.setFlag (Reg.BSTAT b) 2 true).count Reg.LSW_CNT 0 16 1).settleBank b, some miss)
    else (s3, none)

/-- A write of 1 to WDEXP: accepted only when the last evaluated boundary had a valid token (R246). -/
def State.wdexpClear (s : State) (b : Nat) : State :=
  if (s.bank b).lastValid then s.setFlag (Reg.BSTAT b) 2 false else s

/-- From the boundary after its clear, an expired bank's channels follow their inputs again (R246), and unlocked channels
theirs (R239). -/
def State.releaseBanks (s : State) : State :=
  let s := each lswBanks (fun b t =>
    if (t.bank b).expired && !t.flag (Reg.BSTAT b) 2 then t.setBank b { t.bank b with expired := false } else t) s
  eachOf (s.lsw.ch.map (·.1)) (fun c t => if (t.lch c).unlocking then t.setLch c { t.lch c with unlocking := false } else t) s

/-! ### Retry (R236 to R239) -/

/-- The retry is decided (R238): while TLATCH is set nothing is scheduled; below RMAX the retry timer starts; at RMAX the
channel locks off. The answer says whether it locked. -/
def State.decideRetry (s : State) (c : Nat) : State × Bool :=
  let x := s.lch c
  let w := s.rd (Reg.CH_STAT c)
  if bit w 3 then (s.setLch c { x with retryDue := true }, false)
  else if fld w 16 4 < fld x.rty 28 4 then
    (((s.setLch c { x with retryDue := false, retryAt := s.now }).setFlag (Reg.CH_STAT c) 4 true).settle c, false)
  else (((s.setLch c { x with retryDue := false }).setFlag (Reg.CH_STAT c) 5 true).settle c, true)

/-- A write of 1 to LOCK: cleared with RTYCNT, but not while TLATCH is set; the channel follows its input from the next
boundary (R239). -/
def State.lockClear (s : State) (c : Nat) : State :=
  let w := s.rd (Reg.CH_STAT c)
  if bit w 5 ∧ ¬ bit w 3 then
    (s.wr (Reg.CH_STAT c) (put (put w 5 1 0) 16 4 0)).setLch c { s.lch c with unlocking := true }
  else s

end Sys2Proof.Machine
end

