-- ==== Sys2Proof/Machine/Profile.lean ====
section
/-! DEFINITION. The jerk-limited profile of the motion generators in continuous time (R261 to R263): positions, velocities and accelerations in
units of 2^-32 of the spec's units, times in units of 2^-64 s. The spec gives the shape and the limits; the choice among the profiles that keep
them is log entry 6. -/
namespace Sys2Proof.Machine

/-- Where an axis is on its profile: position, velocity, acceleration. -/
structure Kin where
  x : Int
  v : Int
  a : Int
  deriving DecidableEq, Repr

/-- After a time at constant jerk. -/
def Kin.after (k : Kin) (j : Int) (t : Nat) : Kin :=
  { x := k.x + k.v * t / 2 ^ 64 + k.a * t * t / 2 ^ 129 + j * t * t * t / (6 * 2 ^ 192),
    v := k.v + k.a * t / 2 ^ 64 + j * t * t / 2 ^ 129,
    a := k.a + j * t / 2 ^ 64 }

/-- The state at a time of a profile; past its end the velocity is constant. -/
def sampleAt : List JerkSeg → Nat → Kin → Kin
  | [], t, k => { k with a := 0 }.after 0 t
  | g :: r, t, k => if t < g.len then k.after g.jerk t else sampleAt r (t - g.len) (k.after g.jerk g.len)

def segsTime (gs : List JerkSeg) : Nat := gs.foldl (fun n g => n + g.len) 0

/-- The state at the end of a profile. -/
def segsEnd (gs : List JerkSeg) (k : Kin) : Kin := sampleAt gs (segsTime gs) k

/-- Floor of a square root of up to 256 bits. -/
def isqrtWide (n : Nat) : Nat := isqrtGo n 128 0

/-- The time in which an acceleration changes by `d` at jerk `j` (units/s³). -/
def jerkTime (d : Int) (j : Nat) : Nat := d.natAbs * 2 ^ 32 / j

/-- The change of velocity while an acceleration falls to zero at jerk `j`. -/
def fallOff (a : Int) (j : Nat) : Int := a * a.natAbs / (2 * j * 2 ^ 32)

/-- The three segments that bring an axis from one velocity and acceleration to another velocity with no acceleration, at jerk `j` and with an
acceleration of at most `lim` (both above 0): the jerk raises the acceleration, it is held, and the jerk lowers it. A speed lowered from zero
acceleration takes dv ÷ lim + lim ÷ j whether or not the limit is reached, as the stopping distance of R263 requires. -/
def rampSegs (j lim : Nat) (v a v1 : Int) : List JerkSeg :=
  let d := v1 - v - fallOff a j
  let jj : Int := j * 2 ^ 32
  if d = 0 then (if a = 0 then [] else [⟨if 0 < a then -jj else jj, jerkTime a j⟩])
  else
    let sg : Int := if 0 < d then 1 else -1
    let dv := sg * (v1 - v)
    let b := sg * a
    let top : Int := lim * 2 ^ 32
    if b = 0 ∧ v1.natAbs < v.natAbs ∧ dv * j * 2 ^ 32 < top * top then
      let half : Nat := ((dv * 2 ^ 32).toNat / lim + lim * 2 ^ 64 / j) / 2
      let peak := dv * 2 ^ 64 / half
      let jk := sg * (peak * 2 ^ 64 / half)
      [⟨jk, half⟩, ⟨-jk, half⟩]
    else
      let peak : Int := isqrtWide (j * 2 ^ 32 * dv + b * b / 2).toNat
      if peak ≤ top then [⟨sg * jj, jerkTime (peak - b) j⟩, ⟨-(sg * jj), jerkTime peak j⟩]
      else
        let rise : Int := if b ≤ top then (2 * top * top - b * b) / (2 * jj) else b * b / (2 * jj)
        [⟨if b ≤ top then sg * jj else -(sg * jj), jerkTime (top - b) j⟩, ⟨0, ((dv - rise) * 2 ^ 64 / top).toNat⟩,
         ⟨-(sg * jj), jerkTime top j⟩]

/-- The limits of a profile as numbers: units/s, units/s², units/s², units/s³. -/
structure Bounds where
  vmax : Nat
  amax : Nat
  dmax : Nat
  jerk : Nat
  deriving DecidableEq, Repr

/-- The ramp between two velocities of one sign: AMAX bounds it when the speed rises, DMAX when it falls (R261). -/
def Bounds.ramp (l : Bounds) (v a v1 : Int) : List JerkSeg :=
  rampSegs l.jerk (if v.natAbs < (v1 - fallOff a l.jerk).natAbs then l.amax else l.dmax) v a v1

/-- The deceleration to standstill, and the distance it takes. -/
def Bounds.stop (l : Bounds) (v a : Int) : List JerkSeg := rampSegs l.jerk l.dmax v a 0
def Bounds.stopWay (l : Bounds) (v a : Int) : Int := (segsEnd (l.stop v a) ⟨0, v, a⟩).x

/-- The way of a move that ramps to a cruising velocity and from it to standstill. -/
def Bounds.way (l : Bounds) (v a vc : Int) : Int := (segsEnd (l.ramp v a vc) ⟨0, v, a⟩).x + l.stopWay vc 0

/-- The greatest number from `r` up to `hi`, by bits from `k - 1` down, that passes a test. -/
def greatest (hi : Nat) (ok : Nat → Bool) : Nat → Nat → Nat
  | 0, r => r
  | k + 1, r =>
    let c := r + 2 ^ k
    greatest hi ok k (if c ≤ hi && ok c then c else r)

/-- A move over a distance ahead (`d` and `v` not negative) that does not pass it: ramp, cruise, stop (R261). -/
def Bounds.forward (l : Bounds) (d v a : Int) : List JerkSeg :=
  let top := l.vmax * 2 ^ 32
  let vc : Int := greatest top (fun c => decide (l.way v a c ≤ d)) 65 (if a = 0 ∧ v ≤ top then v.toNat else 0)
  let left := d - l.way v a vc
  l.ramp v a vc ++ (if 0 < left ∧ 0 < vc then [⟨0, (left * 2 ^ 64 / vc).toNat⟩] else []) ++ l.stop vc 0

/-- A profile turned round. -/
def mirror (gs : List JerkSeg) : List JerkSeg := gs.map (fun g => ⟨-g.jerk, g.len⟩)

/-- A move in either direction that does not pass its target. -/
def Bounds.straight (l : Bounds) (d v a : Int) : List JerkSeg :=
  if v < 0 ∨ v = 0 ∧ (a < 0 ∨ a = 0 ∧ d < 0) then mirror (l.forward (-d) (-v) (-a)) else l.forward d v a

/-- The target lies behind a moving axis, or closer than its stopping distance (R262): half a unit decides. -/
def Bounds.passes (l : Bounds) (d v a : Int) : Bool :=
  if v = 0 ∧ a = 0 then false
  else if v < 0 ∨ v = 0 ∧ a < 0 then decide (2 * l.stopWay v a < 2 * d - 2 ^ 32) || decide (0 < d)
  else decide (2 * d + 2 ^ 32 < 2 * l.stopWay v a) || decide (d < 0)

/-- A profile, and the time of the standstill at which it turns back, if it does (R262). -/
def Bounds.toPosition (l : Bounds) (d v a : Int) : List JerkSeg × Nat :=
  if l.passes d v a then
    let st := l.stop v a
    (st ++ l.straight (d - l.stopWay v a) 0 0, segsTime st)
  else (l.straight d v a, 0)

/-- A ramp to a velocity (R259): one of the opposite sign goes through standstill (R262). -/
def Bounds.toVelocity (l : Bounds) (v a v1 : Int) : List JerkSeg × Nat :=
  if v * v1 < 0 then
    let st := l.stop v a
    (st ++ l.ramp 0 0 v1, segsTime st)
  else (l.ramp v a v1, 0)

/-- A time in ns as one of the profile. -/
def profileTime (ns : Nat) : Nat := ns * 2 ^ 64 / 1000000000

/-- Where a plan has come to after a time, from the position where it began. -/
def AxisPlan.at (p : AxisPlan) (ns : Nat) : Kin :=
  let k := sampleAt p.segs (profileTime ns) ⟨0, p.v, p.a⟩
  if segsTime p.segs ≤ profileTime ns then { k with v := p.goal, a := 0 } else k

def AxisPlan.done (p : AxisPlan) (ns : Nat) : Bool := decide (segsTime p.segs ≤ profileTime ns)

end Sys2Proof.Machine
end

