-- ==== Sys2Proof/Machine/MotionOps.lean ====
section
/-! DEFINITION. An axis: its position (R257, R258), its stops (R266) and its driver (R272). -/
namespace Sys2Proof.Machine

/-- An axis, a port, a feedback channel and a sin/cos pair beside their registers. -/
def State.axs (s : State) (a : Nat) : Axis := SMap.get Axis.reset s.mot.ax a
def State.setAxs (s : State) (a : Nat) (x : Axis) : State := { s with mot := { s.mot with ax := SMap.set Axis.reset s.mot.ax a x } }
def Port.reset : Port := { ocA := false, ocB := false, lastA := 0, lastB := 0 }
def State.prt (s : State) (p : Nat) : Port := SMap.get Port.reset s.mot.port p
def State.setPrt (s : State) (p : Nat) (x : Port) : State := { s with mot := { s.mot with port := SMap.set Port.reset s.mot.port p x } }
def State.fbk (s : State) (n : Nat) : Fbk := SMap.get Fbk.reset s.mot.fb n
def State.setFbk (s : State) (n : Nat) (x : Fbk) : State := { s with mot := { s.mot with fb := SMap.set Fbk.reset s.mot.fb n x } }
def State.scp (s : State) (n : Nat) : Sc := SMap.get Sc.reset s.mot.sc n
def State.setScp (s : State) (n : Nat) (x : Sc) : State := { s with mot := { s.mot with sc := SMap.set Sc.reset s.mot.sc n x } }

/-- Position arithmetic is modulo 2^48 (R257). -/
def wrap48 (i : Int) : Nat := (i % (2 ^ 48 : Int)).toNat

/-- The signed 48-bit difference (R257). -/
def diff48 (a b : Nat) : Int := signed 48 (wrap48 ((a : Int) - b))

/-- The setpoint at the last servo boundary (AX_POS). -/
def axPos (s : State) (a : Nat) : Nat := s.rf (Reg.AX_POS_HI a) 0 16 * 2 ^ 32 + (s.rd (Reg.AX_POS_LO a)).toNat

def State.setAxPos (s : State) (a p : Nat) : State :=
  (s.wr (Reg.AX_POS_LO a) (BitVec.ofNat 32 p)).wr (Reg.AX_POS_HI a) (BitVec.ofNat 32 (p / 2 ^ 32 % 2 ^ 16))

/-- The velocity at the last servo boundary (AX_VEL), units/s. -/
def axVel (s : State) (a : Nat) : Int := (s.rd (Reg.AX_VEL a)).toInt

/-- An axis is at standstill: no velocity, no acceleration. -/
def axisStill (s : State) (a : Nat) : Bool := decide ((s.axs a).vel = 0) && decide ((s.axs a).acc = 0)

/-- The servo period of an axis in ns (R258). -/
def servoNs (s : State) (a : Nat) : Nat := s.rf (Reg.AX_CFG a) 8 8 * s.period

/-- The commanded position now: linear from the setpoint before to AX_POS over one servo period (R258). -/
def interpolated (s : State) (a : Nat) : Nat :=
  let x := s.axs a
  let dt := min (s.now - x.fromAt) x.span
  if x.span = 0 then axPos s a else wrap48 ((x.from_ : Int) + diff48 (axPos s a) x.from_ * dt / x.span)

/-- AX_STAT.STATE. -/
def State.axState (s : State) (a v : Nat) : State := s.setFld (Reg.AX_STAT a) 0 3 v

/-- The limits come into use: reads return them, and the profile is planned anew (R263, R286). -/
def State.useLimits (s : State) (a : Nat) (l : Limits) : State :=
  ((((s.setAxs a { s.axs a with plan := none, defLim := none }).wr (Reg.AX_VMAX a) (BitVec.ofNat 32 l.vmax)).wr (Reg.AX_AMAX a)
    (BitVec.ofNat 32 l.amax)).wr (Reg.AX_DMAX a) (BitVec.ofNat 32 l.dmax)).wr (Reg.AX_JMAX a) (BitVec.ofNat 32 l.jmax)

/-- Standstill has been reached: deferred limits apply, and REVERSE ends (R262, R263). -/
def State.axisRest (s : State) (a : Nat) : State :=
  let s1 := match (s.axs a).defLim with | some l => s.useLimits a l | none => s
  s1.setFlag (Reg.AX_STAT a) 13 false

/-- An accepted edge of an input that reference latches may have chosen (R273): source 0 a DIN pin, 1 the Z and 2 the A input of a feedback
channel. Only the first edge after LATCHED was cleared counts. -/
def State.refEdge (s : State) (src num : Nat) (rising : Bool) : State :=
  each 16 (fun a t =>
    let w := t.rd (Reg.AX_REF a)
    if bit w 31 ∧ fld w 19 2 = src ∧ fld w 0 5 = num ∧ bit w 28 ≠ rising ∧ ¬ t.flag (Reg.AX_STAT a) 6 ∧ (t.axs a).refAt.isNone then
      t.setAxs a { t.axs a with refAt := some t.now }
    else t) s

/-- An immediate stop (R266): the commanded position freezes at its interpolated value, velocity and acceleration become 0,
and the present and any waiting target are discarded. -/
def State.stopNow (s : State) (a : Nat) : State :=
  let p := interpolated s a
  let x := s.axs a
  let s1 := s.setAxs a { x with vel := 0, acc := 0, plan := none, from_ := p, fromAt := s.now, span := 0, restAt := min x.restAt s.now,
                                target := none, waiting := none, started := false, inc := none, repeats := 0, stopping := false,
                                newTgt := none, newInc := none }
  let s2 := ((s1.setAxPos a p).wr (Reg.AX_VEL a) 0).axisRest a
  if s.rf (Reg.AX_STAT a) 0 3 = 0 then s2 else s2.axState a 1

/-- A controlled stop (R266): from the next servo boundary the axis decelerates to standstill; STATE reads 5 until then. -/
def State.stopSoft (s : State) (a : Nat) : State :=
  let x := s.axs a
  let s1 := s.setAxs a { x with target := none, waiting := none, started := false, inc := none, repeats := 0, plan := none,
                                newTgt := none, newInc := none, stopping := !axisStill s a }
  if s.rf (Reg.AX_STAT a) 0 3 = 0 then s1 else s1.axState a (if axisStill s a then 1 else 5)

/-- The driver of an internal axis has no carrier, a port fault, or a disabled port (R272). -/
def driverDown (s : State) (a : Nat) : Bool :=
  s.sys.mode = .sill || s.sys.mode = .boot || pwmForced s (8 * a) || !s.flag (Reg.PWM_UCTRL a) 0
    || s.flag (Reg.PT_STAT a) 8 || !s.flag (Reg.PT_CFG a) 31

/-- Bring PWRDN of an internal axis to its driver's state: at power-down the axis takes an immediate stop, and with
HOLD_POS = 0 its position is no longer known (R272). -/
def State.driver (s : State) (a : Nat) : State :=
  let down := driverDown s a
  if down = s.flag (Reg.AX_STAT a) 4 then s
  else if down then
    let s1 := (s.stopNow a).setFlag (Reg.AX_STAT a) 4 true
    if s.flag (Reg.AX_CFG a) 27 then s1 else s1.setFlag (Reg.AX_STAT a) 14 false
  else s.setFlag (Reg.AX_STAT a) 4 false

/-- The drivers of all internal axes. -/
def State.drivers (s : State) : State := each 8 (fun a t => t.driver a) s

end Sys2Proof.Machine
end

