-- ==== Sys2Proof/Machine/Recorder.lean ====
section
/-! DEFINITION. The event recorder (R420 to R428): forming a record, rate limiting and summaries, the queue, the write to
MRAM with its chain hash and checkpoints. -/
namespace Sys2Proof.Machine

/-- Capacity of the record queue, of the recorder region, and of the signature queue (R420, R422, R425). -/
def recQueueCap : Nat := 64
def recSlots : Nat := 262144
def sigCap : Nat := 16

/-- The recorder runs: every mode but SILL and FREEZE (R430). -/
def recorderOn (s : State) : Bool := s.sys.mode ≠ .sill && s.sys.mode ≠ .freeze

/-- A record of the present instant (R13, R420). -/
def State.mkRec (s : State) (code sev : Nat) (detail : Word) (payload : List Word) : QRec :=
  { code := code, sev := sev, inj := false, injx := false, esc := false, frame := s.frame.toNat, offset := s.edge,
    optime := s.sys.optime, pcyc := s.rd Reg.SIL_PCYC |>.toNat, detail := detail, payload := payload, own := false }

/-- The place of a raise among those of one CORE cycle: real ones before injected ones, each in ascending source number (R411). -/
def raiseRank (inj : Bool) (src : Nat) : Nat := b2n inj * 512 + src

/-- The record is that of a raise. -/
def QRec.ofRaise (q : QRec) : Bool := decide (q.code < 512) && !q.own && !q.injx && !q.esc

/-- Two records are of raises on one CORE cycle, and the first one's is taken before the other's (R411). -/
def QRec.before (q y : QRec) : Bool :=
  q.ofRaise && y.ofRaise && decide (q.frame = y.frame) && decide (q.offset / 2 = y.offset / 2) && decide (raiseRank q.inj q.code < raiseRank y.inj y.code)

/-- The queue with a record behind every other, but before those of raises that its own precedes. -/
def placeRec (q : QRec) (l : List QRec) : List QRec :=
  let n := l.length - (l.reverse.takeWhile q.before).length
  l.take n ++ q :: l.drop n

/-- A record enters the queue; when it is full, a record of the recorder's own waits for the first free place and any other
is lost (R425). -/
def State.enqueue (s : State) (q : QRec) : State :=
  let r := s.rcd
  if r.queue.length + r.overdue.length < recQueueCap then { s with rcd := { r with queue := placeRec q r.queue } }
  else if q.own then { s with rcd := { r with overdue := r.overdue ++ [q] } }
  else
    let s := { s with rcd := { r with lost := r.lost + 1 } }
    (s.setFlag Reg.REC_STAT 4 true).count Reg.REC_CNT 0 16 1

/-! ### Rate limiting (R424) -/

/-- The REC_CODE entry of a code: enabled, burst, rate. -/
def recLimited (s : State) (k : Nat) : Bool := decide (k < 1024) && s.flag (Reg.REC_CODE k) 31

/-- The bucket of a code, refilled to the present operating time: RATE × 0.01 tokens a second, up to BURST. -/
def bucketNow (s : State) (k : Nat) : Bucket :=
  let burst := s.rf (Reg.REC_CODE k) 16 8 * 1000000
  let rate := s.rf (Reg.REC_CODE k) 0 16
  let b := SMap.get Bucket.none s.rcd.buckets k
  { b with micro := min burst (b.micro + (s.sys.optime - b.at_) * rate), at_ := s.sys.optime }

def State.setBucket (s : State) (k : Nat) (b : Bucket) : State :=
  { s with rcd := { s.rcd with buckets := SMap.set Bucket.none s.rcd.buckets k b } }

/-- The bucket of a code starts full; a run of suppressions stays open, with what it counted (R424). -/
def State.fillBucket (s : State) (k : Nat) : State :=
  s.setBucket k { SMap.get Bucket.none s.rcd.buckets k with micro := s.rf (Reg.REC_CODE k) 16 8 * 1000000, at_ := s.sys.optime }

/-- The summary record of the suppressed occurrences of a code (R421, R424). -/
def summaryRec (s : State) (k : Nat) (b : Bucket) : QRec :=
  { s.mkRec 514 b.sev (BitVec.ofNat 32 k)
      [BitVec.ofNat 32 b.count, BitVec.ofNat 32 b.firstFrame, BitVec.ofNat 32 b.firstOfs, BitVec.ofNat 32 b.lastFrame,
       BitVec.ofNat 32 b.lastOfs, 0, 0, 0] with own := true }

/-- A summary enters the queue. -/
def State.summary (s : State) (k : Nat) (b : Bucket) : State := s.enqueue (summaryRec s k b)

/-- The summary that a first suppression causes follows the record being written, which is the one at the head of the queue (R424). -/
def State.summaryNext (s : State) (k : Nat) (b : Bucket) : State :=
  let r := s.rcd
  let q := summaryRec s k b
  if r.queue.length + r.overdue.length < recQueueCap then { s with rcd := { r with queue := r.queue.take 1 ++ q :: r.queue.drop 1 } }
  else { s with rcd := { r with overdue := r.overdue ++ [q] } }

/-- A record of code k is written: a pending count goes ahead of it as a summary, and the run of suppressions ends (R424). -/
def State.passQ (s : State) (q : QRec) (cost : Nat) : State :=
  let k := q.code
  let b := bucketNow s k
  if cost = 0 ∧ ¬ b.run then s.enqueue q
  else
    let s1 := if 0 < b.count then s.summary k b else s
    (s1.setBucket k { b with micro := b.micro - cost, run := false, count := 0,
                             summed := if 0 < b.count then s.sys.optime else b.summed }).enqueue q

/-- A record of code k through its token bucket: written when a token is there, else suppressed and counted (R424). -/
def State.putQ (s : State) (q : QRec) : State :=
  if !recLimited s q.code then s.passQ q 0
  else
    let k := q.code
    let b := bucketNow s k
    if 1000000 ≤ b.micro then s.passQ q 1000000
    else if b.run then
      s.setBucket k { b with count := b.count + 1, sev := if b.count = 0 then q.sev else max b.sev q.sev,
                             firstFrame := if b.count = 0 then q.frame else b.firstFrame,
                             firstOfs := if b.count = 0 then q.offset else b.firstOfs, lastFrame := q.frame, lastOfs := q.offset }
    else
      let b1 := { b with run := true, count := 1, sev := q.sev, firstFrame := q.frame, firstOfs := q.offset,
                         lastFrame := q.frame, lastOfs := q.offset, summed := s.sys.optime }
      (s.summaryNext k b1).setBucket k { b1 with count := 0 }

/-- A record of code `code` at the present instant, through its bucket. -/
def State.putRec (s : State) (code sev : Nat) (detail : Word) (payload : List Word) : State :=
  s.putQ (s.mkRec code sev detail payload)

/-- A pending suppressed count is written as a summary, no sooner than 1 s after the last one (R424). -/
def State.summaryDue (s : State) (k : Nat) : State :=
  let b := SMap.get Bucket.none s.rcd.buckets k
  if b.run ∧ 0 < b.count ∧ b.summed + 10000 ≤ s.sys.optime then
    (s.summary k b).setBucket k { b with count := 0, summed := s.sys.optime }
  else s

/-! ### Writing to MRAM (R420, R422, R423) -/

/-- Words 0 to 13 of a record (R420). -/
def recBody (q : QRec) (rseq : Word) (payload : List Word) : List Word :=
  [rseq, BitVec.ofNat 32 q.optime, BitVec.ofNat 32 (q.optime / 2 ^ 32 % 2 ^ 12 + q.offset % 2 ^ 20 * 2 ^ 12),
   BitVec.ofNat 32 (q.pcyc % 2 ^ 24 + q.sev % 4 * 2 ^ 24 + b2n q.inj * 2 ^ 26 + b2n q.injx * 2 ^ 27 + b2n q.esc * 2 ^ 28),
   BitVec.ofNat 32 (q.code % 2 ^ 16 + q.frame % 2 ^ 16 * 2 ^ 16), q.detail] ++ (payload ++ List.replicate 8 0#32).take 8

/-- The sixteen words of a record: the body, LINK and CRC (R420). -/
def recWords (q : QRec) (rseq : Word) (payload : List Word) (hash : List Byte) : List Word :=
  let ws := recBody q rseq payload ++ (wordsOf (hash.take 4)).take 1
  ws ++ [crc32c (bytesOfWords ws)]

/-- The severity field of a stored record. -/
def slotSev (ws : List Word) : Nat := fld (ws.getD 3 0) 24 2

/-- The age of a stored record against the oldest retained: its RSEQ less REC_OLDEST, modulo 2^32. -/
def slotAge (oldest : Word) (ws : List Word) : Nat := (ws.getD 0 0 - oldest).toNat

/-- The slot whose record is the oldest of those a condition picks. -/
def oldestSlot (oldest : Word) (p : List Word → Bool) (m : SMap (List Word)) : Option (Nat × List Word) :=
  m.foldl (fun acc x =>
    if p x.2 then
      (match acc with
       | none => some x
       | some y => if slotAge oldest x.2 < slotAge oldest y.2 then some x else some y)
    else acc) none

/-- How many records ago an RSEQ was the next: 0 for one still to come, which lies less than 2^31 ahead (R427). -/
def recBack (s : State) (seq : Word) : Nat :=
  if 0 < (seq - s.rd Reg.REC_HEAD).toInt then 0 else (s.rd Reg.REC_HEAD - seq).toNat

/-- A record that a freeze protects: RSEQ from REC_RDSTART to REC_FRZSEQ - 1 in RDMODE 0 (R427). -/
def frozenRec (s : State) (ws : List Word) : Bool :=
  s.flag Reg.REC_STAT 0 && decide (s.rf Reg.REC_CFG 0 1 = 0) && decide (recBack s (s.rd Reg.REC_FRZSEQ) < recBack s (ws.getD 0 0))
    && decide (recBack s (ws.getD 0 0) ≤ recBack s (s.rd Reg.REC_RDSTART))

/-- Where a record of severity `sev` goes: a free slot, or the slot of the oldest record of no higher severity (R423). -/
inductive SlotFor where
  | slot (n : Nat) | tooHigh | frozen
  deriving DecidableEq, Repr

def chooseSlot (s : State) (sev : Nat) : SlotFor :=
  if s.rcd.slots.length < recSlots then .slot s.rcd.slots.length
  else match oldestSlot (s.rd Reg.REC_OLDEST) (fun ws => decide (slotSev ws ≤ sev)) s.rcd.slots with
    | none => .tooHigh
    | some x => if frozenRec s x.2 then .frozen else .slot x.1

/-- A checkpoint or signature record. -/
def isSeal (code : Nat) : Bool := code = 516 || code = 517 || code = 518

/-- A checkpoint record, to be written next (R422). -/
def checkpoint (s : State) (sev : Nat) : QRec := { s.mkRec 516 sev 0 [] with own := true }

/-- Whether a checkpoint follows the record just written (R422): after SAFE and HALT records, at power-up, and every IVL. -/
def checkpointDue (s : State) (q : QRec) : Bool :=
  !isSeal q.code && (decide (2 ≤ q.sev) || decide (q.code = 515)
    || (decide (0 < s.rf Reg.REC_CFG 16 16) && decide (s.rf Reg.REC_CFG 16 16 ≤ s.rcd.since)))

/-- The request that the public-key engine serves next: checkpoints first, then an image check that has come to its signature, a key command
that needs the engine, and a report (R455). -/
def nextJob (s : State) : Option PkJob :=
  if !s.rcd.sigs.isEmpty then some .checkpoint
  else if s.sched.verify.any (fun x => decide (x.2.code ≠ 1)) then some .image
  else if s.peg.running.isSome && s.peg.keyWaits then some .key
  else if s.peg.report.isSome then some .report
  else none

/-- A free engine begins the next request; an operation in progress runs to its end (R455). -/
def State.pkNext (s : State) : State := if s.peg.serving.isSome then s else { s with peg := { s.peg with serving := nextJob s } }

/-- The operation in progress has ended. -/
def State.pkDone (s : State) : State := ({ s with peg := { s.peg with serving := none } }).pkNext

/-- Peg is asked to sign a checkpoint; the seventeenth waiting one stays unsigned (R422), and every one once the identity key has failed its
check (R437). -/
def State.askSign (s : State) (w : SigWait) : State :=
  if s.flag Reg.PEG_STAT 5 then s
  else if s.rcd.sigs.length < sigCap then
    (({ s with rcd := { s.rcd with sigs := s.rcd.sigs ++ [w] } }).setFlag Reg.REC_STAT 1 true).pkNext
  else s.setFlag Reg.REC_STAT 7 true

/-- The record at the head of the queue is in MRAM slot `n`: RSEQ, chain hash, oldest record, and what follows it. -/
def State.writeRec (s : State) (q : QRec) (n : Nat) : State :=
  let r := s.rcd
  let rseq := s.rd Reg.REC_HEAD
  let payload := if q.code = 516 then wordsOf r.hashPrev else q.payload
  let ws := recWords q rseq payload r.hash
  let h := sha256 (r.hash ++ bytesOfWords ws)
  let slots := SMap.set [] r.slots n ws
  let oldest := match oldestSlot (s.rd Reg.REC_OLDEST) (fun _ => true) slots with
    | some x => x.2.getD 0 0
    | none => rseq
  let s0 := s.mramWritten 4 (64 * n) 64
  let s1 := { s0 with rcd := { r with slots := slots, hash := h, hashPrev := r.hash,
                                      since := if q.code = 516 then 0 else if isSeal q.code then r.since else r.since + 1 } }
  let s2 := ((s1.wr Reg.REC_HEAD (rseq + 1)).wr Reg.REC_OLDEST oldest)
  let s3 := if q.code = 516 then s2.askSign ⟨rseq, q.sev, h⟩ else s2
  if checkpointDue s3 q then { s3 with rcd := { s3.rcd with queue := checkpoint s3 q.sev :: s3.rcd.queue } } else s3

/-- After a place has freed: a record the recorder owes enters first, then the record of code 520 for those lost (R425). -/
def State.refill (s : State) : State :=
  let r := s.rcd
  let s1 := match r.overdue with
    | q :: qs => if r.queue.length < recQueueCap then { s with rcd := { r with queue := r.queue ++ [q], overdue := qs } } else s
    | [] => s
  if 0 < s1.rcd.lost then
    let n := s1.rcd.lost
    ({ s1 with rcd := { s1.rcd with lost := 0 } }).enqueue { s1.mkRec 520 1 (BitVec.ofNat 32 n) [] with own := true }
  else s1

/-- One advance of the operating time, which a recorder freeze counts (R427). -/
def State.recAdvance (s : State) : State := { s with rcd := { s.rcd with frozen := s.rcd.frozen + 1 } }

/-- The write of the record at the head of the queue completes, or the record is dropped (R423, R427). -/
def State.recordWritten (s : State) : State :=
  match s.rcd.queue with
  | [] => s
  | q :: qs =>
    let s1 := { s with rcd := { s.rcd with queue := qs } }
    let s2 := match chooseSlot s1 q.sev with
      | .slot n => s1.writeRec q n
      | .tooHigh => (s1.setFlag Reg.REC_STAT 5 true).count Reg.REC_CNT 16 16 1
      | .frozen => (s1.setFlag Reg.REC_STAT 6 true).count Reg.REC_CNT 16 16 1
    s2.refill

/-- The recorder queue is written out, first to last; checkpoints that follow are written too. The bound is the queue's
capacity with a checkpoint behind every record. -/
def drainRecords : Nat → State → State
  | 0, s => s
  | k + 1, s => if s.rcd.queue.isEmpty then s else drainRecords k s.recordWritten

def State.drainAll (s : State) : State := drainRecords (4 * recQueueCap) s

/-- The oldest waiting checkpoint is signed over its chain hash H(c), with the number the random generator draws: its two signature records, r
and then s (R421, R422). -/
def State.sealCheckpoint (s : State) (k : BitVec 256) : State :=
  match s.rcd.sigs with
  | [] => s
  | w :: ws =>
    let sg := ecdsaSign w.hash k
    let s1 := ({ s with rcd := { s.rcd with sigs := ws } }).pkDone
    let s2 := s1.iff ws.isEmpty (fun t => t.setFlag Reg.REC_STAT 1 false)
    let q (code v : Nat) : QRec := { s2.mkRec code w.sev w.rseq (wordsOf (beBytes 32 v)) with own := true }
    (s2.enqueue (q 517 sg.1)).enqueue (q 518 sg.2)

/-- Checkpoints that wait stay unsigned once the identity key has failed its check (R437, R456). -/
def State.signNone (s : State) : State :=
  (({ s with rcd := { s.rcd with sigs := [] } }).setFlag Reg.REC_STAT 1 false).iff (decide (s.peg.serving = some PkJob.checkpoint)) State.pkDone

end Sys2Proof.Machine
end

