-- ==== Sys2Proof/Machine/TxnOps.lean ====
section
/-! DEFINITION. The transaction slot (R118 to R128): opening, writing the shadow bank, rolling back, and the result words. -/
namespace Sys2Proof.Machine

/-- STATUS codes of R121. -/
inductive TxnStatus where
  | accepted | busy | notOwner | noTxn | limit | mode | range | sched | timeout | rolled | late | auth
  deriving DecidableEq, Repr

def TxnStatus.code : TxnStatus → Nat
  | .accepted => 0 | .busy => 1 | .notOwner => 2 | .noTxn => 3 | .limit => 4 | .mode => 5 | .range => 6 | .sched => 7
  | .timeout => 8 | .rolled => 9 | .late => 10 | .auth => 11

/-- OWNER of TXN_STAT: 0 none, 1 host, 2 engines, 3 twin (R130). -/
def Holder.code : Holder → Nat
  | .none => 0 | .host _ => 1 | .engines _ => 2 | .twin _ => 3

/-- STATE of TXN_STAT (R130). -/
def TxnState.code : TxnState → Nat
  | .free => 0 | .opened => 1 | .checking => 2 | .pending => 3

/-- Capacity of the shadow bank (R120, table 1 of R123). -/
def shadowCap : Nat := 4096

/-- A new result stands in TXN_STAT: the status, and with a LIMIT refusal its table, instance, limit and count, which stay until the next one;
TXN in HP_ISTAT (R121, R122, R130, R375). -/
def State.txnResult (s : State) (st : TxnStatus) (table unit limit count : Nat) : State :=
  let s1 := s.setFld Reg.TXN_STAT 8 8 st.code
  let s2 := if st = .limit then
      ((s1.setFld Reg.TXN_STAT 16 8 table).setFld Reg.TXN_STAT 24 4 unit).wr Reg.TXN_LIMIT
        (BitVec.ofNat 32 (min 65535 count * 2 ^ 16 + limit % 2 ^ 16))
    else s1
  s2.irq 2

/-- A result without a table. -/
def State.txnStatus (s : State) (st : TxnStatus) : State := s.txnResult st 0 0 0 0

/-- The record of a refusal, rollback or timeout (R126, R421): owner, then status, table, unit, limit and count. -/
def State.txnRecord (s : State) (owner : Nat) (st : TxnStatus) (table unit limit count : Nat) : State :=
  s.putRec 512 0 (BitVec.ofNat 32 owner)
    [BitVec.ofNat 32 st.code, BitVec.ofNat 32 table, BitVec.ofNat 32 unit, BitVec.ofNat 32 limit, BitVec.ofNat 32 count, 0, 0, 0]

/-- The slot becomes free and the shadow bank empty. -/
def State.txnFree (s : State) : State := { s with txn := Txn.reset }

/-- A rollback of the open transaction with a status: ROLLED by its owner, TIMEOUT by the device (R125, R127). -/
def State.txnRollback (s : State) (st : TxnStatus) : State :=
  let owner := s.txn.holder.code
  ((s.txnFree).txnStatus st).txnRecord owner st 0 0 0 0

/-- A refusal of a command: the status and its record (R121, R126). -/
def State.txnRefuse (s : State) (owner : Nat) (st : TxnStatus) : State := (s.txnStatus st).txnRecord owner st 0 0 0 0

/-- The slot is discarded by a reset or by entry to SILL: no status and no record, and TXN_STAT reads its reset value
(R126, R128). -/
def State.txnDiscard (s : State) : State := (s.txnFree).wr Reg.TXN_STAT (Reg.resetOf Reg.TXN_STAT)

/-- Distinct registers written in the open transaction (TXN_WRCNT). -/
def txnCount (s : State) : Nat := s.txn.shadow.length + s.txn.beyond.length

/-- A TX write of the owner into the shadow bank: a later write to the same register replaces the earlier one, and words
beyond the capacity are counted but not stored (R120). -/
def State.shadowWrite (s : State) (a : Nat) (v : Word) : State :=
  let t := s.txn
  if t.shadow.any (fun x => decide (x.1 = a)) ∨ t.shadow.length < shadowCap then
    { s with txn := { t with shadow := SMap.insert t.shadow a v, idle := 0 } }
  else if t.beyond.contains a then { s with txn := { t with idle := 0 } }
  else { s with txn := { t with beyond := t.beyond ++ [a], idle := 0 } }

/-- A COMMIT (R121): owner and token are checked first; an open slot moves to CHECKING, and the boundary at which it would
apply is fixed by its arrival (R23). A further COMMIT of the owner gives LATE (R125). -/
def State.txnCommit (s : State) (h : Holder) (waiter : Option Nat) : State :=
  match s.txn.state with
  | .free => s.txnRefuse h.code (if s.sys.mode = .boot then .mode else .noTxn)
  | .opened =>
    if s.txn.holder = h then
      { s with txn := { s.txn with state := .checking, waiter := waiter,
                                   applyAt := (s.frame.toNat + (if s.closed then 2 else 1)) % 2 ^ 48 } }
    else s.txnRefuse h.code .notOwner
  | _ => if s.txn.holder = h then s.txnRefuse h.code .late else s.txnRefuse h.code .notOwner

/-- A ROLLBACK (R125). -/
def State.txnRollbackCmd (s : State) (h : Holder) : State :=
  match s.txn.state with
  | .free => s.txnRefuse h.code (if s.sys.mode = .boot then .mode else .noTxn)
  | .opened => if s.txn.holder = h then s.txnRollback .rolled else s.txnRefuse h.code .notOwner
  | _ => if s.txn.holder = h then s.txnRefuse h.code .late else s.txnRefuse h.code .notOwner

/-- The engines' transaction of a task is rolled back, when that task holds it and it has not been accepted (R89, R124,
R128). -/
def State.txnDropTask (s : State) (task : Nat) : State :=
  if (s.txn.state = .opened ∨ s.txn.state = .checking) ∧ s.txn.holder = .engines task then s.txnRollback .rolled else s

end Sys2Proof.Machine
end

