-- ==== Sys2Proof/Machine/Faults.lean ====
section
/-! DEFINITION. Engine reset (R90) and the fault collector (R407 to R419, R520, R521): ONE shared operation that takes a
raise, and the ends of a reaction. -/
namespace Sys2Proof.Machine

/-! ### Engines: reading, writing, reset -/

/-- An engine. -/
def State.en (s : State) (e : Nat) : Eng := SMap.get Eng.reset s.eng e

def State.setEn (s : State) (e : Nat) (x : Eng) : State := { s with eng := SMap.set Eng.reset s.eng e x }

/-- The task of the slice an engine runs (R43). -/
def Eng.task (x : Eng) : Nat := fld x.slice 0 8

/-- The slot 1 that has issued with an abandoned slot 0 (R89). -/
def Eng.slot1 (x : Eng) : Option Slot1 := x.old.map fun o => ⟨o.1, o.2, x.slice, x.pc⟩

/-- The engine runs a slice, which a FREEZE may have halted (R91). -/
def Eng.inSlice (x : Eng) : Bool := x.state = .run || x.state = .halted

/-- The stop of an engine reset (R90): its registers and stacks clear, its DMEM is zero with tag 0, and it is in REHASH; a slice that it ran
is abandoned with no CAUSE, and its BLOCK stores already issued still arrive (R89). An engine that is OFF stays OFF (DEDUCED, log entry 12:
R91 gives it no image to hash). -/
def State.engineStop (s : State) (e : Nat) : State :=
  let x := s.en e
  if x.state = .off then s
  else
    let s1 := if x.inSlice then ((s.setFlag (Reg.BE_STAT e) 3 true).count (Reg.BE_ERR e) 8 8 1).txnDropTask x.task else s
    s1.setEn e { Eng.reset with imem := x.imem, imemErr := x.imemErr, stores := x.stores, state := .rehash, after := x.slot1.or x.after,
                                unitBad := x.unitBad }

/-! ### The collector -/

/-- Severity names of R412. -/
def sevNote : Nat := 0
def sevDegrade : Nat := 1
def sevSafe : Nat := 2
def sevHalt : Nat := 3

/-- The collector takes raises: not in SILL, not in FREEZE, and not from a declared power-fail on (R430, R496). The first boundary of BOOT begins
its frame 0, with which the model's BOOT begins (R41, R477). -/
def collectorOn (s : State) : Bool := s.sys.mode ≠ .sill && s.sys.mode ≠ .freeze && !s.sys.powerFail

/-- A source is enabled, and its configured severity (R408, R412). -/
def srcEnabled (s : State) (src : Nat) : Bool := s.flag (Reg.FLT_SRC src) 31
def srcSev (s : State) (src : Nat) : Nat := s.rf (Reg.FLT_SRC src) 0 2

/-- An enabled source of severity DEGRADE or higher is asserted (R414, R415). -/
def heldBySource (s : State) : Bool := s.flt.asserted.any (fun x => srcEnabled s x && decide (1 ≤ srcSev s x))

/-- A number put into an ascending list without repeats. -/
def insertNat (n : Nat) : List Nat → List Nat
  | [] => [n]
  | x :: xs => if n < x then n :: x :: xs else if n = x then x :: xs else x :: insertNat n xs

/-- R409: the count, the sticky bit and the detail of every raise, enabled or not. -/
def State.latchRaise (s : State) (src : Nat) (det : Word) : State :=
  (((s.count (Reg.FLT_SST src) 8 8 1).setFlag (Reg.FLT_SST src) 0 true)).wr (Reg.FLT_SDET src) det

/-- The capture of FLT_FIRST is of the present CORE cycle, and the raise given is taken before it (R411). -/
def beforeFirst (s : State) (src : Nat) (inj : Bool) : Bool :=
  let w := s.rd Reg.FLT_FIRST
  decide (s.rd Reg.FLT_FIRSTFRM = BitVec.ofNat 32 s.frame.toNat) && decide ((s.rd Reg.FLT_FIRSTOFS).toNat / 2 = s.edge / 2)
    && decide (raiseRank inj src < raiseRank (bit w 30) (fld w 16 9))

/-- R410: the first raise after VALID was cleared is captured, of several on one CORE cycle the first that R411 takes. -/
def State.captureFirst (s : State) (src sev : Nat) (det : Word) (inj : Bool) : State :=
  if s.flag Reg.FLT_FIRST 31 ∧ ¬ beforeFirst s src inj then s
  else
    (((s.wr Reg.FLT_FIRST (BitVec.ofNat 32 (2 ^ 31 + b2n inj * 2 ^ 30 + sev * 2 ^ 28 + src % 2 ^ 9 * 2 ^ 16))).wr
      Reg.FLT_FIRSTDET det).wr Reg.FLT_FIRSTFRM (BitVec.ofNat 32 s.frame.toNat)).wr Reg.FLT_FIRSTOFS (BitVec.ofNat 32 s.edge)

/-- The order of preference among sources that set a force on one EDGE tick (R216): pins by number, the collector, a port. -/
def forceRank (cause first : Nat) : Nat := if cause = 1 then first else 14 + cause

/-- Set a PWM unit's fault latch with its first source: 1 pin, 2 collector, 3 port; of several on one EDGE tick the preferred one (R216). -/
def State.forceUnit (s : State) (u cause first : Nat) : State :=
  let a := Reg.PWM_UFSTAT u
  let set := s.wr a (put (put (put (s.rd a) 0 1 1) 4 2 cause) 16 4 first)
  if s.flag a 0 then
    (if SMap.get 0 s.pwm.forcedAt u = s.now ∧ forceRank cause first < forceRank (s.rf a 4 2) (s.rf a 16 4) then set else s)
  else { set with pwm := { set.pwm with forcedAt := SMap.set 0 set.pwm.forcedAt u s.now } }

/-- The isolators that a HALT reaction opens (R241, R412). -/
def State.haltIsolators (s : State) : State := each lswBanks (fun b t => if t.flag (Reg.BCFG b) 2 then t.openIso b else t) s

/-- The hardware safe state (R412): every PWM unit with COLL = 1 is forced, internal axis drivers lose their carrier and
power down (R272), and the channels of banks with COLL = 1 take their FS pattern. -/
def State.enterSafeState (s : State) : State :=
  let s1 := each 24 (fun u t => if t.flag (Reg.PWM_UFLT u) 31 then t.forceUnit u 2 0 else t) s
  s1.drivers.settleAll

/-- The raise that last restarted the quiet period, after one more: of several on one CORE cycle the last that R411 takes. -/
def lastRaise (old : Option LastRaise) (new : LastRaise) : Option LastRaise :=
  match old with
  | some l => if l.cycle = new.cycle ∧ new.rank < l.rank then some l else some new
  | none => some new

/-- A raise of an enabled source begins a reaction or raises the one in force, and restarts the quiet period and the interval of the decay
(R412, R414, R417, R521); the device is suspect from it (R388). -/
def State.react (s : State) (inj : Bool) (src sev : Nat) (det : Word) (payload : List Word) : State :=
  if sev = 0 then s
  else
    let f := s.flt
    let old := f.reaction
    let new := max old sev
    let s1 := { s with flt := { f with reaction := new, raised := if old = 0 then [src] else insertNat src f.raised,
                                       last := lastRaise f.last ⟨s.now / 2, raiseRank inj src, src, det, payload⟩,
                                       halt := f.halt || decide (new = 3), quiet := 0, calm := 0 },
                       tru := { s.tru with suspect := true } }
    let s2 := if old < 2 ∧ 2 ≤ new then s1.enterSafeState else s1
    if old < 3 ∧ new = 3 then s2.haltIsolators else s2

/-- The payload of a raise's record (R421): FLT_SST after the raise in word 0; for a software fault G1 to G6 of the raising
engine in words 2 to 7; for a Dowel mismatch the failing value, its tag and its address in words 2 to 4. -/
def raisePayload (s : State) (src : Nat) (det : Word) (dowel : List Word) : List Word :=
  let sst := s.rd (Reg.FLT_SST src)
  if src < 16 then
    let r := (s.en (fld det 16 3)).rf
    [sst, 0] ++ (List.range 6).map (fun i => SMap.get 0 r.g (i + 1))
  else if 32 ≤ src ∧ src ≤ 45 then ([sst, 0] ++ dowel ++ List.replicate 8 0#32).take 8
  else [sst, 0, 0, 0, 0, 0, 0, 0]

/-- The armed injection is cancelled: a record with INJX follows the real record, when the cancel came from a raise (R419). The injection
did not fire, so the record carries no INJ (DEDUCED, log entry 41). -/
def State.cancelInjection (s : State) (record : Bool) : State :=
  match s.flt.inj with
  | none => s
  | some i =>
    let s1 := ({ s with flt := { s.flt with inj := none } }).setFld Reg.FLT_INJST 0 2 3
    if record && s1.flag (Reg.FLT_SRC i.src) 4 then
      s1.putQ { s1.mkRec i.src (srcSev s1 i.src) i.det (raisePayload s1 i.src i.det []) with injx := true }
    else s1

/-- The engine named in the detail of a raise; none where the source's detail names no engine (R407, R408). -/
def detailEngine (src : Nat) (det : Word) : Option Nat :=
  if src < 16 ∨ (32 ≤ src ∧ src < 40) ∨ (48 ≤ src ∧ src < 64) then some (fld det 16 3) else none

/-- One raise of source `src` with its detail (R409 to R412, R418 to R421, R520). Its parts in order: count and detail, first capture, reaction,
the engine reset of ERST, the record, the host interrupt, and the armed injection it overtakes; a real raise of a disabled source overtakes
an injection of it too (log entry 41). -/
def State.raiseOne (s : State) (inj : Bool) (src : Nat) (det : Word) (dowel : List Word) : State :=
  if !collectorOn s then s
  else
    let s1 := s.latchRaise src det
    if !srcEnabled s1 src then (if !inj && decide (s1.flt.inj.map (·.src) = some src) then s1.cancelInjection true else s1)
    else
      let sev := srcSev s1 src
      let pay := raisePayload s1 src det dowel
      let s2 := s1.captureFirst src sev det inj
      let s3 := s2.react inj src sev det pay
      let s4 := match detailEngine src det with
        | some e => if s3.flag (Reg.FLT_SRC src) 3 then s3.engineStop e else s3
        | none => s3
      let s5 := if s4.flag (Reg.FLT_SRC src) 4 then s4.putQ { s4.mkRec src sev det pay with inj := inj } else s4
      let s6 := if s5.rf Reg.HP_IEN 8 2 ≤ sev then s5.irq 4 else s5
      match s6.flt.inj with
      | some i => if inj then s6 else if i.src = src ∨ 2 ≤ s6.flt.reaction then s6.cancelInjection true else s6
      | none => s6

/-- The engine whose slice the ERST of a raise cuts off (R90, R408). -/
def erstCuts (s : State) (src : Nat) (det : Word) : Option Nat :=
  match detailEngine src det with
  | some e => if collectorOn s && srcEnabled s src && s.flag (Reg.FLT_SRC src) 3 && (s.en e).inSlice then some e else none
  | none => none

/-- The detail of an engine fault: the engine and its CAUSE, 0 for a reset (R90, R407). -/
def engineFault (e cause : Nat) : Word := BitVec.ofNat 32 (e * 2 ^ 16 + cause)

/-- A raise of a source, as its block reports it or as an injection does, and with it the engine fault of a slice that its ERST cuts off
(R90). -/
def State.raiseAs (s : State) (inj : Bool) (src : Nat) (det : Word) (dowel : List Word) : State :=
  let t := s.raiseOne inj src det dowel
  match erstCuts s src det with
  | some e => t.raiseOne false (48 + e) (engineFault e 0) []
  | none => t

/-- A raise by a block. -/
def State.raise (s : State) (src : Nat) (det : Word) : State := s.raiseAs false src det []

/-- An engine reset (R90), with the engine fault of the slice that it cuts off. -/
def State.engineReset (s : State) (e : Nat) : State :=
  if (s.en e).inSlice then (s.engineStop e).raise (48 + e) (engineFault e 0) else s.engineStop e

/-- A Dowel mismatch with the failing value, its tag and its address (R36, R61). -/
def State.raiseDowel (s : State) (src : Nat) (det val : Word) (tag : Byte) (addr : Word) : State :=
  s.raiseAs false src det [val, tag.zeroExtend 32, addr]

/-- A level source is asserted: a raise when it was not asserted before (R407). While the collector takes no raises, the raise waits until it does
(R430; DEDUCED, log entry 88). -/
def State.assert (s : State) (src : Nat) (det : Word) : State :=
  if s.flt.asserted.contains src then s
  else
    let s1 := ({ s with flt := { s.flt with asserted := insertNat src s.flt.asserted } }).setFlag (Reg.FLT_SST src) 1 true
    if collectorOn s1 then s1.raise src det
    else { s1 with flt := { s1.flt with waiting := SMap.insert s1.flt.waiting src det } }

/-- A level source is released; its sticky bit stays (R409). -/
def State.release (s : State) (src : Nat) : State :=
  ({ s with flt := { s.flt with asserted := s.flt.asserted.filter (fun x => decide (x ≠ src)), waiting := SMap.erase s.flt.waiting src } }).setFlag
    (Reg.FLT_SST src) 1 false

/-- A raise put among those that wait, in ascending source number, several of one source in their order; one exactly like another that waits is
not kept twice (log entry 88). -/
def addWaiting (src : Nat) (det : Word) : SMap Word → SMap Word
  | [] => [(src, det)]
  | x :: xs => if x = (src, det) then x :: xs else if src < x.1 then (src, det) :: x :: xs else x :: addWaiting src det xs

/-- A source that acts in FREEZE too is raised; there the collector is halted, and the raise waits until it works again (R430; DEDUCED, log
entry 88). -/
def State.raiseLater (s : State) (src : Nat) (det : Word) : State :=
  if s.sys.mode = .freeze then { s with flt := { s.flt with waiting := addWaiting src det s.flt.waiting } } else s.raise src det

/-- The collector works again: the raises that wait are taken, in ascending order (R411, R430). -/
def State.takeWaiting (s : State) : State :=
  if collectorOn s then eachOf s.flt.waiting (fun x t => t.raise x.1 x.2) { s with flt := { s.flt with waiting := [] } } else s

/-! ### Ending a reaction (R414 to R417) -/

/-- The reaction has ended; its forces stand until step (3) of the next boundary (R416). -/
def State.endReaction (s : State) (byClear : Bool) : State :=
  { s with flt := { s.flt with reaction := 0, raised := [], ending := s.flt.ending ++ [(s.flt.reaction, byClear)] } }

/-- HALT is latched in place of an automatic end, with its record (R417). -/
def State.escalate (s : State) : State :=
  let s1 := ({ s with flt := { s.flt with reaction := 3, halt := true } }).setFlag Reg.FLT_STAT 3 true
  let s2 := match s1.flt.last with
    | some l => s1.passQ { s1.mkRec l.src 3 l.det l.payload with esc := true } 0
    | none => s1
  s2.haltIsolators

/-- Every source raised while the reaction was in force may end by itself (R415). -/
def endsByItself (s : State) : Bool := s.flt.raised.all (fun x => s.flag (Reg.FLT_SRC x) 2)

/-- One advance of the operating time: the quiet period runs while no source holds it, and the interval of the decay while no reaction is in
force (R414, R417). A reaction starts that interval anew (DEDUCED, log entry 86). -/
def State.fltAdvance (s : State) : State :=
  { s with flt := { s.flt with quiet := if heldBySource s then s.flt.quiet else s.flt.quiet + 1,
                               calm := if s.flt.reaction = 0 then s.flt.calm + 1 else 0 } }

/-- The quiet period, FLT_QUIET.TIME × 10 ms of operating time, has run out (R414). -/
def quietRunOut (s : State) : Bool := decide (s.rf Reg.FLT_QUIET 0 13 * 100 ≤ s.flt.quiet)

/-- The quiet period has run out (R415, R417). -/
def State.quietOver (s : State) : State :=
  if s.flt.reaction = 0 ∨ s.flt.halt ∨ heldBySource s ∨ ¬ endsByItself s ∨ ¬ quietRunOut s then s
  else if s.flt.reaction < 2 then s.endReaction false
  else
    let n := s.rf Reg.FLT_RCNT 0 8
    let limit := s.rf Reg.FLT_RCFG 0 8
    if limit ≠ 0 ∧ limit ≤ n + 1 then s.escalate
    else (s.count Reg.FLT_RCNT 0 8 1).endReaction false

/-- A keyed CLEAR ends the reaction when no source holds it and HALT is not latched (R415). -/
def State.fltClear (s : State) : State :=
  if s.flt.reaction = 0 ∨ s.flt.halt ∨ heldBySource s then s else s.endReaction true

/-- A keyed RCLR, while no reaction is in force (R417). -/
def State.fltRclr (s : State) : State := if s.flt.reaction = 0 then s.setFld Reg.FLT_RCNT 0 8 0 else s

/-- Only CLEAR can end the reaction in force (R415). -/
def fltManual (s : State) : Bool := decide (s.flt.reaction ≠ 0) && !s.flt.halt && !endsByItself s

/-- Step (3) of the boundary at which the ends since the last one take effect (R416): the forces are withdrawn and a record of code 519 is
written for each. The channels' states are settled by the boundary itself. -/
def State.reactionEnds (s : State) : State :=
  eachOf s.flt.ending (fun e t => t.putRec 519 0 (BitVec.ofNat 32 e.1) [b2w e.2, BitVec.ofNat 32 (s.rf Reg.FLT_RCNT 0 8), 0, 0, 0, 0, 0, 0])
    { s with flt := { s.flt with ending := [] } }

end Sys2Proof.Machine
end

