-- ==== Sys2Proof/Machine/PwmUnits.lean ====
section
/-! DEFINITION. The PWM units (R197 to R222): shadows and period boundaries, carriers, pairs and dead time, sync events,
forces, enabling. -/
namespace Sys2Proof.Machine

/-- The carrier counters run in IDLE, RUN, LIMP, SAFE and SERVICE (R222). -/
def pwmRuns (s : State) : Bool := s.clocked && s.sys.mode ≠ .boot

/-- Everything that follows a channel's output takes its new level: the switch channel it feeds, and the drivers. -/
def State.pwmChanged (s : State) (c : Nat) : State := s.pwmMoved c

/-- The outputs of a whole unit have changed. -/
def State.unitChanged (s : State) (u : Nat) : State :=
  let s1 := each 8 (fun k t => t.pwmChanged (8 * u + k)) s
  if u < 8 then s1.driver u else s1

/-! ### Forces (R215 to R218) -/

/-- A unit ignores its fault pins while its blanking channel is at its active level as generated (R217). -/
def blanked (s : State) (u : Nat) : Bool :=
  s.flag (Reg.PWM_UFLT u) 24 && pwmCarrier s (s.rf (Reg.PWM_UFLT u) 16 8)

/-- The active pins that a unit's mask selects, when it is not blanked. -/
def unitPins (s : State) (u : Nat) : Nat :=
  if blanked s u then 0 else s.rf (Reg.PWM_UFLT u) 0 16 &&& s.rf Reg.PWM_FLTLVL 0 16

/-- A source of R216 is active for the unit: PWM_UFSTAT.ACTIVE. -/
def unitSource (s : State) (u : Nat) : Bool :=
  decide (unitPins s u ≠ 0) || (s.safeState && s.flag (Reg.PWM_UFLT u) 31) || (decide (u < 8) && s.flag (Reg.PT_STAT u) 8)

/-- The lowest-numbered bit set in a number below 2^16. -/
def lowestBit (n : Nat) : Nat := ((List.range 16).find? (fun i => n.testBit i)).getD 0

/-- The pins of a unit set its force, the lowest-numbered first (R216). -/
def State.pinForce (s : State) (u : Nat) : State :=
  let m := unitPins s u
  if m = 0 then s else (s.forceUnit u 1 (lowestBit m)).unitChanged u

/-- The blanking of every unit that was blanked in `old` and is blanked no more ends: a pin still active sets the force at once (R217). -/
def State.blankEnds (s old : State) : State := each 24 (fun u t => if blanked old u && !blanked t u then t.pinForce u else t) s

/-- Channels of enabled units keep SAFELVL until their next period boundary (R218). -/
def State.holdUnit (s : State) (u : Nat) : State :=
  if s.flag (Reg.PWM_UCTRL u) 0 then each 8 (fun k t => t.setPch (8 * u + k) { t.pch (8 * u + k) with held := true }) s else s

/-- A write of 1 to FLATCH: ignored while a source is active (R218). -/
def State.flatchClear (s : State) (u : Nat) : State :=
  if unitSource s u ∨ ¬ s.flag (Reg.PWM_UFSTAT u) 0 then s
  else
    let a := Reg.PWM_UFSTAT u
    ((s.wr a (put (put (put (s.rd a) 0 1 0) 4 2 0) 16 4 0)).holdUnit u).unitChanged u

/-! ### The period boundary (R199 to R204, R210 to R214, R220) -/

/-- The on-time or off-time D that a duty asks for in a period P (R200). -/
def dutyNs (cfg : Word) (p duty : Nat) : Nat :=
  if bit cfg 22 then (if duty = 0 then 0 else if 65535 ≤ duty then p else p * duty / 65536) else min duty p

/-- The active interval of a period, before any drop or hold (R199). -/
def carrierPlan (cfg : Word) (p duty : Nat) : Nat × Nat :=
  let d := dutyNs cfg p duty
  match fld cfg 26 3 with
  | 1 => ((p - d) / 2, (p - d) / 2 + d)
  | 3 => (d, p)
  | _ => (0, d)

/-- What becomes of an on-time and an off-time of an unpaired channel below MINPW (R210): the plan, and how many intervals
were dropped. -/
def dropShort (minpw p : Nat) (plan : Nat × Nat) : (Nat × Nat) × Nat :=
  let on := plan.2 - plan.1
  let off := p - on
  if 0 < on ∧ on < minpw then ((0, 0), 1) else if 0 < off ∧ off < minpw then ((0, p), 1) else (plan, 0)

/-- MINPW of a channel's unit, and the dead-time wait bound of a pair (R213). -/
def minPw (s : State) (c : Nat) : Nat := s.rf (Reg.PWM_UTIME (c / 8)) 0 12
def deadWait (s : State) (c : Nat) : Nat :=
  if s.flag (Reg.PWM_CHCFG c) 18 then s.rf (Reg.PWM_DT c) 16 11 else s.rf (Reg.PWM_DT c) 0 11

/-- The shadows transfer at a period boundary (R203, R204); none does while the channel is forced. -/
def State.transfer (s : State) (c : Nat) : State :=
  if pwmForced s c then s
  else
    let x := { s.pch c with held := false }
    let s1 := if x.newA then s.wr (Reg.PWM_CMPA c) x.shA else s
    let s2 := if x.newB then s1.wr (Reg.PWM_CMPB c) x.shB else s1
    let x := { x with newA := false, newB := false }
    let paired := bit x.cfg 21 && decide (fld x.cfg 26 3 ≤ 1)
    let both (t : State) : State :=
      let t1 := if x.newPer then t.wr (Reg.PWM_PER c) x.shPer else t
      let t2 := if x.newDuty then t1.wr (Reg.PWM_DUTY c) x.shDuty else t1
      t2.setPch c { x with newPer := false, newDuty := false, lone := 0 }
    if !paired || x.newPer == x.newDuty then both s2
    else if fld x.cfg 8 8 ≤ x.lone + 1 then
      ((both s2).setFlag (Reg.PWM_CHSTAT c) 0 true).count (Reg.PWM_UCNT2 (c / 8)) 16 16 1
    else s2.setPch c { x with lone := x.lone + 1 }

/-- The odd channel of a pair transfers at the pair's boundary: it ends its hold and takes its compares; its PER and DUTY count for nothing
(R203, R211, R218). -/
def State.transferOdd (s : State) (c : Nat) : State :=
  if pwmForced s c then s
  else
    let x := s.pch c
    let s1 := if x.newA then s.wr (Reg.PWM_CMPA c) x.shA else s
    let s2 := if x.newB then s1.wr (Reg.PWM_CMPB c) x.shB else s1
    s2.setPch c { x with newA := false, newB := false, held := false }

/-- The new period of an unpaired channel begins: short intervals are dropped (R210). -/
def State.beginSingle (s : State) (c : Nat) : State :=
  let x := s.pch c
  let p := (s.rd (Reg.PWM_PER c)).toNat
  let r := dropShort (minPw s c) p (carrierPlan x.cfg p (s.rd (Reg.PWM_DUTY c)).toNat)
  let s1 := if r.2 = 0 then s else (s.setFlag (Reg.PWM_CHSTAT c) 1 true).count (Reg.PWM_UCNT (c / 8)) 16 16 1
  s1.setPch c { x with began := s.now, per := p, onFrom := r.1.1, onTo := r.1.2, level := decide (r.1.1 = 0) && decide (0 < r.1.2) }

/-- The new period of a complementary pair begins: too short an interval holds the state before (R213), and a refresh is made when due and
when it fits (R214). A period counts as whole when the high side was on from its start to its full length, with no wait in it. -/
def State.beginPair (s : State) (c : Nat) : State :=
  let x := s.pch c
  let p := (s.rd (Reg.PWM_PER c)).toNat
  let plan := carrierPlan x.cfg p (s.rd (Reg.PWM_DUTY c)).toNat
  let on := plan.2 - plan.1
  let off := p - on
  let bound := deadWait s c + minPw s c
  let short := (decide (0 < on) && decide (on < bound)) || (decide (0 < off) && decide (off < bound))
  let plan := if short then (if x.level then (0, p) else (0, 0)) else plan
  let full := x.ended && x.level && decide (x.onFrom = 0) && decide (x.onTo = x.per) && decide (0 < x.per) && decide (pwmCounter s c = x.per)
  let whole := if full then x.whole + 1 else 0
  let level := decide (plan.1 = 0) && decide (0 < plan.2)
  let ut := Reg.PWM_UTIME (c / 8)
  let refreshNs := 2 * deadWait s c + s.rf ut 13 11
  let refresh := level && x.level && decide (s.rf ut 24 8 ≤ whole) && decide (refreshNs + minPw s c ≤ plan.2)
  let s1 := if short then (s.setFlag (Reg.PWM_CHSTAT c) 2 true).count (Reg.PWM_UCNT (c / 8)) 0 16 1 else s
  let waits := refresh || (if x.refresh = 2 then level else decide (level ≠ x.level))
  s1.setPch c { x with began := s.now, per := p, ended := x.level, level := level, onFrom := if refresh then refreshNs else plan.1, onTo := plan.2,
                       whole := if refresh then 0 else whole, dead := waits || x.dead, phaseAt := if waits then s.now else x.phaseAt,
                       refresh := if refresh then 1 else 0 }

/-- MODE, DUTYFMT, PAIR and COMP committed since take effect at the channel's boundary, which is the pair's for its odd channel (R220). -/
def State.adoptCfg (s : State) (c : Nat) : State :=
  let s1 := s.setPch c { s.pch c with cfg := s.rd (Reg.PWM_CHCFG c) }
  if pairEven s c then s1.setPch (c + 1) { s1.pch (c + 1) with cfg := s.rd (Reg.PWM_CHCFG (c + 1)) } else s1

/-- A channel that is no odd one of a pair begins its period. -/
def State.beginOwn (s : State) (c : Nat) : State :=
  let s1 := s.transfer c
  ((if pairEven s1 c then ((s1.transferOdd (c + 1)).beginPair c) else s1.beginSingle c)).pwmChanged c

/-- A period boundary of a channel: configuration, transfers, and the new period (R199 to R204, R210 to R214). The odd channel that a pair
lets go begins a period of its own; one that joins a pair at its own boundary follows the even channel from there on (R211, R220). -/
def State.periodBoundary (s : State) (c : Nat) : State :=
  let freed := pairEven s c
  let s0 := s.adoptCfg c
  if pairOdd s0 c then (((s0.transferOdd c).pwmChanged c).pwmChanged (c - 1)).blankEnds s
  else
    let s1 := s0.beginOwn c
    let s2 := if pairEven s1 c then s1.pwmChanged (c + 1) else if freed then s1.beginOwn (c + 1) else s1
    s2.blankEnds s

/-- The edge of its carrier that a channel reaches now: the end of a refresh's pulse, the rise, or the fall; none at any other instant
(R199, R214). -/
inductive CarrierEdge where
  | lowEnd | rise | fall
  deriving DecidableEq, Repr

def carrierEdge (s : State) (c : Nat) : Option CarrierEdge :=
  let x := s.pch c
  if x.refresh = 2 then (if s.now = x.phaseAt + s.rf (Reg.PWM_UTIME (c / 8)) 13 11 then some .lowEnd else none)
  else if !x.level ∧ x.onFrom < x.onTo ∧ pwmCounter s c = x.onFrom then some .rise
  else if x.level ∧ x.onTo < x.per ∧ pwmCounter s c = x.onTo then some .fall
  else none

/-- Within the period, the counter reaches an edge of the carrier; in a pair a dead-time wait begins (R199, R212, R214). -/
def State.dutyEdge (s : State) (c : Nat) : State :=
  let x := s.pch c
  let pair := pairEven s c
  let y := { x with dead := x.dead || pair, phaseAt := if pair then s.now else x.phaseAt }
  match carrierEdge s c with
  | none => s
  | some .lowEnd => ((s.setPch c { y with refresh := 3, dead := true, phaseAt := s.now }).pwmChanged c).blankEnds s
  | some .rise => ((s.setPch c { y with level := true }).pwmChanged c).blankEnds s
  | some .fall => ((s.setPch c { y with level := false }).pwmChanged c).blankEnds s

/-- When the dead-time wait of a pair may end: in fixed mode after DTMIN; in adaptive mode where the comparator reports, but from DTMIN to
DTMAX, the latter where it does not report (R212). -/
def deadUntil (s : State) (c : Nat) (tout : Bool) : Nat :=
  let from_ := (s.pch c).phaseAt
  let lo := from_ + s.rf (Reg.PWM_DT c) 0 11
  let hi := from_ + s.rf (Reg.PWM_DT c) 16 11
  if !s.flag (Reg.PWM_CHCFG c) 18 then lo else if tout then hi else min hi (max lo s.now)

/-- The dead-time wait of a pair ends and the other gate turns on; `tout` says that an adaptive wait reached DTMAX, whose last instant tells it
too (R212, R214). -/
def State.deadEnds (s : State) (c : Nat) (tout : Bool) : State :=
  let x := s.pch c
  if !pairEven s c || !x.dead || decide (s.now < deadUntil s c tout) then s
  else
    let late := s.flag (Reg.PWM_CHCFG c) 18 && (tout || decide (s.now = x.phaseAt + s.rf (Reg.PWM_DT c) 16 11))
    let s1 := if late then s.setFlag (Reg.PWM_CHSTAT c) 4 true else s
    (s1.setPch c { x with dead := false, phaseAt := s.now, refresh := if x.refresh = 1 then 2 else 0 }).blankEnds s

/-! ### Sync events and enabling (R207 to R209, R219) -/

/-- Load a channel's counter at a sync event: 0 is a period boundary, unless the counter has just returned to 0 by itself; another value
places the counter in the period. A pair whose requested signal changes by it makes its dead-time wait, and so does one whose refresh ends with
the low side on (R209, R212 to R214). -/
def State.loadCounter (s : State) (c v : Nat) : State :=
  if v = 0 then (if (s.pch c).running ∧ 0 < (s.pch c).per ∧ pwmCounter s c = 0 then s else s.periodBoundary c)
  else
    let x := s.pch c
    let level := decide (x.onFrom ≤ v) && decide (v < x.onTo)
    let waits := pairEven s c && (if x.refresh = 2 then level else decide (level ≠ x.level))
    ((s.setPch c { x with began := (s.now : Int) - v, level := level, dead := x.dead || waits, phaseAt := if waits then s.now else x.phaseAt,
                          refresh := 0 }).pwmChanged c).blankEnds s

/-- The value a sync event loads: PHASE, or 0 when PHASE is at or above P (R209). -/
def syncLoad (s : State) (c : Nat) : Nat :=
  let ph := (s.rd (Reg.PWM_PHASE c)).toNat
  if (s.rd (Reg.PWM_PER c)).toNat ≤ ph then 0 else ph

/-- A channel follows its unit's sync events: MODE 0 or 1 with SYNCEN = 1 (R209). -/
def syncs (s : State) (c : Nat) : Bool := decide (fld (s.pch c).cfg 26 3 ≤ 1) && s.flag (Reg.PWM_CHCFG c) 20

/-- The counters of a unit start: a period boundary for every channel, of which the odd one of a pair follows the even one; at a sync event,
a channel that follows it loads PHASE, and every other channel 0 (R211, R219). -/
def State.startUnit (s : State) (u : Nat) (atSync : Bool) : State :=
  each 8 (fun k t =>
    let c := 8 * u + k
    let t0 := t.setPch c { t.pch c with running := true }
    let t1 := if pairOdd t0 c then t0 else t0.periodBoundary c
    if pairOdd t1 c then t1
    else if atSync && syncs t1 c && decide (syncLoad t1 c ≠ 0) then t1.loadCounter c (syncLoad t1 c) else t1) s

/-- The sync events of a unit that are still to come, in the order of their source events. -/
def syncsOf (s : State) (u : Nat) : List (Nat × Nat) := SMap.get [] s.pwm.sync u

def State.setSyncs (s : State) (u : Nat) (l : List (Nat × Nat)) : State := { s with pwm := { s.pwm with sync := SMap.set [] s.pwm.sync u l } }

/-- A source event of a unit's sync event falls between two instants: the sync event follows DLY ns later (R207). -/
def State.syncComes (s : State) (u lo hi : Nat) : State :=
  let d := s.rf (Reg.PWM_USYNC u) 0 24
  s.setSyncs u (syncsOf s u ++ [(lo + d, hi + d)])

/-- Frame start is the source of the sync events of the units with SRC 1; what is past is forgotten (R207, R220). -/
def State.frameSyncs (s : State) : State :=
  if !pwmRuns s then s
  else each 24 (fun u t =>
    let t1 := t.setSyncs u ((syncsOf t u).filter (fun x => decide (t.now ≤ x.2)))
    if t1.rf (Reg.PWM_USYNC u) 24 2 = 1 then t1.syncComes u t1.now t1.now else t1) s

/-- The pulse on SYNCOUT0 from PW0, or on SYNCOUT1 from PW8, 8 ns ± 2 ns after the event; which of these is free (R208, log entry 2). -/
def State.syncOutPulse (s : State) (u : Nat) : State :=
  if !s.flag (Reg.PWM_USYNC u) 31 then s
  else
    let t := s.now + 6 + s.freeNat % 5
    if u = 0 then ({ s with pwm := { s.pwm with syncOut0 := some t } }).spend
    else if u = 8 then ({ s with pwm := { s.pwm with syncOut1 := some t } }).spend
    else s

/-- The unit's sync event (R207 to R209, R219), with the SYNCOUT pulse of PW0 and PW8; it is the source of the next unit's in the chain with
SRC 3. -/
def State.syncEvent (s : State) (u : Nat) : State :=
  let s0 := (s.setSyncs u ((syncsOf s u).eraseP (fun x => decide (x.1 ≤ s.now) && decide (s.now ≤ x.2)))).syncOutPulse u
  let s1 := if u ≠ 7 ∧ u < 23 ∧ s0.rf (Reg.PWM_USYNC (u + 1)) 24 2 = 3 then s0.syncComes (u + 1) s0.now s0.now else s0
  if SMap.get false s1.pwm.waiting u then
    ({ s1 with pwm := { s1.pwm with waiting := SMap.set false s1.pwm.waiting u false } }).startUnit u true
  else if s1.flag (Reg.PWM_UCTRL u) 0 then
    each 8 (fun k t => let c := 8 * u + k; if syncs t c && !pairOdd t c then t.loadCounter c (syncLoad t c) else t) s1
  else s1

/-- A unit has a sync event now (R207, R208): one that its source has caused and that falls at this instant. -/
def syncDue (s : State) (u : Nat) : Bool := (syncsOf s u).any (fun x => decide (x.1 ≤ s.now) && decide (s.now ≤ x.2))

/-- EN becomes 1: the counters start at once with SRC 0, or wait for the unit's next sync event (R219). -/
def State.unitEnable (s : State) (u : Nat) : State :=
  if s.flag (Reg.PWM_UCTRL u) 0 ∨ ¬ pwmRuns s then s
  else
    let s1 := s.setFlag (Reg.PWM_UCTRL u) 0 true
    let s2 := if s1.rf (Reg.PWM_USYNC u) 24 2 = 0 then s1.startUnit u false
              else { s1 with pwm := { s1.pwm with waiting := SMap.set false s1.pwm.waiting u true } }
    s2.unitChanged u

/-- EN becomes 0: outputs at DISLVL and counters stopped; a force of higher priority stays (R219). -/
def State.unitDisable (s : State) (u : Nat) : State :=
  let s1 := (s.setFlag (Reg.PWM_UCTRL u) 0 false)
  let s2 := { s1 with pwm := { s1.pwm with waiting := SMap.set false s1.pwm.waiting u false } }
  let s3 := each 8 (fun k t =>
    let c := 8 * u + k
    t.setPch c { t.pch c with running := false, level := false, dead := false, refresh := 0, held := false, ended := false, whole := 0, onFrom := 0,
                              onTo := 0, per := 0 }) s2
  (s3.unitChanged u).blankEnds s

/-- A write to PWM_UCTRL.EN (R219). -/
def State.unitWrite (s : State) (u : Nat) (en : Bool) : State := if en then s.unitEnable u else s.unitDisable u

/-! ### Staged values (R202, R203, R206) -/

/-- A staged word of a channel enters its shadow at step (3): which word is 1 DUTY, 2 PER, 3 CMPA, 4 CMPB. -/
def State.enterPwm (s : State) (c word : Nat) (v : Word) : State :=
  let x := s.pch c
  let bad (t : State) : State := t.setFlag (Reg.PWM_CHSTAT c) 3 true
  match word with
  | 1 => if s.flag (Reg.PWM_UCTRL (c / 8)) 1 then bad s else s.setPch c { x with shDuty := v, newDuty := true }
  | 2 =>
    if s.flag (Reg.PWM_UCTRL (c / 8)) 1 then bad s
    else if v.toNat < 100 ∨ v.toNat < minPw s c + 1 then (bad s).count (Reg.PWM_UCNT2 (c / 8)) 0 16 1
    else s.setPch c { x with shPer := v, newPer := true }
  | 3 => s.setPch c { x with shA := v, newA := true }
  | _ => s.setPch c { x with shB := v, newB := true }

/-! ### Fault pins (R216, R217) -/

/-- A fault pin reaches its active level: the units that select it are forced, and the collector sees source 16 + n. -/
def State.pinActive (s : State) (n : Nat) : State :=
  let s1 := s.setFlag Reg.PWM_FLTLVL n true
  (each 24 (fun u t => t.pinForce u) s1).assert (16 + n) 0

/-- A fault pin leaves its active level. -/
def State.pinRelease (s : State) (n : Nat) : State := (s.setFlag Reg.PWM_FLTLVL n false).release (16 + n)

/-! ### The commands -/

/-- The counter of a channel returns to 0 now: it runs, is no odd one of a pair, and its period has run out (R199). -/
def periodOver (s : State) (c : Nat) : Bool := (s.pch c).running && !pairOdd s c && decide (pwmCounter s c = (s.pch c).per)

/-- PERIOD_BOUNDARY: the channel's counter returns to 0. At any other instant there is no boundary (log entry 78). -/
def execPeriodBoundary (t : Nat) (c : Fin 192) (s : State) : Host.Outcome State Fault Refusal :=
  .next (if pwmRuns s && periodOver (s.at t) c then (s.at t).periodBoundary c else s)

/-- DUTY_EDGE: the channel's counter reaches the end of its on-time or off-time. At any other instant there is no edge (log entry 78). -/
def execDutyEdge (t : Nat) (c : Fin 192) (s : State) : Host.Outcome State Fault Refusal :=
  .next (if pwmRuns s && (s.pch c).running && !pairOdd s c && (carrierEdge (s.at t) c).isSome then (s.at t).dutyEdge c else s)

/-- SYNC_EVENT of a unit, at the instant its source has set (log entry 78). -/
def execSyncEvent (t : Nat) (u : Fin 24) (s : State) : Host.Outcome State Fault Refusal :=
  .next (if pwmRuns s && syncDue (s.at t) u then (s.at t).syncEvent u else s)

/-- SYNCIN_EDGE: a rising edge on SYNCIN0 or SYNCIN1, the source event of PW0 or PW8 with SRC 2, 22 ns ± 2 ns before DLY begins (R207, R208). With
VIO_G out of range the land reads as low, and no edge is seen (R517). -/
def execSyncinEdge (t : Nat) (i : Fin 2) (s : State) : Host.Outcome State Fault Refusal :=
  .next (let u := 8 * i.val
    if !pwmRuns s || s.sys.viogFloat || decide (s.rf (Reg.PWM_USYNC u) 24 2 ≠ 2) then s
    else (s.at t).syncComes u ((s.at t).now + 20) ((s.at t).now + 24))

/-- DEAD_TIME_WAIT_END of the pair whose even channel is `c`: never before the wait of R212 is over. -/
def execDeadTimeWaitEnd (c : Timed (Fin 64)) (tout : Bool) (s : State) : Host.Outcome State Fault Refusal :=
  .next (if pwmRuns s then (s.at c.at_).deadEnds c.val tout else s)

/-- FAULT_PIN: pin FLTn reaches its active level; the path acts without a clock (R216, R482). With VIO_G out of range
the device reads the land as low, whatever its level (R517). -/
def execFaultPin (t : Nat) (n : Fin 16) (s : State) : Host.Outcome State Fault Refusal :=
  .next (if s.sys.mode = .sill ∨ s.sys.viogFloat then s else (s.atRun t).pinActive n)

/-- FAULT_PIN_RELEASE: pin FLTn leaves its active level, where the device reads it (R517). -/
def execFaultPinRelease (n : Fin 16) (s : State) : Host.Outcome State Fault Refusal := .next (if s.sys.viogFloat then s else s.pinRelease n)

end Sys2Proof.Machine
end

