-- ==== Sys2Proof/Machine/Adc.lean ====
section
/-! DEFINITION. The sensor converter (R181 to R195): triggers, pending lists, results and windows, the reference check and the
shunts. -/
namespace Sys2Proof.Machine

/-- The converters work in IDLE, RUN, LIMP, SAFE and SERVICE (R195). -/
def adcRuns (s : State) : Bool := s.clocked && s.sys.mode ≠ .boot

/-- A converter by its letter: false A, true B. -/
def State.adcU (s : State) (b : Bool) : AdcUnit := if b then s.adc.b else s.adc.a

/-- Write a converter, with its BUSY bit: it converts an input, or its reference once its frame-start lists are done (R188, R196). -/
def State.setAdcU (s : State) (b : Bool) (u : AdcUnit) : State :=
  (if b then { s with adc := { s.adc with b := u } } else { s with adc := { s.adc with a := u } }).setFlag Reg.ADC_STAT
    (if b then 1 else 0) (u.cur.isSome || (u.refDue && u.fs.isEmpty))

/-- The converter is enabled. -/
def adcEnabled (s : State) (b : Bool) : Bool := s.flag Reg.ADC_CTRL (if b then 1 else 0)

/-- The input of a converter at a place of a list. -/
def adcInput (b : Bool) (n : Nat) : Nat := if b then 16 + n else n

/-- An input that is off is skipped in every list (R181). -/
def adcOff (s : State) (i : Nat) : Bool := decide (s.rf (Reg.ADC_INCFG i) 0 2 = 3)

/-! ### Starting conversions (R185, R186) -/

/-- The list a converter would take next: frame-start lists, the reference check, then the pending lists. -/
def AdcUnit.next (u : AdcUnit) : Option AdcList :=
  match u.fs with
  | l :: _ => some l
  | [] => if u.refDue then none else u.pend.head?

/-- The converter's next list with its first input taken off, to be converted or skipped; an empty list is done. -/
def AdcUnit.advance (u : AdcUnit) (taken : Bool) : AdcUnit :=
  let cut (ls : List AdcList) : List AdcList :=
    match ls with
    | [] => []
    | l :: r => if l.left.length ≤ 1 then r else { l with left := l.left.tail, begun := l.begun || taken } :: r
  match u.fs with
  | _ :: _ => { u with fs := cut u.fs }
  | [] => { u with pend := cut u.pend }

/-- Take the next input of a list on one converter: converted, or skipped without a slot when it is off. -/
def State.adcTake (s : State) (b : Bool) (l : AdcList) : State :=
  let i := adcInput b (l.left.headD 0)
  let u := (s.adcU b).advance (!adcOff s i)
  s.setAdcU b (if adcOff s i then u
    else { u with cur := some ⟨i, l.trg, l.frameStart, s.rd (Reg.ADC_INCFG i), s.rd (Reg.ADC_WIN i), s.flag Reg.ADC_SHUNT i, [], l⟩ })

/-- Start what can start on either converter; a list with CONV 3 starts each pair when both converters are free (R186). -/
def State.adcStep (s : State) : State :=
  let one (b : Bool) (t : State) : State :=
    let u := t.adcU b
    if u.cur.isSome then t
    else match u.next with
      | none => t
      | some l =>
        if !l.both then t.adcTake b l
        else
          let o := t.adcU (!b)
          if o.cur.isNone ∧ o.next = some l then (t.adcTake b l).adcTake (!b) l else t
  one true (one false s)

/-- Skipped inputs take no slot, so starting goes on until nothing moves; sixteen inputs and four lists bound it. -/
def adcRun : Nat → State → State
  | 0, s => s
  | k + 1, s => adcRun k s.adcStep

def State.adcGo (s : State) : State := adcRun 90 s

/-! ### Triggers (R184, R186) -/

/-- A trigger's list (R184). -/
def adcList (s : State) (t : Nat) : AdcList :=
  let w := s.rd (Reg.ADC_TRGLIST t)
  { trg := t, both := decide (s.rf (Reg.ADC_TRGSRC t) 24 2 = 3), frameStart := decide (s.rf (Reg.ADC_TRGSRC t) 26 2 = 0),
    begun := false, left := (List.range (fld w 8 4 + 1)).map (· + fld w 0 4), firedAt := s.now }

/-- A list at the head whose conversion has begun. -/
def headBegun (l : List AdcList) : Bool := (l.head?.map (·.begun)).getD false

/-- Which list still has inputs to convert and is the one being converted, between two of its inputs too: the first frame-start list, or the
first of the others (R186). -/
def AdcUnit.runsFs (u : AdcUnit) : Bool :=
  headBegun u.fs && (match u.cur with | some c => c.frameStart | none => true)

def AdcUnit.runsPend (u : AdcUnit) : Bool :=
  headBegun u.pend && (match u.cur with | some c => !c.frameStart | none => u.fs.isEmpty && !u.refDue)

/-- The same of a converter, where a list with CONV 3 that the other converter's frame-start lists have interrupted waits on both (R186). -/
def adcRunsPend (s : State) (b : Bool) : Bool :=
  (s.adcU b).runsPend && (!(((s.adcU b).pend.head?.map (·.both)).getD false) || (s.adcU (!b)).runsPend)

/-- A converter has its four pending lists behind the one it converts, the list at the head where that is being converted (R186). -/
def adcFull (s : State) (b : Bool) : Bool :=
  let u := s.adcU b
  decide (4 ≤ u.fs.length + u.pend.length - b2n (u.runsFs || adcRunsPend s b))

/-- A list takes its place among those that wait: in the order of firing, and of those that fired on one tick by trigger number (R186). -/
def queueList (l : AdcList) : List AdcList → List AdcList
  | [] => [l]
  | x :: xs => if !x.begun ∧ x.firedAt = l.firedAt ∧ l.trg < x.trg then l :: x :: xs else x :: queueList l xs

/-- Queue a list on a converter: a frame-start list before the others, behind earlier frame-start lists. -/
def State.adcQueue (s : State) (b : Bool) (l : AdcList) : State :=
  let u := s.adcU b
  s.setAdcU b (if l.frameStart then { u with fs := queueList l u.fs } else { u with pend := queueList l u.pend })

/-- A list that was taken up on this tick goes back to the head of its queue, as it stood. -/
def AdcUnit.untake (u : AdcUnit) (l : AdcList) : AdcUnit :=
  let back (ls : List AdcList) : List AdcList :=
    l :: (match ls with
      | x :: xs => if x.trg = l.trg ∧ x.firedAt = l.firedAt then xs else x :: xs
      | [] => [])
  let v := { u with cur := match u.cur with
                      | some c => if c.list = l then none else some c
                      | none => none }
  if l.frameStart then { v with fs := back v.fs } else { v with pend := back v.pend }

/-- The list that a converter took up on this very tick comes after one that fires on it: a frame-start list is ahead of the others, and among
equals the lower trigger number is (R186). The first sample is still 40 ns away (R185). -/
def adcOvertakes (s : State) (b : Bool) (l : AdcList) : Bool :=
  match (s.adcU b).cur with
  | some c => decide (c.list.firedAt = s.now) && !c.list.begun && (if c.frameStart = l.frameStart then decide (l.trg < c.trg) else l.frameStart)
  | none => false

/-- Both converters give back what the new list overtakes; a list with CONV 3 stands on both. -/
def State.adcGiveBack (s : State) (b : Bool) (l : AdcList) : State :=
  match (s.adcU b).cur with
  | some c =>
    if !adcOvertakes s b l then s
    else
      let s1 := s.setAdcU b ((s.adcU b).untake c.list)
      if c.list.both then s1.setAdcU (!b) ((s1.adcU (!b)).untake c.list) else s1
  | none => s

/-- A trigger fires: its list is queued on its converters, or it is lost (R186). -/
def State.adcFire (s : State) (t : Nat) : State :=
  let l := adcList s t
  let conv := s.rf (Reg.ADC_TRGSRC t) 24 2
  let useA := conv.testBit 0 && adcEnabled s false
  let useB := conv.testBit 1 && adcEnabled s true
  let l := { l with both := useA && useB }
  let lostA := useA && adcFull s false
  let lostB := useB && adcFull s true
  if lostA || lostB then
    let s1 := if lostA then s.setFlag Reg.ADC_STAT 4 true else s
    let s2 := if lostB then s1.setFlag Reg.ADC_STAT 5 true else s1
    s2.count Reg.ADC_CNT 0 16 1
  else
    let s1 := if useA then (s.adcGiveBack false l).adcQueue false l else s
    let s2 := if useB then (s1.adcGiveBack true l).adcQueue true l else s1
    s2.adcGo

/-- One event of a trigger's source: the trigger fires on every DIV-th (R184). The answer says whether it fires. -/
def State.adcCount (s : State) (t : Nat) : State × Bool :=
  let n := SMap.get 0 s.adc.divs t + 1
  let fires := decide (s.rf (Reg.ADC_TRGLIST t) 16 8 ≤ n)
  ({ s with adc := { s.adc with divs := SMap.set 0 s.adc.divs t (if fires then 0 else n) } }, fires)

/-- The enabled triggers of a kind whose SEL passes a test, ascending. -/
def adcTriggers (s : State) (kind : Nat) (sel : Nat → Bool) : List Nat :=
  (List.range 16).filter (fun t =>
    let w := s.rd (Reg.ADC_TRGSRC t)
    bit w 31 && decide (fld w 26 2 = kind) && sel (fld w 0 16))

/-- A source event of a kind now: its triggers fire at once. -/
def State.adcEvent (s : State) (kind : Nat) (sel : Nat → Bool) : State :=
  if !adcRuns s then s
  else eachOf (adcTriggers s kind sel) (fun t u => let r := u.adcCount t; if r.2 then r.1.adcFire t else r.1) s

/-- Triggers that fire at an instant, in the order of R186. -/
def insertDue (x : Nat × Nat) : List (Nat × Nat) → List (Nat × Nat)
  | [] => [x]
  | y :: ys => if x.1 < y.1 ∨ (x.1 = y.1 ∧ x.2 < y.2) then x :: y :: ys else y :: insertDue x ys

/-- A source event whose triggers fire in a command of their own, some ns from now: at frame start 0, after a feedback edge 8 (R184, R280).
What is past is forgotten. -/
def State.adcDue (s : State) (kind ns : Nat) (sel : Nat → Bool) : State :=
  if !adcRuns s then s
  else
    let s0 := { s with adc := { s.adc with due := s.adc.due.filter (fun x => decide (s.now ≤ x.1)) } }
    eachOf (adcTriggers s kind sel) (fun t u =>
      let r := u.adcCount t
      if r.2 then { r.1 with adc := { r.1.adc with due := insertDue (s.now + ns, t) r.1.adc.due } } else r.1) s0

/-- The triggers that fire now up to a number, ascending (R186). -/
def firingNow (s : State) (trg : Nat) : List Nat :=
  (s.adc.due.filter (fun x => decide (x.1 = s.now) && decide (x.2 ≤ trg))).map (·.2)

/-- ADC_TRIGGER: a trigger whose event has come fires at its instant, after those of lower number that fire on the same tick (R184, R186).
At any other instant it has no event (log entry 78). -/
def execAdcTrigger (t : Nat) (trg : Fin 16) (s : State) : Host.Outcome State Fault Refusal :=
  .next (
    let s0 := s.at t
    let l := firingNow s0 trg
    if l.contains trg.val && adcRuns s then
      eachOf l (fun k u => u.adcFire k)
        { s0 with adc := { s0.adc with due := s0.adc.due.filter (fun x => !(decide (x.1 = s0.now) && decide (x.2 ≤ trg.val))) } }
    else s)

/-- A write to ADC_SWTRG (R184): the bits of triggers with KIND 3 fire; others are ignored. -/
def State.adcSwtrg (s : State) (v : Word) : State :=
  if !adcRuns s then s
  else eachOf ((adcTriggers s 3 (fun _ => true)).filter (fun t => bit v t))
    (fun t u => let r := u.adcCount t; if r.2 then r.1.adcFire t else r.1) s

/-- The counter of a channel, for the odd one of a pair that of the pair, stands at CMPA or CMPB within its period now (R205, R211). -/
def compareNow (s : State) (c : Nat) (b : Bool) : Bool :=
  let e := if pairOdd s c then c - 1 else c
  let cmp := (s.rd (if b then Reg.PWM_CMPB c else Reg.PWM_CMPA c)).toNat
  (s.pch e).running && decide (cmp < (s.pch e).per) && decide (pwmCounter s e = cmp)

/-- COMPARE_MATCH: the counter of a PWM channel reaches CMPA or CMPB and fires its converter trigger, whether or not the output
is forced (R184, R205). -/
def execCompareMatch (t : Nat) (c : Fin 192) (b : Bool) (s : State) : Host.Outcome State Fault Refusal :=
  .next (if pwmRuns s && compareNow (s.at t) c b then
      (s.at t).adcEvent 1 (fun sel => decide (sel % 512 = c.val + (if b then 256 else 0)))
    else s)

/-! ### Results (R185, R189, R190, R192) -/

/-- The mean of the samples, rounded to nearest; which way a tie goes is not stated (log entry 2). -/
def State.adcMean (s : State) (codes : List Nat) : Nat × State :=
  let n := max 1 codes.length
  let sum := codes.sum
  if 2 * (sum % n) = n then (sum / n + s.freeNat % 2, s.spend) else ((2 * sum + n) / (2 * n), s)

/-- The window test of a result, with the settings its conversion began with (R192, R193): HIGH, LOW, and the fault after WDEB + 1 results
outside the window. -/
def State.adcWindow (s : State) (i : Nat) (cfg w : Word) (code : Nat) : Bool × Bool × State :=
  if !bit cfg 6 then (false, false, s)
  else
    let low := decide (code < fld w 0 16)
    let high := decide (fld w 16 16 < code)
    let run := if low || high then SMap.get 0 s.adc.winRun i + 1 else 0
    let armed := SMap.get false s.adc.winArm i
    let hit := armed && decide (fld cfg 8 4 + 1 ≤ run)
    let s1 := { s with adc := { s.adc with winRun := SMap.set 0 s.adc.winRun i (min 16 run),
                                           winArm := SMap.set false s.adc.winArm i ((armed && !hit) || !(low || high)) } }
    let s2 := if hit then ((s1.setFlag Reg.ADC_STAT 6 true).count Reg.ADC_CNT 16 16 1).raise 73 (BitVec.ofNat 32 i) else s1
    (low, high, s2)

/-- Full scale of a range in µV or nA, and the bound of its error over temperature (R182). -/
def adcFullScale (range : Nat) : Nat := match range with | 0 => 5000000 | 1 => 10000000 | _ => 25000000
def adcErrorBound (range : Nat) : Nat := if range = 2 then adcFullScale range / 500 else adcFullScale range * 15 / 10000

/-- VALUE of a mean code (R182, R189): the code's share of the full scale, off by the trim within the bound. -/
def adcValue (i range code : Nat) : Word :=
  let b : Int := adcErrorBound range
  wrap ((code * adcFullScale range / 65536 : Nat) + clampI (-b) b (Config.adcTrim i range code))

/-- The shunt of a conversion was open at an instant (R196). -/
def AdcConv.shuntAt (c : AdcConv) (t : Nat) : Bool :=
  match c.turns.find? (fun x => decide (x.1 ≤ t)) with
  | some x => x.2
  | none => c.shunt

/-- ADC_CONVERSION_COMPLETE: the conversion in progress on a converter completes with the codes of its samples. Its result is
replaced, its window tested, and the result enters the input record of R190; the converter goes on. -/
def execAdcConversionComplete (t : Nat) (b : Bool) (codes : List (BitVec 16)) (s : State) : Host.Outcome State Fault Refusal :=
  .next (if !adcRuns s then s
    else match (s.adcU b).cur with
      | none => s
      | some c =>
        let s0 := (s.at t).setAdcU b { s.adcU b with cur := none }
        let i := c.input
        let avg := 2 ^ fld c.cfg 4 2
        let m := s0.adcMean (((codes.map (·.toNat)) ++ List.replicate 8 (codes.headD 0).toNat).take avg)
        let w := m.2.adcWindow i c.cfg c.win m.1
        let s1 := w.2.2
        let value := adcValue i (fld c.cfg 0 2) m.1
        let stamp := (s1.ago (60 + 500 * (avg - 1))).stamp
        let seq := (s1.rf (Reg.ADC_RES_STAT i) 16 16 + 1) % 2 ^ 16
        let stat := BitVec.ofNat 32 (seq * 2 ^ 16 + c.trg % 16 * 2 ^ 12 + b2n (s1.adcU b).refBad * 32
          + b2n (c.shuntAt (s1.now - (60 + 500 * (avg - 1)))) * 16 + b2n w.2.1 * 8 + b2n w.1 * 4 + fld c.cfg 0 2)
        let s2 := (((s1.wr (Reg.ADC_RES_VALUE i) value).wr (Reg.ADC_RES_STAMP i) stamp).wr (Reg.ADC_RES_STAT i) stat).wr
          (Reg.ADC_RES_RAW i) (BitVec.ofNat 32 m.1)
        let item : RecItem := ⟨.adc, [i, value.toNat, stamp.toNat, stat.toNat, m.1]⟩
        let s3 := if c.frameStart then s2.recordCur item else s2.recordCut item
        s3.adcGo)

/-- ADC_REFERENCE_CHECK: after its frame-start lists a converter converts its 2.500 V reference (R188). -/
def execAdcReferenceCheck (t : Nat) (b : Bool) (code : BitVec 16) (s : State) : Host.Outcome State Fault Refusal :=
  .next (let u := s.adcU b
    if !adcRuns s || !u.refDue || u.cur.isSome || !u.fs.isEmpty then s
    else
      let bad := decide (code.toNat < 32768 - 164) || decide (32768 + 164 < code.toNat)
      let s1 := (s.at t).setAdcU b { u with refDue := false, refBad := bad }
      let s2 := if bad then (s1.setFlag Reg.ADC_STAT (if b then 3 else 2) true).raise (if b then 75 else 74) 0 else s1
      s2.adcGo)

/-! ### Shunts (R183) -/

/-- A shunt opens or closes, and a conversion of its input keeps the instant. -/
def State.setShunt (s : State) (i : Nat) (isOpen : Bool) : State :=
  let turn (b : Bool) (t : State) : State :=
    match (t.adcU b).cur with
    | some c => if c.input = i then t.setAdcU b { t.adcU b with cur := some { c with turns := (t.now, isOpen) :: c.turns } } else t
    | none => t
  (turn true (turn false s)).setFlag Reg.ADC_SHUNT i isOpen

/-- A shunt that has tripped stays so until its bit is written (R183). -/
def State.tripShunt (s : State) (i : Nat) (on : Bool) : State :=
  { s with adc := { s.adc with tripped := if on then s.adc.tripped ||| (1#32 <<< i) else s.adc.tripped &&& ~~~(1#32 <<< i) } }

/-- ADC_SHUNT_OPEN: more than 27.5 mA for 10 µs in the 4 to 20 mA range opens the input's shunt; FREEZE keeps the shunts (R195). -/
def execAdcShuntOpen (t : Nat) (i : Fin 32) (s : State) : Host.Outcome State Fault Refusal :=
  .next (if adcRuns s ∧ s.rf (Reg.ADC_INCFG i) 0 2 = 2 ∧ ¬ s.flag Reg.ADC_SHUNT i then
      (((s.at t).setShunt i true).tripShunt i true).raise 72 (BitVec.ofNat 32 i)
    else s)

/-- A write to ADC_SHUNT: each bit written 1 reconnects its shunt on arrival, of an input in the 4 to 20 mA range; the others have their
shunts open, as every input has in BOOT (R183, R195), and only forget that they had tripped. -/
def State.adcShunt (s : State) (v : Word) : State :=
  if !adcRuns s then s
  else each 32 (fun i t =>
    if !bit v i then t
    else
      let u := t.tripShunt i false
      if u.rf (Reg.ADC_INCFG i) 0 2 = 2 then u.setShunt i false else u) s

/-- A commit has changed the range of an input: the shunt is connected in the 4 to 20 mA range, unless it has tripped and no write has connected
it since, and open in every other ("as configured", R183, R195; DEDUCED, log entry 79). -/
def State.adcRanged (s : State) (i : Nat) (old : Word) : State :=
  let r := s.rf (Reg.ADC_INCFG i) 0 2
  if r = fld old 0 2 then s else s.setShunt i (decide (r ≠ 2) || s.adc.tripped.getLsbD i)

/-! ### Frame start, commit and FREEZE (R184, R188, R193, R195) -/

/-- Frame start: the frame-start triggers have their event, and each enabled converter owes its reference check. -/
def State.adcFrameStart (s : State) : State :=
  if !adcRuns s then s
  else
    let due (b : Bool) (t : State) : State :=
      t.setAdcU b { t.adcU b with refDue := adcEnabled t b && t.flag Reg.ADC_CTRL 2 }
    ((due true (due false s)).adcDue 0 0 (fun _ => true)).adcGo

/-- Of some lists those that pass, and the first one in any case where it is being converted. -/
def cutLists (keep : AdcList → Bool) (runs : Bool) : List AdcList → List AdcList
  | [] => []
  | l :: ls => if runs || keep l then l :: ls.filter keep else ls.filter keep

/-- A commit has applied: the pending lists of triggers it disabled are discarded; a list being converted is not pending (R193). -/
def State.adcCommitted (s : State) : State :=
  let keep (l : AdcList) : Bool := s.flag (Reg.ADC_TRGSRC l.trg) 31
  let cut (b : Bool) (t : State) : State :=
    let u := t.adcU b
    t.setAdcU b { u with fs := cutLists keep u.runsFs u.fs, pend := cutLists keep (adcRunsPend s b) u.pend }
  cut true (cut false s)

/-- The converter converts its reference: the check is due and no list is ahead of it (R188). -/
def AdcUnit.checks (u : AdcUnit) : Bool := u.cur.isNone && u.refDue && u.fs.isEmpty

/-- Resume from FREEZE: pending lists and the conversion in progress, the reference's among them, are discarded (R195). -/
def State.adcResume (s : State) : State :=
  let had (u : AdcUnit) : Bool := u.cur.isSome || !u.fs.isEmpty || !u.pend.isEmpty || u.checks
  let cut (b : Bool) (t : State) : State :=
    let u := t.adcU b
    t.setAdcU b { u with cur := none, fs := [], pend := [], refDue := u.refDue && !u.checks }
  let s1 := cut true (cut false s)
  if had s.adc.a || had s.adc.b then s1.setFlag Reg.ADC_STAT 7 true else s1

end Sys2Proof.Machine
end

