-- ==== Sys2Proof/Machine/Isa.lean ====
section
/-! DEFINITION. The Bazia instruction table (R51 to R55, R57, R62 to R72, R77 to R84, R518): formats, which field names what,
latencies, and what is legal. The same table serves the engines at run time and the loader's checks. -/
namespace Sys2Proof.Machine

/-- The fields of an instruction body under their names (R52); a field that its format does not have is 0. `low` collects the bits
that the format calls zero. -/
structure Fields where
  d : Nat
  a : Nat
  b : Nat
  c : Nat
  mask : Nat
  mod : Nat
  imm : Nat
  shift : Nat
  space : Nat
  offset : Nat
  bound : Nat
  target : Nat
  aux : Nat
  sub : Nat
  low : Nat
  deriving DecidableEq, Repr

def Fields.zero : Fields := ⟨0, 0, 0, 0, 0, 0, 0, 0, 0, 0, 0, 0, 0, 0, 0⟩

def FmtR.fields (f : FmtR) : Fields :=
  { Fields.zero with d := f.d.toNat, a := f.a.toNat, b := f.b.toNat, c := f.c.toNat, mask := f.mask.toNat, mod := f.mod.toNat,
                     low := f.zero.toNat }
def FmtI.fields (f : FmtI) : Fields :=
  { Fields.zero with d := f.d.toNat, a := f.a.toNat, mod := f.mod.toNat, imm := f.imm.toNat }
def FmtM.fields (f : FmtM) : Fields :=
  { Fields.zero with d := f.d.toNat, a := f.a.toNat, b := f.b.toNat, shift := f.shift.toNat, space := f.space.toNat,
                     offset := f.offset.toNat, low := f.zero.toNat }
def FmtC.fields (f : FmtC) : Fields :=
  { Fields.zero with a := f.a.toNat, bound := f.bound.toNat, target := f.target.toNat, aux := f.aux.toNat }
def FmtX.fields (f : FmtX) : Fields :=
  { Fields.zero with d := f.d.toNat, a := f.a.toNat, b := f.b.toNat, sub := f.sub.toNat, imm := f.imm.toNat }

inductive Fmt where
  | r | i | m | c | x
  deriving DecidableEq, Repr

/-- What a register field names, and whether the instruction reads or writes it (R53). -/
inductive Use where
  | no | gr | gw | grw | vr | vw | vrw | pr | pw
  deriving DecidableEq, Repr

/-- One row of the instruction tables. -/
structure IsaRow where
  opc : Nat
  fmt : Fmt
  d : Use
  a : Use
  b : Use
  c : Use
  /-- Accepts a predicate (R62); may stand in slot 1 (R55). -/
  pred : Bool
  slot1 : Bool
  /-- Latency in CORE cycles; the longest where it varies (R57, R86). -/
  lat : Nat
  /-- MOD bits and IMM bits it uses (R518), and whether MASK names lanes (R53). -/
  modBits : Nat
  immMask : Nat
  lanes : Bool
  bound : Bool
  target : Bool
  aux : Bool
  deriving DecidableEq, Repr

namespace Isa

def ctl (opc lat : Nat) (a : Use) (pred bound target aux : Bool) : IsaRow :=
  ⟨opc, .c, .no, a, .no, .no, pred, false, lat, 0, 0, false, bound, target, aux⟩
def rr (opc lat : Nat) (d a b c : Use) (slot1 : Bool) (modBits : Nat) (lanes : Bool) : IsaRow :=
  ⟨opc, .r, d, a, b, c, true, slot1, lat, modBits, 0, lanes, false, false, false⟩
def ri (opc lat : Nat) (d a : Use) (slot1 : Bool) (modBits immMask : Nat) : IsaRow :=
  ⟨opc, .i, d, a, .no, .no, true, slot1, lat, modBits, immMask, false, false, false, false⟩
def rm (opc lat : Nat) (d : Use) : IsaRow :=
  ⟨opc, .m, d, .gr, .gr, .no, true, false, lat, 0, 0, false, false, false, false⟩
def rx (opc lat : Nat) (d a b : Use) (immMask : Nat) : IsaRow :=
  ⟨opc, .x, d, a, b, .no, true, false, lat, 0, immMask, false, false, false, false⟩

def allImm : Nat := 0xFFFFFFFF

/-- R62. -/
def control : List IsaRow :=
  [ctl 0x00 1 .no false false false false, ctl 0x01 3 .no true false true false, ctl 0x02 3 .no true false true false,
   ctl 0x03 3 .no false false false false, ctl 0x04 2 .gr false true false true, ctl 0x05 3 .gr false true false false,
   ctl 0x06 1 .no true false false false]

/-- R63. -/
def arith : List IsaRow :=
  [rr 0x10 1 .gw .gr .gr .no true 0 false, rr 0x11 1 .gw .gr .gr .no true 0 false, rr 0x12 1 .gw .gr .gr .no true 0 false,
   rr 0x13 1 .gw .gr .gr .no true 0 false, rr 0x14 3 .gw .gr .gr .no true 0 false, rr 0x15 3 .gw .gr .gr .no true 0 false,
   rr 0x16 3 .gw .gr .gr .no true 0 false, rr 0x17 3 .grw .gr .gr .no true 0 false, rr 0x18 1 .gw .gr .gr .no true 0 false,
   rr 0x19 1 .gw .gr .gr .no true 0 false, rr 0x1A 1 .gw .gr .gr .no true 0 false, rr 0x1B 1 .gw .gr .gr .no true 0 false,
   rr 0x1C 1 .gw .gr .no .no true 0 false, rr 0x1D 1 .gw .gr .no .no true 0 false, rr 0x1E 20 .gw .gr .gr .gw false 0 false,
   rr 0x1F 20 .gw .gr .gr .gw false 0 false]

/-- R64. -/
def immediate : List IsaRow :=
  [ri 0x20 1 .gw .gr true 0 allImm, ri 0x21 3 .gw .gr true 0 allImm, ri 0x22 1 .gw .no true 0 allImm, ri 0x23 1 .gw .gr true 0 allImm,
   ri 0x24 1 .gw .gr true 0 allImm, ri 0x25 1 .gw .gr true 0 allImm, ri 0x26 1 .gw .gr true 0 allImm, ri 0x27 1 .gw .gr true 0 allImm,
   ri 0x28 1 .gw .gr true 0 0x1F, ri 0x29 1 .gw .gr true 0 0x1F, ri 0x2A 1 .gw .gr true 0 0x1F, ri 0x2B 1 .pw .gr true 5 allImm,
   ri 0x2C 1 .gw .gr true 0 0x1F1F, ri 0x2D 1 .grw .gr true 0 0x1F1F, ri 0x2E 1 .gw .gr true 0 0x3F, ri 0x2F 1 .gw .gr true 0 0x3F]

/-- R65 to R67. -/
def logic : List IsaRow :=
  [rr 0x30 1 .gw .gr .gr .no true 0 false, rr 0x31 1 .gw .gr .gr .no true 0 false, rr 0x32 1 .gw .gr .gr .no true 0 false,
   rr 0x33 1 .gw .gr .gr .no true 0 false, rr 0x34 1 .gw .gr .no .no true 0 false, rr 0x35 1 .gw .gr .gr .no true 0 false,
   rr 0x36 1 .gw .gr .gr .no true 0 false, rr 0x37 1 .gw .gr .gr .no true 0 false, rr 0x38 1 .gw .gr .gr .no true 0 false,
   rr 0x39 1 .gw .gr .no .no true 0 false, rr 0x3A 1 .gw .gr .no .no true 0 false,
   rr 0x40 1 .pw .gr .gr .no true 5 false, rr 0x41 1 .pw .pr .pr .no true 1 false, rr 0x42 1 .pw .pr .pr .no true 1 false,
   rr 0x43 1 .pw .pr .pr .no true 1 false,
   rr 0x50 1 .gw .gr .no .no true 0 false, rr 0x51 1 .gw .gr .gr .pr true 0 false, rr 0x52 2 .gw .no .no .no false 2 false,
   rr 0x53 1 .vw .gr .no .no true 3 false, rr 0x54 1 .gw .vr .no .no true 3 false, rr 0x55 1 .gw .pr .no .no true 0 false]

/-- R68, R69. The latency of a load is that of its longest region. -/
def memory : List IsaRow :=
  [rm 0x60 64 .gw, rm 0x61 1 .gr, rm 0x62 12 .vw, rm 0x63 1 .vr, ri 0x70 3 .gw .gr false 0 allImm, ri 0x71 6 .gw .gr false 0 allImm]

/-- R72. -/
def vector : List IsaRow :=
  [rr 0x80 1 .vw .vr .vr .no true 0 true, rr 0x81 1 .vw .vr .vr .no true 0 true, rr 0x82 1 .vw .vr .vr .no true 0 true,
   rr 0x83 4 .vw .vr .vr .no true 0 true, rr 0x84 4 .vrw .vr .vr .no true 0 true, rr 0x85 1 .vw .vr .vr .no true 0 true,
   rr 0x86 1 .vw .vr .vr .no true 0 true, rr 0x87 1 .vw .gr .no .no true 0 true, rr 0x88 3 .gw .vr .no .no true 0 true,
   rr 0x90 1 .vw .vr .vr .no true 0 true, rr 0x91 1 .vw .vr .vr .no true 0 true, rr 0x92 1 .vw .vr .vr .no true 0 true,
   rr 0x93 1 .vw .vr .no .no true 5 true, rr 0x94 1 .vw .vr .no .no true 5 true, rr 0x95 1 .vw .vr .no .no true 5 true,
   rr 0x96 1 .vw .vr .no .no true 5 true, rr 0x97 1 .gw .vr .vr .no true 3 true, rr 0x98 1 .vw .vr .vr .gr true 0 true]

/-- R77, R78, R82 to R84. The latency of SWAIT is its bound for 256 outlets (R86). -/
def system : List IsaRow :=
  [rx 0xB0 2 .gw .no .no 0, rx 0xB1 1 .gw .no .no 0, rx 0xB2 1 .no .gr .no 0xFFF, rx 0xB3 40 .no .no .no 0,
   rx 0xC0 1 .no .vr .no 0, rx 0xC1 1 .gw .gr .gr 0x1FF, rx 0xC2 15960 .pw .gr .no 0, rx 0xC3 1 .no .vr .no 0,
   rx 0xD0 20 .pw .no .no 0, rx 0xD1 400 .gw .no .no 0, rx 0xD2 20 .no .no .no 0, rx 0xD3 30 .gw .vr .pw 0xFFFFF,
   rx 0xD4 8000 .pw .gr .no 0, rx 0xE0 1 .no .gr .no 0, rx 0xE1 1 .no .no .no 0xF, rx 0xE2 1 .no .no .no 0]

/-- The row of an opcode; none for a reserved opcode (R54). -/
def row? (opc : Nat) : Option IsaRow :=
  let rows := if opc < 0x10 then control else if opc < 0x20 then arith else if opc < 0x30 then immediate
    else if opc < 0x60 then logic else if opc < 0x80 then memory else if opc < 0xA0 then vector else system
  rows.find? (fun r => decide (r.opc = opc))

end Isa

/-! ### Words -/

/-- The header and the fields of a 64-bit instruction word, in the format of its row (R51, R52). -/
def wordFld (w : DWord) (lo n : Nat) : Nat := w.toNat / 2 ^ lo % 2 ^ n

def wordOpc (w : DWord) : Nat := wordFld w 56 8

def wordHdr (w : DWord) : Hdr := ⟨w.getLsbD 55, w.getLsbD 54, BitVec.ofNat 3 (wordFld w 51 3)⟩

def wordFields (f : Fmt) (w : DWord) : Fields :=
  let z := Fields.zero
  match f with
  | .r => { z with d := wordFld w 46 5, a := wordFld w 41 5, b := wordFld w 36 5, c := wordFld w 31 5, mask := wordFld w 23 8,
                   mod := wordFld w 16 7, low := wordFld w 0 16 }
  | .i => { z with d := wordFld w 46 5, a := wordFld w 41 5, mod := wordFld w 32 9, imm := wordFld w 0 32 }
  | .m => { z with d := wordFld w 46 5, a := wordFld w 41 5, b := wordFld w 36 5, shift := wordFld w 33 3, space := wordFld w 31 2,
                   low := wordFld w 28 3, offset := wordFld w 0 28 }
  | .c => { z with a := wordFld w 46 5, bound := wordFld w 30 16, target := wordFld w 15 15, aux := wordFld w 0 15 }
  | .x => { z with d := wordFld w 46 5, a := wordFld w 41 5, b := wordFld w 36 5, sub := wordFld w 32 4, imm := wordFld w 0 32 }

/-! ### Legality (R54, R55, R518) -/

/-- A register field under its use (R53): an unused one is 0, a V field is below 16, a P field below 8. -/
def Use.fits (u : Use) (v : Nat) : Bool :=
  match u with
  | .no => decide (v = 0)
  | .gr | .gw | .grw => true
  | .vr | .vw | .vrw => decide (v < 16)
  | .pr | .pw => decide (v < 8)

/-- The ranges that the tables give beyond the fields' widths. -/
def rangesOk (opc : Nat) (f : Fields) : Bool :=
  match opc with
  | 0x04 => decide (1 ≤ f.bound)
  | 0x05 => decide (1 ≤ f.bound) && decide (f.bound ≤ 256)
  | 0x2B | 0x40 => decide (f.mod % 8 ≠ 7) && decide (f.mod / 8 % 4 ≠ 3)
  | 0x2E | 0x2F => decide (1 ≤ f.imm) && decide (f.imm ≤ 32)
  | 0x60 | 0x61 | 0x62 | 0x63 => decide (f.space ≠ 3)
  | 0x88 => decide (f.mask = 0xFF)
  | 0x97 => decide (f.mod % 8 ≠ 7)
  | 0xC1 => decide (1 ≤ f.imm) && decide (f.imm ≤ 256)
  | 0xD3 => decide (1 ≤ f.imm / 2 ^ 16) && decide (f.imm / 2 ^ 16 ≤ 8)
  | _ => true

/-- An instruction by itself is legal (R54). -/
def IsaRow.legal (r : IsaRow) (h : Hdr) (f : Fields) : Bool :=
  (r.pred || (decide (h.pred = 0) && !h.neg)) && (decide (0x10 ≤ r.opc) || !h.pair) && decide (f.low = 0)
    && r.d.fits f.d && r.a.fits f.a && r.b.fits f.b && r.c.fits f.c
    && decide (f.mod < 2 ^ r.modBits) && decide (f.imm &&& r.immMask = f.imm)
    && (if r.lanes then decide (f.mask ≠ 0) else decide (f.mask = 0)) && decide (f.sub = 0)
    && (r.bound || decide (f.bound = 0)) && (r.target || decide (f.target = 0)) && (r.aux || decide (f.aux = 0))
    && rangesOk r.opc f

/-- Keys of registers for the stall rule of R57 and the bundle rule of R55: G r at r, V r at 32 + r, P r at 64 + r; the hard-wired
G0 and P0 have none, so that two results which both go to G0 or P0 do not meet (DESIGN CHOICE, log entry 95). -/
def Use.key (u : Use) (v : Nat) : List Nat :=
  match u with
  | .no => []
  | .gr | .gw | .grw => if v = 0 then [] else [v]
  | .vr | .vw | .vrw => [32 + v]
  | .pr | .pw => if v = 0 then [] else [64 + v]

def Use.reads : Use → Bool
  | .gr | .grw | .vr | .vrw | .pr => true
  | _ => false

def Use.writes : Use → Bool
  | .gw | .grw | .vw | .vrw | .pw => true
  | _ => false

def IsaRow.pick (r : IsaRow) (p : Use → Bool) (f : Fields) : List Nat :=
  (if p r.d then r.d.key f.d else []) ++ (if p r.a then r.a.key f.a else []) ++ (if p r.b then r.b.key f.b else [])
    ++ (if p r.c then r.c.key f.c else [])

/-- The registers an instruction writes, and those whose results it waits for: its operands, its predicate, and P[D] where a
compare combines into it (R51, R66). -/
def IsaRow.dests (r : IsaRow) (f : Fields) : List Nat := r.pick Use.writes f

def IsaRow.sources (r : IsaRow) (h : Hdr) (f : Fields) : List Nat :=
  r.pick Use.reads f ++ (if h.pred = 0 then [] else [64 + h.pred.toNat])
    ++ (if (r.opc = 0x2B ∨ r.opc = 0x40) ∧ f.mod / 8 ≠ 0 ∧ f.d ≠ 0 then [64 + f.d] else [])

/-- A word that may stand in slot 1: legal by itself, of a class that slot 1 takes, and with PAIR = 0 (R55). -/
def slot1Row (w : DWord) : Option (IsaRow × Fields) :=
  match Isa.row? (wordOpc w) with
  | some r =>
    let f := wordFields r.fmt w
    if r.legal (wordHdr w) f && r.slot1 && !(wordHdr w).pair then some (r, f) else none
  | none => none

/-- A bundle whose slot 0 stands at index `idx` is legal: the target of a BR is greater than its own index (R62), and with PAIR = 1 the next
instruction stands in the image, may stand in slot 1 and writes no register that slot 0 writes (R54, R55). -/
def bundleOk (r : IsaRow) (h : Hdr) (f : Fields) (idx : Nat) (hasNext : Bool) (next : DWord) : Bool :=
  r.legal h f && (decide (r.opc ≠ 0x01) || decide (idx < f.target)) &&
    (!h.pair || (hasNext &&
      (match slot1Row next with
       | some q => (q.1.dests q.2).all (fun k => !(r.dests f).contains k)
       | none => false)))

end Sys2Proof.Machine
end

