-- ==== Sys2Proof/Machine/Journal.lean ====
section
/-! DEFINITION. The journal (R395 to R401): its entries, the write to MRAM, confirmations, completion marks and replay. -/
namespace Sys2Proof.Machine

/-- Entries of the ring, and the first type that is the device's own (R395, R396). -/
def ringSize : Nat := 65536
def ownType : Nat := 0xFF00
def typeMark : Nat := 0xFFFE
def typeDone : Nat := 0xFFFF

/-- The journal engine works: every mode but SILL and FREEZE (R404). -/
def journalOn (s : State) : Bool := s.sys.mode ≠ .sill && s.sys.mode ≠ .freeze

/-- The modes in which Truss exchanges (R404). -/
def trussRuns (s : State) : Bool :=
  s.flag Reg.TRU_CFG 0 && (s.sys.mode = .idle || s.sys.mode = .run || s.sys.mode = .limp || s.sys.mode = .safe || s.sys.mode = .service)
    && !s.sys.powerFail

/-- The link trains: where Truss runs, and in BOOT after the image has passed, where no commit can have set EN (R404, log entry 87). -/
def trussTrains (s : State) : Bool :=
  trussRuns s || (decide (s.sys.mode = .boot) && s.sys.bootDone.isSome && s.sched.image.isSome && !s.sys.powerFail)

/-- The sixteen words of an entry (R395). -/
def jrnWords (seq type nw frame : Nat) (data : List Word) : List Word :=
  let ws := [BitVec.ofNat 32 seq, BitVec.ofNat 32 (seq / 2 ^ 32), BitVec.ofNat 32 (type % 2 ^ 16 + nw % 16 * 2 ^ 16),
      BitVec.ofNat 32 frame, BitVec.ofNat 32 (frame / 2 ^ 32 % 2 ^ 16)] ++ (data.take nw ++ List.replicate 8 0#32).take 8 ++ [0, 0]
  ws ++ [crc32c (bytesOfWords ws)]

/-- SEQ, TYPE and data word `i` of an entry. -/
def entrySeq (ws : List Word) : Nat := (ws.getD 0 0).toNat + (ws.getD 1 0).toNat * 2 ^ 32
def entryType (ws : List Word) : Nat := fld (ws.getD 2 0) 0 16
def entryData (ws : List Word) (i : Nat) : Word := ws.getD (5 + i) 0

/-- An entry passes its CRC. -/
def entryOk (ws : List Word) : Bool := decide (ws.length = 16) && decide (ws.getD 15 0 = crc32c (bytesOfWords (ws.take 15)))

/-- The next slot holds an entry that is not retired (R396). -/
def jrnFull (s : State) : Bool := decide (ringSize ≤ s.jrn.head) && s.jrn.opened.contains (s.jrn.head - ringSize)

/-- The twin's confirmation against the entry's own CRC (R397). -/
def State.jrnCompare (s : State) (seq : Nat) (own crc : Word) : State :=
  let x := SMap.get JLive.none s.jrn.live seq
  if own = crc then { s with jrn := { s.jrn with live := SMap.set JLive.none s.jrn.live seq { x with confirmed := true } } }
  else
    (({ s with jrn := { s.jrn with live := SMap.set JLive.none s.jrn.live seq { x with diverged := true } } }).setFlag
      Reg.JRN_STAT 2 true).raise 293 (BitVec.ofNat 32 seq)

/-- An entry takes the next SEQ; a confirmation that came before it is compared with its CRC (R395, R397). -/
def State.jrnNumber (s : State) (ws : List Word) : State :=
  let j := s.jrn
  let seq := j.head
  let old := SMap.set JLive.none j.live (seq - ringSize) JLive.none
  let s1 := { s with jrn := { j with head := seq + 1, live := SMap.set JLive.none (if ringSize ≤ seq then old else j.live) seq JLive.none } }
  match (SMap.get JLive.none j.live seq).early with
  | some crc => s1.jrnCompare seq (ws.getD 15 0) crc
  | none => s1

/-- Append an entry: its SEQ, its words, and its place among the open entries. DONE entries and marks complete other entries
and are not open themselves (DEDUCED, log entry 20). -/
def State.jrnAppend (s : State) (type nw : Nat) (data : List Word) : State :=
  let seq := s.jrn.head
  let ws := jrnWords seq type nw s.frame.toNat data
  let s1 := s.jrnNumber ws
  { s1 with jrn := { s1.jrn with writing := s1.jrn.writing ++ [(seq, ws)],
                                 opened := if type < ownType then s1.jrn.opened ++ [seq] else s1.jrn.opened } }

/-- JPUT (R83, R396): whether the entry is appended. -/
def State.jput (s : State) (type nw : Nat) (data : List Word) : State × Bool :=
  if ownType ≤ type ∧ type ≠ typeDone then (s, false)
  else if jrnFull s then (s.setFlag Reg.JRN_STAT 1 true, false)
  else (s.jrnAppend type nw data, true)

/-- The entry that a mark's JSEQ names: the highest SEQ not above the journal head with those low bits (R399). -/
def markTarget (head : Nat) (jseq : Word) : Option Nat :=
  let t := head / 2 ^ 32 * 2 ^ 32 + jseq.toNat
  if t ≤ head then some t else if 2 ^ 32 ≤ t then some (t - 2 ^ 32) else none

/-- The entry that a written entry completes, if it is a DONE entry or a mark (R396, R399). -/
def completes (head : Nat) (ws : List Word) : Option Nat :=
  if entryType ws = typeDone then some ((entryData ws 0).toNat + (entryData ws 1).toNat * 2 ^ 32)
  else if entryType ws = typeMark then markTarget head (entryData ws 1)
  else none

/-- An entry stands in MRAM: the entry it completes is retired, and its confirmation goes to the twin at once (R39, R396, R397, R399). -/
def State.jrnStore (s : State) (seq : Nat) (ws : List Word) : State :=
  let j := s.jrn
  let tells := trussRuns s && s.flag Reg.TRU_STAT 6 && !s.solo
  let s0 := s.mramWritten 3 (64 * (seq % ringSize)) 64
  { s0 with jrn := { j with ring := SMap.set [] j.ring (seq % ringSize) ws,
                            told := if tells then j.told ++ [(seq, ws.getD 15 0)] else j.told,
                            opened := match completes j.head ws with
                              | some t => j.opened.filter (fun x => decide (x ≠ t))
                              | none => j.opened } }

/-- The oldest entry being written is in MRAM (R397). -/
def State.jrnWritten (s : State) : State :=
  match s.jrn.writing with
  | [] => s
  | x :: xs => ({ s with jrn := { s.jrn with writing := xs } }).jrnStore x.1 x.2

/-- An entry is written in the device's own MRAM. -/
def inRing (s : State) (seq : Nat) : Bool :=
  let ws := SMap.get [] s.jrn.ring (seq % ringSize)
  !ws.isEmpty && decide (entrySeq ws = seq)

/-- The entry that the low 32 bits of a SEQ name: the highest one appended (R399). -/
def jrnNamed (s : State) (low : Word) : Option Nat :=
  if s.jrn.head = 0 then none
  else markTarget (s.jrn.head - 1) low

/-- JSYNC returns 1 for this entry: written in every MRAM that R39 requires (R397). -/
def jsyncDone (s : State) (low : Word) : Bool :=
  match jrnNamed s low with
  | none => false
  | some q =>
    let x := SMap.get JLive.none s.jrn.live q
    inRing s q && !x.diverged && (s.solo || x.confirmed)

/-- The twin's confirmation of a SEQ with the CRC of its entry (R397). -/
def State.jrnConfirm (s : State) (seq : Nat) (crc : Word) : State :=
  match s.jrn.writing.find? (fun x => decide (x.1 = seq)) with
  | some x => s.jrnCompare seq (x.2.getD 15 0) crc
  | none =>
    if inRing s seq then s.jrnCompare seq ((SMap.get [] s.jrn.ring (seq % ringSize)).getD 15 0) crc
    else if s.jrn.head ≤ seq then
      { s with jrn := { s.jrn with live := SMap.set JLive.none s.jrn.live seq
                                             { SMap.get JLive.none s.jrn.live seq with early := some crc } } }
    else s

/-- The oldest mark of the buffer goes to MRAM as an entry of type 0xFFFE (R396, R400). Its data are the controller, the entry and
RETX in word 0 and JSEQ in word 1 (DESIGN CHOICE, log entry 20). It waits while the next slot holds an open entry. -/
def State.drainMark (s : State) : State :=
  match s.jrn.marks with
  | [] => s
  | m :: ms =>
    if jrnFull s then s
    else
      let seq := s.jrn.head
      let ws := jrnWords seq typeMark 2 m.frame [BitVec.ofNat 32 (m.ctl + m.entry * 2 ^ 8 + b2n m.retx * 2 ^ 16), m.jseq]
      (({ s with jrn := { s.jrn with marks := ms } }).jrnNumber ws).jrnStore seq ws

/-- The whole buffer drains (R400). -/
def drainMarks : Nat → State → State
  | 0, s => s
  | k + 1, s => drainMarks k s.drainMark

def State.drainBuffer (s : State) : State := drainMarks s.jrn.marks.length s

/-! ### Replay (R401) -/

/-- The valid entries of the ring, ascending in SEQ. -/
def insertEntry (ws : List Word) : List (List Word) → List (List Word)
  | [] => [ws]
  | x :: xs => if entrySeq ws < entrySeq x then ws :: x :: xs else x :: insertEntry ws xs

def validEntries (m : SMap (List Word)) : List (List Word) :=
  m.foldl (fun acc x => if entryOk x.2 then insertEntry x.2 acc else acc) []

/-- The next SEQ after the entries of the ring. -/
def ringHead (m : SMap (List Word)) : Nat :=
  match (validEntries m).getLast? with
  | some x => entrySeq x + 1
  | none => 0

/-- The failing slots of a run that begins at a slot. -/
def badRun (bad : List Nat) : Nat → Nat → List Nat
  | 0, _ => []
  | k + 1, slot => if bad.contains slot then slot :: badRun bad k ((slot + 1) % ringSize) else []

/-- The trailing failing slots: those right after the newest valid entry, and every one where no entry is valid. Any other failing entry is
followed by valid ones (R401). -/
def tornSlots (m : SMap (List Word)) : List Nat :=
  let bad := (m.filter (fun x => !entryOk x.2)).map (·.1)
  if (validEntries m).isEmpty then bad else badRun bad bad.length (ringHead m % ringSize)

/-- The entries that are open in a set of valid entries: a program's, and completed by none of them (R396, R398, R399). -/
def openOf (head : Nat) (valid : List (List Word)) : List Nat :=
  let done := valid.filterMap (completes head)
  (valid.filter (fun ws => decide (entryType ws < ownType))).map entrySeq |>.filter (fun q => !done.contains q)

/-- The next batch of open entries is copied to FMEM from JRN_RBASE, at most RLEN of them (R401); what has been completed meanwhile is not
presented (R398). -/
def State.replayBatch (s : State) : State :=
  let n := (s.rd Reg.JRN_RLEN).toNat
  let due := s.jrn.replay.filter (fun q => s.jrn.opened.contains q)
  let take := due.take n
  let rest := due.drop n
  let words := take.flatMap (fun q => SMap.get [] s.jrn.ring (q % ringSize))
  let s1 := ({ s with jrn := { s.jrn with replay := rest } }).fmemPut (s.rf Reg.JRN_RBASE 0 22) words
  (s1.wr Reg.JRN_RCNT (BitVec.ofNat 32 take.length)).setFlag Reg.JRN_STAT 6 (!rest.isEmpty)

/-- Replay (R401): the buffer drains (R400), the ring is scanned, torn entries are discarded, and the first batch is placed. -/
def State.replayJournal (s : State) : State :=
  let s0 := s.drainBuffer
  let valid := validEntries s0.jrn.ring
  let bad := (s0.jrn.ring.filter (fun x => !entryOk x.2)).map (·.1)
  let torn := tornSlots s0.jrn.ring
  let opened := openOf s0.jrn.head valid
  let pend := (s0.jrn.writing.map (·.1)).filter (fun q => s0.jrn.opened.contains q)
  let s1 := { s0 with jrn := { s0.jrn with ring := torn.foldl (fun m x => SMap.set [] m x []) s0.jrn.ring,
                                           opened := opened ++ pend, replay := opened, replayDue := false } }
  let s2 := s1.iff (!torn.isEmpty) (fun t => t.setFlag Reg.JRN_STAT 3 true)
  let s3 := s2.iff (bad.any (fun x => !torn.contains x)) (fun t => (t.setFlag Reg.JRN_STAT 4 true).raise 294 0)
  s3.replayBatch

/-- A write to JRN_RCTL (R401, R406). -/
def State.jrnRctl (s : State) (v : Word) : State :=
  if !journalOn s then s
  else (s.iff (bit v 0) State.replayJournal).iff (bit v 1) State.replayBatch

end Sys2Proof.Machine
end

