-- ==== Sys2Proof/Machine/Engine.lean ====
section
/-! DEFINITION. How an engine issues an instruction (R42 to R45, R53 to R61, R73 to R75, R87 to R89, R518, R522): the ONE operation every
engine instruction goes through, the tag rules, loops, and the end of a slice. -/
namespace Sys2Proof.Machine

/-! ### Tagged words (R34, R58 to R60) -/

/-- A word with its Dowel tag. -/
abbrev TW := Word × Byte

/-- Rule N: the tag is created from the value. -/
def newTW (w : Word) : TW := (w, tagOf w)

/-- A tag of 251 to 255 is a mismatch under every rule (R59). -/
def rangeBad (x : TW) : Bool := decide (251 ≤ x.2.toNat)

/-- Rules Z and K: the tag must be that of the value. -/
def valueBad (x : TW) : Bool := decide (x.2 ≠ tagOf x.1)

/-- The first operand that fails its check: all of them are checked against their values, or for their range only. -/
def firstBad (full : Bool) (l : List TW) : Option TW := l.find? (fun x => rangeBad x || (full && valueBad x))

def tagNat (n : Nat) : Byte := BitVec.ofNat 8 (n % 251)

/-- The carried rules of R60; 128 stands for −123 modulo 251. -/
def addTW (a b : TW) : TW :=
  (a.1 + b.1, tagNat (a.2.toNat + b.2.toNat + 128 * ((a.1.toNat + b.1.toNat) / 2 ^ 32)))
def subTW (a b : TW) : TW :=
  (a.1 - b.1, tagNat (a.2.toNat + 502 - b.2.toNat + 123 * b2n (decide (a.1.toNat < b.1.toNat))))
def negTW (a : TW) : TW := (0 - a.1, if a.1 = 0 then 0 else tagNat (123 + 502 - a.2.toNat))
def mulTW (a b : TW) : TW :=
  (a.1 * b.1, tagNat (a.2.toNat * b.2.toNat + 128 * (a.1.toNat * b.1.toNat / 2 ^ 32 % 251)))
def mulhuTW (a b : TW) : TW :=
  let p := a.1.toNat * b.1.toNat
  (BitVec.ofNat 32 (p / 2 ^ 32), tagNat ((a.2.toNat * b.2.toNat + 251 - p % 2 ^ 32 % 251) * 100))
def macTW (d a b : TW) : TW := addTW d (mulTW a b)

/-! ### The register file (R42) -/

/-- G r; G0 reads as 0 with tag 0. -/
def RegFile.gv (f : RegFile) (r : Nat) : TW := if r = 0 then (0, 0) else (SMap.get 0 f.g r, SMap.get 0 f.gt r)
/-- Lane n of V r. -/
def RegFile.lane (f : RegFile) (r n : Nat) : TW := (SMap.get 0 f.v (8 * r + n), SMap.get 0 f.vt (8 * r + n))
def RegFile.vec (f : RegFile) (r : Nat) : List TW := (List.range 8).map (f.lane r)
/-- P r; P0 reads as 1. -/
def RegFile.pv (f : RegFile) (r : Nat) : Bool := decide (r = 0) || f.p.getLsbD r

/-- Writes to G0 and P0 are discarded. -/
def RegFile.setG (f : RegFile) (r : Nat) (x : TW) : RegFile :=
  if r = 0 then f else { f with g := SMap.set 0 f.g r x.1, gt := SMap.set 0 f.gt r x.2 }
def RegFile.setLane (f : RegFile) (r n : Nat) (x : TW) : RegFile :=
  { f with v := SMap.set 0 f.v (8 * r + n) x.1, vt := SMap.set 0 f.vt (8 * r + n) x.2 }
def RegFile.setP (f : RegFile) (r : Nat) (b : Bool) : RegFile :=
  if r = 0 then f else { f with p := if b then f.p ||| (1#8 <<< r) else f.p &&& ~~~(1#8 <<< r) }

/-- An instruction at its issue: the engine's number and state before it, its index and cycle, and the registers it reads. -/
structure Issue where
  e : Nat
  x : Eng
  idx : Nat
  cyc : Nat
  rf : RegFile
  deriving DecidableEq, Repr

def Issue.g (i : Issue) (r : Nat) : TW := i.rf.gv r
def Issue.v (i : Issue) (r : Nat) : List TW := i.rf.vec r
def Issue.p (i : Issue) (r : Nat) : Bool := i.rf.pv r

/-- Change an engine's record. -/
def State.updEn (s : State) (e : Nat) (f : Eng → Eng) : State := s.setEn e (f (s.en e))
/-- Change what the next bundle of an engine depends on, unless a reset has cut its slice off (R90). -/
def State.updRun (s : State) (e : Nat) (f : Eng → Eng) : State := if (s.en e).inSlice then s.updEn e f else s
/-- A register written while a load of it waits keeps the later value. -/
def State.putG (s : State) (e r : Nat) (x : TW) : State :=
  s.updEn e (fun y => { y with rf := y.rf.setG r x, loads := y.loads.filter (fun l => decide (l.d ≠ r)) })
def State.putLane (s : State) (e r n : Nat) (x : TW) : State := s.updEn e (fun y => { y with rf := y.rf.setLane r n x })
def State.putP (s : State) (e r : Nat) (b : Bool) : State := s.updEn e (fun y => { y with rf := y.rf.setP r b })

/-! ### Abandon and mismatch (R61, R88, R89) -/

/-- The slice of an engine is over: the engine is IDLE, and FRAME, SLICE and BUDGET read 0 outside a slice (R43). -/
def Eng.finished (x : Eng) : Eng :=
  { x with state := .idle, wait := .none, old := none, slice := 0, budget := 0, scribe := false, cyc := 0, loads := [] }

/-- A slice is abandoned with a cause (R88, R89). Stores already issued still arrive, and the slot 1 that issued with the abandoned slot 0 can
still find a mismatch. A slice that the engine reset of a mismatch in the same cycle has abandoned already is not abandoned again (DEDUCED, log
entry 90). -/
def State.abandon (s : State) (e cause : Nat) : State :=
  let x := s.en e
  if !x.inSlice then s else
  let s1 := ((s.setFld (Reg.BE_STAT e) 8 8 cause).setFlag (Reg.BE_STAT e) 3 true).count (Reg.BE_ERR e) 8 8 1
  let s2 := (s1.setEn e { x.finished with after := x.slot1 }).txnDropTask x.task
  s2.raise (48 + e) (engineFault e cause)

/-- A Dowel mismatch found by an engine (R61): counted, the first one captured, and sent to the collector. -/
def State.mismatch (s : State) (i : Issue) (b : TW) (addr : Word) : State :=
  let s1 := s.count (Reg.BE_ERR i.e) 0 8 1
  let s2 := if s1.flag (Reg.BE_FIRSTERR i.e) 31 then s1
    else s1.wr (Reg.BE_FIRSTERR i.e) (BitVec.ofNat 32 (2 ^ 31 + i.x.task * 2 ^ 23 + i.idx % 2 ^ 15))
  s2.raiseDowel (32 + i.e) (BitVec.ofNat 32 (i.e * 2 ^ 16 + i.idx % 2 ^ 15)) b.1 b.2 addr

/-- Go on unless an operand fails its check; a mismatch suppresses the instruction (R61). The record names the instruction's index
as the address (log entry 21). -/
def State.checked (s : State) (i : Issue) (full : Bool) (ops : List TW) (f : State → State) : State :=
  match firstBad full ops with
  | some b => s.mismatch i b (BitVec.ofNat 32 i.idx)
  | none => f s

/-- Rule Z (R58, R61): the operands are checked, and where primary and duplicate units disagree in the result the instruction is suppressed. The
record then names the primary unit's result, with the tag that its value has (DESIGN CHOICE, log entry 60). -/
def State.dual (s : State) (i : Issue) (ops : List TW) (res : Word) (f : State → State) : State :=
  s.checked i true ops fun u => if i.x.unitBad then u.mismatch i (newTW res) (BitVec.ofNat 32 i.idx) else f u

/-- Rule Z for an instruction that recomputes, the carried and preserved rules for one that does not. -/
def State.ruled (s : State) (i : Issue) (full : Bool) (ops : List TW) (res : Word) (f : State → State) : State :=
  if full then s.dual i ops res f else s.checked i false ops f

/-! ### Loops and the next index (R62, R73 to R75) -/

/-- After the instruction at `idx`, inside the loops `ls` of call depth `d`: the next index, and the loops that go on. -/
def seqNext (d idx : Nat) : List Loop → Nat × List Loop
  | [] => (idx + 1, [])
  | l :: ls =>
    if l.depth = d ∧ l.stop = idx then
      if 1 < l.left then (l.start, { l with left := l.left - 1 } :: ls) else seqNext d idx ls
    else (idx + 1, l :: ls)

/-- A branch to `t` ends every loop of this call depth whose body it leaves (R73). -/
def leaveLoops (d t : Nat) : List Loop → List Loop
  | [] => []
  | l :: ls => if l.depth = d ∧ l.stop < t then leaveLoops d t ls else l :: ls

/-- The number of instructions of the image in the instruction memory. -/
def nInsn (s : State) : Nat :=
  match s.sched.image with
  | some i => i.ninsn
  | none => 0

/-! ### Issue (R54 to R57, R522) -/

/-- The engine takes an instruction now: it runs a slice and waits for nothing, or the slot 1 of a bundle is still to come, which a
FREEZE does not cut off (R91). -/
def issues (s : State) (x : Eng) : Bool :=
  (x.state = .run && s.clocked && (x.wait = .none || x.old.isSome)) || (x.state = .halted && x.old.isSome)

/-- The latest cycle at which one of the registers is ready (R57). -/
def readyAt (x : Eng) (c : Nat) (keys : List Nat) : Nat := keys.foldl (fun m k => max m (SMap.get 0 x.ready k)) c

def setReady (m : SMap Nat) (at_ : Nat) (keys : List Nat) : SMap Nat := keys.foldl (fun m k => SMap.set 0 m k at_) m

def isDiv (opc : Nat) : Bool := opc = 0x1E || opc = 0x1F

/-- The cycle at which a bundle with this slot 0 issues: its operands and, where it pairs, those of its slot 1 are ready, and a
division is 20 cycles after the one before (R57, R522). -/
def issueCycle (x : Eng) (r : IsaRow) (h : Hdr) (f : Fields) (next : DWord) : Nat :=
  let c1 := readyAt x x.cyc (r.sources h f)
  let c2 := if h.pair then
      (match slot1Row next with
       | some q => readyAt x c1 (q.1.sources (wordHdr next) q.2)
       | none => c1)
    else c1
  if isDiv r.opc then max c2 x.divAt else c2

/-- The engine after an instruction has issued at cycle `c`, whatever its predicate: its results' latency (R57), the next index. -/
def Eng.issued (x : Eng) (slot1 : Bool) (r : IsaRow) (h : Hdr) (f : Fields) (c : Nat) : Eng :=
  let nx := if !slot1 && h.pair then (x.pc + 1, x.loops) else seqNext x.ret.length x.pc x.loops
  { x with pc := nx.1, loops := nx.2, cyc := max x.cyc (c + 1), ready := setReady x.ready (c + r.lat) (r.dests f),
           divAt := if isDiv r.opc then c + 20 else x.divAt, old := if !slot1 && h.pair then some (x.rf, c) else none }

/-- The errors of the words that are fetched with this instruction: those of its bundle, with slot 0 (R49, R54). -/
def fetchErrs (x : Eng) (h : Hdr) : List Nat :=
  if x.old.isSome then [] else (if h.pair then [x.pc, x.pc + 1] else [x.pc]).map (SMap.get 0 x.imemErr)

/-- A word has a double-bit error (R49). -/
def fetchBad (x : Eng) (h : Hdr) : Bool := (fetchErrs x h).any (fun n => decide (2 ≤ n))

/-- How many words are corrected (R49). -/
def fetchCorr (x : Eng) (h : Hdr) : Nat := (fetchErrs x h).countP (fun n => decide (n = 1))

/-- The slot 1 that issued in the cycle in which its slot 0 abandoned the slice: it still records its mismatch (R89). What it writes into the
registers of an engine that was reset is cleared with them (R90). -/
def State.issueAfter (s : State) (e : Nat) (opc : Nat) (h : Hdr) (f : Fields) (k : Issue → Bool → State → State) : State :=
  match (s.en e).after, Isa.row? opc with
  | some o, some r =>
    if s.clocked && r.legal h f && r.slot1 && !h.pair then
      (k ⟨e, { s.en e with slice := o.slice }, o.idx, o.cyc, o.rf⟩ (o.rf.pv h.pred.toNat != h.neg)
        (s.updEn e (fun y => { y with after := none }))).updEn e (fun y => if y.state = .rehash then { y with rf := RegFile.zero } else y)
    else s
  | _, _ => s

/-- Issue one instruction. A double-bit error in a word of its bundle abandons the slice (R49, CAUSE 4), and each corrected one counts in
BE_ERR.IMEM_CORR (log entry 57). An illegal instruction or bundle abandons the slice before it issues (R54, CAUSE 2), a Scribe
instruction outside the Scribe task with CAUSE 6 (R78), an exhausted budget with CAUSE 1. A bundle that needs the result of a load which has not
been performed does not issue yet (R57). The continuation learns whether the predicate holds. -/
def State.issueWith (s : State) (e : Nat) (opc : Nat) (h : Hdr) (f : Fields) (k : Issue → Bool → State → State) : State :=
  let x := s.en e
  if !issues s x then s.issueAfter e opc h f k
  else match Isa.row? opc with
    | none => s.abandon e 2
    | some r =>
      let next := SMap.get 0 x.imem (x.pc + 1)
      let legal := if x.old.isSome then r.legal h f && r.slot1 && !h.pair else bundleOk r h f x.pc (decide (x.pc + 1 < nInsn s)) next
      let c := match x.old with
        | some o => o.2
        | none => issueCycle x r h f next
      let rf := match x.old with
        | some o => o.1
        | none => x.rf
      let needs := r.sources h f ++ (if h.pair then
          (match slot1Row next with
           | some q => q.1.sources (wordHdr next) q.2
           | none => [])
        else [])
      if fetchBad x h then s.abandon e 4
      else if !legal then s.abandon e 2
      else if x.old.isNone ∧ x.loads.any (fun l => needs.contains l.d) then s
      else if 0xC0 ≤ opc ∧ opc < 0xD0 ∧ ¬ x.scribe then s.abandon e 6
      else if x.old.isNone ∧ x.budget ≤ c then s.abandon e 1
      else
        let s1 := (s.setEn e (x.issued x.old.isSome r h f c)).at (x.startEdge + 2 * c)
        let s2 := if fetchCorr x h = 0 then s1 else s1.count (Reg.BE_ERR e) 16 8 (fetchCorr x h)
        k ⟨e, x, x.pc, c, rf⟩ (rf.pv h.pred.toNat != h.neg) s2

/-- Issue an instruction whose effect is made when its predicate holds. -/
def State.issue (s : State) (e : Nat) (opc : Nat) (h : Hdr) (f : Fields) (eff : Issue → State → State) : State :=
  s.issueWith e opc h f (fun i go t => if go then eff i t else t)

/-- The next bundle issues no earlier than `n` cycles after this one (R62, R522). -/
def State.holdFor (s : State) (i : Issue) (n : Nat) : State := s.updRun i.e (fun x => { x with cyc := max x.cyc (i.cyc + n) })

/-- The engine waits (R522). -/
def State.waitFor (s : State) (i : Issue) (w : EngWait) : State := s.updRun i.e (fun x => { x with wait := w })

/-- A wait of an engine is over; it took up to `n` cycles, which the spec does not fix (log entry 2). -/
def State.waitOver (s : State) (e n : Nat) : State :=
  (s.updEn e (fun x => { x with wait := .none, cyc := x.cyc + s.freeNat % n })).spend

/-- A wait is over with a result: an instruction that reads it may issue from the next bundle on. -/
def State.answer (s : State) (e n : Nat) (keys : List Nat) : State :=
  (s.waitOver e n).updEn e (fun x => { x with ready := setReady x.ready x.cyc keys })

/-- A wait for a word is over. -/
def State.answerG (s : State) (e n d : Nat) (w : Word) : State := (s.answer e n (Use.key .gw d)).putG e d (newTW w)

/-- A wait for a predicate is decided at the instant `at_`, ns since reset: later bundles issue from the first cycle that is not before it. -/
def State.answerAt (s : State) (e at_ p : Nat) (b : Bool) : State :=
  (s.updEn e (fun x =>
    let c := max x.cyc ((at_ - (s.base + x.startEdge) + 1) / 2)
    { x with wait := .none, cyc := c, ready := setReady x.ready c (Use.key .pw p) })).putP e p b

/-- The results of an instruction may be read `n` cycles after its issue (R57). -/
def State.readyIn (s : State) (i : Issue) (n : Nat) (keys : List Nat) : State :=
  s.updEn i.e (fun x => { x with ready := setReady x.ready (i.cyc + n) keys })

/-! ### Shapes shared by many instructions -/

/-- d = op a b, in format R; `full` says whether the operand tags are checked against their values. -/
def State.binR (s : State) (e opc : Nat) (h : Hdr) (f : FmtR) (full : Bool) (op : TW → TW → TW) : State :=
  s.issue e opc h f.fields fun i t =>
    let r := op (i.g f.a.toNat) (i.g f.b.toNat)
    t.ruled i full [i.g f.a.toNat, i.g f.b.toNat] r.1 fun u => u.putG e f.d.toNat r

/-- d = op a, in format R. -/
def State.unR (s : State) (e opc : Nat) (h : Hdr) (f : FmtR) (full : Bool) (op : TW → TW) : State :=
  s.issue e opc h f.fields fun i t =>
    t.ruled i full [i.g f.a.toNat] (op (i.g f.a.toNat)).1 fun u => u.putG e f.d.toNat (op (i.g f.a.toNat))

/-- d = op a IMM, in format I; the immediate is tagged at decode (R64). -/
def State.binI (s : State) (e opc : Nat) (h : Hdr) (f : FmtI) (full : Bool) (op : TW → TW → TW) : State :=
  s.issue e opc h f.fields fun i t =>
    let r := op (i.g f.a.toNat) (newTW f.imm)
    t.ruled i full [i.g f.a.toNat] r.1 fun u => u.putG e f.d.toNat r

/-- Rule Z: computed on the values, the tag created from the result. -/
def onValues (op : Word → Word → Word) (a b : TW) : TW := newTW (op a.1 b.1)

/-- One of the eight conditions of a compare (R66); the value 7 is illegal. -/
def condition (c : Nat) (a b : Word) : Bool :=
  match c with
  | 0 => decide (a = b)
  | 1 => decide (a ≠ b)
  | 2 => a.slt b
  | 3 => !a.slt b
  | 4 => a.ult b
  | 5 => !a.ult b
  | _ => decide (a &&& b ≠ 0)

/-- How a compare writes its predicate: set, AND into it, OR into it (R66). -/
def combine (mode : Nat) (old new : Bool) : Bool :=
  match mode with
  | 0 => new
  | 1 => old && new
  | _ => old || new

/-- Lane-wise operation over the lanes of MASK; a mismatch in one of them suppresses the instruction (R61, R72). -/
def selected (mask : BitVec 8) : List Nat := (List.range 8).filter (fun n => mask.getLsbD n)

/-- The result of the lowest selected lane: the one that a disagreement of the units names. -/
def firstRes (mask : BitVec 8) (res : Nat → TW) : Word := (res ((selected mask).headD 0)).1

def State.lanes (s : State) (e r : Nat) (mask : BitVec 8) (res : Nat → TW) : State :=
  eachOf (selected mask) (fun n u => u.putLane e r n (res n)) s

/-- V[D] = op V[A] V[B] on the selected lanes. -/
def State.binV (s : State) (e opc : Nat) (h : Hdr) (f : FmtR) (full : Bool) (op : TW → TW → TW) : State :=
  s.issue e opc h f.fields fun i t =>
    let a := fun n => i.rf.lane f.a.toNat n
    let b := fun n => i.rf.lane f.b.toNat n
    t.ruled i full ((selected f.mask).flatMap fun n => [a n, b n]) (firstRes f.mask fun n => op (a n) (b n)) fun u => u.lanes e f.d.toNat f.mask (fun n => op (a n) (b n))

/-- V[D] = op V[A] on the selected lanes. -/
def State.unV (s : State) (e opc : Nat) (h : Hdr) (f : FmtR) (op : Word → Word) : State :=
  s.issue e opc h f.fields fun i t =>
    let a := fun n => i.rf.lane f.a.toNat n
    t.dual i ((selected f.mask).map a) (firstRes f.mask fun n => newTW (op (a n).1)) fun u => u.lanes e f.d.toNat f.mask (fun n => newTW (op (a n).1))

/-! ### Slices -/

/-- BUDGET_EXHAUSTED: BUDGET reaches 0 before END (R88). -/
def execBudgetExhausted (e : Fin 8) (s : State) : Host.Outcome State Fault Refusal :=
  .next (if (s.en e).state = .run ∧ s.clocked then s.abandon e 1 else s)

end Sys2Proof.Machine
end

