-- ==== Sys2Proof/Machine/Trig.lean ====
section
/-! DEFINITION. Sine and cosine in fixed point for Scribe's arithmetic (R145, R146): values in units of 2^-96, angles in units of 2^-64 turn. The
series leave an error below 2^-60, far inside the bounds of R151. -/
namespace Sys2Proof.Machine

/-- 2^96, and π in units of 2^-96. -/
def one96 : Int := 2 ^ 96
def pi96 : Int := 248902613312231085230521944622

/-- The terms of a Taylor series from term `t`, whose next divisors are n (n + 1), to `k` terms. -/
def taylor (x2 : Int) : Nat → Int → Int → Int
  | 0, _, _ => 0
  | k + 1, t, n => t + taylor x2 k (-(t * x2 / one96) / (n * (n + 1))) (n + 2)

/-- Sine and cosine of an angle in the first quadrant, in radians. -/
def sinQ (x : Int) : Int := taylor (x * x / one96) 24 x 2
def cosQ (x : Int) : Int := taylor (x * x / one96) 24 one96 1

/-- Sine of an angle. -/
def sinTurn (t : Int) : Int :=
  let r := t % 2 ^ 64
  let x := r % 2 ^ 62 * 2 * pi96 / 2 ^ 64
  match (r / 2 ^ 62).toNat with
  | 0 => sinQ x
  | 1 => cosQ x
  | 2 => -sinQ x
  | _ => -cosQ x

def cosTurn (t : Int) : Int := sinTurn (t + 2 ^ 62)

/-- An angle in radians. -/
def radians (t : Int) : Int := t * 2 * pi96 / 2 ^ 64

/-- The angle whose tangent is y ÷ x, for y and x not negative and not both 0: floor in 1/65,536 turn, by bits. -/
def quadrantAngle (y x : Nat) : Nat → Nat → Nat
  | 0, r => r
  | k + 1, r =>
    let c := r + 2 ^ k
    let t : Int := c * 2 ^ 48
    quadrantAngle y x k (if c ≤ 16384 ∧ sinTurn t * x ≤ cosTurn t * y then c else r)

/-- The angle of a vector in 1/65,536 turn, where `up` says whether one that lies between two values takes the upper; the vector 0 has none
(R281). -/
def vectorAngle (up : Bool) (y x : Int) : Option Nat :=
  if y = 0 ∧ x = 0 then none
  else
    let q (y x : Nat) : Nat :=
      if y = 0 then 0 else if x = 0 then 16384 else if y = x then 8192
      else quadrantAngle y x 14 0 + (if up then 1 else 0)
    some (((if 0 ≤ x then (if 0 ≤ y then q y.natAbs x.natAbs else 65536 - q y.natAbs x.natAbs)
      else if 0 ≤ y then 32768 - q y.natAbs x.natAbs else 32768 + q y.natAbs x.natAbs)) % 65536)

end Sys2Proof.Machine
end

