-- ==== Sys2Proof/Machine/Motion.lean ====
section
/-! DEFINITION. The motion generators, the gate-driver ports and position feedback (R256 to R285). -/
namespace Sys2Proof.Machine

/-! ### Whether an axis works -/

/-- The generators run in IDLE, RUN, LIMP and SAFE (R285). -/
def axisRuns (s : State) : Bool := gaugeRuns s

/-- An enabled axis with a MODE other than 0 (R259), in a mode in which the generators run. -/
def axisOn (s : State) (a : Nat) : Bool :=
  let w := s.rd (Reg.AX_CFG a)
  bit w 31 && decide (fld w 28 3 ≠ 0) && axisRuns s

/-- Bring STATE to the axis's enable and the device's mode: off, or standstill when it comes on. -/
def State.axisSync (s : State) (a : Nat) : State :=
  let st := s.rf (Reg.AX_STAT a) 0 3
  if axisOn s a then (if st = 0 then s.axState a 1 else s)
  else if st = 0 then s else (s.stopNow a).axState a 0

/-! ### Staged values (R260) -/

/-- The last word entered in a motion shadow (R519). -/
def State.motSh (s : State) (a : Nat) : Word := SMap.get 0 s.mot.sh a

def State.setMotSh (s : State) (a : Nat) (v : Word) : State := { s with mot := { s.mot with sh := SMap.set 0 s.mot.sh a v } }

/-- The limits in use by an axis. -/
def limitsOf (s : State) (a : Nat) : Limits :=
  { vmax := (s.rd (Reg.AX_VMAX a)).toNat, amax := (s.rd (Reg.AX_AMAX a)).toNat, dmax := (s.rd (Reg.AX_DMAX a)).toNat,
    jmax := (s.rd (Reg.AX_JMAX a)).toNat }

/-- A write to a word of an axis that R260 stages reaches the block: the high half of a target or preset stages it whole, with
the last low half written; a low half alone stages only in MODE 2. -/
def State.axisStage (s : State) (a ofs : Nat) (v : Word) : State :=
  let x := s.axs a
  match ofs with
  | 0x14 =>
    let s1 := s.setAxs a { x with tgtLo := v }
    if s.rf (Reg.AX_CFG a) 28 3 = 2 then s1.stage (Reg.AX_TGT_LO a) v else s1
  | 0x18 => (s.stage (Reg.AX_TGT_LO a) x.tgtLo).stage (Reg.AX_TGT_HI a) (v &&& 0xFFFF#32)
  | 0x28 => s.setAxs a { x with psetLo := v }
  | 0x2C => (s.stage (Reg.AX_PSET_LO a) x.psetLo).stage (Reg.AX_PSET_HI a) (v &&& 0xFFFF#32)
  | _ => s.stage (0x050000 + 0x80 * a + ofs) v

/-- AX_STAT.STATE of an axis that neither stops nor waits, by its acceleration. -/
def movingState (vel acc : Int) : Nat :=
  if vel = 0 ∧ acc = 0 then 1 else if acc = 0 then 3 else if 0 ≤ vel * acc then 2 else 4

/-- The START bits that enter at step (3): each starts the waiting target of its axis, whose STATE no longer reads 6, and is otherwise
ignored (R265). -/
def State.enterStart (s : State) (v : Word) : State :=
  each 16 (fun a t =>
    let x := t.axs a
    if bit v a ∧ x.waiting.isSome then
      let t1 := t.setAxs a { x with started := true }
      if t.rf (Reg.AX_STAT a) 0 3 = 6 then t1.axState a (movingState x.vel x.acc) else t1
    else t) s

/-- A staged motion word enters its shadow at step (3) of the boundary (R21, R260); the generator takes it at its servo
boundary. -/
def State.enterMotion (s : State) (addr : Nat) (v : Word) : State :=
  if addr = Reg.MOT_START then s.enterStart v
  else
    let a := (addr - 0x050000) / 0x80
    let s := s.setMotSh addr v
    let x := s.axs a
    let lim := x.newLim.getD (x.defLim.getD (limitsOf s a))
    match (addr - 0x050000) % 0x80 with
    | 0x04 => s.setAxs a { x with newLim := some { lim with vmax := v.toNat } }
    | 0x08 => s.setAxs a { x with newLim := some { lim with amax := v.toNat } }
    | 0x0C => s.setAxs a { x with newLim := some { lim with dmax := v.toNat } }
    | 0x10 => s.setAxs a { x with newLim := some { lim with jmax := v.toNat } }
    | 0x14 => if s.rf (Reg.AX_CFG a) 28 3 = 2 then s.setAxs a { x with newTgt := some v.toNat } else s
    | 0x18 =>
      if s.rf (Reg.AX_CFG a) 28 3 = 2 then s
      else s.setAxs a { x with newTgt := some (v.toNat % 2 ^ 16 * 2 ^ 32 + (s.motSh (Reg.AX_TGT_LO a)).toNat) }
    | 0x1C => s.setAxs a { x with newInc := some v }
    | 0x2C => s.setAxs a { x with newPset := some (v.toNat % 2 ^ 16 * 2 ^ 32 + (s.motSh (Reg.AX_PSET_LO a)).toNat) }
    | _ => s

/-! ### Profiles (R261 to R266) -/

/-- The limits of a profile; JMAX is in 256 units/s³ (R286). -/
def boundsOf (l : Limits) : Bounds := { vmax := l.vmax, amax := l.amax, dmax := l.dmax, jerk := 256 * l.jmax }

/-- A limit of 0 lets no profile reach a target or a velocity (log entry 6). -/
def usable (l : Limits) : Bool := decide (0 < l.vmax) && decide (0 < l.amax) && decide (0 < l.dmax) && decide (0 < l.jmax)

/-- The axis cannot reach the target without passing it (R262, R263). -/
def axisPasses (s : State) (a target : Nat) (l : Limits) : Bool :=
  !axisStill s a && (!usable l || (boundsOf l).passes (diff48 target (axPos s a) * 2 ^ 32) (s.axs a).vel (s.axs a).acc)

/-- The plan of a deceleration to standstill, where DMAX and JMAX let the axis decelerate (R261, R264, R266). -/
def stopPlan (s : State) (a : Nat) : Option AxisPlan :=
  let x := s.axs a
  let l := limitsOf s a
  if axisStill s a ∨ l.dmax = 0 ∨ l.jmax = 0 then none
  else some { kind := 0, from_ := axPos s a, v := x.vel, a := x.acc, segs := (boundsOf l).stop x.vel x.acc, goal := 0, used := 0, rest := 0 }

/-- The plan of a move to a target from the axis's present state (R261, R262). -/
def movePlan (s : State) (a target : Nat) : Option AxisPlan :=
  let x := s.axs a
  let l := limitsOf s a
  if usable l then
    let r := (boundsOf l).toPosition (diff48 target (axPos s a) * 2 ^ 32) x.vel x.acc
    some { kind := 1, from_ := axPos s a, v := x.vel, a := x.acc, segs := r.1, goal := 0, used := 0, rest := r.2 }
  else stopPlan s a

/-- The plan of a ramp to a velocity, which VMAX bounds (R259, R261, R262). -/
def ramPlan (s : State) (a : Nat) (velocity : Int) : Option AxisPlan :=
  let x := s.axs a
  let l := limitsOf s a
  if usable l then
    let goal := clampI (-(l.vmax : Int)) l.vmax velocity * 2 ^ 32
    let r := (boundsOf l).toVelocity x.vel x.acc goal
    some { kind := 2, from_ := axPos s a, v := x.vel, a := x.acc, segs := r.1, goal := goal, used := 0, rest := r.2 }
  else stopPlan s a

/-- A number in 2^-32 units as whole units: the nearest, and one away from it at most where it lies between two (log entry 6). -/
def wholeUnits (i : Int) : Int :=
  let n := (i + 2 ^ 31) / 2 ^ 32
  if (i - n * 2 ^ 32).natAbs < 2 ^ 20 then n else n + clampI (-1) 1 (Config.axisRound i)

/-- Steps owed: multiples of 256 units between the last step emitted and the interpolated position (R268). -/
def stepsOwed (s : State) (a : Nat) : Int :=
  let x := s.axs a
  signed 40 (((interpolated s a / 256 : Nat) - (x.stepAt : Int)) % 2 ^ 40).toNat

/-- DIR takes the level of the steps to come, unless it has it: of a setpoint that moves the axis once no step is owed, so that it has it before
the first of them (R268, log entry 98). -/
def State.turnDir (s : State) (a : Nat) (way : Int) : State :=
  let x := s.axs a
  if way = 0 ∨ stepsOwed s a ≠ 0 ∨ x.dir = decide (0 < way) then s else s.setAxs a { x with dir := decide (0 < way), dirAt := s.now }

/-- Issue a setpoint: AX_POS, AX_VEL and, where the axis shows it, AX_SETOUT (R258, R269, R270). -/
def State.setpoint (s : State) (a : Nat) (step vel acc : Int) : State :=
  let x := (s.turnDir a step).axs a
  let p0 := axPos s a
  let rest := decide (vel = 0) && decide (step = 0)
  let s1 := s.setAxs a { x with vel := vel, acc := acc, from_ := p0, fromAt := s.now, span := servoNs s a,
                                restAt := if rest then x.restAt else s.now + servoNs s a, holdCur := x.holdCur && rest }
  let s2 := (s1.setAxPos a (wrap48 (p0 + step))).wr (Reg.AX_VEL a) (wrap (wholeUnits vel))
  let shown := s.flag (Reg.AX_CFG a) 25 || (decide (a < 8) && decide (s.rf (Reg.PT_CFG a) 28 2 = 2))
  let s3 := if shown then s2.wr (Reg.AX_SETOUT a) (wrap step) else s2
  s3.axState a (if x.stopping then 5 else if x.waiting.isSome && !x.started then 6
    else if vel = 0 ∧ acc = 0 then 1 else if x.vel.natAbs < vel.natAbs then 2 else if vel.natAbs < x.vel.natAbs then 4 else 3)

/-- The next setpoint of a plan: the profile is sampled at the next servo boundary. A move ends on its target exactly (R261). -/
def State.followPlan (s : State) (a : Nat) (p : AxisPlan) : State :=
  let used := p.used + servoNs s a
  let k := p.at used
  let fin := p.done used
  let pos := match fin, p.kind, (s.axs a).target with
    | true, 1, some tgt => tgt
    | _, _, _ => wrap48 (p.from_ + wholeUnits k.x)
  let ends := fin && decide (p.goal = 0)
  let s1 := s.setAxs a { s.axs a with plan := if ends then none else some { p with used := used },
                                      target := if fin && decide (p.kind = 1) then none else (s.axs a).target,
                                      stopping := (s.axs a).stopping && !ends }
  let s2 := s1.setpoint a (diff48 pos (axPos s a)) k.v k.a
  let s3 := if 0 < p.rest ∧ p.rest ≤ profileTime used then s2.setFlag (Reg.AX_STAT a) 13 false else s2
  if ends then s3.axisRest a else s3

/-- The next setpoint of an axis that has no plan: its velocity stays as it is. -/
def State.coast (s : State) (a : Nat) : State :=
  let x := s.axs a
  s.setpoint a (wholeUnits (x.vel * servoNs s a / 1000000000)) x.vel 0

/-- A preset taken at standstill sets the position, with the steps owed unchanged; taken while the axis moves it is rejected (R257, R267). -/
def State.takePreset (s : State) (a : Nat) : State :=
  let x := s.axs a
  match x.newPset with
  | none => s
  | some p =>
    if axisStill s a ∧ x.plan.isNone then
      let owed : Int := (x.stepAt : Int) - axPos s a / 256
      ((s.setAxs a { x with newPset := none, from_ := p, fromAt := s.now, span := 0,
                            stepAt := (((p / 256 : Nat) + owed) % 2 ^ 40).toNat }).setAxPos a p).setFlag (Reg.AX_STAT a) 14 true
    else (s.setAxs a { x with newPset := none }).setFlag (Reg.AX_STAT a) 7 true

/-- New limits are taken: at once when no move to a target is under way, when a target that begins a move comes with them, or when the plan with
them does not pass the target; otherwise deferred to the next move (R263). -/
def State.takeLimits (s : State) (a : Nat) : State :=
  let x := s.axs a
  match x.newLim with
  | none => s
  | some l =>
    let s1 := s.setAxs a { x with newLim := none }
    match x.target with
    | some tgt =>
      if s.rf (Reg.AX_CFG a) 28 3 = 1 ∧ ¬ axisStill s a ∧ (x.newTgt.isNone ∨ s.flag (Reg.AX_CFG a) 26) ∧ axisPasses s a tgt l then
        (s1.setAxs a { s1.axs a with defLim := some l }).setFlag (Reg.AX_STAT a) 12 true
      else s1.useLimits a l
    | none => s1.useLimits a l

/-- A move begins: deferred limits apply, and it is planned anew. -/
def State.beginMove (s : State) (a tgt : Nat) : State :=
  let s1 := match (s.axs a).defLim with | some l => s.useLimits a l | none => s
  s1.setAxs a { s1.axs a with plan := none, target := some tgt, waiting := none, started := false }

/-- Targets are taken: started, or held for START (R262, R265). -/
def State.takeTarget (s : State) (a : Nat) : State :=
  let x := s.axs a
  match x.newTgt with
  | some tgt =>
    let s1 := ((s.setAxs a { x with newTgt := none }).wr (Reg.AX_TGT_LO a) (BitVec.ofNat 32 tgt)).wr (Reg.AX_TGT_HI a)
      (BitVec.ofNat 32 (tgt / 2 ^ 32))
    if s.flag (Reg.AX_CFG a) 26 then s1.setAxs a { s1.axs a with waiting := some tgt, started := false } else s1.beginMove a tgt
  | none =>
    match x.waiting with
    | some tgt => if x.started then s.beginMove a tgt else s
    | none => s

/-- The largest increment of a stream axis: VMAX × SPER × FRAME_PERIOD (R264). -/
def incBound (s : State) (a : Nat) : Int := ((s.rd (Reg.AX_VMAX a)).toNat * servoNs s a / 1000000000 : Nat)

/-- A servo boundary of a stream axis (R264). -/
def State.servoStream (s : State) (a : Nat) : State :=
  let x := s.axs a
  let add (t : State) (w : Word) (reps : Nat) : State :=
    let b := incBound t a
    let inc := clampI (-b) b w.toInt
    let t1 := if inc = w.toInt then t else t.setFlag (Reg.AX_STAT a) 8 true
    let t2 := t1.setAxs a { t1.axs a with inc := some w, repeats := reps, newInc := none }
    let ns := servoNs t2 a
    (t2.wr (Reg.AX_SETP a) w).setpoint a inc (if ns = 0 then 0 else Int.tdiv (inc * 1000000000 * 2 ^ 32) ns) 0
  match x.newInc, x.inc with
  | some w, _ => add s w 0
  | none, some w => add (s.setFlag (Reg.AX_STAT a) 9 true) w (x.repeats + 1)
  | none, none => s.coast a

/-- The deceleration of a controlled stop or of a setpoint timeout (R264, R266). -/
def State.servoStop (s : State) (a : Nat) : State :=
  match ((s.axs a).plan.filter (fun p => decide (p.kind = 0))).or (stopPlan s a) with
  | some p => s.followPlan a p
  | none => s.coast a

/-- A servo boundary in MODE 1 or 2 (R259, R261, R262): the plan is followed, or made from the axis's present state; REVERSE tells of a plan
that turns back. -/
def State.servoPlan (s : State) (a kind : Nat) : State :=
  match (s.axs a).target with
  | none => s.coast a
  | some tgt =>
    match (s.axs a).plan with
    | some p => s.followPlan a p
    | none =>
      match (if kind = 1 then movePlan s a tgt else ramPlan s a (signed 32 tgt)) with
      | some p => (s.setFlag (Reg.AX_STAT a) 13 (decide (0 < p.rest))).followPlan a p
      | none => s.coast a

/-- The load angle of the servo period that ends, and its place in a run above the stall limit (R271). -/
def State.servoLoad (s : State) (a : Nat) : State :=
  if 8 ≤ a ∨ s.rf (Reg.PT_CFG a) 28 2 ≠ 1 then s
  else
    let x := s.axs a
    let mean : Int := if x.loadN = 0 then 0 else x.loadSum / x.loadN
    let fast := s.flag (Reg.AX_STALL a) 31 && decide ((s.rd (Reg.AX_STALLV a)).toNat ≤ (axVel s a).natAbs)
      && decide ((s.rf (Reg.AX_STALL a) 0 16 : Int) < mean)
    (s.setAxs a { x with loadSum := 0, loadN := 0, stallRun := if fast then min 255 (x.stallRun + 1) else 0 }).wr (Reg.AX_LOAD a)
      ((wrap mean) &&& 0xFFFF#32)

/-- A servo boundary of an axis: what was staged is taken, and the next setpoint is issued (R258 to R266). What enters during a stop is taken
after its standstill. -/
def State.servo (s : State) (a : Nat) : State :=
  let s := s.servoLoad a
  let s := ((s.takePreset a).takeLimits a)
  if (s.axs a).stopping then s.servoStop a
  else match s.rf (Reg.AX_CFG a) 28 3 with
    | 1 => (s.takeTarget a).servoPlan a 1
    | 2 => (s.takeTarget a).servoPlan a 2
    | 3 => s.servoStream a
    | _ => s

/-- Axis `a` has a servo boundary at the boundary into the present frame (R258). -/
def servoDue (s : State) (a : Nat) : Bool :=
  let sper := s.rf (Reg.AX_CFG a) 8 8
  s.flag (Reg.AX_CFG a) 31 && axisRuns s && decide (0 < sper) && decide (s.frame.toNat % sper = s.rf (Reg.AX_CFG a) 0 8)

/-- The servo boundaries of a frame boundary. -/
def State.servoAll (s : State) : State := each 16 (fun a t => if servoDue t a then t.servo a else t) s

/-- SETPOINT_TIMEOUT: after SETTO consecutive repeats the stream axis decelerates to standstill (R264). -/
def execSetpointTimeout (a : Fin 16) (s : State) : Host.Outcome State Fault Refusal :=
  .next (let x := s.axs a
    if s.rf (Reg.AX_CFG a) 28 3 = 3 ∧ x.inc.isSome ∧ s.rf (Reg.AX_CFG a) 16 4 ≤ x.repeats then
      (((s.setAxs a { x with inc := none, repeats := 0, plan := none, stopping := !axisStill s a }).setFlag (Reg.AX_STAT a) 10 true)).axState a
        (if axisStill s a then 1 else 5)
    else s)

/-- A committed AX_CFG: the axis goes off or comes on; one that goes from a MODE that forms setpoints to another decelerates first, and what was
staged for the MODE before is dropped (log entry 80). -/
def State.axisCommitted (s : State) (a : Nat) (old : Word) : State :=
  let m := s.rf (Reg.AX_CFG a) 28 3
  let s1 := if m = fld old 28 3 ∨ fld old 28 3 = 0 ∧ m ≠ 2 then s else s.stopSoft a
  s1.axisSync a

/-- A write to AX_CMD.STOP (R266). -/
def State.axisCmd (s : State) (a : Nat) (v : Word) : State :=
  match fld v 0 2 with
  | 1 => s.stopSoft a
  | 2 => s.stopNow a
  | _ => s

/-! ### Stall, steps, hold current, reference (R268, R270, R271, R273) -/

/-- STALL_DETECTED: the load angle has exceeded ANG for DEB consecutive servo periods (R271). -/
def execStallDetected (t : Nat) (a : Fin 8) (s : State) : Host.Outcome State Fault Refusal :=
  .next (let x := s.axs a
    if s.flag (Reg.AX_STALL a) 31 ∧ 0 < x.stallRun ∧ s.rf (Reg.AX_STALL a) 16 8 ≤ x.stallRun then
      let s0 := (s.at t).setAxs a { x with stallRun := 0 }
      let s1 := ((s0.setFlag (Reg.AX_STAT a) 11 true).setFlag (Reg.AX_STAT a) 14 false).raise (208 + a) 0
      if s.flag (Reg.AX_STALL a) 30 then s1.stopNow a else s1
    else s)

/-- HOLD_CURRENT_SWITCH: 100 ms after standstill the coil current reference falls from IRUN to IHOLD (R270). -/
def execHoldCurrentSwitch (x : Timed (Fin 8)) (s : State) : Host.Outcome State Fault Refusal :=
  .next (let s0 := s.at x.at_
    let a := x.val
    if axisStill s0 a ∧ s0.rf (Reg.PT_CFG a) 28 2 = 1 ∧ (s0.axs a).restAt + 100000000 ≤ s0.now then
      s0.setAxs a { s0.axs a with holdCur := true }
    else s)

/-- The instant at which the commanded position crosses the multiple of 256 units of the next step, or the last setpoint's where it had crossed
it before (R268). -/
def crossingAt (s : State) (a : Nat) : Nat :=
  let x := s.axs a
  let d := diff48 (axPos s a) x.from_
  let u := diff48 (wrap48 (((x.stepAt : Int) + (if 0 < stepsOwed s a then 1 else 0)) * 256)) x.from_
  if 0 < d * u ∧ u.natAbs ≤ d.natAbs then x.fromAt + u.natAbs * x.span / d.natAbs else x.fromAt

/-- The earliest instant of the next step: 2 × STEPW after the one before (R268). -/
def nextStepAt (s : State) (a : Nat) : Nat :=
  match (s.axs a).lastStep with
  | some t => t + 2 * s.rf (Reg.AX_STEP a) 0 16
  | none => 0

/-- DIR has had the level of the next step for 200 ns (R268). -/
def dirReady (s : State) (a : Nat) : Bool :=
  decide ((s.axs a).dir = decide (0 < stepsOwed s a)) && decide ((s.axs a).dirAt + 200 ≤ s.now)

/-- STEP_PULSE: the interpolated position has crossed a multiple of 256 units, and the generator emits a step, 2 × STEPW after the one before at
the earliest; a step that this spacing delays sets STEP_OVF. Where DIR has the other level it changes now, and the step follows after 200 ns
(R268, log entry 98). -/
def execStepPulse (t : Nat) (a : Fin 16) (s : State) : Host.Outcome State Fault Refusal :=
  .next (
    let s1 := s.at t
    let o := stepsOwed s1 a
    if a.val < 8 ∨ s.flag (Reg.AX_CFG a) 25 ∨ ¬ axisOn s a ∨ o = 0 ∨ s1.now < nextStepAt s1 a then s
    else if ¬ dirReady s1 a then
      if (s1.axs a).dir = decide (0 < o) then s else s1.setAxs a { s1.axs a with dir := decide (0 < o), dirAt := s1.now }
    else
      let x := s1.axs a
      let s2 := s1.setAxs a { x with steps := x.steps + 1, stepAt := (((x.stepAt : Int) + (if 0 < o then 1 else -1)) % 2 ^ 40).toNat,
                                     lastStep := some s1.now }
      if crossingAt s1 a < nextStepAt s1 a then s2.setFlag (Reg.AX_STAT a) 5 true else s2)

/-- The levels at pins STEPn and DIRn of an external axis (R256, R268, R285): STEP is high for STEPW, and low in SERVICE; DIRINV inverts
DIR. -/
def stepPin (s : State) (a : Nat) : Option Bool :=
  landG s (match (s.axs a).lastStep with
    | some t => s.sys.mode ≠ .service && decide (t ≤ s.now) && decide (s.now < t + s.rf (Reg.AX_STEP a) 0 16)
    | none => false)

def dirPin (s : State) (a : Nat) : Option Bool := landG s (xor (s.axs a).dir (s.flag (Reg.AX_CFG a) 24))

/-- Shift an axis's position by a distance, with the steps owed unchanged (R273). A ramp or a stop goes on from the shifted position; a move to a
target, which keeps its number, is planned anew (log entry 99). -/
def State.shiftAxis (s : State) (a : Nat) (d : Int) : State :=
  let x := s.axs a
  let p := wrap48 (axPos s a - d)
  let owed : Int := (x.stepAt : Int) - axPos s a / 256
  (s.setAxPos a p).setAxs a { x with
    plan := (x.plan.filter (fun q => decide (q.kind ≠ 1))).map (fun q => { q with from_ := wrap48 (q.from_ - d) }),
    from_ := wrap48 (x.from_ - d), stepAt := (((p / 256 : Nat) + owed) % 2 ^ 40).toNat }

/-- REFERENCE_LATCH: the chosen edge latches the interpolated position of its instant; ACT may make it the zero and stop the axis (R273). -/
def execReferenceLatch (t : Nat) (a : Fin 16) (s : State) : Host.Outcome State Fault Refusal :=
  .next (let w := s.rd (Reg.AX_REF a)
    let s0 := s.at t
    if !bit w 31 || s.flag (Reg.AX_STAT a) 6 || !axisRuns s || decide ((s.axs a).refAt ≠ some s0.now) then s
    else
      let p := interpolated s0 a
      let s1 := ((((s0.setAxs a { s0.axs a with refAt := none }).wr (Reg.AX_LATCH_LO a) (BitVec.ofNat 32 p)).wr (Reg.AX_LATCH_HI a)
        (BitVec.ofNat 32 (p / 2 ^ 32))).wr (Reg.AX_LSTAMP a) s0.instant.stamp).setFlag (Reg.AX_STAT a) 6 true
      let s2 := if fld w 29 2 = 0 then s1 else (s1.shiftAxis a p).setFlag (Reg.AX_STAT a) 14 true
      if fld w 29 2 = 2 then s2.stopSoft a else s2)

/-! ### Ports (R270, R271, R274) -/

/-- A port condition: its flags are set, PWn is forced with CAUSE 3, the driver powers down, and the port fault is asserted
(R216, R272, R274). The protection applies with every TYPE except 0. -/
def State.portFault (s : State) (p : Nat) (flags : Word) : State :=
  if s.rf (Reg.PT_CFG p) 28 2 = 0 then s
  else
    let s1 := s.wr (Reg.PT_STAT p) (s.rd (Reg.PT_STAT p) ||| (flags &&& 0xFF#32) ||| 0x100#32)
    let s2 := (s1.forceUnit p 3 0).unitChanged p
    s2.assert (216 + p) (s2.rd (Reg.PT_STAT p) &&& 0x1FF#32)

/-- PORT_FAULT: one or more conditions of R274 on a port. -/
def execPortFault (t : Nat) (p : Fin 8) (flags : BitVec 8) (s : State) : Host.Outcome State Fault Refusal :=
  .next (if s.sys.mode = .sill ∨ flags = 0 then s else (s.at t).portFault p (flags.zeroExtend 32))

/-- PORT_CONDITION_END: no condition persists; ACTIVE returns to 0 and the source is released (R274). -/
def execPortConditionEnd (p : Fin 8) (s : State) : Host.Outcome State Fault Refusal :=
  .next (((s.setFlag (Reg.PT_STAT p) 8 false).release (216 + p)).driver p)

/-- The duty of a half-bridge in the format of its channel (R200, R270). -/
def dutyWord (cfg : Word) (pper ns : Nat) : Word :=
  BitVec.ofNat 32 (if bit cfg 22 then (if pper = 0 then 0 else min 65535 (ns * 65536 / pper)) else ns)

/-- The current controller's values for one half-bridge: PER = PPER and its duty, into the shadows (R206, R270). -/
def State.coilDuty (s : State) (c pper ns : Nat) : State :=
  let x := s.pch c
  s.setPch c { x with shPer := BitVec.ofNat 32 pper, newPer := true, shDuty := dutyWord (s.rd (Reg.PWM_CHCFG c)) pper ns,
                      newDuty := true }

/-- The electrical angle of a stepper axis in 2^-64 turn: position ÷ (256 × 2^MICRO × 4) turns (R270). -/
def electricAngle (s : State) (a : Nat) : Int := interpolated s a * 2 ^ 64 / 2 ^ (10 + s.rf (Reg.AX_CFG a) 20 4)

/-- The coil current references I cos θ and I sin θ, in 2^-16 mA, with IRUN while the axis moves and for 100 ms after, then IHOLD (R270). -/
def coilRefs (s : State) (a : Nat) : Int × Int :=
  let i : Int := s.rf (Reg.AX_CUR a) (if (s.axs a).holdCur then 0 else 16) 16
  let th := electricAngle s a
  (i * cosTurn th / 2 ^ 80, i * sinTurn th / 2 ^ 80)

/-- The voltage of a coil in µV from the duties in force at its two half-bridges and the supply in 10 mV units (R271). -/
def coilVolts (s : State) (hi lo vm : Nat) : Int :=
  let part (c : Nat) : Int := if (s.pch c).per = 0 then 0 else (vm * 10000 * ((s.pch c).onTo - (s.pch c).onFrom) / (s.pch c).per : Nat)
  part hi - part lo

/-- The back-EMF of a coil in µV: V − R × I − L × dI/dt, over one carrier period (R271). -/
def backEmf (volts cur last : Int) (res lind pper : Nat) : Int :=
  volts - res * cur - (if pper = 0 then 0 else lind * (cur - last) * 1000000 / pper)

/-- The load angle of a stepper axis: a quarter turn minus the angle from the current vector to the back-EMF vector, in the direction of motion
(R271). Without a current, a back-EMF or a motion it has no stated value. -/
def loadAngle (s : State) (p : Nat) (ia ib ea eb : Int) : Int :=
  let v := axVel s p
  let cross := ia * eb - ib * ea
  let dot := ia * ea + ib * eb
  match vectorAngle (Config.angleUp cross dot) cross dot with
  | some t => if v = 0 then (Config.loadAngle [ia, ib, ea, eb]).toInt
    else signed 16 ((16384 - (if 0 < v then (t : Int) else -t)) % 65536).toNat
  | none => (Config.loadAngle [ia, ib, ea, eb]).toInt

/-- COIL_CURRENT_SAMPLE: at the centre of a carrier period a stepper port samples its coils, writes the next duties, estimates the
load angle and tests the over-current limit (R270, R271, R274). -/
def execCoilCurrentSample (t : Nat) (p : Fin 8) (ia ib : BitVec 16) (vm : BitVec 16) (s : State) :
    Host.Outcome State Fault Refusal :=
  .next (if s.rf (Reg.PT_CFG p) 28 2 ≠ 1 ∨ ¬ s.flag (Reg.PT_CFG p) 31 ∨ ¬ pwmRuns s then s
    else
      let s0 := s.at t
      let s1 := (s0.wr (Reg.PT_I p) (ib ++ ia)).wr (Reg.PT_MEAS p) (vm ++ 0#16)
      let pper := s1.rf (Reg.PT_CFG p) 0 20
      let x := s1.axs p
      let y := s1.prt p
      let refs := coilRefs s1 p
      let lind := s1.rf (Reg.PT_COIL p) 16 16
      let res := s1.rf (Reg.PT_COIL p) 0 16
      let duty (ref cur : Int) : Nat := min pper (Config.coilDuty [ref, cur, vm.toNat, lind, res, pper])
      let a0 := duty refs.1 ia.toInt
      let b0 := duty refs.2 ib.toInt
      let s2 := if s1.flag (Reg.PWM_UCTRL p) 1 then
          (((s1.coilDuty (8 * p) pper a0).coilDuty (8 * p + 2) pper (pper - a0)).coilDuty (8 * p + 4) pper b0).coilDuty
            (8 * p + 6) pper (pper - b0)
        else s1
      let ea := backEmf (coilVolts s1 (8 * p) (8 * p + 2) vm.toNat) ia.toInt y.lastA res lind pper
      let eb := backEmf (coilVolts s1 (8 * p + 4) (8 * p + 6) vm.toNat) ib.toInt y.lastB res lind pper
      let s3 := s2.setAxs p { x with loadSum := x.loadSum + loadAngle s1 p ia.toInt ib.toInt ea eb, loadN := x.loadN + 1 }
      let lim := s1.rf (Reg.PT_PROT p) 24 8 * 100
      let overA := decide (lim < ia.toInt.natAbs)
      let overB := decide (lim < ib.toInt.natAbs)
      let s4 := s3.setPrt p { ocA := overA, ocB := overB, lastA := ia.toInt, lastB := ib.toInt }
      let fa := overA && y.ocA
      let fb := overB && y.ocB
      if fa || fb then s4.portFault p (BitVec.ofNat 32 (b2n fa * 32 + b2n fb * 64)) else s4)

/-! ### Feedback channels (R275 to R280) -/

/-- Feedback and sin/cos count and measure in every mode but SILL, BOOT and FREEZE (R285). -/
def fbRuns (s : State) : Bool := s.clocked && s.sys.mode ≠ .boot

/-- What an accepted transition of A and B counts (R275): none when both change in MODE 3 to 5 (R277). -/
def fbDelta (mode : Nat) (a0 b0 a b : Bool) : Int :=
  let riseA := a && !a0
  let fallA := a0 && !a
  let riseB := b && !b0
  let fallB := b0 && !b
  let ab : Int := if riseA then (if b then -1 else 1) else if fallA then (if b then 1 else -1) else 0
  match mode with
  | 1 => if riseA then (if b then 1 else -1) else 0
  | 2 => if riseA && riseB then 0 else if riseA then 1 else if riseB then -1 else 0
  | 3 => if b then 0 else ab
  | 4 => ab
  | 5 => if riseA || fallA then ab else if riseB then (if a then 1 else -1) else if fallB then (if a then -1 else 1) else 0
  | _ => 0

/-- A converter event of a feedback channel, 8 ns after the edge (R184, R280): 0 index, 1 period, 2 counted edge. -/
def State.fbEvent (s : State) (n kind : Nat) : State := s.adcDue 2 8 (fun sel => decide (sel % 32 = n) && decide (sel / 256 % 4 = kind))

/-- An accepted rising A edge in MODE 6: the mean of the last PAVG intervals (R279). -/
def State.fbPeriod (s : State) (n : Nat) : State :=
  let avg := s.rf (Reg.FB_CFG n) 8 8
  let x := s.fbk n
  let edges := (s.now :: x.edges).take (avg + 1)
  let s1 := s.setFbk n { x with edges := edges }
  if edges.length = avg + 1 ∧ 0 < avg then
    ((s1.wr (Reg.FB_PERIOD n) (BitVec.ofNat 32 ((s.now - edges.getLastD 0) / avg))).setFlag (Reg.FB_STAT n) 3 false).fbEvent n 1
  else s1

/-- A new level of an input of a feedback channel is accepted after FILT + 1 equal samples, each 4 ns × 2^PRE after the one before, which also
lie after the edge before it (R276). -/
def acceptedLevel (cfg : Word) (samples now : Nat) (old new : Bool) (last : Option Nat) : Bool :=
  if samples < fld cfg 20 4 + 1 then old
  else match last with
    | some t => if now < t + (fld cfg 20 4 + 1) * 4 * 2 ^ fld cfg 17 3 then old else new
    | none => new

/-- FEEDBACK_EDGE: new levels of a channel's A, B and Z, with the instant of the first sample that has them and the number of samples that do
(R273, R275 to R277, R279, R280). -/
def execFeedbackEdge (w : Timed Nat) (n : Fin 24) (na nb nz : Bool) (s : State) : Host.Outcome State Fault Refusal :=
  .next (let cfg := s.rd (Reg.FB_CFG n)
    if !fbRuns s || !bit cfg 31 then s
    else
      let s0 := s.at w.at_
      let st := s0.rd (Reg.FB_STAT n)
      let x0 := s0.fbk n
      let a0 := bit st 8
      let b0 := bit st 9
      let z0 := bit st 10
      let a := acceptedLevel cfg w.val s0.now a0 na x0.edgeA
      let b := acceptedLevel cfg w.val s0.now b0 nb x0.edgeB
      let z := acceptedLevel cfg w.val s0.now z0 nz x0.edgeZ
      let mode := fld cfg 28 3
      let y := (s0.setFbk n { x0 with edgeA := if a = a0 then x0.edgeA else some s0.now, edgeB := if b = b0 then x0.edgeB else some s0.now,
                                      edgeZ := if z = z0 then x0.edgeZ else some s0.now,
                                      indexDue := if z = z0 then x0.indexDue else decide (z = bit cfg 24) }).setFld (Reg.FB_STAT n) 8 3 (b2n a + 2 * b2n b + 4 * b2n z)
      let ya := if a = a0 then y else y.refEdge 2 n a
      let s1 := if z = z0 then ya else ya.refEdge 1 n z
      let rise := a && !a0
      if (mode = 3 ∨ mode = 4 ∨ mode = 5) ∧ a ≠ a0 ∧ b ≠ b0 then
        (s1.setFlag (Reg.FB_STAT n) 2 true).count (Reg.FB_CNT n) 0 16 1
      else if mode = 6 then (if rise then (s1.fbPeriod n).fbEvent n 2 else s1)
      else if mode = 7 then
        (if rise then
          let x := s1.fbk n
          (s1.setFbk n { x with gateN := x.gateN + 1, gateFirst := if x.gateN = 0 then s1.now else x.gateFirst,
                                gateLast := s1.now }).fbEvent n 2
        else s1)
      else
        let d0 := fbDelta mode a0 b0 a b
        let d := if bit cfg 27 then -d0 else d0
        if d = 0 then s1
        else
          let s2 := (s1.wr (Reg.FB_COUNT n) (wrap ((s1.rd (Reg.FB_COUNT n)).toInt + d))).wr (Reg.FB_STAMP n) s1.instant.stamp
          (s2.setFbk n { s2.fbk n with up := decide (0 < d) }).fbEvent n 2)

/-- INDEX_PULSE: an accepted edge of Z at the IDXPOL level latches the count and checks or sets it (R278). -/
def execIndexPulse (t : Nat) (n : Fin 24) (s : State) : Host.Outcome State Fault Refusal :=
  .next (let cfg := s.rd (Reg.FB_CFG n)
    let mode := fld cfg 25 2
    if !fbRuns s || !bit cfg 31 || decide (mode = 0) || !(s.fbk n).indexDue then s
    else
      let s0 := s.at t
      let x := s0.fbk n
      let cnt := s0.rd (Reg.FB_COUNT n)
      let dist := s0.rd (Reg.FB_IDX n)
      let s1 := (s0.wr (Reg.FB_ILATCH n) cnt).setFlag (Reg.FB_STAT n) 0 true
      let want : Word := match x.index with
        | some p => if x.up then p + dist else p - dist
        | none => cnt
      let bad := decide (mode ≠ 3) && decide (want ≠ cnt)
      let s2 := if bad then
          ((s1.setFlag (Reg.FB_STAT n) 1 true).count (Reg.FB_CNT n) 16 16 1).raise (224 + n) cnt
        else s1
      let after : Word := if mode = 3 then 0 else if mode = 2 then want else cnt
      ((s2.wr (Reg.FB_COUNT n) after).setFbk n { s2.fbk n with index := some after, indexDue := false }).fbEvent n 0)

/-- The instant at which a period is stale: twice the last period or 4.29 s after the last edge, whichever comes first (R279). -/
def staleAt (x : Fbk) : Nat :=
  match x.edges with
  | [] => x.since + 4290000000
  | [e] => e + 4290000000
  | e :: d :: _ => e + min (2 * (e - d)) 4290000000

/-- PERIOD_STALE: no edge for twice the last period or for 4.29 s (R279). -/
def execPeriodStale (y : Timed (Fin 24)) (s : State) : Host.Outcome State Fault Refusal :=
  .next (let n := y.val
    let s0 := s.at y.at_
    if fbRuns s && s.flag (Reg.FB_CFG n) 31 && decide (s.rf (Reg.FB_CFG n) 28 3 = 6) && decide (staleAt (s.fbk n) ≤ s0.now) then
      ((s0.wr (Reg.FB_PERIOD n) 0).setFlag (Reg.FB_STAT n) 3 true).setFbk n { s.fbk n with edges := [], since := s0.now }
    else s)

/-- The present gate of a channel has lasted GATE frames (R279). -/
def gateOver (s : State) (n : Nat) : Bool := decide (s.rf (Reg.FB_CFG n) 0 8 ≤ (s.frame - (s.fbk n).gateFrom).toNat)

/-- FREQUENCY_GATE_END: FB_FREQ of the gate that ends (R279). -/
def execFrequencyGateEnd (n : Fin 24) (s : State) : Host.Outcome State Fault Refusal :=
  .next (if fbRuns s && s.flag (Reg.FB_CFG n) 31 && decide (s.rf (Reg.FB_CFG n) 28 3 = 7) && gateOver s n then
      let x := s.fbk n
      let f := if x.gateN < 2 ∨ x.gateLast ≤ x.gateFirst then 0 else (x.gateN - 1) * 10 ^ 12 / (x.gateLast - x.gateFirst)
      (s.wr (Reg.FB_FREQ n) (BitVec.ofNat 32 f)).setFbk n { x with gateFrom := s.frame, gateN := 0, gateFirst := 0, gateLast := 0 }
    else s)

/-! ### Sin/cos pairs (R281, R282) -/

/-- AMP2 of a sample (R282). -/
def amp2 (sin cos : BitVec 16) : Nat := ((sin.toInt * sin.toInt + cos.toInt * cos.toInt) / 32768).toNat

/-- AMP2 as SC_AMP shows it; the one that does not fit its sixteen bits has no stated value there (log entry 2). -/
def State.scAmp (s : State) (sin cos : BitVec 16) : Nat × State :=
  let q := amp2 sin cos
  if q < 65536 then (q, s) else (s.freeNat % 65536, s.spend)

/-- SINCOS_SAMPLE: both channels of a pair are sampled (R281, R282). After ADEB + 1 samples out of window POS and ANGLE hold. -/
def execSincosSample (t : Nat) (p : Fin 8) (sin cos : BitVec 16) (s : State) : Host.Outcome State Fault Refusal :=
  .next (let cfg := s.rd (Reg.SC_CFG p)
    if !fbRuns s || !bit cfg 31 then s
    else
      let m := (s.at t).scAmp sin cos
      let amp := amp2 sin cos
      let s1 := (m.2.wr (Reg.SC_VAL p) (cos ++ sin)).wr (Reg.SC_AMP p) (BitVec.ofNat 32 m.1)
      let low := decide (amp < s1.rf (Reg.SC_WIN p) 0 16)
      let high := decide (s1.rf (Reg.SC_WIN p) 16 16 < amp)
      let s2 := s1.setFld (Reg.SC_STAT p) 0 2 (b2n low + 2 * b2n high)
      let x := s2.scp p
      let run := if low || high then min 16 (x.run + 1) else 0
      if fld cfg 16 4 + 1 ≤ run then s2.setScp p { x with run := run }
      else
        let ang := (vectorAngle (Config.angleUp sin.toInt cos.toInt) sin.toInt cos.toInt).getD Config.angleOfZero.toNat
        let d := signed 16 ((ang + 65536 - x.angle) % 65536)
        let d := if bit cfg 0 then -d else d
        (s2.setScp p { angle := ang, run := run, out := x.out && (low || high) }).wr (Reg.SC_POS p)
          (wrap ((s2.rd (Reg.SC_POS p)).toInt + d)))

/-- SINCOS_AMPLITUDE_FAULT: ADEB + 1 consecutive samples have been out of window (R282). -/
def execSincosAmplitudeFault (t : Nat) (p : Fin 8) (s : State) : Host.Outcome State Fault Refusal :=
  .next (let x := s.scp p
    if !fbRuns s || x.out || decide (x.run < s.rf (Reg.SC_CFG p) 16 4 + 1) then s
    else
      let s1 := (s.at t).setScp p { x with out := true }
      ((((s1.setFlag (Reg.SC_STAT p) 2 true).setFlag (Reg.SC_STAT p) 3 true).count (Reg.SC_CNT p) 0 16 1)).raise (248 + p)
        (s1.rd (Reg.SC_AMP p) &&& 0xFFFF#32))

/-! ### Boundary, modes and FREEZE (R280, R285) -/

/-- Step (5) of R19: the feedback, sin/cos and axis values of I(N+1) (R280). -/
def motionItems (s : State) : List RecItem :=
  (List.range 24).map (fun n => ⟨.feedback, [n, (s.rd (Reg.FB_COUNT n)).toNat, (s.rd (Reg.FB_STAMP n)).toNat,
      (s.rd (Reg.FB_PERIOD n)).toNat, (s.rd (Reg.FB_FREQ n)).toNat, (s.rd (Reg.FB_ILATCH n)).toNat, (s.rd (Reg.FB_STAT n)).toNat]⟩)
  ++ (List.range 8).map (fun p => ⟨.sincos, [p, (s.rd (Reg.SC_POS p)).toNat, (s.rd (Reg.SC_AMP p)).toNat,
      (s.rd (Reg.SC_STAT p)).toNat]⟩)
  ++ (List.range 16).map (fun a => ⟨.axis, [a, (s.rd (Reg.AX_POS_LO a)).toNat, (s.rd (Reg.AX_POS_HI a)).toNat,
      (s.rd (Reg.AX_VEL a)).toNat, (s.rd (Reg.AX_LOAD a)).toNat, (s.rd (Reg.AX_SETOUT a)).toNat]⟩)

/-- A feedback channel that a commit enables begins with no index and no edges; a new MODE or GATE begins the wait for an edge and the gate anew
(R278, R279). -/
def State.fbCommitted (s : State) (n : Nat) (old : Word) : State :=
  let w := s.rd (Reg.FB_CFG n)
  if bit w 31 ∧ ¬ bit old 31 then (s.setFbk n { Fbk.reset with since := s.now, gateFrom := s.frame }).setFlag (Reg.FB_STAT n) 0 false
  else if fld w 28 3 ≠ fld old 28 3 ∨ fld w 0 8 ≠ fld old 0 8 then
    s.setFbk n { s.fbk n with edges := [], since := s.now, gateFrom := s.frame, gateN := 0, gateFirst := 0, gateLast := 0 }
  else s

/-- Entry to SAFE: external axes take STOP 1; internal ones power down with their PWM units (R285). -/
def State.motionSafe (s : State) : State := (each 8 (fun k t => t.stopSoft (8 + k)) s).drivers

/-- Resume from FREEZE: every axis takes an immediate stop, the internal drivers follow R272, and the feedback channels and
pairs that are enabled set FRZ (R285). -/
def State.motionResume (s : State) : State :=
  let s1 := each 16 (fun a t => t.stopNow a) s
  let s2 := each 24 (fun n t => if t.flag (Reg.FB_CFG n) 31 then t.setFlag (Reg.FB_STAT n) 4 true else t) s1
  (each 8 (fun p t => if t.flag (Reg.SC_CFG p) 31 then t.setFlag (Reg.SC_STAT p) 4 true else t) s2).drivers

end Sys2Proof.Machine
end

