-- ==== Sys2Proof/Machine/Gnss.lean ====
section
/-! DEFINITION. The GNSS baseband, receiver time and TPULSE (R288 to R309) and the inertial unit (R310 to R313). -/
namespace Sys2Proof.Machine

/-- The block is present (R3) and works: every mode but SILL, BOOT and FREEZE (R317); the baseband also needs its clock. -/
def gnssPart (s : State) : Bool := s.clocked && s.sys.mode ≠ .boot && decide (s.sys.variant ≠ 1)
def gnssOn (s : State) : Bool := gnssPart s && s.flag Reg.CLK_STAT 7

def gnssEn (s : State) : Bool := gnssOn s && s.flag Reg.GNS_CTRL 0

/-- Burst tracking (R303): BURST = 1 in a mode that allows it; RUN ignores it (R317). -/
def burstMode (s : State) : Bool := gnssEn s && s.flag Reg.GNS_CTRL 1 && s.sys.mode ≠ .run

def State.gch (s : State) (n : Nat) : Gch := SMap.get Gch.reset s.gns.ch n
def State.setGch (s : State) (n : Nat) (x : Gch) : State := { s with gns := { s.gns with ch := SMap.set Gch.reset s.gns.ch n x } }

/-- GCH_STAT.STATE of a channel: 0 OFF, 1 SEARCH, 2 PULLIN, 3 TRACK, 4 REACQ, 5 LOST, 6 BURSTWAIT (R294). -/
def gState (s : State) (n : Nat) : Nat := s.rf (Reg.GCH_STAT n) 0 3

/-- Channels that hold a state other than OFF stand in the register file, so these addresses find every one. -/
def gListed (s : State) : List Nat :=
  s.regs.filterMap fun x => if 0x074000 ≤ x.1 ∧ x.1 < 0x076400 ∧ (x.1 - 0x074000) % 0x20 = 0x0C then some ((x.1 - 0x074000) / 0x20) else none

/-- NTRK, and SIGLOST when it falls to 0 with the baseband enabled (R306). -/
def State.gTracks (s : State) : State :=
  let n := ((gListed s).filter (fun c => decide (gState s c = 3))).length
  let old := s.rf Reg.GNS_STAT 16 9
  let s1 := s.setFld Reg.GNS_STAT 16 9 n
  if n = 0 ∧ old ≠ 0 ∧ gnssEn s then s1.setFlag Reg.GNS_STAT 2 true else s1

/-- A channel enters a state (R294): a search takes the window in force, a channel that is OFF shows no C/N0; from the lock on the found signal
is the one tracked (R295). -/
def State.gEnter (s : State) (n st : Nat) : State :=
  let s1 := (s.setFld (Reg.GCH_STAT n) 0 3 st).gTracks
  match st with
  | 0 => s1.setFld (Reg.GCH_STAT n) 8 8 0
  | 1 => s1.setGch n { s1.gch n with centre := signed 16 (s.rf (Reg.GCH_DOP n) 0 16), win := s.rf (Reg.GCH_DOP n) 16 16 }
  | 2 => s1.setGch n { s1.gch n with back := gState s n, enteredAt := s.now }
  | 3 =>
    let x := s1.gch n
    (s1.setGch n { x with found := true, slip := true, sync := false, lowSince := none, dop := x.foundDop, code := x.foundCode,
                          codeAt := x.foundAt }).wr (Reg.GNS_RING n 0) 0
  | 4 => s1.setGch n { s1.gch n with enteredAt := s.now }
  | _ => s1

/-! ### Antennas (R289) -/

/-- ANTENNA_BIAS_SHORT: a bias current at the limit for 1 ms switches the port's bias off. -/
def execAntennaBiasShort (t : Nat) (a : Fin 3) (s : State) : Host.Outcome State Fault Refusal :=
  .next (if gnssPart s && s.flag (Reg.ANT_STAT a) 2 then
      ((((s.at t).setFlag (Reg.ANT_STAT a) 2 false).setFlag (Reg.ANT_STAT a) 1 true)).raise (256 + a) 0
    else s)

/-- BIAS_RETRY: the bias is applied again while ANT_CFG.BIAS is not 0. -/
def execBiasRetry (a : Fin 3) (s : State) : Host.Outcome State Fault Refusal :=
  .next (if gnssPart s && decide (s.rf (Reg.ANT_CFG a) 0 2 ≠ 0) then s.setFlag (Reg.ANT_STAT a) 2 true else s)

/-- ANTENNA_OPEN: a bias current below the open threshold for 100 ms (`below`), or above it again for 100 ms. -/
def execAntennaOpen (t : Nat) (a : Fin 3) (below : Bool) (s : State) : Host.Outcome State Fault Refusal :=
  .next (
    let mark (u : State) (b : Bool) : State := { u with gns := { u.gns with openDone := SMap.set false u.gns.openDone a b } }
    if !below then mark s false
    else if gnssPart s && s.flag (Reg.ANT_STAT a) 2 && !SMap.get false s.gns.openDone a then
      ((mark (s.at t) true).setFlag (Reg.ANT_STAT a) 0 true).raise (259 + a) 0
    else s)

/-- A commit changes a port's bias: on or off. -/
def State.antCommitted (s : State) (a : Nat) (old : Word) : State :=
  let w := s.rd (Reg.ANT_CFG a)
  if fld w 0 2 = fld old 0 2 then s else s.setFlag (Reg.ANT_STAT a) 2 (decide (fld w 0 2 ≠ 0))

/-! ### Channels (R294, R300, R302, R303) -/

/-- Primary code length in chips, chip rate in chips/s, and carrier in Hz, by SIG and the GLONASS frequency number (R290). -/
def codeChips (sig : Nat) : Nat :=
  match sig with
  | 0 => 1023 | 2 => 4092 | 3 => 2046 | 5 | 7 => 511 | _ => 10230

def chipRate (sig : Nat) : Nat :=
  match sig with
  | 3 => 2046000 | 5 | 7 => 511000 | 6 => 511500 | 8 | 9 | 10 => 10230000 | _ => 1023000

def carrierHz (sig : Nat) (k : Int) : Int :=
  match sig with
  | 3 => 1561098000
  | 5 => 1602000000 + 562500 * k
  | 6 => 1227600000
  | 7 => 1246000000 + 437500 * k
  | 8 | 9 | 10 => 1176450000
  | _ => 1575420000

/-- The code phase predicted for now, in 2^-16 chip: the last tracked one, run on at the chip rate with the last tracked Doppler (R295; the spec
gives no prediction, log entry 81). -/
def predictedCode (s : State) (n : Nat) : Nat :=
  let x := s.gch n
  let w := s.rd (Reg.GCH_SIG n)
  let sig := fld w 22 4
  let c := carrierHz sig (signed 4 (fld w 16 4)) * 1000
  ((x.code + (s.now - x.codeAt : Nat) * chipRate sig * 65536 * (c + x.dop) / (c * 1000000000)) % (codeChips sig * 65536 : Nat)).toNat

/-- A found signal lies in what the search covers (R295): in SEARCH the Doppler window and the whole primary code; in REACQ ±500 Hz around
the last tracked Doppler and ±2 chips around the predicted code phase. `dop` in mHz, `code` in 2^-16 chip. -/
def inSearch (s : State) (n : Nat) (dop : Int) (code : Nat) : Bool :=
  let x := s.gch n
  let len := codeChips (s.rf (Reg.GCH_SIG n) 22 4) * 65536
  let off := (code + len - predictedCode s n) % len
  decide (code < len) && match gState s n with
    | 1 => decide ((dop - 1000 * x.centre).natAbs ≤ 1000 * x.win)
    | 4 => decide ((dop - x.dop).natAbs ≤ 500000) && decide (min off (len - off) ≤ 131072)
    | _ => false

/-- SIGNAL_FOUND: SEARCH or REACQ finds the signal where it searches (R294, R295). -/
def execSignalFound (x : Timed GFind) (s : State) : Host.Outcome State Fault Refusal :=
  .next (let s0 := s.at x.at_
    let f := x.val
    if gnssOn s && inSearch s0 f.n f.dop.toInt f.code then
      (s0.gEnter f.n 2).setGch f.n { (s0.gEnter f.n 2).gch f.n with foundDop := f.dop.toInt, foundCode := f.code, foundAt := s0.now }
    else s)

/-- A channel has been a time in the state that it entered last (R294). -/
def gFor (s : State) (n ns : Nat) : Bool := decide ((s.gch n).enteredAt + ns ≤ s.now)

/-- CODE_CARRIER_LOCK: code and carrier lock from PULLIN within 200 ms; the counts of code periods and carrier phase begin; the first epoch in TRACK carries
SLIP (R294, R300). -/
def execCodeCarrierLock (t : Nat) (x : GLock) (s : State) : Host.Outcome State Fault Refusal :=
  .next (if gnssOn s && decide (gState s x.n = 2) && decide ((s.at t).now ≤ (s.gch x.n).enteredAt + 200000000) then
      let s1 := (s.at t).gEnter x.n 3
      s1.setGch x.n { s1.gch x.n with count0 := x.count, carr0 := x.carr }
    else s)

/-- PULLIN_TIMEOUT: no lock within 200 ms (R294). -/
def execPullinTimeout (x : Timed (Fin 288)) (s : State) : Host.Outcome State Fault Refusal :=
  .next (let s0 := s.at x.at_
    if gnssOn s && decide (gState s x.val = 2) && gFor s0 x.val 200000000 then s0.gEnter x.val (s.gch x.val).back else s)

/-- The C/N0 that a channel shows has been below LOSSCN for 500 ms (R294). -/
def gLost (s : State) (n : Nat) : Bool :=
  match (s.gch n).lowSince with
  | some t => decide (t + 500000000 ≤ s.now)
  | none => false

/-- SIGNAL_LOSS: C/N0 below LOSSCN for 500 ms (R294). -/
def execSignalLoss (x : Timed (Fin 288)) (s : State) : Host.Outcome State Fault Refusal :=
  .next (let s0 := s.at x.at_
    if gnssOn s && decide (gState s x.val = 3) && gLost s0 x.val then (s0.count Reg.GNS_CNT 0 16 1).gEnter x.val 4 else s)

/-- REACQ_TIMEOUT: not found within REACQT s, counted from the last entry to REACQ (R294, log entry 101). -/
def execReacqTimeout (x : Timed (Fin 288)) (s : State) : Host.Outcome State Fault Refusal :=
  .next (let s0 := s.at x.at_
    if gnssOn s && decide (gState s x.val = 4) && gFor s0 x.val (s.rf (Reg.GCH_TRK x.val) 16 8 * 1000000000) then
      s0.gEnter x.val (if s.flag (Reg.GCH_TRK x.val) 31 then 1 else 5)
    else s)

/-- A channel's present C/N0, dB-Hz, is shown, and its time below LOSSCN begins or ends (R294, R318; log entry 101). -/
def State.gCn0 (s : State) (n cn0 : Nat) : State :=
  let s1 := s.setFld (Reg.GCH_STAT n) 8 8 cn0
  s1.setGch n { s1.gch n with lowSince := if cn0 < s.rf (Reg.GCH_TRK n) 8 8 then (s1.gch n).lowSince.or (some s.now) else none }

/-- CARRIER_LOCK_LOSS: carrier lock lost and regained, or a phase discontinuity, without leaving TRACK. -/
def execCarrierLockLoss (n : Fin 288) (s : State) : Host.Outcome State Fault Refusal :=
  .next (if gnssOn s && decide (gState s n = 3) then s.setGch n { s.gch n with slip := true } else s)

/-- SECONDARY_CODE_SYNC: the channel begins to deliver symbols (R302). -/
def execSecondaryCodeSync (n : Fin 288) (s : State) : Host.Outcome State Fault Refusal :=
  .next (if gnssOn s && decide (gState s n = 3) then s.setGch n { s.gch n with sync := true } else s)

/-- SYMBOL_WORD: 32 symbols are complete; they enter the channel's ring and an input record with the instant of the first one,
`back` ns before this one (R302). -/
def execSymbolWord (t : Nat) (n : Fin 288) (back : Nat) (symbols : BitVec 32) (s : State) : Host.Outcome State Fault Refusal :=
  .next (if gnssOn s && decide (gState s n = 3) && (s.gch n).sync then
      let s0 := s.at t
      let w := s0.rf (Reg.GNS_RING n 0) 0 16
      let first := s0.ago back
      let s1 := ((s0.wr (Reg.GNS_RING n (1 + 2 * (w % 7))) first.stamp).wr (Reg.GNS_RING n (2 + 2 * (w % 7))) symbols).wr
        (Reg.GNS_RING n 0) (BitVec.ofNat 32 ((w + 1) % 65536))
      s1.recordCut ⟨.symbol, [n, first.stamp.toNat, symbols.toNat]⟩
    else s)

/-- A channel that waited for a burst takes up its work: REACQ, or its search when it was never found (R303). -/
def State.gBurstGo (s : State) (n : Nat) : State :=
  if gState s n = 6 then s.gEnter n (if (s.gch n).found then 4 else 1) else s

/-- Outside burst tracking no channel waits for a burst: at a boundary that ends it, the channels go on (R303, R317). -/
def State.gBurstSync (s : State) : State :=
  if burstMode s then s
  else eachOf (gListed s) (fun n t => t.gBurstGo n) (s.setFlag Reg.GNS_STAT 1 false)

/-- A commit wrote an entry: OFF when disabled; SEARCH when enabled, changed or LOST (R294). -/
def State.gCommitted (s : State) (n : Nat) (old : Word) : State :=
  let w := s.rd (Reg.GCH_SIG n)
  if !bit w 31 then (if gState s n = 0 then s else (s.setGch n Gch.reset).gEnter n 0)
  else if !bit old 31 || decide (w ≠ old) || decide (gState s n = 5) || decide (gState s n = 0) then
    (s.setGch n Gch.reset).gEnter n 1
  else s

/-! ### Receiver time (R304 to R308) -/

/-- ns in a week, and the wrap of receiver time: 65,536 weeks, in units of 10^-12 ns. -/
def weekNs : Nat := 604800000000000
def rtWrap : Nat := 65536 * weekNs * 10 ^ 12

/-- GNS_TSTAT.STATE: 0 FREE, 1 LOCKED, 2 HOLDOVER, 3 SLEW (R306). -/
def tState (s : State) : Nat := s.rf Reg.GNS_TSTAT 0 3

/-- Bring receiver time to the present instant: the reference with the frequency correction in force, and the slewing of a
pending correction at SLEW ns/s (R304, R307). The reference is taken to run at the rate of EDGE time (log entry 14). -/
def State.rtSync (s : State) : State :=
  let g := s.gns
  let dt := s.now - g.at_
  let run : Int := (dt : Int) * (10 ^ 12 + (s.rd Reg.GNS_FREQ).toInt)
  let most : Int := (s.rf Reg.GNS_TCFG 16 8 * dt : Nat) * 1000
  let slew := clampI (-most) most g.resid
  let s1 := { s with gns := { g with rt := (((g.rt : Int) + run + slew) % rtWrap).toNat, resid := g.resid - slew, at_ := s.now } }
  if tState s = 3 ∧ g.resid = slew then s1.setFld Reg.GNS_TSTAT 0 3 1 else s1

/-- Move receiver time by a step in ns. -/
def State.rtStep (s : State) (d : Int) : State :=
  let r := (((s.gns.rt : Int) + d * 10 ^ 12) % rtWrap).toNat
  { s with gns := { s.gns with rt := r, floor := some r, stepped := true } }

/-- How far receiver time lies from the nearest multiple of `p` ns, in its own unit, and that multiple in ns. -/
def rtOff (s : State) (p : Nat) : Int :=
  let r := s.gns.rt % (p * 10 ^ 12)
  if 2 * r < p * 10 ^ 12 then r else (r : Int) - (p * 10 ^ 12 : Nat)

def rtMultiple (s : State) (p : Nat) : Nat := (((s.gns.rt : Int) - rtOff s p) / 10 ^ 12 % (65536 * weekNs : Nat)).toNat

/-- Receiver time is within `tol` ns of a multiple of `p` ns. -/
def rtNear (s : State) (p tol : Nat) : Bool := decide ((rtOff s p).natAbs ≤ tol * 10 ^ 12)

/-- One receiver time, in ns, is at or before another, on the ring of 65,536 weeks. -/
def rtUpTo (a b : Nat) : Bool := decide ((b + 65536 * weekNs - a) % (65536 * weekNs) < 32768 * weekNs)

/-- A step or time set passed over a receiver time given in ns (R297, R309). -/
def rtPassed (s : State) (ns : Nat) : Bool :=
  match s.gns.floor with
  | some f => decide (rtWrap / 2 ≤ (ns * 10 ^ 12 + rtWrap - f) % rtWrap)
  | none => false

/-- Receiver time lies in a burst: from LEN − 10 ms before a whole second to 10 ms after it (R303). -/
def inBurst (s : State) : Bool :=
  let r := s.gns.rt % 10 ^ 21
  decide (r < 10 ^ 19) || decide (10 ^ 21 + 10 ^ 19 ≤ r + s.rf Reg.GNS_BURST 0 8 * 10 ^ 18)

/-- Where something that begins between two EDGE offsets has begun: the first offset above `lo` that passes, when the one `2^k` above it does. -/
def firstOffset (ok : Nat → Bool) : Nat → Nat → Nat
  | 0, lo => lo + 1
  | k + 1, lo => if ok (lo + 2 ^ k) then firstOffset ok k lo else firstOffset ok k (lo + 2 ^ k)

/-- The instant at which receiver time enters a burst, or leaves it (`inside` false): the present one or a later one of this frame, and the
present one where it does neither (R303). -/
def State.burstEdge (s : State) (inside : Bool) : State :=
  let ok (e : Nat) : Bool := inBurst (s.at e).rtSync == inside || decide (s.period ≤ e)
  (s.at (if ok s.edge then s.edge else min (s.period - 1) (firstOffset ok 20 s.edge))).rtSync

/-- BURST_START: receiver time enters a burst (R303). -/
def execBurstStart (s : State) : Host.Outcome State Fault Refusal :=
  .next (let s0 := s.burstEdge true
    if burstMode s && !s.flag Reg.GNS_STAT 1 && inBurst s0 then
      eachOf (gListed s0) (fun n t => let u := t.gBurstGo n; u.setGch n { u.gch n with slip := true }) (s0.setFlag Reg.GNS_STAT 1 true)
    else s)

/-- BURST_END: receiver time leaves the burst (R303). -/
def execBurstEnd (s : State) : Host.Outcome State Fault Refusal :=
  .next (let s0 := s.burstEdge false
    if s.flag Reg.GNS_STAT 1 && gnssOn s && !inBurst s0 then
      eachOf (gListed s0) (fun n t => if gState t n = 0 then t else t.gEnter n 6) (s0.setFlag Reg.GNS_STAT 1 false)
    else s)

/-- The magnitude of the pending correction in ns, rounded up. -/
def residNs (s : State) : Nat := (s.gns.resid.natAbs + 10 ^ 12 - 1) / 10 ^ 12

/-- GNS_UNC now (R308). -/
def gnsUnc (s : State) : Nat :=
  let v := match tState s with
    | 0 => 0xFFFFFFFF
    | 2 =>
      let a := s.now - s.gns.phAt.getD s.now
      s.gns.uAt + (s.rf Reg.GNS_HOCFG 0 16 * a * 200000000000 + s.rf Reg.GNS_HOCFG 16 16 * a * a + 2 * 10 ^ 21 - 1) / (2 * 10 ^ 21)
    | _ => (s.rd Reg.GNS_UNC0).toNat + residNs s
  min v 0xFFFFFFFF

/-- GNS_UNC is above UNCLIM (R308). -/
def uncOver (s : State) : Bool := decide (s.rf Reg.GNS_TCFG 0 16 ≠ 0) && decide (s.rf Reg.GNS_TCFG 0 16 * 1000 < gnsUnc s)

/-- The time uncertainty source follows GNS_UNC down (R308). -/
def State.uncCheck (s : State) : State := if uncOver s then s else s.release 262

/-- The registers of receiver time as they read now: RESID, UNC, AGE. -/
def State.gnsView (s : State) : State :=
  let s := s.rtSync
  let age := match s.gns.phAt with | some t => min 0xFFFFFFFF ((s.now - t) / 1000000) | none => 0
  ((s.wr Reg.GNS_RESID (wrap (Int.tdiv s.gns.resid (10 ^ 12)))).wr Reg.GNS_UNC (BitVec.ofNat 32 (gnsUnc s))).wr Reg.GNS_AGE
    (BitVec.ofNat 32 age)

/-- Half the TPULSE period in ns, by GNS_TPCFG.PER. -/
def halfPeriod (s : State) : Nat :=
  match s.rf Reg.GNS_TPCFG 28 2 with
  | 0 => 500000000
  | 1 => 50000000
  | _ => 5000000

/-- The next period boundary of receiver time, ns (R307, R309). -/
def nextBoundary (s : State) : Nat :=
  let p := 2 * halfPeriod s
  (s.gns.rt / (p * 10 ^ 12) + 1) * p % (65536 * weekNs)

/-- A phase write has arrived, discarded or not: its instant, the state it leads to, and the uncertainty at it (R306, R308). -/
def State.phaseTaken (s : State) : State :=
  let s1 := s.setFld Reg.GNS_TSTAT 0 3 (if s.gns.resid = 0 then 1 else 3)
  let u := min ((s1.rd Reg.GNS_UNC0).toNat + residNs s1) 0xFFFFFFFF
  ({ s1 with gns := { s1.gns with phAt := some s1.now, uAt := u } }).uncCheck

/-- A commit of GNS_TCFG: a last phase write that lies within the new HOLDTO again ends HOLDOVER (R306). -/
def State.holdBack (s : State) : State :=
  if gnssOn s ∧ tState s = 2 ∧ s.now < s.gns.phAt.getD 0 + s.rf Reg.GNS_TCFG 24 8 * 1000000000 then
    s.setFld Reg.GNS_TSTAT 0 3 (if s.gns.resid = 0 then 1 else 3)
  else s

/-- A write to GNS_STEER_PH, by the first line of R307 that applies. -/
def State.steerPhase (s : State) (v : Word) : State :=
  if !gnssOn s then s
  else
    let s := s.rtSync.uncCheck
    let ph := signed 31 v.toNat
    let step := bit v 31 && s.flag Reg.GNS_CTRL 2
    let big (t : State) : State := (t.setFlag Reg.GNS_TSTAT 5 true).phaseTaken
    if tState s = 0 ∧ ph.natAbs ≤ 1000000000 then
      (({ s with gns := { s.gns with resid := 0, step := 0 } }).rtStep ph).phaseTaken
    else if step then
      (if ph.natAbs < halfPeriod s then
        ((({ s with gns := { s.gns with resid := 0, step := ph, stepDue := nextBoundary s + 1000 } }).setFlag Reg.GNS_TSTAT 3 true)).phaseTaken
      else big s)
    else if ph.natAbs ≤ 1000000000 then
      (({ s with gns := { s.gns with resid := ph * 10 ^ 12, step := 0 } }).setFlag Reg.GNS_TSTAT 3 false).phaseTaken
    else big s

/-- A write to GNS_STEER_FR (R305). -/
def State.steerFreq (s : State) (v : Word) : State :=
  if !gnssOn s then s
  else
    let s := s.rtSync
    let f := (s.rd Reg.GNS_FREQ).toInt + v.toInt
    let c := clampI (-50000000) 50000000 f
    let s1 := s.wr Reg.GNS_FREQ (wrap c)
    if c = f then s1 else s1.setFlag Reg.GNS_TSTAT 5 true

/-- A write to GNS_TSET_S, with the week last written (R305). A second at or above 604,800 is out of its stated range and is
discarded in the same way (DEDUCED, log entry 15). -/
def State.timeSet (s : State) (v : Word) : State :=
  if !gnssOn s then s
  else
    let sec := fld v 0 20
    if (tState s = 0 ∨ s.flag Reg.GNS_CTRL 2) ∧ sec < 604800 then
      let s := s.rtSync
      let r := (s.rf Reg.GNS_TSET_WK 0 16 * weekNs + sec * 1000000000) * 10 ^ 12
      let s1 := { s with gns := { s.gns with rt := r, floor := some r, stepped := true, lastEpoch := none, lastPulse := none } }
      if s1.flag Reg.GNS_TSTAT 3 then { s1 with gns := { s1.gns with stepDue := nextBoundary s1 + 1000 } } else s1
    else s.setFlag Reg.GNS_TSTAT 4 true

/-- PENDING_STEP_APPLY: 1 µs after a period boundary of receiver time (R307). -/
def execPendingStepApply (t : Nat) (s : State) : Host.Outcome State Fault Refusal :=
  .next (let s0 := (s.at t).rtSync
    if gnssOn s && s.flag Reg.GNS_TSTAT 3 && rtUpTo s.gns.stepDue (s0.gns.rt / 10 ^ 12 + 2) then
      let s1 := s0.rtStep s0.gns.step
      ({ s1 with gns := { s1.gns with step := 0 } }).setFlag Reg.GNS_TSTAT 3 false
    else s)

/-- SLEW_COMPLETE: receiver time is brought to the present; where the slewing has brought the pending correction to 0 exactly, SLEW becomes
LOCKED (R306, R307). -/
def execSlewComplete (t : Nat) (s : State) : Host.Outcome State Fault Refusal :=
  .next (if gnssOn s then ((s.at t).rtSync).uncCheck else s)

/-- HOLDTO_EXPIRY: no phase write for HOLDTO seconds (R306). -/
def execHoldtoExpiry (t : Nat) (s : State) : Host.Outcome State Fault Refusal :=
  .next (let s0 := (s.at t).rtSync.uncCheck
    if gnssOn s && (decide (tState s = 1) || decide (tState s = 3))
        && decide (s.gns.phAt.getD s0.now + s.rf Reg.GNS_TCFG 24 8 * 1000000000 ≤ s0.now) then
      s0.setFld Reg.GNS_TSTAT 0 3 2
    else s)

/-- UNC_OVER: GNS_UNC is above UNCLIM; the fault is raised again only after it has fallen to UNCLIM or below (R308). -/
def execUncOver (t : Nat) (s : State) : Host.Outcome State Fault Refusal :=
  .next (if !gnssOn s then s
    else
      let s0 := (s.at t).rtSync
      if uncOver s0 then (s0.setFlag Reg.GNS_TSTAT 6 true).assert 262 (BitVec.ofNat 32 (gnsUnc s0)) else s0.release 262)

/-- TPULSE: a pulse at each period boundary of receiver time that follows the one last pulsed and that no step passed over; none in FREE
(R309). -/
def execTpulse (t : Nat) (s : State) : Host.Outcome State Fault Refusal :=
  .next (let s0 := (s.at t).rtSync
    let m := rtMultiple s0 (2 * halfPeriod s0)
    let done := match s.gns.lastPulse with | some l => rtUpTo m l | none => rtPassed s0 m
    if gnssOn s && s.flag Reg.GNS_TPCFG 31 && decide (tState s ≠ 0) && rtNear s0 (2 * halfPeriod s0) 5 && !done then
      ({ s0 with gns := { s0.gns with lastPulse := some m, pulseAt := some s0.now } }).wr Reg.GNS_TPCNT (s0.rd Reg.GNS_TPCNT + 1)
    else s)

/-- The level at TPULSE (R309, R317): the active level, high or by POL low, for WIDTH µs from each pulse; high-impedance with its pull-down in
SILL. -/
def tpulsePin (s : State) : Option Bool :=
  let active := match s.gns.pulseAt with
    | some t => gnssOn s && s.flag Reg.GNS_TPCFG 31 && decide (t ≤ s.now) && decide (s.now < t + s.rf Reg.GNS_TPCFG 0 16 * 1000)
    | none => false
  landG s (active != s.flag Reg.GNS_TPCFG 30)

/-! ### Epochs (R297 to R301) -/

/-- The epoch interval in ns, by GNS_CTRL.RATE; in a burst 1 s (R297, R303). -/
def epochNs (s : State) : Nat :=
  if burstMode s then 1000000000
  else match s.rf Reg.GNS_CTRL 8 4 with
    | 0 => 1000000000 | 1 => 500000000 | 2 => 250000000 | 3 => 200000000 | 4 => 100000000 | 5 => 50000000
    | 6 => 40000000 | 7 => 20000000 | _ => 10000000

/-- NREC, the configured count of R292: the highest enabled index plus 1. -/
def nrec (s : State) : Nat :=
  s.regs.foldl (fun m x => if 0x074000 ≤ x.1 ∧ x.1 < 0x078000 ∧ (x.1 - 0x074000) % 0x20 = 0 ∧ bit x.2 31
    then max m ((x.1 - 0x074000) / 0x20 + 1) else m) 0

/-- A signal with a pilot component sets HALF on entry to TRACK (R300). -/
def hasPilot (sig : Nat) : Bool := sig = 1 || sig = 2 || sig = 4 || sig = 6 || sig = 8 || sig = 9 || sig = 10

/-- The measurement record of a channel (R299), and whether it sets SLIP. -/
def gRecord (s : State) (n : Nat) (m : GMeas) (cn0 : BitVec 16) : List Word × Bool :=
  let w := s.rd (Reg.GCH_SIG n)
  let st := gState s n
  let x := s.gch n
  let trk := decide (st = 3)
  let slip := trk && x.slip
  let lockt := if slip then 0 else min 65535 ((s.now - x.slipAt) / 10000000)
  let head := st % 8 * 2 ^ 29 + fld w 29 2 * 2 ^ 27 + fld w 22 4 * 2 ^ 23 + fld w 26 3 * 2 ^ 20 + fld w 8 8 * 2 ^ 8
  let flags := b2n slip * 128 + b2n (trk && hasPilot (fld w 22 4)) * 64 + b2n (trk && m.plock) * 32 + b2n (trk && m.clock) * 16
  let last := BitVec.ofNat 32 (fld w 16 4 * 2 ^ 20 + n % 512)
  if trk then
    ([BitVec.ofNat 32 (head + flags), BitVec.ofNat 32 (m.codeph.toNat % (codeChips (fld w 22 4) * 65536)), m.codecnt - x.count0,
      (m.carr - x.carr0).extractLsb' 0 32, (m.carr - x.carr0).extractLsb' 32 32, m.dop,
      BitVec.ofNat 32 (lockt * 65536 + cn0.toNat), last], slip)
  else ([BitVec.ofNat 32 head, 0, 0, 0, 0, 0, 0, last], false)

/-- EPOCH: receiver time has reached a multiple of the epoch interval, to the ±2 ns of its stamp, and all channels are latched; `ms` holds
what the channels measure, and `cn0` their C/N0, in order. -/
def execEpoch (t : Nat) (ms : List GMeas) (cn0 : List (BitVec 16)) (s : State) : Host.Outcome State Fault Refusal :=
  .next (if !gnssEn s || (burstMode s && !s.flag Reg.GNS_STAT 1) then s
    else
      let s0 := (s.at t).rtSync
      let step := epochNs s0
      let ns := rtMultiple s0 step
      let late := match s0.gns.lastEpoch with | some l => rtUpTo ns l | none => false
      if late || rtPassed s0 ns || !rtNear s0 step 2 then s
      else
        let n := nrec s0
        let recs := (List.range n).map (fun c => gRecord s0 c (ms.getD c GMeas.zero) (cn0.getD c 0))
        let seq := s0.gns.seq + 1
        let tow := ns % weekNs
        let head : List Word := [seq, BitVec.ofNat 32 s0.frame.toNat, BitVec.ofNat 32 (n * 65536 + s0.frame.toNat / 2 ^ 32),
          BitVec.ofNat 32 s0.edge,
          BitVec.ofNat 32 (b2n (burstMode s0) * 2 ^ 20 + b2n s0.gns.stepped * 2 ^ 19 + tState s0 * 2 ^ 16 + ns / weekNs),
          BitVec.ofNat 32 tow, BitVec.ofNat 32 (tow / 2 ^ 32), BitVec.ofNat 32 (gnsUnc s0)]
        let s1 := { s0 with gns := { s0.gns with seq := seq, stepped := false, lastEpoch := some ns,
                                                 latched := s0.gns.latched.filter (fun x => decide (s0.now ≤ x.1))
                                                   ++ [(s0.now + 2000 + 80 * n, head ++ (recs.map (·.1)).flatten)] } }
        eachOf (List.range n) (fun c u =>
          let r := recs.getD c ([], false)
          let m := ms.getD c GMeas.zero
          let u1 := u.gCn0 c (if gState u c = 0 then 0 else (cn0.getD c 0).toNat / 100)
          let u2 := if gState u c = 3 then
              u1.setGch c { u1.gch c with dop := m.dop.toInt, codeAt := u1.now,
                                          code := m.codeph.toNat % (codeChips (u.rf (Reg.GCH_SIG c) 22 4) * 65536) }
            else u1
          if r.2 then (u2.setGch c { u2.gch c with slip := false, slipAt := u2.now }).count Reg.GNS_CNT 16 16 1 else u2) s1)

/-- At a boundary: the antenna ports' bias currents and gain codes, and the channels' present C/N0, as the frame's registers show them (R289,
R318). -/
def State.gnssLatch (s : State) (m : FrameSample) : State :=
  if !gnssPart s then s
  else
    let s1 := each 3 (fun a u =>
      let x := m.ants.getD a (0, 0)
      (u.setFld (Reg.ANT_STAT a) 16 16 x.1.toNat).setFld (Reg.ANT_STAT a) 8 8 x.2.toNat) s
    eachOf (gListed s1) (fun c u => if gState u c = 0 then u else u.gCn0 c (m.cn0.getD c 0).toNat) s1

/-- Write a run of words at consecutive registers. -/
def State.wrRun (s : State) (a : Nat) : List Word → State
  | [] => s
  | w :: ws => (s.wr a w).wrRun (a + 4) ws

/-- EPOCH_RECORD_COMPLETE, 2,000 ns + 80 ns × NREC after the epoch: the epoch latched then replaces the one in the block and enters an input
record (R298, R301). -/
def execEpochRecordComplete (t : Nat) (s : State) : Host.Outcome State Fault Refusal :=
  .next (match s.gns.latched.find? (fun x => decide (x.1 = (s.at t).now)) with
    | none => s
    | some x =>
      if !gnssOn s then s
      else
        let s1 := ((s.at t).wrRun (Reg.GNS_EPOCH 0) x.2).recordCut ⟨.epoch, x.2.map (·.toNat)⟩
        { s1 with gns := { s1.gns with latched := s1.gns.latched.erase x } })

/-- Resume from FREEZE: channels in TRACK enter REACQ, receiver time goes on from where it halted with STATE FREE and no pulses, and the inertial
integrals start anew (R317). -/
def State.gnssResume (s : State) : State :=
  let s1 := eachOf (gListed s) (fun n t => if gState t n = 3 then t.gEnter n 4 else t) s.rtSync
  (({ s1 with gns := { s1.gns with resid := 0, step := 0, lastPulse := none, floor := some s1.gns.rt, pulseAt := none },
              imu := { s1.imu with last := s1.now } }).setFld Reg.GNS_TSTAT 0 4 0)

/-- A GNSS PLL relocks: the channels enter REACQ (R481). -/
def State.gnssRelock (s : State) : State :=
  eachOf (gListed s) (fun n t => if gState t n = 3 ∨ gState t n = 2 then t.gEnter n 4 else t) s

/-! ### The inertial unit (R312, R313) -/

/-- A write of START begins a self-test in IDLE, SAFE or SERVICE (R313). -/
def State.imuTest (s : State) (v : Word) : State :=
  if bit v 0 ∧ (s.sys.mode = .idle ∨ s.sys.mode = .safe ∨ s.sys.mode = .service) then s.setFlag Reg.IMU_STAT 5 true else s

/-- IMU_SELF_TEST_COMPLETE, passed or failed; after a failed one the latched values hold. -/
def execImuSelfTestComplete (t : Nat) (passed : Bool) (s : State) : Host.Outcome State Fault Refusal :=
  .next (if s.flag Reg.IMU_STAT 5 && s.clocked then
      let s1 := (s.at t).setFlag Reg.IMU_STAT 5 false
      if passed then s1
      else
        let s2 := ({ s1 with imu := { s1.imu with held := true } }).setFlag Reg.IMU_STAT 4 true
        s2.raise 263 (s2.rd Reg.IMU_STAT)
    else s)

/-- IMU_FAULT: a sample is missing or the die link fails; the latched values hold. -/
def execImuFault (t : Nat) (s : State) : Host.Outcome State Fault Refusal :=
  .next (if s.clocked && s.flag Reg.IMU_CFG 31 then
      let s0 := s.at t
      let s1 := ({ s0 with imu := { s0.imu with held := true } }).setFlag Reg.IMU_STAT 3 true
      s1.raise 263 (s1.rd Reg.IMU_STAT)
    else s)

/-- IMU_SAMPLES_RESUME: the held values are replaced again at the next latch. -/
def execImuSamplesResume (s : State) : Host.Outcome State Fault Refusal := .next { s with imu := { s.imu with held := false } }

/-- The greatest magnitudes the inertial unit gives: rate in 2^-24 turn/s and acceleration in µm/s² by GRANGE and ARANGE, and their
integrals over an interval in ns in 2^-32 turn and µm/s (R311, R312); one g is 9.80665 m/s² (log entry 82). -/
def rateMax (s : State) : Nat := 250 * 2 ^ (s.rf Reg.IMU_CFG 0 2 + 24) / 360
def accMax (s : State) : Nat := 2 * 2 ^ s.rf Reg.IMU_CFG 2 2 * 9806650
def angMax (s : State) (ns : Nat) : Nat := 250 * 2 ^ (s.rf Reg.IMU_CFG 0 2 + 32) * ns / 360000000000
def velMax (s : State) (ns : Nat) : Nat := accMax s * ns / 1000000000

/-- A value held to a magnitude, and whether it had to be (R312). -/
def held (top : Nat) (v : BitVec 32) : Word × Bool := (wrap (clampI (-(top : Int)) top v.toInt), decide (top < v.toInt.natAbs))

/-- The twelve values of a latch, each held to its range. -/
def imuValues (s : State) (m : ImuSample) : List (Word × Bool) :=
  let ns := s.now - s.imu.last
  (List.range 12).map (fun i => held (if i < 3 then rateMax s else if i < 6 then accMax s else if i < 9 then angMax s ns else velMax s ns)
    (m.vals.getD i 0))

/-- Step (5) of R19: the inertial values are latched (R312); a unit that is disabled or holds its values keeps them, and the record carries its
status (R313). -/
def State.imuLatch (s : State) (m : ImuSample) : State :=
  let runs := s.clocked && s.sys.mode ≠ .boot
  let fresh := runs && s.flag Reg.IMU_CFG 31 && !s.imu.held
  let vs := imuValues s m
  let s1 := s.setFlag Reg.IMU_STAT 0 (fresh && m.settled)
  let s2 := if fresh then
      let t := (each 12 (fun i u => u.wr (Reg.IMU_VAL i) (vs.getD i (0, false)).1) s1).setFld Reg.IMU_STAT 16 16 m.temp.toNat
      let beyond (i : Nat) : Bool := (vs.getD i (0, false)).2
      let t := if m.satg || beyond 0 || beyond 1 || beyond 2 || beyond 6 || beyond 7 || beyond 8 then t.setFlag Reg.IMU_STAT 1 true else t
      if m.sata || beyond 3 || beyond 4 || beyond 5 || beyond 9 || beyond 10 || beyond 11 then t.setFlag Reg.IMU_STAT 2 true else t
    else s1
  let s3 := { s2 with imu := { s2.imu with last := s2.now } }
  if runs then
    s3.recordCur ⟨.imu, (List.range 12).map (fun i => (s3.rd (Reg.IMU_VAL i)).toNat) ++ [(s3.rd Reg.IMU_STAT).toNat]⟩
  else s3

end Sys2Proof.Machine
end

