-- ==== Sys2Proof/Machine/Peg.lean ====
section
/-! DEFINITION. The trust anchor (R433 to R461): key commands, grants, the policy, attestation and host commands' checks. -/
namespace Sys2Proof.Machine

/-! ### What the registers show -/

/-- The bytes of `n` words of registers, from word `i` of a run `a`. -/
def regBytes (s : State) (a : Nat → Nat) (n : Nat) : List Byte := (List.range n).flatMap (fun i => bytesOf (s.rd (a i)))

def serialBytes (s : State) : List Byte := bytesOf (s.rd Reg.PEG_SERIAL_LO) ++ bytesOf (s.rd Reg.PEG_SERIAL_HI)
def nonceBytes (s : State) : List Byte := regBytes s Reg.PEG_NONCE 8

/-- Policy and grants in force. -/
def hauth (s : State) : Bool := s.flag Reg.PEG_CFG 0
def autoroll (s : State) : Bool := s.flag Reg.PEG_CFG 1
def debugGranted (s : State) : Bool := s.flag Reg.PEG_STAT 9
def frzReadGranted (s : State) : Bool := s.flag Reg.PEG_STAT 10
def owned (s : State) : Bool := s.flag Reg.PEG_STAT 8

/-- An owner key; empty where the slot is. -/
def ownerKey (s : State) (k : Nat) : List Byte := SMap.get [] s.peg.owner k

/-- Write a run of register words. -/
def State.wrRunOf (s : State) (a : Nat → Nat) : Nat → List Word → State
  | _, [] => s
  | i, w :: ws => (s.wr (a i) w).wrRunOf a (i + 1) ws

/-- A fresh PEG_NONCE: a random number, so eight free words (R437, R442). -/
def State.newNonce (s : State) : State :=
  each 8 (fun i t => (t.wr (Reg.PEG_NONCE i) t.freeWord).spend) s

/-- A locked function was attempted (R453). -/
def State.lockHit (s : State) (det : Nat) : State := (s.setFlag Reg.PEG_STAT 3 true).raiseLater 325 (BitVec.ofNat 32 det)

/-! ### Grants (R453, R454) -/

/-- The grant in force becomes `bits`, which its raise tells. -/
def State.setGrant (s : State) (bits : Nat) (ends : Option Nat) : State :=
  let s1 := ((s.setFld Reg.PEG_STAT 9 2 bits).setFld Reg.PEG_GRANT 0 2 bits)
  ({ s1 with peg := { s1.peg with grantEnd := ends, granted := true } }).raise 326 (BitVec.ofNat 32 bits)

/-- The grant ends, if one is in force. -/
def State.endGrant (s : State) : State :=
  if !s.peg.granted then s
  else
    let s1 := s.setGrant 0 none
    { s1 with peg := { s1.peg with granted := false } }

/-- GRANT_EXPIRY: the duration of the grant in force has run out (R454); it does not advance in FREEZE. Before that instant
nothing happens (log entry 78). -/
def execGrantExpiry (s : State) : Host.Outcome State Fault Refusal :=
  .next (match s.peg.grantEnd with
    | some e => if e ≤ s.sys.optime ∧ s.sys.mode ≠ .freeze then s.endGrant else s
    | none => s)

/-! ### Key commands (R440 to R445) -/

/-- The fields of a key command (R440). -/
structure KeyCmd where
  magic : List Byte
  op : Nat
  slot : Nat
  signer : Nat
  serial : List Byte
  nonce : List Byte
  param : Word
  key : List Byte
  wrapped : List Byte
  zeros : List Byte
  sig : List Byte
  body : List Byte
  deriving DecidableEq, Repr

def keyCmdOf (b : List Byte) : KeyCmd :=
  let f := fun (o n : Nat) => (b.drop o).take n
  { magic := f 0 4, op := (b.getD 4 0).toNat, slot := (b.getD 5 0).toNat, signer := (b.getD 6 0).toNat, serial := f 8 8,
    nonce := f 0x10 32, param := (wordsOf (f 0x30 4)).headD 0, key := f 0x40 64, wrapped := f 0x80 24,
    zeros := f 7 1 ++ f 0x34 12 ++ f 0x98 40, sig := f 0xC0 64, body := f 0 0xC0 }

def allZero (b : List Byte) : Bool := b.all (fun x => decide (x = 0))

/-- FORMAT (R441, R442 code 1). -/
def keyFormatOk (c : KeyCmd) : Bool :=
  decide (c.magic = [0x50, 0x4B, 0x45, 0x59]) && decide (1 ≤ c.op) && decide (c.op ≤ 8) && allZero c.zeros
    && (match c.op with
        | 1 | 5 => decide (c.slot < 4)
        | 2 => decide (1 ≤ c.slot) && decide (c.slot < 4)
        | 3 => decide (c.slot < 64)
        | _ => decide (c.slot = 0))
    && (match c.op with
        | 5 => true
        | 7 => decide (fld c.param 2 6 = 0)
        | 8 => decide (fld c.param 2 30 = 0)
        | _ => decide (c.param = 0))
    && (c.op = 1 || c.op = 3 || c.op = 4 || allZero c.key) && (c.op = 3 || c.op = 4 || allZero c.wrapped)
    && (c.signer ≠ 0xFF || allZero c.sig)

/-- An unsigned claim of an unowned device (R445). -/
def isClaim (s : State) (c : KeyCmd) : Bool := decide (c.signer = 0xFF) && decide (c.op = 1) && decide (c.slot = 0) && !owned s

/-- SIGNER (R441, R442 code 5). -/
def signerOk (s : State) (c : KeyCmd) : Bool :=
  isClaim s c || (decide (c.signer < 4) && !(ownerKey s c.signer).isEmpty &&
    (match c.op with
     | 3 | 7 => true
     | 5 => decide (c.signer = 0) || decide (c.signer = c.slot)
     | _ => decide (c.signer = 0)))

/-- The modes an operation runs in (R441, R460). -/
def keyModeOk (s : State) (op : Nat) : Bool :=
  s.sys.mode = .service || (decide (op = 7) && (s.sys.mode = .idle || s.sys.mode = .run || s.sys.mode = .limp || s.sys.mode = .safe))

/-- The key that an operation loads, where it unwraps one (R443). -/
def loadedKey (s : State) (c : KeyCmd) : Option (List Byte) := unwrapKey c.key c.wrapped (serialBytes s) c.nonce

/-- PROTECTED (R442 code 9). -/
def keyProtected (s : State) (c : KeyCmd) : Bool :=
  (decide (c.op = 1) && (List.range 4).any (fun k => decide (k ≠ c.slot) && decide (ownerKey s k = c.key)))
    || (decide (c.op = 8) && bit c.param 0 && s.peg.hostKey.isEmpty)

/-- RESULT of a command: the first check that fails, or OK. `stored` says whether the MRAM write succeeds (R442). -/
def keyResult (s : State) (c : KeyCmd) (stored : Bool) : Nat :=
  if !keyFormatOk c then 1
  else if c.serial ≠ serialBytes s then 2
  else if c.nonce ≠ nonceBytes s then 3
  else if !keyModeOk s c.op then 4
  else if !signerOk s c then 5
  else if !isClaim s c ∧ !ecdsaVerify (ownerKey s c.signer) (sha256 c.body) c.sig then 6
  else if c.op = 5 ∧ c.param.toNat < (s.rd (Reg.PEG_ROLL c.slot)).toNat then 7
  else if (c.op = 3 ∨ c.op = 4) ∧ (loadedKey s c).isNone then 8
  else if keyProtected s c then 9
  else if !stored then 10
  else 0

/-- Owner key k is held or not: the key, PEG_SLOTS, and OWNED for OK0. -/
def State.setOwner (s : State) (k : Nat) (key : List Byte) : State :=
  let s1 := ({ s with peg := { s.peg with owner := SMap.set [] s.peg.owner k key } }).setFlag Reg.PEG_SLOTS k (!key.isEmpty)
  if k = 0 then s1.setFlag Reg.PEG_STAT 8 (!key.isEmpty) else s1

def State.setHostKey (s : State) (key : List Byte) : State :=
  ({ s with peg := { s.peg with hostKey := key } }).setFlag Reg.PEG_SLOTS 4 (!key.isEmpty)

def State.setMessageKey (s : State) (k : Nat) (key : List Byte) : State :=
  ({ s with bus := { s.bus with keys := SMap.set [] s.bus.keys k key } }).setFlag
    (if k < 32 then Reg.PEG_MKEY_LO else Reg.PEG_MKEY_HI) (k % 32) (!key.isEmpty)

/-- OP 6 (R445): every owner slot, message key and the host key are emptied, policy and grants cleared; the counters stay. -/
def State.releaseOwner (s : State) : State :=
  let s1 := each 4 (fun k t => t.setOwner k []) s
  let s2 := each 64 (fun k t => t.setMessageKey k []) s1
  (((s2.setHostKey []).setFlag Reg.PEG_CFG 0 false).setFlag Reg.PEG_CFG 1 false).endGrant

/-- The consequence of an accepted command (R441, R444, R445, R454). -/
def State.keyEffect (s : State) (c : KeyCmd) : State :=
  match c.op with
  | 1 => s.setOwner c.slot c.key
  | 2 => s.setOwner c.slot []
  | 3 =>
    let s1 := s.setMessageKey c.slot ((loadedKey s c).getD [])
    { s1 with bus := { s1.bus with txFresh := SMap.set 0 s1.bus.txFresh c.slot 0, rxFresh := SMap.set 0 s1.bus.rxFresh c.slot 0 } }
  | 4 => ((s.setHostKey ((loadedKey s c).getD [])).wr Reg.PEG_HCTR_LO 0).wr Reg.PEG_HCTR_HI 0
  | 5 => s.wr (Reg.PEG_ROLL c.slot) c.param
  | 6 => s.releaseOwner
  | 7 => s.setGrant (fld c.param 0 2) (if fld c.param 8 24 = 0 then none else some (s.sys.optime + fld c.param 8 24 * 10000))
  | _ => { s with peg := { s.peg with policy := some (bit c.param 0, bit c.param 1) } }

/-- A new policy applies (R444). -/
def State.newPolicy (s : State) : State :=
  match s.peg.policy with
  | some p =>
    (({ s with peg := { s.peg with policy := none } }).setFlag Reg.PEG_CFG 0 p.1).setFlag Reg.PEG_CFG 1 p.2
  | none => s

/-- The detail of a key command's raise (R442). -/
def keyDetail (op slot result : Nat) : Word := BitVec.ofNat 32 (op + slot * 2 ^ 8 + result * 2 ^ 16)

/-- A key command asks for the public-key engine when its checks come to a signature: not one that an earlier check refuses, nor a claim (R442,
R455). -/
def asksEngine (s : State) (c : KeyCmd) (r : Nat) : Bool := (decide (r = 0) || decide (6 ≤ r)) && !isClaim s c

/-- A write of GO to PEG_KCTL: the command of the window is checked and, when all passes, takes effect in MRAM; its RESULT and
the new nonce come when it ends. A GO while one runs is refused with BUSY; in FREEZE it is ignored (R442, R444, R460). -/
def State.keyGo (s : State) (v : Word) (stored : Bool) : State :=
  if ¬ bit v 0 ∨ s.sys.mode = .freeze ∨ s.sys.mode = .sill then s
  else
    let c := keyCmdOf (regBytes s Reg.PEG_KCMD 64)
    if s.peg.running.isSome then (s.setFld Reg.PEG_KSTAT 0 8 11).raise 322 (keyDetail c.op c.slot 11)
    else
      let r := keyResult s c stored
      let s1 := if r = 0 then s.keyEffect c else s
      (({ s1 with peg := { s1.peg with running := some (r, c.op, c.slot), keyWaits := asksEngine s c r } }).setFld Reg.PEG_KSTAT 8 2 1).pkNext

/-- OP of the command in the window. -/
def keyOp (s : State) : Nat := fld (s.rd (Reg.PEG_KCMD 1)) 0 8

/-- KEY_COMMAND_COMPLETE: the running command ends with its RESULT, its raise and a new nonce (R442), when the public-key
engine has served it, where it needs that (R455). -/
def execKeyCommandComplete (s : State) : Host.Outcome State Fault Refusal :=
  .next (match s.peg.running with
    | some x =>
      if s.sys.mode = .freeze ∨ (s.peg.keyWaits ∧ s.peg.serving ≠ some .key) then s
      else
        let s1 := (({ s with peg := { s.peg with running := none, keyWaits := false } }).iff s.peg.keyWaits State.pkDone).newPolicy
        let s2 := (s1.setFld Reg.PEG_KSTAT 0 8 x.1).setFld Reg.PEG_KSTAT 8 2 2
        (s2.raise 322 (keyDetail x.2.1 x.2.2 x.1)).newNonce
    | none => s)

/-! ### Attestation (R446) -/

/-- SHA-256 of the four owner keys, an empty slot as 64 zero bytes. -/
def ownHash (s : State) : List Byte :=
  sha256 ((List.range 4).flatMap (fun k => if (ownerKey s k).isEmpty then List.replicate 64 0 else ownerKey s k))

/-- Bytes 0x00 to 0xBF of a report, as words. -/
def reportWords (s : State) (cfgCrc : Word) : List Word :=
  let flags := b2n (owned s) + b2n (hauth s) * 2 + b2n (autoroll s) * 4 + b2n (debugGranted s) * 8 + b2n (frzReadGranted s) * 16
    + b2n (s.flag Reg.PROG_BANK 9) * 32 + b2n (s.flag Reg.PROG_BANK 8) * 64 + b2n (s.flag Reg.PEG_STAT 5) * 128
  [0x54544150#32, BitVec.ofNat 32 (1 + s.sys.variant * 2 ^ 16 + flags * 2 ^ 24), s.rd Reg.PEG_SERIAL_LO, s.rd Reg.PEG_SERIAL_HI]
    ++ (List.range 8).map (fun i => s.rd (Reg.PEG_ACHAL i)) ++ (List.range 8).map (fun i => s.rd (Reg.PEG_IMGHASH i))
    ++ wordsOf (ownHash s) ++ (List.range 4).map (fun i => s.rd (Reg.PEG_ROLL i))
    ++ [BitVec.ofNat 32 s.frame.toNat, BitVec.ofNat 32 (s.frame.toNat / 2 ^ 32), s.rd Reg.SIL_PCYC, s.rd Reg.REC_HEAD]
    ++ wordsOf s.rcd.hash ++ [cfgCrc, 0, 0, 0]

/-- A write of GO to PEG_ACTL (R446): a report begins, unless one is being built; with DIK_BAD it is refused. Peg attests in every
mode but SILL, BOOT and FREEZE (R460). -/
def State.attestGo (s : State) (v : Word) (cfgCrc : Word) : State :=
  if ¬ bit v 0 ∨ s.flag Reg.PEG_ASTAT 0 ∨ s.sys.mode = .sill ∨ s.sys.mode = .boot ∨ s.sys.mode = .freeze then s
  else if s.flag Reg.PEG_STAT 5 then s.setFlag Reg.PEG_ASTAT 2 true
  else
    (({ s with peg := { s.peg with report := some (reportWords s cfgCrc) } }).setFlag Reg.PEG_ASTAT 0 true).pkNext

/-- A 256-bit number as eight words, most significant byte first in the first word's lowest byte (SEC 1). -/
def wordsBE (v : Nat) : List Word := wordsOf (beBytes 32 v)

/-- REPORT_COMPLETE: the public-key engine ends its work on the report, which stands in PEG_AREP with the identity key's signature over the
SHA-256 of its bytes 0x00 to 0xBF, and DONE is set (R446, R455). -/
def execReportComplete (t : Nat) (k : BitVec 256) (s : State) : Host.Outcome State Fault Refusal :=
  .next (match s.peg.report with
    | some ws =>
      if s.sys.mode = .freeze ∨ s.peg.serving ≠ some .report then s
      else
        let s0 := s.at t
        let sg := ecdsaSign (sha256 (bytesOfWords ws)) k
        let s1 := (({ s0 with peg := { s0.peg with report := none } }).pkDone).wrRunOf Reg.PEG_AREP 0 (ws ++ wordsBE sg.1 ++ wordsBE sg.2)
        (s1.setFlag Reg.PEG_ASTAT 0 false).setFlag Reg.PEG_ASTAT 1 true
    | none => s)

/-- A key check value: the first 4 bytes of the key's encryption of a zero block, 0 of an empty slot (R447). -/
def keyCheck (key : List Byte) : Word := if key.isEmpty then 0 else (wordsOf ((aesEncrypt key (List.replicate 16 0#8)).take 4)).headD 0

/-- The check values of the host key and of the message keys (R447). -/
def keyChecks (s : State) : List Word := keyCheck s.peg.hostKey :: (List.range 64).map (fun k => keyCheck (SMap.get [] s.bus.keys k))

/-! ### Host commands (R448 to R451) -/

/-- The shadow digest (R451): 0 with no open host transaction. -/
def shadowDigest (s : State) : Word :=
  match s.txn.state, s.txn.holder with
  | .opened, .host _ => crc32c (s.txn.shadow.flatMap (fun x => bytesOf (BitVec.ofNat 32 x.1) ++ bytesOf x.2))
  | _, _ => 0

/-- The counter of a host command, and the last one accepted. -/
def hostCtr (s : State) : Nat := (s.rd Reg.PEG_HC_CTR_LO).toNat + (s.rd Reg.PEG_HC_CTR_HI).toNat * 2 ^ 32
def lastCtr (s : State) : Nat := (s.rd Reg.PEG_HCTR_LO).toNat + (s.rd Reg.PEG_HCTR_HI).toNat * 2 ^ 32

/-- The tag that R449 asks for. -/
def hostTag (s : State) : List Byte :=
  (cmac s.peg.hostKey (serialBytes s ++ bytesOf (BitVec.ofNat 32 (s.rf Reg.PEG_HC_ADDR 0 24)) ++ bytesOf (s.rd Reg.PEG_HC_DATA)
    ++ bytesOf (s.rd Reg.PEG_HC_CTR_LO) ++ bytesOf (s.rd Reg.PEG_HC_CTR_HI) ++ bytesOf (s.rd Reg.PEG_HC_DIG))).take 8

/-- RESULT of a host command that finds none executing, with the high word of its tag as it arrives (R450): 1 DONE, 2 COUNTER, 3 TAG, 4 NOKEY, 5 BADADDR. -/
def hostCmdResult (s : State) (tagHi : Word) : Nat :=
  let a := s.rf Reg.PEG_HC_ADDR 0 24
  if s.peg.hostKey.isEmpty then 4
  else if (Reg.row? a).isNone ∨ (0x0B0000 ≤ a ∧ a < 0x0C0000) then 5
  else if hostCtr s ≤ lastCtr s then 2
  else if bytesOf (s.rd Reg.PEG_HC_TAG_LO) ++ bytesOf tagHi ≠ hostTag s then 3
  else 1

/-- The part of a host command before its delivery (R450): the result, the counter, and the fault of a bad counter or tag. -/
def State.hostCmdChecked (s : State) (r : Nat) : State :=
  let s1 := s.setFld Reg.PEG_HC_STAT 0 3 r
  if r = 1 then
    ((s1.wr Reg.PEG_HCTR_LO (s.rd Reg.PEG_HC_CTR_LO)).wr Reg.PEG_HCTR_HI (s.rd Reg.PEG_HC_CTR_HI)).count Reg.PEG_HC_STAT 16 16 1
  else if r = 2 ∨ r = 3 then s1.raise 323 (BitVec.ofNat 32 (s.rf Reg.PEG_HC_ADDR 0 24))
  else s1

/-- A host command begins to execute: its checks take at most 2 µs, and with the delivery at most 3 µs; the spec gives no less (R450, R458, log
entry 17). -/
def State.hostCmdBegins (s : State) (r : Nat) : State :=
  ({ s with peg := { s.peg with hcUntil := s.now + s.freeNat % (if r = 1 then 3001 else 2001), hcBusy := false } }).spend

/-- A write to PEG_GRANT with REVOKE ends the grant (R454). -/
def State.pegGrant (s : State) (v : Word) : State := if bit v 8 then s.endGrant else s

/-- Registers whose direct host writes need a host command while HAUTH is 1 (R448, R469): all writes, or those of some bits. -/
def needsHostCmd (s : State) (a : Nat) (v : Word) : Bool :=
  hauth s &&
    ((a = Reg.TXN_CTRL && decide (fld v 16 2 ≠ 0)) || a = Reg.BE_RST || a = Reg.FLT_CTRL || a = Reg.FLT_INJ || a = Reg.TRU_KILL
      || a = Reg.TRU_SCARF || (a = Reg.PROG_BANK && decide (fld v 16 2 ≠ 0)) || (a = Reg.HP_SCTL && bit v 0 && bit v 1)
      || (a = Reg.SYS_MODEREQ && fld v 8 8 == 0xA5 && (fld v 0 3 == 0 || fld v 0 3 == 1 || fld v 0 3 == 7)) || a = Reg.SYS_RST)

/-- A protected write made directly is discarded; to TXN_CTRL it is a refusal too (R126, R448). -/
def State.directHit (s : State) (a : Nat) : State :=
  let s1 := (s.setFlag Reg.PEG_STAT 2 true).raise 323 (BitVec.ofNat 32 a)
  if a = Reg.TXN_CTRL then s1.txnRefuse 1 .auth else s1

end Sys2Proof.Machine
end

