-- ==== Sys2Proof/Machine/View.lean ====
section
/-! DEFINITION. What a read of a register finds (R3, R7, R358 to R361): the register file, and the fields that show state held
elsewhere; the host image and its flip. -/
namespace Sys2Proof.Machine

/-! ### Fields that show state held elsewhere -/

/-- STATE of an engine (R92). -/
def EngState.code : EngState → Nat
  | .off => 0 | .idle => 1 | .run => 2 | .halted => 3 | .rehash => 4

/-- SYS registers of chapters 1, 11, 15 and 16 (R40, R380, R488). An engine reads the present frame number from the boundary on (DESIGN CHOICE,
log entry 93). -/
def sysView (s : State) (a : Nat) (w : Word) : Word :=
  if a = Reg.SYS_ID then put (put (put w 16 16 (if s.sys.variant = 2 then 0x4806 else 0x9612)) 8 8 s.sys.dierev) 0 3 s.sys.variant
  else if a = Reg.SYS_MODE then put (put w 0 3 (if s.sys.watch then 1 else s.sys.mode.code)) 3 1 (b2n s.sys.frzDbg)
  else if a = Reg.SYS_FRMNUM_LO then s.frame.setWidth 32
  else if a = Reg.SYS_FRMNUM_HI then BitVec.ofNat 32 (s.frame.toNat / 2 ^ 32)
  else if a = Reg.HP_CFG then put w 1 1 (b2n s.sys.hsync)
  else if a = Reg.HP_STAT then put w 16 7 (64 - s.hp.posted.length)
  else if a = Reg.HP_SSTAT then
    put w 16 9 (match s.hp.stream with
      | some x => if x.write then x.room else x.buf.length
      | none => 0)
  else if a = Reg.SIL_OPTIME_LO then BitVec.ofNat 32 s.sys.optime
  else if a = Reg.SIL_OPTIME_HI then BitVec.ofNat 32 (s.sys.optime / 2 ^ 32)
  else w

/-- TXN_STAT and TXN_WRCNT (R130). -/
def txnView (s : State) (a : Nat) (w : Word) : Word :=
  if a = Reg.TXN_STAT then put (put w 0 3 s.txn.state.code) 3 2 s.txn.holder.code
  else if a = Reg.TXN_WRCNT then BitVec.ofNat 32 (min 65535 (txnCount s))
  else w

/-- BE_STAT and BE_PC (R92). -/
def engView (s : State) (a : Nat) (w : Word) : Word :=
  let e := (a - 0x014000) / 0x100
  if 8 ≤ e then w
  else if a = Reg.BE_STAT e then put w 0 3 (s.en e).state.code
  else if a = Reg.BE_PC e then (if (s.en e).state = .halted ∧ debugGranted s then BitVec.ofNat 32 ((s.en e).pc % 2 ^ 15) else 0)
  else w

/-- PWM_UFSTAT and PWM_CHSTAT (R223). -/
def pwmView (s : State) (a : Nat) (w : Word) : Word :=
  if a < 0x040600 then (if a % 0x40 = 0x0C then put w 1 1 (b2n (unitSource s ((a - 0x040000) / 0x40))) else w)
  else if 0x041000 ≤ a ∧ (a - 0x041000) % 0x20 = 0x18 then
    let c := (a - 0x041000) / 0x20
    put (put (put (put w 9 1 (b2n (pwmOut s c))) 8 1 (b2n (pwmForced s c))) 7 1 (b2n (s.pch c).newPer)) 6 1 (b2n (s.pch c).newDuty)
  else w

/-- BUS_STAT (R349): an enabled controller is offline while the BUS PLL is unlocked (R481). -/
def busView (s : State) (a : Nat) (w : Word) : Word :=
  let n := (a - 0x080000) / 0x4000
  if a = Reg.BUS_STAT n ∧ s.flag (Reg.BUS_CFG n) 0 ∧ ¬ s.flag Reg.CLK_STAT 6 then put w 0 2 3 else w

/-- TRUSS and JRNL registers (R405, R406): a killed device reads STATE 5. -/
def twinView (s : State) (a : Nat) (w : Word) : Word :=
  if a = Reg.TRU_STAT then
    let x := put w 5 1 (b2n s.sys.tside)
    if bit x 9 then put x 0 3 5 else x
  else if a = Reg.JRN_SEQ_LO then BitVec.ofNat 32 s.jrn.head
  else if a = Reg.JRN_SEQ_HI then BitVec.ofNat 32 (s.jrn.head / 2 ^ 32)
  else if a = Reg.JRN_OPEN then BitVec.ofNat 32 s.jrn.opened.length
  else if a = Reg.JRN_BUF then BitVec.ofNat 32 (s.jrn.marks.length % 64)
  else w

/-- FLT_STAT (R431): DEGRADE, or SAFE for SAFE and HALT, the HALT latch, and a reaction that only CLEAR ends. -/
def fltView (s : State) (a : Nat) (w : Word) : Word :=
  if a = Reg.FLT_STAT then
    put (put (put (put w 0 1 (b2n (decide (s.flt.reaction = 1)))) 1 1 (b2n (decide (2 ≤ s.flt.reaction)))) 2 1 (b2n s.flt.halt)) 4 1
      (b2n (fltManual s))
  else w

/-- REC_HASH and REC_RDPOS (R422, R428). -/
def recView (s : State) (a : Nat) (w : Word) : Word :=
  if 0x0A8040 ≤ a ∧ a < 0x0A8060 then (wordsOf s.rcd.hash).getD ((a - 0x0A8040) / 4) 0
  else if a = Reg.REC_RDPOS ∧ ¬ s.rcd.readYet then s.rd Reg.REC_RDSTART
  else w

/-- Seconds left of a grant (R454), 0xFFFFFF for one without a duration; of a part of a second the spec says nothing (log entry 2). -/
def grantLeft (s : State) : Nat :=
  if !s.peg.granted then 0
  else match s.peg.grantEnd with
    | none => 0xFFFFFF
    | some t =>
      let d := t - s.sys.optime
      d / 10000 + (if d % 10000 = 0 then 0 else s.freeNat % 2)

/-- The public-key engine works: on a request, or in BOOT on the checks of the images, whose place in BOOT the spec does not give (R437, R461, log
entry 2). -/
def pegBusy (s : State) : Bool :=
  s.peg.serving.isSome || (decide (s.sys.mode = .boot) && s.sys.bootDone.isNone && decide (s.freeNat % 2 = 1))

/-- The length of the certificate, 1 to 1,024 bytes, and its bytes; those beyond read 0 (R434, R461). -/
def certLen (s : State) : Nat := 1 + Config.certLength (idPublic ++ serialBytes s) % 1024
def certWord (s : State) (i : Nat) : Word :=
  (wordsOf ((List.range 4).map (fun j => if 4 * i + j < certLen s then Config.certByte (idPublic ++ serialBytes s) (4 * i + j) else 0#8))).headD 0

/-- The registers that show the identity public key and its certificate: they never change (R433, R434). -/
def isIdentity (a : Nat) : Bool :=
  a = Reg.PEG_CERTLEN || (decide (Reg.PEG_DPUB 0 ≤ a) && decide (a < Reg.PEG_DPUB 16)) || (decide (Reg.PEG_CERT 0 ≤ a) && decide (a < Reg.PEG_CERT 256))

/-- PEG_STAT.BUSY, the identity key and its certificate, RESULT 6 of a host command, PEG_SHDIG and PEG_GRTIME (R434, R450, R461). -/
def pegView (s : State) (a : Nat) (w : Word) : Word :=
  if a = Reg.PEG_STAT then put w 11 1 (b2n (pegBusy s))
  else if a = Reg.PEG_CERTLEN then BitVec.ofNat 32 (certLen s)
  else if a = Reg.PEG_HC_STAT then (if s.peg.hcBusy && decide (s.now < s.peg.hcUntil) then put w 0 3 6 else w)
  else if Reg.PEG_DPUB 0 ≤ a ∧ a < Reg.PEG_DPUB 16 then (wordsOf idPublic).getD ((a - Reg.PEG_DPUB 0) / 4) 0
  else if Reg.PEG_CERT 0 ≤ a ∧ a < Reg.PEG_CERT 256 then certWord s ((a - Reg.PEG_CERT 0) / 4)
  else if a = Reg.PEG_SHDIG then shadowDigest s
  else if a = Reg.PEG_GRTIME then BitVec.ofNat 32 (grantLeft s)
  else w

/-- The value in force of a register's readable fields: fields with access WO read 0 (R7), and on the NGK-9612-NA the GNSS block reads
0 (R3). -/
def State.view (s : State) (a : Nat) : Word :=
  match Reg.row? a with
  | none => 0
  | some r =>
    if s.sys.variant = 1 ∧ 0x070000 ≤ a ∧ a < 0x080000 then 0
    else
      let w := s.rd a &&& ~~~r.wo
      if a < 0x011000 then sysView s a w
      else if a < 0x012000 then txnView s a w
      else if 0x014000 ≤ a ∧ a < 0x020000 then engView s a w
      else if 0x040000 ≤ a ∧ a < 0x050000 then pwmView s a w
      else if 0x070224 ≤ a ∧ a < 0x070234 then s.gnsView.rd a
      else if 0x080000 ≤ a ∧ a < 0x090000 then busView s a w
      else if 0x090000 ≤ a ∧ a < 0x0A0000 then twinView s a w
      else if 0x0A0000 ≤ a ∧ a < 0x0A8000 then fltView s a w
      else if 0x0A8000 ≤ a ∧ a < 0x0B0000 then recView s a w
      else if 0x0B0000 ≤ a then pegView s a w
      else w

/-! ### The host image (R358, R359, R377) -/

/-- The register is of the snapshot class (R358). -/
def isSnap (a : Nat) : Bool :=
  match Reg.row? a with
  | some r => r.snap
  | none => false

/-- Snapshot-class registers whose value is not, or not only, in the register file. -/
def snapComputed : List Nat :=
  [Reg.SYS_FRMNUM_LO, Reg.SYS_FRMNUM_HI, Reg.GNS_RESID, Reg.GNS_UNC, Reg.GNS_AGE] ++ (List.range 192).map Reg.PWM_CHSTAT

/-- The snapshot-class values after step (3) of a boundary (R358, R377). -/
def snapshot (s : State) : SMap Word :=
  snapComputed.foldl (fun m a => Regs.set m a (s.view a)) (s.regs.filter (fun x => isSnap x.1))

/-- Step (3) captures the snapshot-class values, and the flip 100 ns later shows them. -/
def State.capture (s : State) : State := { s with capt := snapshot s }
def State.flipImage (s : State) : State := { s with image := s.capt }

/-- What the host image holds of a register: the last flip's value, or for the live class the value now, unless its refresh failed and the word
has not changed since (R362); on the NGK-9612-NA the GNSS block reads 0 (R3). -/
def State.imageOf (s : State) (a : Nat) : Word :=
  if s.sys.variant = 1 ∧ 0x070000 ≤ a ∧ a < 0x080000 then 0
  else if isSnap a then Regs.get s.image a
  else match s.hp.stuck.find? (fun x => decide (x.1 = a)) with
    | some x => if s.view a = x.2.1 then x.2.2 else s.view a
    | none => s.view a

/-- Live-class registers whose value is not, or not only, in the register file, and changes. -/
def liveComputed : List Nat :=
  ([Reg.SYS_ID, Reg.SYS_MODE, Reg.HP_CFG, Reg.HP_STAT, Reg.HP_SSTAT, Reg.SIL_OPTIME_LO, Reg.SIL_OPTIME_HI, Reg.TXN_STAT, Reg.TXN_WRCNT,
    Reg.TRU_STAT, Reg.JRN_SEQ_LO, Reg.JRN_SEQ_HI, Reg.JRN_OPEN, Reg.JRN_BUF, Reg.FLT_STAT, Reg.REC_RDPOS, Reg.PEG_STAT, Reg.PEG_SHDIG,
    Reg.PEG_GRTIME, Reg.PEG_HC_STAT]
  ++ (List.range 8).flatMap (fun e => [Reg.BE_STAT e, Reg.BE_PC e]) ++ (List.range 24).map (fun u => 0x040000 + 0x40 * u + 0x0C)
  ++ (List.range 4).map Reg.BUS_STAT ++ (List.range 8).map (fun i => 0x0A8040 + 4 * i)).filter (fun a => !isSnap a)

/-- What the image shows of the live-class words now. -/
def liveImage (s : State) : SMap Word :=
  ((s.regs.map (·.1)).filter (fun a => !isSnap a) ++ liveComputed).foldl (fun m a => Regs.set m a (s.imageOf a)) []

end Sys2Proof.Machine
end

