-- ==== Sys2Proof/Machine/EngineMemory.lean ====
section
/-! DEFINITION. Memory and table instructions (R46 to R50, R68 to R71). -/
namespace Sys2Proof.Machine

/-! ### Addresses (R46, R47) -/

/-- The region offset of a memory instruction: base, index shifted left and the sign-extended OFFSET, modulo 2^29. -/
def regionOffset (a b : Word) (shift : Nat) (ofs : BitVec 28) : Nat :=
  ((a.toNat + b.toNat * 2 ^ shift + (ofs.signExtend 29).toNat) % 2 ^ 29)

/-- The access lies inside its region and is aligned; a vector does not reach BLOCK. -/
def accessOk (space o : Nat) (vec : Bool) : Bool :=
  match space with
  | 0 => decide (o < 0x20000) && decide (o % (if vec then 32 else 4) = 0)
  | 1 => decide (o < 0x400000) && decide (o % (if vec then 32 else 4) = 0)
  | 2 => decide (0x10000 ≤ o) && decide (o < 0x100000) && decide (o % 4 = 0) && !vec
  | _ => false

/-- The word of a memory with its tag (R48). -/
def taggedWord (m t : SMap Byte) (ofs : Nat) : TW := (Mem.ld m ofs, SMap.get 0 t ofs)

/-- A word of the engine's DMEM (space 0) or of FMEM. -/
def memWord (s : State) (e space o : Nat) : TW :=
  if space = 0 then taggedWord (s.en e).dmem (s.en e).dmemTag o else taggedWord s.fmem s.fmemTag o

/-- Store a word with its tag. -/
def State.memPut (s : State) (e space o : Nat) (x : TW) : State :=
  if space = 0 then s.updEn e (fun y => { y with dmem := Mem.st y.dmem o x.1, dmemTag := SMap.set 0 y.dmemTag o x.2 })
  else { s with fmem := Mem.st s.fmem o x.1, fmemTag := SMap.set 0 s.fmemTag o x.2 }

/-- A memory access (R47, R59, R88): the tags of base and index are checked, and those of the data it stores, in full where `full` says so; an
access fault abandons the slice with CAUSE 3. A mismatch and an abandon of the same cycle are both recorded (R89). -/
def State.access (s : State) (i : Issue) (f : FmtM) (vec full : Bool) (data : List TW) (k : Nat → State → State) : State :=
  let a := i.g f.a.toNat
  let b := i.g f.b.toNat
  let o := regionOffset a.1 b.1 f.shift.toNat f.offset
  let ok := accessOk f.space.toNat o vec
  match (firstBad true [a, b]).or (firstBad full data) with
  | some x =>
    let t := s.mismatch i x (BitVec.ofNat 32 i.idx)
    if ok then t else t.abandon i.e 3
  | none => if ok then k o s else s.abandon i.e 3

/-- The latency of a load (R68): 2 from DMEM, 4 to 11 from FMEM, up to 64 from BLOCK, one more for a vector; which of the values FMEM and
BLOCK give is free (log entry 2). -/
def loadLatency (s : State) (space : Nat) (vec : Bool) : Nat :=
  b2n vec + (match space with
    | 0 => 2
    | 1 => 4 + s.freeNat % 8
    | _ => 1 + s.freeNat % 64)

/-! ### R68 -/

/-- LD: the tag comes with the word from DMEM and FMEM, where one of 251 to 255 is a mismatch (R59), and is created on a load from BLOCK,
which waits for the engine's earlier BLOCK stores (R50). -/
def execLd (e : Fin 8) (h : Hdr) (f : FmtM) (s : State) : Host.Outcome State Fault Refusal :=
  .next (s.issueWith e 0x60 h f.fields fun i go t =>
    let d := f.d.toNat
    let t1 := (t.readyIn i (loadLatency t f.space.toNat false) (Use.key .gw d)).spend
    if !go then t1
    else t1.access i f false false [] fun o u =>
      if f.space = 2 then
        let n := (u.en e).stores.length
        if n = 0 then u.putG e d (newTW (u.view o))
        else if d = 0 then u
        else u.updEn e (fun y => { y with loads := y.loads.filter (fun l => decide (l.d ≠ d)) ++ [⟨d, o, n, i.cyc⟩] })
      else u.checked i false [memWord u e f.space.toNat o] fun v => v.putG e d (memWord u e f.space.toNat o))

/-- ST: a store to BLOCK checks the tag and is then on its way (R50, R68). -/
def execSt (e : Fin 8) (h : Hdr) (f : FmtM) (s : State) : Host.Outcome State Fault Refusal :=
  .next (s.issue e 0x61 h f.fields fun i t =>
    let d := i.g f.d.toNat
    t.access i f false (decide (f.space = 2)) [d] fun o u =>
      if f.space = 2 then u.updEn e (fun y => { y with stores := y.stores ++ [⟨o, d.1, d.2, i.x.task, none⟩] })
      else u.memPut e f.space.toNat o d)

/-- LDV: eight words with their tags; one of 251 to 255 is a mismatch (R59). -/
def execLdv (e : Fin 8) (h : Hdr) (f : FmtM) (s : State) : Host.Outcome State Fault Refusal :=
  .next (s.issueWith e 0x62 h f.fields fun i go t =>
    let d := f.d.toNat
    let t1 := (t.readyIn i (loadLatency t f.space.toNat true) (Use.key .vw d)).spend
    if !go then t1
    else t1.access i f true false [] fun o u =>
      let w := fun n => memWord u e f.space.toNat (o + 4 * n)
      u.checked i false ((List.range 8).map w) fun v => each 8 (fun n x => x.putLane e d n (w n)) v)

/-- STV: all eight lanes with their tags. -/
def execStv (e : Fin 8) (h : Hdr) (f : FmtM) (s : State) : Host.Outcome State Fault Refusal :=
  .next (s.issue e 0x63 h f.fields fun i t =>
    let d := f.d.toNat
    t.access i f true false (i.v d) fun o u => each 8 (fun n w => w.memPut e f.space.toNat (o + 4 * n) (i.rf.lane d n)) u)

/-! ### Tables (R69 to R71) -/

/-- What reading a table ends in: a word that fails its check, a broken descriptor or an address outside DMEM, or the result. -/
inductive TableRead where
  | bad (x : TW)
  | fault
  | ok (w : Word)
  deriving DecidableEq, Repr

/-- One table word: inside DMEM, and checked as it is read. A table that runs past the end of DMEM faults only when a word outside it is read
(DESIGN CHOICE, log entry 63: R70 does not say when the fault is found). -/
def tableWord (s : State) (e a : Nat) (k : Word → TableRead) : TableRead :=
  if 0x20000 ≤ a ∨ a % 4 ≠ 0 then .fault
  else
    let x := memWord s e 0 a
    if rangeBad x || valueBad x then .bad x else k x.1

/-- LUT: entry k, with k = a taken as signed and clamped to 0 to n − 1. -/
def lutRead (s : State) (e a : Nat) (x : Word) : TableRead :=
  tableWord s e a fun w0 =>
    let n := fld w0 0 9
    if n = 0 ∨ 256 < n ∨ 2 ^ 9 ≤ w0.toNat then .fault
    else tableWord s e (a + 4 + 4 * (clampI 0 (n - 1) x.toInt).toNat) .ok

/-- LUTI: interpolation between the entries on both sides of x (R71). The difference x − x0 is exact, without a wrap at 32 bits (DESIGN CHOICE,
log entry 64: R71 gives it no width). -/
def lutiRead (s : State) (e a : Nat) (x : Word) : TableRead :=
  tableWord s e a fun w0 =>
    let n := fld w0 0 9
    let sh := fld w0 16 5
    if n < 2 ∨ 257 < n ∨ 24 < sh ∨ put (put w0 0 9 0) 16 5 0 ≠ 0 then .fault
    else tableWord s e (a + 4) fun x0 =>
      let y := fun k => a + 8 + 4 * k
      let dx := x.toInt - x0.toInt
      if dx ≤ 0 then tableWord s e (y 0) .ok
      else
        let k := dx.toNat / 2 ^ sh
        let fr : Int := (dx.toNat % 2 ^ sh : Nat)
        if n - 1 ≤ k then tableWord s e (y (n - 1)) .ok
        else tableWord s e (y k) fun y0 => tableWord s e (y (k + 1)) fun y1 =>
          .ok (wrap (y0.toInt + (y1.toInt - y0.toInt) * fr / 2 ^ sh))

/-- A table instruction, under rule Z: an operand or a table word that fails its check suppresses it, and a broken table abandons the slice,
after a mismatch of the operand too (R61, R69, R70, R89). -/
def State.table (s : State) (e opc : Nat) (h : Hdr) (f : FmtI) (read : State → Nat → Nat → Word → TableRead) : State :=
  s.issue e opc h f.fields fun i t =>
    let x := i.g f.a.toNat
    match firstBad true [x], read t e f.imm.toNat x.1 with
    | some b, .fault => (t.mismatch i b (BitVec.ofNat 32 i.idx)).abandon e 3
    | some b, _ => t.mismatch i b (BitVec.ofNat 32 i.idx)
    | none, .bad b => t.mismatch i b (BitVec.ofNat 32 i.idx)
    | none, .fault => t.abandon e 3
    | none, .ok w => t.dual i [x] w fun u => u.putG e f.d.toNat (newTW w)

def execLut (e : Fin 8) (h : Hdr) (f : FmtI) (s : State) : Host.Outcome State Fault Refusal := .next (s.table e 0x70 h f lutRead)
def execLuti (e : Fin 8) (h : Hdr) (f : FmtI) (s : State) : Host.Outcome State Fault Refusal := .next (s.table e 0x71 h f lutiRead)

end Sys2Proof.Machine
end

