-- ==== Sys2Proof/Machine/Bus.lean ====
section
/-! DEFINITION. The message bus controllers (R320 to R349). Arbitration order and the error counters follow ISO 11898-1, which the
spec names and does not restate (PRESUMED, log entry 16). -/
namespace Sys2Proof.Machine

def State.bctl (s : State) (n : Nat) : BusCtl := SMap.get BusCtl.reset s.bus.ctl n
def State.setBctl (s : State) (n : Nat) (x : BusCtl) : State :=
  { s with bus := { s.bus with ctl := SMap.set BusCtl.reset s.bus.ctl n x } }

/-- Update a controller. -/
def State.onBctl (s : State) (n : Nat) (f : BusCtl → BusCtl) : State := s.setBctl n (f (s.bctl n))

/-- A transmit entry, and writing it. -/
def State.txEnt (s : State) (n k : Nat) : TxEnt := SMap.get TxEnt.reset (s.bctl n).tx k
def State.setTx (s : State) (n k : Nat) (e : TxEnt) : State := s.onBctl n (fun c => { c with tx := SMap.set TxEnt.reset c.tx k e })

/-- BUS_TXST.STATE of an entry. -/
def State.txState (s : State) (n k v : Nat) : State := s.setFld (Reg.BUS_TXST n k) 0 3 v

/-- The controllers run in every mode but SILL, BOOT and FREEZE (R348); a controller runs when enabled and neither bus-off nor
offline. -/
def busMode (s : State) : Bool := s.clocked && s.sys.mode ≠ .boot && s.flag Reg.CLK_STAT 6
def busRuns (s : State) (n : Nat) : Bool :=
  busMode s && s.flag (Reg.BUS_CFG n) 0 && decide (s.rf (Reg.BUS_STAT n) 0 2 < 2)

/-- What a controller's registers were when a frame began `ago` ns ago: what a commit has changed since does not apply to it (R326, R346); nor
does entry to SILL to one that was in progress as it began (R470). -/
def State.busWas (s : State) (n ago : Nat) : State :=
  { s with
    regs := s.bus.past.foldl (fun r x => if s.now < x.1 + ago ∧ x.2.1 / 0x4000 = 0x20 + n then Regs.set r x.2.1 x.2.2 else r) s.regs
    sys := if s.entersSill && (s.bctl n).closing then { s.sys with mode := .idle } else s.sys }

/-- Entry to SILL begins: a frame in progress ends first (R470). -/
def State.busLast (s : State) : State := each 4 (fun n t => t.onBctl n (fun c => { c with closing := c.inFrame })) s

/-- A commit changes a register of a controller: frames in progress keep to the value before; what is older than 1 s is no frame's (log
entry 83). -/
def State.busPast (s : State) (a : Nat) (old : Word) : State :=
  { s with bus := { s.bus with past := (s.now, a, old) :: s.bus.past.filter (fun x => decide (s.now ≤ x.1 + 1000000000)) } }

/-! ### The message area (R324) -/

/-- FMEM offset of the area, of a transmit entry, and of an entry of a queue. -/
def busArea (s : State) (n : Nat) : Nat := (s.rd (Reg.BUS_MBASE n)).toNat - 0x20000000
def txEntryAt (s : State) (n k : Nat) : Nat := busArea s n + 80 * k
def queueEntryAt (s : State) (n q i : Nat) : Nat :=
  busArea s n + 80 * (s.rf (Reg.BUS_TXNUM n) 0 7 + ((List.range q).map (fun j => s.rf (Reg.BUS_QCFG n j) 0 10)).sum + i)

/-! ### Error confinement (R338) -/

def busTec (s : State) (n : Nat) : Nat := s.rf (Reg.BUS_ERR n) 0 8
def busRec (s : State) (n : Nat) : Nat := s.rf (Reg.BUS_ERR n) 8 8

/-- An entry on the bus returns to pending; a cancel held before the arbitration was won takes effect instead, and one after it is refused
(R334). -/
def State.txReturn (s : State) (n k : Nat) (won : Bool) : State :=
  let e := s.txEnt n k
  if e.cancel ∧ ¬ won then (s.setTx n k TxEnt.reset).txState n k 4
  else
    let s1 := (s.setTx n k { e with stage := .pending, won := false, cancel := false }).txState n k 1
    if e.cancel then s1.setFlag (Reg.BUS_TXST n k) 6 true else s1

/-- New error counters: error-passive at 128 in either, bus-off above 255 in the transmit counter (R338). -/
def State.busCounters (s : State) (n tec rec_ : Nat) : State :=
  let det := BitVec.ofNat 32 (min 255 tec + min 255 rec_ * 256)
  let s1 := (s.setFld (Reg.BUS_ERR n) 0 8 (min 255 tec)).setFld (Reg.BUS_ERR n) 8 8 (min 255 rec_)
  let old := s.rf (Reg.BUS_STAT n) 0 2
  if 255 < tec then
    let s2 := (((s1.setFld (Reg.BUS_STAT n) 0 2 2).setFlag (Reg.BUS_STAT n) 5 true).setFlag (Reg.BUS_STAT n) 3
      (s1.flag (Reg.BUS_CFG n) 5)).onBctl n (fun c => { c with off := true })
    s2.raise (276 + n) det
  else if 2 ≤ old then s1
  else if 128 ≤ tec ∨ 128 ≤ rec_ then
    if old = 1 then s1
    else ((s1.setFld (Reg.BUS_STAT n) 0 2 1).setFlag (Reg.BUS_STAT n) 4 true).raise (272 + n) det
  else s1.setFld (Reg.BUS_STAT n) 0 2 0

/-! ### Requests and cancels (R331 to R334, R340) -/

/-- LEN is allowed for the frame format (R331). -/
def lenOk (fdf : Bool) (len : Nat) : Bool :=
  decide (len ≤ 8) || (fdf && (len = 12 || len = 16 || len = 20 || len = 24 || len = 32 || len = 48 || len = 64))

/-- The header refuses the request with BADHDR (R331, R340, R343). -/
def badHeader (s : State) (n : Nat) (w0 w1 : Word) : Bool :=
  let fdf := bit w0 31
  let len := fld w1 0 8
  s.flag (Reg.BUS_CFG n) 4 || !lenOk fdf len || (fdf && !s.flag (Reg.BUS_CFG n) 1) || (fdf && bit w0 30)
    || (bit w1 9 && (!fdf || decide (len < 12)))

/-- The first of `k` FMEM words from an offset whose Dowel tag fails. -/
def badTag (s : State) (a : Nat) : Nat → Option Nat
  | 0 => none
  | k + 1 =>
    match badTag s a k with
    | some x => some x
    | none => if SMap.get 0 s.fmemTag (a + 4 * k) = tagOf (Mem.ld s.fmem (a + 4 * k)) then none else some (a + 4 * k)

/-- The frame an instant's low twelve bits name: the nearest within ±2,048 frames of the present one (R332). -/
def nearFrame (s : State) (low : Nat) : Int :=
  let d := (low + 4096 - s.frame.toNat % 4096) % 4096
  if d < 2048 then d else (d : Int) - 4096

/-- ns from the present instant to an instant in the format of bytes 4 to 7 of R170. -/
def untilStamp (s : State) (w : Word) : Int := nearFrame s (fld w 20 12) * s.period + ((fld w 0 20 : Int) - s.edge)

/-- A request for one entry (R332, R333). The header check comes before the Dowel check (DESIGN CHOICE, log entry 94). -/
def State.txRequest (s : State) (n k : Nat) : State :=
  let e := s.txEnt n k
  if e.stage ≠ .none ∨ s.rf (Reg.BUS_TXNUM n) 0 7 ≤ k ∨ ¬ busMode s ∨ ¬ s.flag (Reg.BUS_CFG n) 0 then s
  else
    let a := txEntryAt s n k
    let ws := Mem.words s.fmem a 4
    let w0 := ws.getD 0 0
    let w1 := ws.getD 1 0
    let clear := s.setFld (Reg.BUS_TXST n k) 3 3 0
    if badHeader s n w0 w1 then (clear.setFlag (Reg.BUS_TXST n k) 3 true).txState n k 6
    else match badTag s a 20 with
      | some x =>
        ((clear.setFlag (Reg.BUS_TXST n k) 4 true).txState n k 6).raiseDowel 43 (BitVec.ofNat 32 (n * 2 ^ 30 + x))
          (Mem.ld s.fmem x) (SMap.get 0 s.fmemTag x) (BitVec.ofNat 32 (0x20000000 + x))
      | none =>
        let c := clear.bctl n
        let wait := bit w1 12 && decide (0 < untilStamp s (ws.getD 2 0))
        let e' : TxEnt := { TxEnt.reset with stage := if wait then .timed else .pending, hdr := ws, order := c.nextOrder,
                                             data := Mem.bytes s.fmem (a + 16) (fld w1 0 8), since := s.now }
        let s1 := ((clear.setTx n k e').onBctl n (fun c => { c with nextOrder := c.nextOrder + 1 })).txState n k 1
        if bit w1 12 ∧ ¬ wait ∧ untilStamp s (ws.getD 2 0) < 0 then s1.setFlag (Reg.BUS_TXST n k) 7 true else s1

/-- A cancel of one entry on its arrival (R334). -/
def State.txCancel (s : State) (n k : Nat) : State :=
  let e := s.txEnt n k
  match e.stage with
  | .timed | .pending => (s.setTx n k TxEnt.reset).txState n k 4
  | .onBus => if e.won then s.setFlag (Reg.BUS_TXST n k) 6 true else s.setTx n k { e with cancel := true }
  | .none => s

/-! ### What is offered on the bus (R332, R337, R340, R341) -/

/-- The arbitration field as a number: the lower one wins (ISO 11898-1, log entry 16). -/
def arbKey (w0 : Word) : Nat :=
  if bit w0 29 then fld w0 18 11 * 2 ^ 21 + 2 ^ 20 + 2 ^ 19 + fld w0 0 18 * 2 + b2n (bit w0 30)
  else fld w0 0 11 * 2 ^ 21 + b2n (bit w0 30) * 2 ^ 20

/-- The header word of the reference message (R341). -/
def refHeader (s : State) (n : Nat) : Word := s.rd (Reg.BUS_REF n) &&& 0x3FFFFFFF#32

/-- The controller transmits at all: not listen-only, not killed (R340, R390). -/
def busTalks (s : State) (n : Nat) : Bool := busRuns s n && !s.flag (Reg.BUS_CFG n) 4 && !s.flag Reg.TRU_STAT 9

/-- The controller sends its own data frames: in a pair only the lead does with PAIRED = 1 (R337). -/
def busSends (s : State) (n : Nat) : Bool := busTalks s n && !(s.flag (Reg.BUS_CFG n) 7 && s.follower)

/-- The controller's reference message contends for the bus: a time master's and a potential one's (R341, R342). -/
def busMaster (s : State) (n : Nat) : Bool := decide (s.rf (Reg.BUS_REF n) 30 2 = 1) || decide (s.rf (Reg.BUS_REF n) 30 2 = 2)

/-- What the controller offers at an arbitration: an entry, or its reference message. -/
inductive Offer where
  | entry (k : Nat) | reference
  deriving DecidableEq, Repr

/-- The better of two entries: the lower arbitration key, then the earlier request (R332). -/
def betterTx (a b : Nat × TxEnt) : Nat × TxEnt :=
  let ka := arbKey (a.2.hdr.headD 0)
  let kb := arbKey (b.2.hdr.headD 0)
  if kb < ka ∨ (kb = ka ∧ b.2.order < a.2.order) then b else a

/-- The entry on the bus, else the winner among the entries pending at the start of arbitration, `ago` ns ago; a reference
message that was requested by then is offered when it would win (R332, R341). -/
def busOffer (s : State) (n ago : Nat) : Option Offer :=
  let c := s.bctl n
  match c.tx.find? (fun x => decide (x.2.stage = .onBus)) with
  | some x => some (.entry x.1)
  | none =>
    let ready := if busSends s n then c.tx.filter (fun x => decide (x.2.stage = .pending) && decide (x.2.since + ago ≤ s.now)) else []
    let best := match ready with | [] => none | x :: xs => some (xs.foldl betterTx x)
    let ref := busTalks s n && busMaster s n && c.refReq && decide (c.refSince + ago ≤ s.now)
    match best, ref with
    | some b, true => if arbKey (refHeader s n) ≤ arbKey (b.2.hdr.headD 0) then some .reference else some (.entry b.1)
    | some b, false => some (.entry b.1)
    | none, true => some .reference
    | none, false => none

/-- An authenticated entry takes the next freshness value of its slot, whose counter in MRAM advances (R344). -/
def State.takeFresh (s : State) (n k : Nat) : State :=
  let e := s.txEnt n k
  let slot := fld (e.hdr.getD 1 0) 16 6
  let v := (SMap.get 0 s.bus.txFresh slot + 1) % 2 ^ 64
  ({ s with bus := { s.bus with txFresh := SMap.set 0 s.bus.txFresh slot v } }).setTx n k { e with fresh := some v }

/-- The entry that a controller would offer next has its freshness value before its start of frame: it takes one when it has none, or when
another entry took a later one before its first attempt (R344). -/
def State.freshen (s : State) (n : Nat) : State :=
  match busOffer s n 0 with
  | some (.entry k) =>
    let e := s.txEnt n k
    if bit (e.hdr.getD 1 0) 9 ∧ ¬ e.begun ∧ (e.fresh.isNone ∨ e.fresh ≠ some (SMap.get 0 s.bus.txFresh (fld (e.hdr.getD 1 0) 16 6))) then
      s.takeFresh n k
    else s
  | _ => s

/-- An attempt of an entry has begun: its freshness value stays through every retransmission (R344). -/
def State.txAttempt (s : State) (n k : Nat) : State :=
  let s1 := if bit ((s.txEnt n k).hdr.getD 1 0) 9 ∧ (s.txEnt n k).fresh.isNone then s.takeFresh n k else s
  s1.setTx n k { s1.txEnt n k with begun := true }

/-- A write to BUS_TXREQ: entries in ascending order from `first` (R332). -/
def State.txRequests (s : State) (n first : Nat) (mask : Word) : State :=
  (each 32 (fun i t => if bit mask i then t.txRequest n (first + i) else t) s).freshen n

def State.txCancels (s : State) (n first : Nat) (mask : Word) : State :=
  (each 32 (fun i t => if bit mask i then t.txCancel n (first + i) else t) s).freshen n

/-- TXAT_REACHED: a timed entry becomes pending at its instant, and not before (R332). -/
def execTxatReached (t : Nat) (n : Fin 4) (k : Fin 64) (s : State) : Host.Outcome State Fault Refusal :=
  .next (let e := s.txEnt n k
    let s0 := s.at t
    let d := untilStamp s0 (e.hdr.getD 2 0)
    if e.stage = .timed ∧ busMode s ∧ d ≤ 0 then (s0.setTx n k { e with stage := .pending, since := s0.now - d.natAbs }).freshen n else s)

/-- At an arbitration the offered entry stands on the bus, in transmission (R332, R334). -/
def State.txOnBus (s : State) (n ago : Nat) (ph : BusPhase) : State :=
  if ph = .idle ∨ ph = .other then s
  else match busOffer (s.busWas n ago) n ago with
    | some (.entry k) =>
      let s1 := s.txAttempt n k
      (s1.setTx n k { s1.txEnt n k with stage := .onBus, won := decide (ph = .won) }).txState n k 2
    | _ => s

/-- The completion mark of an entry with JRNL = 1 enters the Sill-domain buffer at the ACK delimiter (R336, R400). -/
def State.txMark (s : State) (n k : Nat) : State :=
  let e := s.txEnt n k
  if bit (e.hdr.getD 1 0) 11 then
    let m : JMark := ⟨n, k, e.hdr.getD 3 0, e.marked, s.frame.toNat⟩
    ({ s with jrn := { s.jrn with marks := s.jrn.marks ++ [m] } }).setTx n k { e with marked := true }
  else s

/-! ### The frames sent (R331, R341, R343) -/

/-- The first word of a frame's header (R328). -/
def CanFrame.word0 (f : CanFrame) : Word :=
  BitVec.ofNat 32 (b2n f.fdf * 2 ^ 31 + b2n f.rtr * 2 ^ 30 + b2n f.ide * 2 ^ 29 + f.id.toNat)

/-- Eight bytes of a 64-bit value, lowest first. -/
def bytes8 (v : Nat) : List Byte := bytesOf (BitVec.ofNat 32 v) ++ bytesOf (BitVec.ofNat 32 (v / 2 ^ 32))

/-- The tag of an authenticated frame: the first 32 bits of AES-128-CMAC over word 0, LEN, the data before the freshness value, and the whole
freshness value (R343). -/
def authTag (s : State) (slot : Nat) (f : CanFrame) (fresh : Nat) : Word :=
  beWord (cmac (SMap.get [] s.bus.keys slot) (bytesOf f.word0 ++ [BitVec.ofNat 8 f.len] ++ f.data.take (f.len - 8) ++ bytes8 fresh))

/-- The frame that an entry sends: its header and data, and in an authenticated one the low half of its freshness value and the tag as the last
eight bytes (R331, R343). -/
def txFrame (s : State) (n k : Nat) : CanFrame :=
  let e := s.txEnt n k
  let w0 := e.hdr.getD 0 0
  let w1 := e.hdr.getD 1 0
  let f : CanFrame := { fdf := bit w0 31, rtr := bit w0 30, ide := bit w0 29, id := w0.extractLsb' 0 29, len := fld w1 0 8,
                        brs := bit w0 31 && bit w1 8, esi := bit w0 31 && decide (s.rf (Reg.BUS_STAT n) 0 2 = 1),
                        data := if bit w0 30 then [] else e.data }
  if bit w1 9 then
    let v := e.fresh.getD 0
    { f with data := e.data.take (f.len - 8) ++ bytesOf (BitVec.ofNat 32 v) ++ bytesOf (authTag s (fld w1 16 6) f v) }
  else f

/-- The reference message whose start of frame was `ago` ns ago (R341). -/
def refFrame (s : State) (n ago : Nat) : CanFrame :=
  let w := s.rd (Reg.BUS_REF n)
  let i := s.ago ago
  { fdf := false, rtr := false, ide := bit w 29, id := w.extractLsb' 0 29, len := 8, brs := false, esi := false,
    data := [BitVec.ofNat 8 ((s.bctl n).refCount % 64)] ++ bytesOf i.stamp ++ (bytesOf (BitVec.ofNat 32 (i.frame / 4096))).take 3 }

/-- A request for the reference message; one that an earlier request still waits for, or whose frame runs, is held beside it (R341; DEDUCED, log
entry 103). -/
def BusCtl.askRef (c : BusCtl) (now : Nat) : BusCtl :=
  if c.refReq then { c with refAgain := c.refAgain.or (some now) } else { c with refReq := true, refSince := now }

/-- The request has been served by the frame whose arbitration began at an instant: one that came after it stays (R341). -/
def BusCtl.refServed (c : BusCtl) (began : Nat) : BusCtl :=
  match c.refAgain with
  | some t => if began < t then { c with refSince := t, refAgain := none } else { c with refReq := false, refAgain := none }
  | none => { c with refReq := false }

/-- The device's own reference message went out, under the BUS_REF of its start of frame, `was`: cycle count, instant, MASTER of a time master
(R326, R341, R342). -/
def State.refSent (s : State) (was : State) (n ago : Nat) : State :=
  let c := s.bctl n
  let master := decide (was.rf (Reg.BUS_REF n) 30 2 = 1) || s.flag (Reg.BUS_REFST n) 7
  ((s.onBctl n (fun c => { c.refServed (s.now - ago) with refCount := (c.refCount + 1) % 64, sent := some (refFrame was n ago) })).wr
    (Reg.BUS_REFST n) (BitVec.ofNat 32 (b2n master * 128 + 64 + c.refCount % 64))).wr (Reg.BUS_REFSTAMP n) (s.ago ago).stamp

/-- A frame has ended: a controller that a commit disabled meanwhile, or that enters SILL, goes offline (R346, R470), else the next entry is made
ready. -/
def State.txEnded (s : State) (n : Nat) : State :=
  if (s.bctl n).closing then (s.setFld (Reg.BUS_STAT n) 0 2 3).onBctl n (fun c => { c with closing := false, inFrame := false }) else s.freshen n

/-- TRANSMISSION_COMPLETE: the offered frame is valid to the end of end of frame; its arbitration began `ago` ns before. A cancel held since is
refused (R334 to R336). -/
def execTransmissionComplete (t : Nat) (n : Fin 4) (ago : Nat) (s : State) : Host.Outcome State Fault Refusal :=
  .next (
    let s0 := s.at t
    let was := s0.busWas n ago
    if !busTalks was n then s
    else
      let better (u : State) : State := (u.busCounters n (busTec u n - 1) (busRec u n)).txEnded n
      match busOffer was n ago with
      | some (.entry k) =>
        let s1 := (s0.txAttempt n k).txMark n k
        let s2 := if (s1.txEnt n k).cancel then s1.setFlag (Reg.BUS_TXST n k) 6 true else s1
        let s3 := (((s2.onBctl n (fun c => { c with sent := some (txFrame s1 n k) })).setTx n k TxEnt.reset).txState n k 3).count
          (Reg.BUS_CNT n) 0 16 1
        better s3
      | some .reference => better ((s0.refSent was n ago).count (Reg.BUS_CNT n) 0 16 1)
      | none => s)

/-- TRANSMISSION_ERROR: an attempt failed at a place of its frame (R334, R336). `lec` is the error's code, `dom` says that an acknowledgement
error's passive flag saw a dominant bit (R339), and `arb` that ISO 11898-1 leaves the counter alone for a stuff error in arbitration. -/
def execTransmissionError (t : Nat) (n : Fin 4) (ago : Nat) (lec : Fin 8) (dom arb : Bool) (place : TxPlace) (s : State) :
    Host.Outcome State Fault Refusal :=
  .next (
    let s0 := s.at t
    let was := s0.busWas n ago
    if !busTalks was n then s
    else match busOffer was n ago with
      | none => s
      | some o =>
        let passive := decide (s0.rf (Reg.BUS_STAT n) 0 2 = 1)
        let same := (decide (lec.val = 3) && passive && !dom) || arb
        let s1 := match o with
          | .reference => s0
          | .entry k =>
            let u := s0.txAttempt n k
            let u := if place = TxPlace.afterAck then u.txMark n k else u
            let e := u.txEnt n k
            let late := decide (place ≠ TxPlace.arbitration) || e.won
            if (bit (e.hdr.getD 1 0) 10 || was.flag (Reg.BUS_CFG n) 6) && (late || !e.cancel) then
              let u1 := ((u.setTx n k TxEnt.reset).txState n k 5).setFlag (Reg.BUS_TXST n k) 5 (decide (lec.val = 3))
              if e.cancel then u1.setFlag (Reg.BUS_TXST n k) 6 true else u1
            else u.txReturn n k late
        let s2 := s1.setFld (Reg.BUS_ERR n) 16 3 lec.val
        (if same then s2 else s2.busCounters n (busTec s2 n + 8) (busRec s2 n)).txEnded n)

/-- The identifier belongs to the reference messages of a controller (R342). -/
def isRefId (s : State) (n : Nat) (ide : Bool) (id : Nat) : Bool :=
  let w := s.rd (Reg.BUS_REF n)
  decide (fld w 30 2 ≠ 0) && (bit w 29 == ide) && decide (fld w 0 29 / 8 = id / 8)

/-- ARBITRATION_LOST to a frame with the given identifier: the entry returns to pending or its held cancel takes effect; a
potential master withdraws its reference request when a reference message won (R334, R342). -/
def execArbitrationLost (t : Nat) (n : Fin 4) (ago : Nat) (ide : Bool) (id : BitVec 29) (s : State) :
    Host.Outcome State Fault Refusal :=
  .next (
    let s0 := s.at t
    let was := s0.busWas n ago
    if !busTalks was n then s
    else match busOffer was n ago with
      | some (.entry k) => ((s0.txAttempt n k).txReturn n k false).freshen n
      | some .reference =>
        if was.rf (Reg.BUS_REF n) 30 2 = 2 ∧ isRefId was n ide id.toNat then
          ((s0.onBctl n (fun c => c.refServed (s0.now - ago))).setFlag (Reg.BUS_REFST n) 7 false).freshen n
        else s0
      | none => s)

/-- RECEIVE_ERROR: a bus error while receiving advances the receive counter by 1, or by 8 where ISO 11898-1 has it so (R338). -/
def execReceiveError (t : Nat) (n : Fin 4) (lec : Fin 8) (eight : Bool) (s : State) : Host.Outcome State Fault Refusal :=
  .next (if !busRuns s n && !(busMode s && (s.bctl n).closing) then s
    else
      let s1 := (s.at t).setFld (Reg.BUS_ERR n) 16 3 lec.val
      (s1.busCounters n (busTec s1 n) (busRec s1 n + (if eight then 8 else 1))).txEnded n)

/-- BUS_OFF_RECOVERY: 128 occurrences of 11 recessive bits have been seen (R338). -/
def execBusOffRecovery (n : Fin 4) (s : State) : Host.Outcome State Fault Refusal :=
  .next (if busMode s && decide (s.rf (Reg.BUS_STAT n) 0 2 = 2) && s.flag (Reg.BUS_STAT n) 3 then
      ((((s.setFld (Reg.BUS_ERR n) 0 16 0).setFld (Reg.BUS_STAT n) 0 2 0).setFlag (Reg.BUS_STAT n) 3 false).onBctl n
        (fun c => { c with off := false })).freshen n
    else s)

/-- A write of 1 to BUS_CMD.RESTART starts bus-off recovery (R338). -/
def State.busRestart (s : State) (n : Nat) (v : Word) : State :=
  if bit v 0 ∧ s.rf (Reg.BUS_STAT n) 0 2 = 2 then s.setFlag (Reg.BUS_STAT n) 3 true else s

/-- DOMINANT_TIMEOUT: a transmitter held dominant for 4 ms is released (R321). -/
def execDominantTimeout (t : Nat) (n : Fin 4) (s : State) : Host.Outcome State Fault Refusal :=
  .next (if busMode s && s.flag (Reg.BUS_CFG n) 0 then ((s.at t).setFlag (Reg.BUS_STAT n) 12 true).raise (264 + n) 0 else s)

/-! ### Reference messages (R341, R342) -/

/-- REFERENCE_MESSAGE: REFOFS of a reference frame; a master and a potential master request their message, and a cycle that saw none ends. -/
def execReferenceMessage (n : Fin 4) (s : State) : Host.Outcome State Fault Refusal :=
  .next (
    let cyc := s.rf (Reg.BUS_REFT n) 20 12
    if busRuns s n && decide (s.rf (Reg.BUS_REF n) 30 2 ≠ 0) && decide (0 < cyc) && decide (s.frame.toNat % cyc = 0) then
      let s0 := s.at (s.rf (Reg.BUS_REFT n) 0 20)
      s0.onBctl n (fun c => { c.askRef s0.now with refSeen := some false, missed := if c.refSeen = some false then min 3 (c.missed + 1) else 0 })
    else s)

/-- REFERENCE_MISSING: a potential master that saw no reference for 2 consecutive cycles transmits its own. -/
def execReferenceMissing (n : Fin 4) (s : State) : Host.Outcome State Fault Refusal :=
  .next (if busRuns s n && decide (s.rf (Reg.BUS_REF n) 30 2 = 2) && decide (2 ≤ (s.bctl n).missed) then
      (s.setFlag (Reg.BUS_REFST n) 7 true).onBctl n (fun c => if c.refReq then c else c.askRef s.now)
    else s)

/-! ### Receiving (R327 to R330, R337, R343, R344) -/

/-- An enabled filter entry matches a frame (R327). -/
def filterHits (s : State) (n j : Nat) (f : CanFrame) : Bool :=
  let w := s.rd (Reg.FLT_CTL n j)
  let id1 := s.rf (Reg.FLT_ID1 n j) 0 29
  let id2 := s.rf (Reg.FLT_ID2 n j) 0 29
  let id := f.id.toNat
  bit w 31 && (bit w 28 == f.ide) &&
    (match fld w 29 2 with
     | 0 => decide (id1 ≤ id) && decide (id ≤ id2)
     | 1 => decide (id = id1) || decide (id = id2)
     | _ => decide ((id ^^^ id1) &&& id2 = 0))

/-- The first filter that matches (R327). -/
def firstFilter (s : State) (n : Nat) (f : CanFrame) : Option Nat := (List.range 256).find? (fun j => filterHits s n j f)

/-- The candidate counter of a received freshness value (R344). -/
def freshCandidate (stored low : Nat) : Nat :=
  stored / 2 ^ 32 * 2 ^ 32 + low + (if low < stored % 2 ^ 32 then 2 ^ 32 else 0)

/-- The check of R344 for a slot, against the acceptance window: the candidate when the frame authenticates. -/
def authCheck (s : State) (window slot : Nat) (f : CanFrame) : Option Nat :=
  let key := SMap.get [] s.bus.keys slot
  let tail := f.data.drop (f.len - 8)
  let low := ((wordsOf (tail.take 4)).headD 0).toNat
  let tag := (wordsOf ((tail.drop 4).take 4)).headD 0
  let stored := SMap.get 0 s.bus.rxFresh slot
  let cand := freshCandidate stored low
  let ok := f.fdf && decide (12 ≤ f.len) && !key.isEmpty && decide (stored < cand)
    && decide (cand - stored ≤ window) && decide (authTag s slot f cand = tag)
  if ok then some cand else none

/-- A frame enters its queue and an input record, or is discarded at a full queue (R328 to R330). -/
def State.storeFrame (s : State) (n q : Nat) (f : CanFrame) (auth dflt : Bool) (filt ago : Nat) : State :=
  let c := s.bctl n
  let len := s.rf (Reg.BUS_QCFG n q) 0 10
  if len ≤ SMap.get 0 c.owned q then
    let s1 := (s.setFlag (Reg.BUS_STAT n) (6 + q) true).count (Reg.BUS_CNT n) 16 8 1
    if SMap.get false c.ovf q then s1
    else (s1.onBctl n (fun c => { c with ovf := SMap.set false c.ovf q true })).raise (268 + n) (BitVec.ofNat 32 q)
  else
    let wr := s.rf (Reg.BUS_QST n q) 16 10
    let seq := (SMap.get 0 c.stored q + 1) % 65536
    let stamp := (s.ago ago).stamp
    let w1 := BitVec.ofNat 32 (f.len % 256 + b2n f.brs * 256 + b2n f.esi * 512 + b2n auth * 1024 + b2n dflt * 2048
      + (if dflt then 0 else filt % 256) * 65536)
    let data := (f.data ++ List.replicate 64 0).take 64
    let ws := [f.word0, w1, stamp, BitVec.ofNat 32 seq] ++ wordsOf data
    let s1 := (s.fmemPut (queueEntryAt s n q wr) ws).setFld (Reg.BUS_QST n q) 16 10 ((wr + 1) % len)
    s1.onBctl n (fun c => { c with owned := SMap.set 0 c.owned q (SMap.get 0 c.owned q + 1), stored := SMap.set 0 c.stored q seq,
                                   ovf := SMap.set false c.ovf q false,
                                   rx := c.rx ++ [(s.closed, ⟨.can, n :: q :: ws.map (·.toNat)⟩)] })

/-- A pending entry of a follower is equal to a received frame in identifier, format, LEN and data bytes, but for authenticated bytes; a remote
frame has no data bytes (R337). -/
def sameFrame (e : TxEnt) (f : CanFrame) : Bool :=
  let w1 := e.hdr.getD 1 0
  let cut := if f.rtr then 0 else if bit w1 9 then f.len - 8 else f.len
  (decide (e.stage = .pending) || decide (e.stage = .onBus)) && decide (e.hdr.getD 0 0 = f.word0)
    && decide (fld w1 0 8 = f.len) && decide (e.data.take cut = f.data.take cut)

/-- The follower treats each pending entry equal to the frame as done: mark, and the observed freshness value (R337). -/
def State.followFrame (s : State) (n : Nat) (f : CanFrame) : State :=
  eachOf ((s.bctl n).tx.filter (fun x => sameFrame x.2 f)) (fun y t =>
    let w1 := y.2.hdr.getD 1 0
    let t1 := t.txMark n y.1
    let t2 := if bit w1 9 then
        let slot := fld w1 16 6
        let low := ((wordsOf ((f.data.drop (f.len - 8)).take 4)).headD 0).toNat
        let v := freshCandidate (SMap.get 0 t1.bus.txFresh slot) low
        { t1 with bus := { t1.bus with txFresh := SMap.set 0 t1.bus.txFresh slot v } }
      else t1
    (t2.setTx n y.1 TxEnt.reset).txState n y.1 3) s

/-- A received frame is a reference message: its identifier is one, and it is a classical data frame with 8 bytes (R341, R342; DEDUCED, log
entry 103). -/
def isReference (s : State) (n : Nat) (f : CanFrame) : Bool := isRefId s n f.ide f.id.toNat && !f.fdf && !f.rtr && decide (f.len = 8)

/-- A received reference message: cycle count and instant; another master's message ends the turn of a controller that is no time master
(R342). -/
def State.refReceived (s : State) (n : Nat) (f : CanFrame) (first : Bool) (ago : Nat) : State :=
  let s1 := (s.wr (Reg.BUS_REFST n) (BitVec.ofNat 32 (b2n (first && s.flag (Reg.BUS_REFST n) 7) * 128 + 64 + (f.data.headD 0).toNat % 64))).wr
    (Reg.BUS_REFSTAMP n) (s.ago ago).stamp
  s1.onBctl n (fun c => { c with missed := 0, refSeen := some true, refReq := c.refReq && first,
                                   refAgain := if first then c.refAgain else none })

/-- FRAME_RECEIVED: a frame is valid for a receiver; its start of frame was `ago` ns before, and the filters, BUS_REF and BUS_AUTH of that
instant decide its fate (R326 to R330, R337, R342, R344). -/
def execFrameReceived (t : Nat) (n : Fin 4) (f : CanFrame) (ago : Nat) (s : State) : Host.Outcome State Fault Refusal :=
  .next (let s0 := s.at t
    let was := s0.busWas n ago
    if !busRuns was n then s
    else
      let r := busRec s0 n
      let s1 := if r ≤ 127 then s0.busCounters n (busTec s0 n) (r - 1)
        else (s0.spend).busCounters n (busTec s0 n) (119 + s0.freeNat % 9)
      let s2 := if isReference was n f then s1.refReceived n f (decide (was.rf (Reg.BUS_REF n) 30 2 = 1)) ago else s1
      let s3 := (if s2.flag (Reg.BUS_CFG n) 7 && s2.follower then s2.followFrame n f else s2).txEnded n
      let hit := firstFilter was n f
      let w := match hit with | some j => was.rd (Reg.FLT_CTL n j) | none => 0
      let act := match hit with | some _ => fld w 24 3 | none => was.rf (Reg.BUS_CFG n) 9 3
      if act = 0 ∨ 4 < act then s3
      else if hit.isSome && bit w 27 then
        (match authCheck s3 (was.rd (Reg.BUS_AUTH n)).toNat (fld w 16 6) f with
         | some cand =>
           ({ s3 with bus := { s3.bus with rxFresh := SMap.set 0 s3.bus.rxFresh (fld w 16 6) cand } }).storeFrame n (act - 1) f true
             false (hit.getD 0) ago
         | none =>
           ((s3.setFlag (Reg.BUS_STAT n) 11 true).count (Reg.BUS_CNT n) 24 8 1).raise (280 + n) (BitVec.ofNat 32 (fld w 16 6)))
      else s3.storeFrame n (act - 1) f false hit.isNone (hit.getD 0) ago)

/-- A write of `k` to BUS_QACK of a queue (R329). -/
def State.queueAck (s : State) (n q : Nat) (v : Word) : State :=
  let k := fld v 0 10
  let c := s.bctl n
  let len := s.rf (Reg.BUS_QCFG n q) 0 10
  if SMap.get 0 c.owned q < k then s.setFlag (Reg.BUS_STAT n) 10 true
  else
    (s.setFld (Reg.BUS_QST n q) 0 10 (if len = 0 then 0 else (s.rf (Reg.BUS_QST n q) 0 10 + k) % len)).setBctl n
      { c with owned := SMap.set 0 c.owned q (SMap.get 0 c.owned q - k) }

/-! ### Boundary, commit, FREEZE (R326, R330, R346, R348) -/

/-- Step (5) of the boundary: at most 32 stored frames of each controller enter I(N+1); the rest move on, in order (R330). -/
def State.busLatch (s : State) : State :=
  each 4 (fun n t =>
    let c := t.bctl n
    let early := c.rx.filter (fun x => !x.1)
    let late := (c.rx.filter (·.1)).map (fun x => (false, x.2))
    let t1 := t.setBctl n { c with rx := early.drop 32 ++ late }
    (eachOf (early.take 32) (fun x u => u.recordCur x.2) t1).freshen n) s

/-- A commit changes EN: offline after the frame in progress, or online with fresh queues and counters; a bus-off controller stays so until
it has recovered, and recovers by itself once ABO is 1 (R326, R329, R338, R346). -/
def State.busCommitted (s : State) (n : Nat) (old : Word) : State :=
  let w := s.rd (Reg.BUS_CFG n)
  let c := s.bctl n
  if bit w 0 ∧ ¬ bit old 0 then
    let s1 := (each 4 (fun q t => t.wr (Reg.BUS_QST n q) 0) s).setBctl n
      { c with owned := [], stored := [], ovf := [], refReq := false, refAgain := none, missed := 0, refSeen := none, closing := false }
    (if c.off then (s1.setFld (Reg.BUS_STAT n) 0 2 2).setFlag (Reg.BUS_STAT n) 3 (bit w 5)
     else (s1.setFld (Reg.BUS_STAT n) 0 2 0).setFld (Reg.BUS_ERR n) 0 16 0).freshen n
  else if bit old 0 ∧ ¬ bit w 0 then
    let s1 := ((s.busPast (Reg.BUS_STAT n) (s.rd (Reg.BUS_STAT n))).setFlag (Reg.BUS_STAT n) 3 false).setFlag (Reg.BUS_REFST n) 7 false
    if c.inFrame ∧ s.rf (Reg.BUS_STAT n) 0 2 < 2 then s1.setBctl n { c with closing := true } else s1.setFld (Reg.BUS_STAT n) 0 2 3
  else if c.off ∧ bit w 0 ∧ bit w 5 then s.setFlag (Reg.BUS_STAT n) 3 true
  else s

/-- A commit changes BUS_REF: a controller with a new ROLE no longer counts as the one that sends the references, and one that had none has no
request waiting (R341, R342). -/
def State.busRefCommitted (s : State) (n : Nat) (old : Word) : State :=
  if s.rf (Reg.BUS_REF n) 30 2 = fld old 30 2 then s
  else
    let s1 := s.setFlag (Reg.BUS_REFST n) 7 false
    if fld old 30 2 = 0 then s1.onBctl n (fun c => { c with refReq := false, refAgain := none, missed := 0, refSeen := none }) else s1

/-- What the buses are doing as a frame begins: an entry that is being sent reads so, and a disable waits for a frame in progress (R334, R346). -/
def State.busNow (s : State) (l : List (BusPhase × Nat)) : State :=
  each 4 (fun n t =>
    let x := l.getD n (.idle, 0)
    let was := t.busWas n x.2
    if !busRuns was n then t.onBctl n (fun c => { c with inFrame := false })
    else (if busTalks was n then t.txOnBus n x.2 x.1 else t).onBctl n (fun c => { c with inFrame := decide (x.1 ≠ .idle) })) s

/-- Entries in transmission return to pending. -/
def State.busHalt (s : State) (n : Nat) : State :=
  eachOf ((s.bctl n).tx.filter (fun x => decide (x.2.stage = .onBus))) (fun x t => t.txReturn n x.1 x.2.won) s

/-- Resume from FREEZE (R348). -/
def State.busResume (s : State) : State :=
  each 4 (fun n t => if t.flag (Reg.BUS_CFG n) 0 then (t.busHalt n).setFlag (Reg.BUS_STAT n) 13 true else t) s

end Sys2Proof.Machine
end

