-- ==== Sys2Proof/Machine/Clocks.lean ====
section
/-! DEFINITION. The reference and the clocks (R479 to R481): which source is in use, changes of it, and the PLLs of the GNSS and BUS domains. -/
namespace Sys2Proof.Machine

/-- The reference that R480 chooses, as CLK_STAT.SRC shows it: 0 REFCLK at 25 MHz, 1 at 10 MHz, 2 internal, 3 backup. -/
def refSource (s : State) : Nat :=
  if s.sys.variant = 1 then 3
  else if s.rf Reg.CLK_CFG 0 2 = 0 ∧ s.sys.refPresent then (if s.sys.ref25 then 0 else 1)
  else if s.sys.tcxoGood then 2
  else 3

/-- The chosen reference takes over: counted, SLIP for every channel in TRACK, and source 304 where the change is a failure (R481). -/
def State.refUpdate (s : State) (fails : Bool) : State :=
  let r := refSource s
  if s.rf Reg.CLK_STAT 0 2 = r then s
  else
    let s1 := (s.setFld Reg.CLK_STAT 0 2 r).count Reg.CLK_CNT 0 16 1
    let s2 := eachOf (gListed s1) (fun n t => if gState t n = 3 then t.setGch n { t.gch n with slip := true } else t) s1
    if fails then s2.raise 304 (BitVec.ofNat 32 r) else s2

/-- REFCLK_LOSS: REFCLK is lost, or off its rate (R481). A REFCLK that is not in use is only no longer OK (DEDUCED, log entry 34). -/
def execRefclkLoss (t : Nat) (s : State) : Host.Outcome State Fault Refusal :=
  .next (if !s.clocked || s.sys.variant = 1 || !s.sys.refPresent then s
    else
      let s1 := (s.at t).setFlag Reg.CLK_STAT 2 false
      let s2 := { s1 with sys := { s1.sys with refPresent := false } }
      if s2.rf Reg.CLK_STAT 0 2 ≤ 1 then (s2.setFlag Reg.CLK_STAT 4 true).refUpdate true else s2)

/-- REFCLK_RETURN: REFCLK has been within 10 ppm of 25 MHz or 10 MHz for 1 s, and is taken back (R481). -/
def execRefclkReturn (t : Nat) (r25 : Bool) (s : State) : Host.Outcome State Fault Refusal :=
  .next (if !s.clocked || s.sys.variant = 1 then s
    else
      let s1 := (s.at t).setFlag Reg.CLK_STAT 2 true
      ({ s1 with sys := { s1.sys with refPresent := true, ref25 := r25 } }).refUpdate false)

/-- OSCILLATOR_FAIL: the internal oscillator has drifted from the backup's measure; source 304 is raised whether or not it was the reference in
use (R481). -/
def execOscillatorFail (t : Nat) (s : State) : Host.Outcome State Fault Refusal :=
  .next (if !s.clocked || s.sys.variant = 1 || !s.sys.tcxoGood then s
    else
      let s1 := (s.at t).setFlag Reg.CLK_STAT 3 true
      let s2 := ({ s1 with sys := { s1.sys with tcxoGood := false } }).refUpdate false
      s2.raise 304 (BitVec.ofNat 32 (s2.rf Reg.CLK_STAT 0 2)))

/-- The GNSS (false) or BUS (true) PLL is unlocked: source 305, and the controllers' frames in progress are broken off (R338, R481). -/
def State.pllLost (s : State) (bus : Bool) : State :=
  let s1 := s.setFlag Reg.CLK_STAT (if bus then 6 else 7) false
  let s2 := if bus then each 4 (fun n u => u.busHalt n) s1 else s1
  s2.assert 305 (BitVec.ofNat 32 (b2n bus))

/-- PLL_RELOCK: the GNSS or BUS PLL is locked again; source 305 ends when both are, and the GNSS channels enter REACQ (R481). -/
def execPllRelock (t : Nat) (bus : Bool) (s : State) : Host.Outcome State Fault Refusal :=
  .next (if !s.clocked || s.flag Reg.CLK_STAT (if bus then 6 else 7) || (!bus && s.sys.variant = 1) then s
    else
      let s1 := (s.at t).setFlag Reg.CLK_STAT (if bus then 6 else 7) true
      let s2 := if bus then each 4 (fun n u => u.freshen n) s1 else s1.gnssRelock
      if s2.flag Reg.CLK_STAT (if bus then 7 else 6) ∨ s2.sys.variant = 1 then s2.release 305 else s2)

end Sys2Proof.Machine
end

