-- ==== Sys2Proof/Machine/Loader.lean ====
section
/-! DEFINITION. Program images and the loader's checks (R85, R86, R93 to R100, R437). -/
namespace Sys2Proof.Machine

/-! ### The image in its bank (R93 to R95) -/

/-- A signed image as its bank holds it: the header fields it is checked by, its slice table, its instructions and DMEM section, and what the
signature covers. -/
structure RawImage where
  minPeriod : Nat
  version : Nat
  ninsn : Nat
  slices : List (Word × Word)
  insns : List DWord
  dmem : List Byte
  body : List Byte
  sig : List Byte
  deriving DecidableEq, Repr

/-- `n` bytes of a bank from offset `o`. -/
def bankBytes (m : SMap Byte) (b o n : Nat) : List Byte := Mem.bytes m (b * 0x400000 + o) n

/-- A little-endian field of `n` bytes. -/
def leField (m : SMap Byte) (b o n : Nat) : Nat := (bankBytes m b o n).foldr (fun x acc => x.toNat + 256 * acc) 0

/-- Pairs of words, and the 64-bit instructions they are. -/
def pairUpWords : List Word → List (Word × Word)
  | a :: b :: r => (a, b) :: pairUpWords r
  | _ => []

/-- The header of R94 is in range: the code-1 conditions that concern no slice. -/
def headerOk (m : SMap Byte) (b period : Nat) : Bool :=
  let ni := leField m b 0x0C 4
  let ns := leField m b 0x10 2
  let dl := leField m b 0x14 4
  decide (leField m b 0 4 = 0x4D495A42) && decide (leField m b 4 2 = 1) && decide (leField m b 6 1 ≤ 5) && decide (leField m b 7 1 = 0)
    && decide (1 ≤ ni) && decide (ni ≤ 32768) && decide (1 ≤ ns) && decide (ns ≤ 256) && decide (leField m b 0x12 2 = 0)
    && decide (dl ≤ 65536) && decide (dl % 32 = 0) && (bankBytes m b 0x18 40).all (fun x => decide (x = 0))
    && decide (64 + 8 * ns + 8 * ni + dl + 64 ≤ 0x400000) && decide (leField m b 6 1 ≤ period)

def readImage (m : SMap Byte) (b : Nat) : RawImage :=
  let ni := leField m b 0x0C 4
  let ns := leField m b 0x10 2
  let dl := leField m b 0x14 4
  let at_ := 64 + 8 * ns
  { minPeriod := leField m b 6 1, version := leField m b 8 4, ninsn := ni,
    slices := pairUpWords (wordsOf (bankBytes m b 64 (8 * ns))),
    insns := (pairUpWords (wordsOf (bankBytes m b at_ (8 * ni)))).map (fun x => x.2 ++ x.1),
    dmem := bankBytes m b (at_ + 8 * ni) dl, body := bankBytes m b 0 (at_ + 8 * ni + dl), sig := bankBytes m b (at_ + 8 * ni + dl) 64 }

/-- A slice-table entry breaks R95. -/
def sliceBad (i : RawImage) (x : Word × Word) : Bool :=
  decide (fld x.1 16 16 ≠ 0) || decide (fld x.2 20 12 ≠ 0) || decide (fld x.2 0 20 = 0) || decide (499500 < fld x.2 0 20)
    || decide (i.ninsn ≤ fld x.1 0 15)

def sliceEntry (x : Word × Word) : Nat := fld x.1 0 15
def sliceScribe (x : Word × Word) : Bool := bit x.1 15
def sliceBudget (x : Word × Word) : Nat := fld x.2 0 20

/-! ### Positions and reach (R73, R96) -/

/-- An instruction of an image, with its header and fields; none at an index past the image. -/
structure Ins where
  opc : Nat
  h : Hdr
  f : Fields
  deriving DecidableEq, Repr

/-- The instructions by index; a word of zeros is not listed. -/
def imemOf : Nat → List DWord → SMap DWord
  | _, [] => []
  | k, w :: ws => if w = 0 then imemOf (k + 1) ws else (k, w) :: imemOf (k + 1) ws

def fmtOf (opc : Nat) : Fmt :=
  match Isa.row? opc with
  | some r => r.fmt
  | none => .c

/-- A program: its instruction count and its words by index. -/
structure Prog where
  n : Nat
  mem : SMap DWord
  deriving DecidableEq, Repr

def Prog.word (p : Prog) (i : Nat) : DWord := SMap.get 0 p.mem i

def Prog.ins (p : Prog) (i : Nat) : Ins :=
  let w := p.word i
  ⟨wordOpc w, wordHdr w, wordFields (fmtOf (wordOpc w)) w⟩

/-- An instruction that always executes. -/
def Ins.always (x : Ins) : Bool := decide (x.h.pred = 0) && !x.h.neg

def isBr (x : Ins) : Bool := decide (x.opc = 0x01)
def isCall (x : Ins) : Bool := decide (x.opc = 0x02)
def isLoop (x : Ins) : Bool := decide (x.opc = 0x04)
def isScribe (x : Ins) : Bool := decide (0xC0 ≤ x.opc) && decide (x.opc < 0xD0)

/-- The indices that control can reach next from an index; `calls` says whether a CALL's target counts, and `ret` whether the routine at an
index can return: only then does control come back behind an unconditional CALL of it (R85). -/
def Prog.succ (p : Prog) (calls : Bool) (ret : Nat → Bool) (i : Nat) : List Nat :=
  let x := p.ins i
  match x.opc with
  | 0x01 => if x.always then [x.f.target] else [x.f.target, i + 1]
  | 0x02 => (if calls then [x.f.target] else []) ++ (if x.always && !ret x.f.target then [] else [i + 1])
  | 0x03 => []
  | 0x04 => if x.f.a = 0 then [i + 1] else [i + 1, x.f.aux + 1]
  | 0x05 => (List.range (x.f.bound + 1)).map (fun k => i + 1 + k)
  | 0x06 => if x.always then [] else [i + 1]
  | _ => [i + 1]

/-- Closure of a work list under `succ`; each index enters once, with at most 258 successors. -/
def Prog.reachGo (p : Prog) (calls : Bool) (ret : Nat → Bool) : Nat → List Nat → SMap Bool → SMap Bool
  | 0, _, seen => seen
  | _, [], seen => seen
  | k + 1, i :: work, seen =>
    if SMap.get false seen i then p.reachGo calls ret k work seen
    else p.reachGo calls ret k ((if i < p.n then p.succ calls ret i else []) ++ work) (SMap.insert seen i true)

/-- The indices reached from an entry, when `ret` says which routines return. -/
def Prog.reachWith (p : Prog) (calls : Bool) (ret : Nat → Bool) (entry : Nat) : List Nat :=
  (p.reachGo calls ret (260 * (p.n + 2)) [entry] []).map (·.1)

/-- The routine at `t` can return: a RET of its own is reached. A nest of more than eight calls, which check 5 rejects, counts as one that
returns (R75). -/
def Prog.returns (p : Prog) : Nat → Nat → Bool
  | 0, _ => true
  | k + 1, t => (p.reachWith false (p.returns k) t).any (fun i => decide (i < p.n) && decide ((p.ins i).opc = 0x03))

/-- The indices reached from an entry. -/
def Prog.reach (p : Prog) (calls : Bool) (entry : Nat) : List Nat := p.reachWith calls (p.returns 9) entry

/-! ### Checks 4 and 5 -/

/-- Check 4: the instruction, as slot 0 of its bundle, is illegal (R54, R55). -/
def Prog.illegalAt (p : Prog) (i : Nat) : Bool :=
  let x := p.ins i
  match Isa.row? x.opc with
  | some r => !bundleOk r x.h x.f i (decide (i + 1 < p.n)) (p.word (i + 1))
  | none => true

/-- The loop bodies: first and last index. -/
def Prog.bodies (p : Prog) : List (Nat × Nat) :=
  (List.range p.n).filterMap (fun i => if isLoop (p.ins i) then some (i + 1, (p.ins i).f.aux) else none)

def inBody (b : Nat × Nat) (i : Nat) : Bool := decide (b.1 ≤ i) && decide (i ≤ b.2)

/-- Two bodies overlap without one lying inside the other (R74). -/
def crossing (a b : Nat × Nat) : Bool :=
  decide (a.1 ≤ b.2) && decide (b.1 ≤ a.2) && !(decide (a.1 ≤ b.1) && decide (b.2 ≤ a.2)) && !(decide (b.1 ≤ a.1) && decide (a.2 ≤ b.2))

/-- An instruction that breaks R73, R74 or R76 where it stands. A LOOP that stands in a body, its last index included, has its own body inside
it (R74): control that leaves the outer body at its end would otherwise enter the inner one past its LOOP (R73). A CALL to an earlier index is
accepted (DESIGN CHOICE, log entry 61: R73 counts a CALL as a branch only for bodies, and R75 bounds calls by the call graph). -/
def Prog.flowBadAt (p : Prog) (i : Nat) : Bool :=
  let x := p.ins i
  let enters := fun t => p.bodies.any (fun b => inBody b t && !inBody b i)
  match x.opc with
  | 0x01 => decide (x.f.target ≤ i) || enters x.f.target
  | 0x02 => enters x.f.target
  | 0x03 => p.bodies.any (fun b => inBody b i)
  | 0x04 => decide (x.f.aux ≤ i) || decide (p.n ≤ x.f.aux) || (p.ins x.f.aux).h.pair
      || p.bodies.any (fun b => crossing (i, x.f.aux) b || (inBody b i && decide (b.2 < x.f.aux)))
  | 0x05 => decide (p.n ≤ i + x.f.bound) || !(List.range x.f.bound).all (fun k => isBr (p.ins (i + 1 + k)) && (p.ins (i + 1 + k)).always)
  | _ => false

/-- Loops that stand around an index in the routine that begins at `t`. -/
def Prog.loopsIn (p : Prog) (t i : Nat) : Nat := (p.bodies.filter (fun b => inBody b i && !inBody b t)).length

/-- From the routine at `t`, with `base` loops around its call and `k` calls left: the nesting depth passes 4, or the call depth 8, which
a cycle of calls also does (R74, R75). -/
def Prog.tooDeep (p : Prog) : Nat → Nat → Nat → Bool
  | 0, t, base => (p.reach false t).any (fun i => decide (4 < base + p.loopsIn t i) || (decide (i < p.n) && isCall (p.ins i)))
  | k + 1, t, base => (p.reach false t).any (fun i =>
      decide (4 < base + p.loopsIn t i)
        || (decide (i < p.n) && isCall (p.ins i) && p.tooDeep k (p.ins i).f.target (base + p.loopsIn t i)))

/-! ### The timing proof (R85, R86) -/

/-- A path under the proof: the engine's issue state, the latest bound of a SQRY on it, and the outlets it has queried. -/
structure Path where
  x : Eng
  sq : Option Nat
  q : Nat
  deriving DecidableEq, Repr

/-- The worst latency of an instruction's result (R57, R86): a load by its region. -/
def worstLat (r : IsaRow) (f : Fields) : Nat :=
  if r.opc = 0x60 then (match f.space with | 0 => 2 | 1 => 11 | _ => 64)
  else if r.opc = 0x62 then (if f.space = 0 then 3 else 12)
  else r.lat

/-- The instructions that hold every later bundle (R522), SWAIT apart. -/
def waitsFor (opc : Nat) : Bool := opc = 0xB3 || opc = 0xD0 || opc = 0xD1 || opc = 0xD2 || opc = 0xD4

/-- One instruction of a path issues at cycle `c`: its results, and what it does to the bundles after it. -/
def Path.charge (p : Path) (slot1 : Bool) (r : IsaRow) (h : Hdr) (f : Fields) (c : Nat) : Path :=
  let x := p.x.issued slot1 { r with lat := worstLat r f } h f c
  if r.opc = 0xC2 then
    let done := match p.sq with
      | some b => max (c + 1) b
      | none => c + 15960
    { p with x := { x with cyc := max x.cyc done, ready := setReady x.ready done (r.dests f) } }
  else if waitsFor r.opc then { p with x := { x with cyc := max x.cyc (c + r.lat) } }
  else if r.opc = 0xC1 then
    { x := x, sq := some (max (p.sq.getD 0) (c + 600 + 60 * f.imm)), q := p.q + f.imm }
  else { p with x := x }

/-- A path after its next bundle: the paths it goes on as, or its count and its outlets where it ends. -/
inductive PathStep where
  | ends (count q : Nat)
  | goesOn (l : List Path)
  deriving DecidableEq, Repr

/-- A path moved to another index, its next bundle no earlier than `cyc`. -/
def Path.goto (p : Path) (pc cyc : Nat) (loops : List Loop) (ret : List Nat) : Path :=
  { p with x := { p.x with pc := pc, cyc := cyc, loops := loops, ret := ret, old := none } }

def Prog.pathStep (g : Prog) (p : Path) : PathStep :=
  let x := p.x
  let i := g.ins x.pc
  match Isa.row? i.opc with
  | none => .ends x.cyc p.q
  | some r =>
    let c := issueCycle x r i.h i.f (g.word (x.pc + 1))
    let d := x.ret.length
    let nx := seqNext d x.pc x.loops
    let fall := fun n => p.goto nx.1 (c + n) nx.2 x.ret
    let jump := fun t n => p.goto t (c + n) (leaveLoops d t x.loops) x.ret
    match i.opc with
    | 0x01 => .goesOn (if i.always then [jump i.f.target 3] else [jump i.f.target 3, fall 3])
    | 0x02 =>
      let call := p.goto i.f.target (c + 3) x.loops ((x.pc + 1) :: x.ret)
      .goesOn (if i.always then [call] else [call, fall 3])
    | 0x03 =>
      (match x.ret with
       | [] => .ends (c + 1) p.q
       | t :: ts =>
         let rx := seqNext ts.length (t - 1) (x.loops.filter (fun l => decide (l.depth ≤ ts.length)))
         .goesOn [p.goto rx.1 (c + 3) rx.2 ts])
    | 0x04 =>
      let sk := seqNext d i.f.aux x.loops
      let body := p.goto (x.pc + 1) (c + 2) (⟨x.pc + 1, i.f.aux, i.f.bound, d⟩ :: x.loops) x.ret
      .goesOn (if i.f.a = 0 then [body] else [body, p.goto sk.1 (c + 2) sk.2 x.ret])
    | 0x05 => .goesOn ((List.range (i.f.bound + 1)).map (fun k => jump (x.pc + 1 + k) 3))
    | 0x06 => if i.always then .ends (c + 1) p.q else .goesOn [fall 1, p.goto g.n c x.loops x.ret]
    | _ =>
      let p1 := p.charge false r i.h i.f c
      if !i.h.pair then .goesOn [p1]
      else
        let j := g.ins (x.pc + 1)
        (match Isa.row? j.opc with
         | some r2 => .goesOn [p1.charge true r2 j.h j.f c]
         | none => .ends (c + 1) p.q)

/-- The greatest count and the greatest SQRY total over the paths that go on from a path. A path that has used its 2^20 bundles counts
2^20, above every BUDGET. A path moved past the image by a taken END has ended. -/
def Prog.worst (g : Prog) : Nat → Path → Nat × Nat
  | 0, p => (2 ^ 20, p.q)
  | k + 1, p =>
    if g.n ≤ p.x.pc then (p.x.cyc + 1, p.q)
    else match g.pathStep p with
      | .ends c q => (c, q)
      | .goesOn l => l.foldl (fun m y => let w := g.worst k y; (max m.1 w.1, max m.2 w.2)) (0, 0)

/-- The proven count of an entry and its greatest SQRY total (R86). -/
def Prog.proven (g : Prog) (entry : Nat) : Nat × Nat := g.worst (2 ^ 20) ⟨{ Eng.reset with pc := entry, imem := g.mem }, none, 0⟩

/-! ### The checks in their order (R96) -/

/-- The lowest slice that a test picks, else 0. -/
def lowestSlice (sl : List (Word × Word)) (t : Word × Word → Bool) : Nat := (sl.findIdx? t).getD 0

/-- Checks 4 to 9 of an image. -/
def checkProgram (i : RawImage) : Reject :=
  let g : Prog := ⟨i.ninsn, imemOf 0 i.insns⟩
  let all := List.range g.n
  let reached := fun (bad : Nat → Bool) (x : Word × Word) => (g.reach true (sliceEntry x)).any bad
  let bad4 := fun k => decide (k < g.n) && g.illegalAt k
  let bad5 := fun k => decide (k < g.n) && g.flowBadAt k
  let slice5 := fun x => g.bodies.any (fun b => inBody b (sliceEntry x)) || g.tooDeep 8 (sliceEntry x) 0 || reached bad5 x
  let calls := (all.filter (fun k => isCall (g.ins k))).map (fun k => (g.ins k).f.target)
  let past := fun x => (g.reach true (sliceEntry x)).any (fun k => decide (g.n ≤ k))
  let exceeds := fun x => decide (sliceBudget x < (g.proven (sliceEntry x)).1)
  let outlets := ((i.slices.filter sliceScribe).map (fun x => (g.proven (sliceEntry x)).2)).foldl (· + ·) 0
  let misuse := fun x => !sliceScribe x && reached (fun k => decide (k < g.n) && isScribe (g.ins k)) x
  if all.any bad4 then ⟨4, lowestSlice i.slices (reached bad4), 0⟩
  else if all.any bad5 || i.slices.any slice5 || calls.any (fun t => g.tooDeep 8 t 0) then ⟨5, lowestSlice i.slices slice5, 0⟩
  else if i.slices.any past then ⟨6, lowestSlice i.slices past, 0⟩
  else match i.slices.find? exceeds with
    | some x => ⟨7, lowestSlice i.slices exceeds, (g.proven (sliceEntry x)).1⟩
    | none =>
      if 256 < outlets then ⟨8, 0, 0⟩
      else if i.slices.any misuse then ⟨9, lowestSlice i.slices misuse, 0⟩
      else Reject.none

/-- The owner key that verifies an image, in ascending order (R437). -/
def imageSigner (s : State) (i : RawImage) : Option Nat :=
  (List.range 4).find? (fun k => !(ownerKey s k).isEmpty && ecdsaVerify (ownerKey s k) (sha256 i.body) i.sig)

/-- The checks of R96 on a bank, with the period code in force. -/
def checkBank (s : State) (b : Nat) : Reject :=
  if !headerOk s.prog b (s.rf Reg.SYS_FRMCFG 0 3) then ⟨1, 0, 0⟩
  else
    let i := readImage s.prog b
    match i.slices.findIdx? (sliceBad i) with
    | some k => ⟨1, k, 0⟩
    | none => match imageSigner s i with
      | none => ⟨2, 0, 0⟩
      | some k => if i.version < (s.rd (Reg.PEG_ROLL k)).toNat then ⟨3, 0, 0⟩ else checkProgram i

/-- The answer of a check is recorded in PROG_STAT, and for a failure in PROG_PROOF (R96). A proven count of 2^20 or more does not fit its
field, and no rule says what it then reads: a free value (log entry 2). -/
def State.recordCheck (s : State) (b : Nat) (r : Reject) : State :=
  let s1 := s.setFld Reg.PROG_STAT (8 * b) 8 r.code
  if r.code = 0 then s1
  else
    let s2 := s1.setFld Reg.PROG_STAT 16 8 r.slice
    if r.proven < 2 ^ 20 then s2.setFld Reg.PROG_PROOF 0 20 r.proven
    else (s2.setFld Reg.PROG_PROOF 0 20 s2.freeNat).spend

/-! ### VERIFY (R99, R100) -/

/-- A write to PROG_BANK.VERIFY: 1 bank A, 2 bank B; ignored while a check runs and in BOOT (R99, R129). The check is of the bank, the keys
and the counters as they stand when it starts. -/
def State.progVerify (s : State) (v : Word) : State :=
  let w := fld v 16 2
  let on := s.sys.mode = .idle || s.sys.mode = .run || s.sys.mode = .limp || s.sys.mode = .safe || s.sys.mode = .service
  if (w ≠ 1 ∧ w ≠ 2) ∨ s.sched.verify.isSome ∨ ¬ on then s
  else (({ s with sched := { s.sched with verify := some (w - 1, checkBank s (w - 1)) } }).setFlag Reg.PROG_STAT 24 true).pkNext

/-- VERIFY_COMPLETE: the check ends, when the public-key engine has served it, where it has come to its signature (R96, R455). -/
def execVerifyComplete (s : State) : Host.Outcome State Fault Refusal :=
  .next (match s.sched.verify with
    | some x =>
      if !s.clocked ∨ (x.2.code ≠ 1 ∧ s.peg.serving ≠ some .image) then s
      else ((({ s with sched := { s.sched with verify := none } }).recordCheck x.1 x.2).setFlag Reg.PROG_STAT 24 false).iff (decide (x.2.code ≠ 1))
        State.pkDone
    | none => s)

/-- A stream write reaches a program bank: refused in the active bank, and the end of a check that runs on the bank (R99). -/
def State.bankWrite (s : State) (ofs : Nat) (w : Word) : State :=
  let b := ofs / 0x400000
  if s.flag Reg.PROG_BANK 10 ∧ s.rf Reg.PROG_BANK 8 1 = b then s.setFlag Reg.PROG_STAT 25 true
  else
    let s1 := { s.mramWritten 2 ofs 4 with prog := Mem.st s.prog ofs w }
    match s1.sched.verify with
    | some x =>
      if x.1 = b then
        ((({ s1 with sched := { s1.sched with verify := none } }).recordCheck b ⟨10, 0, 0⟩).setFlag Reg.PROG_STAT 24 false).iff
          (decide (s.peg.serving = some PkJob.image)) State.pkDone
      else s1
    | none => s1

/-! ### Loading (R97, R98, R437) -/

/-- The DMEM section of the loaded image, written from address 0 with the tags of its words (R97, R48). -/
def Eng.loadDmem (x : Eng) (d : List Byte) : Eng :=
  { x with dmem := Mem.stBytes [] 0 d, dmemTag := Mem.tagWords [] 0 (wordsOf d) }

/-- The bytes of the instruction section. -/
def insnBytes (l : List DWord) : List Byte := l.flatMap (fun w => bytesOf (w.extractLsb' 0 32) ++ bytesOf (w.extractLsb' 32 32))

/-- A bank that has passed is loaded into every engine, and Peg shows its signer, hash and version (R97, R437). -/
def State.loadBank (s : State) (b : Nat) (fallback : Bool) : State :=
  let i := readImage s.prog b
  let im : Image := ⟨i.minPeriod, i.version, i.ninsn, i.slices, i.dmem⟩
  let k := (imageSigner s i).getD 0
  let s1 := each 8 (fun e t => t.setEn e ({ Eng.reset with imem := imemOf 0 i.insns, state := .idle, unitBad := (t.en e).unitBad }.loadDmem i.dmem)) s
  let s2 := { s1 with sched := { s1.sched with image := some im }, peg := { s1.peg with isecHash := sha256 (insnBytes i.insns) } }
  let s3 := ((s2.setFld Reg.PROG_BANK 8 1 b).setFlag Reg.PROG_BANK 9 fallback).setFlag Reg.PROG_BANK 10 true
  (s3.setFld Reg.PEG_STAT 12 2 k).wrRunOf Reg.PEG_IMGHASH 0 (wordsOf (sha256 i.body))

/-- The loader's part of BOOT (R98): the preferred bank, then the other; a failure of either is raised. The answer says whether an image is
loaded. -/
def State.bootLoad (s : State) : State × Bool :=
  let p := s.rf Reg.PROG_BANK 0 1
  let r := checkBank s p
  let s1 := s.recordCheck p r
  if r.code = 0 then (s1.loadBank p false, true)
  else
    let q := 1 - p
    let r2 := checkBank s1 q
    let s2 := s1.recordCheck q r2
    let s3 := if r2.code = 0 then s2.loadBank q true
      else ((s2.setFld Reg.PROG_BANK 8 1 0).setFlag Reg.PROG_BANK 9 false).setFlag Reg.PROG_BANK 10 false
    (s3.raise 321 (BitVec.ofNat 32 (s3.rf Reg.PROG_STAT 0 16)), decide (r2.code = 0))

/-- REHASH_COMPLETE: Peg's hash of an engine's instruction memory agrees with the image, and the engine is IDLE from the next boundary with
its DMEM section written again; or it does not, or a word with a double-bit error cannot be read (log entry 57), and the engine is OFF until
the next BOOT (R90, R97). -/
def execRehashComplete (e : Fin 8) (s : State) : Host.Outcome State Fault Refusal :=
  .next (
    let x := s.en e
    if x.state ≠ .rehash ∨ x.rehashed ∨ ¬ s.clocked then s
    else match s.sched.image with
      | none => s
      | some im =>
        let unread := x.imemErr.any (fun q => decide (q.1 < im.ninsn) && decide (2 ≤ q.2))
        if !unread && decide (sha256 (insnBytes ((List.range im.ninsn).map (fun k => SMap.get 0 x.imem k))) = s.peg.isecHash) then
          s.setEn e { x.loadDmem im.dmem with rehashed := true }
        else
          ((s.setEn e { x with state := .off }).setFld (Reg.BE_STAT e) 8 8 7).raise (56 + e) (BitVec.ofNat 32 (e * 2 ^ 16)))

/-- At a boundary the engines whose rehash agreed are IDLE (R90). -/
def State.rehashDone (s : State) : State :=
  each 8 (fun e t => if (t.en e).rehashed then t.updEn e (fun x => { x with state := .idle, rehashed := false }) else t) s

/-- A write to BE_RST with its key resets the engines of RST (R90, R92). -/
def State.beRst (s : State) (v : Word) : State :=
  if fld v 8 8 ≠ 0xA5 then s else each 8 (fun e t => if bit v e then t.engineReset e else t) s

end Sys2Proof.Machine
end

