-- ==== Sys2Proof/Machine/Scribe.lean ====
section
/-! DEFINITION. Scribe (R131 to R164, R172 to R174): maps in DRAM, poses and prediction, footprint queries, and marking. -/
namespace Sys2Proof.Machine

/-! ### Maps (R131 to R138) -/

/-- Base cell size, mm (R132). -/
def cellSize (code : Nat) : Nat :=
  match code with
  | 0 => 25 | 1 => 50 | 2 => 100 | 3 => 200 | 4 => 400 | _ => 800

def mapDesc (s : State) (m : Nat) : MapDesc :=
  ⟨m, s.rd (Reg.MAP_GEOM m), s.rd (Reg.MAP_ORGX m), s.rd (Reg.MAP_ORGY m), s.rd (Reg.MAP_SIZE m), s.rd (Reg.MAP_DIR m),
    s.rd (Reg.MAP_CPOOL m), s.rd (Reg.MAP_XPOOL m), s.rd (Reg.MAP_PPOOL m)⟩

def activeMap (s : State) : Nat := s.rf Reg.SCR_CTRL 9 1

def MapDesc.en (d : MapDesc) : Bool := bit d.geom 31
def MapDesc.cell (d : MapDesc) : Nat := cellSize (fld d.geom 0 3)
def MapDesc.esh (d : MapDesc) : Nat := fld d.geom 4 3
def MapDesc.psh (d : MapDesc) : Nat := fld d.geom 8 3
def MapDesc.tw (d : MapDesc) : Nat := fld d.size 0 12 + 1
def MapDesc.th (d : MapDesc) : Nat := fld d.size 16 12 + 1

/-- ceil (n ÷ 2^k). -/
def ceilShift (n k : Nat) : Nat := (n + 2 ^ k - 1) / 2 ^ k

/-- The three layers: 0 coverage, 1 exclusion, 2 prescription (R133): scale, width and height in tiles, bytes per tile, pool base. -/
def MapDesc.shift (d : MapDesc) (l : Nat) : Nat := match l with | 0 => 0 | 1 => d.esh | _ => d.psh
def MapDesc.wide (d : MapDesc) (l : Nat) : Nat := ceilShift d.tw (d.shift l)
def MapDesc.high (d : MapDesc) (l : Nat) : Nat := ceilShift d.th (d.shift l)
def tileBytes (l : Nat) : Nat := match l with | 0 => 1024 | 1 => 512 | _ => 4096
def MapDesc.pool (d : MapDesc) (l : Nat) : Nat := 4096 * fld (match l with | 0 => d.cpool | 1 => d.xpool | _ => d.ppool) 0 19

/-- DRAM offset of a layer's directory (R135), and the bytes that the three take. -/
def MapDesc.dirAt (d : MapDesc) (l : Nat) : Nat :=
  4096 * fld d.dir 0 19 + 4 * ((List.range l).map (fun k => d.wide k * d.high k)).sum
def MapDesc.dirBytes (d : MapDesc) : Nat := 4 * ((List.range 3).map (fun k => d.wide k * d.high k)).sum

/-- Bytes of the DRAM map region (R136). -/
def mapRegion : Nat := 0x60000000

/-- A DRAM byte or word is held without an uncorrectable error. -/
def dramOk (s : State) (a n : Nat) : Bool := !s.dramBad.any (fun x => decide (a ≤ x) && decide (x < a + n))

/-- DRAM offset of the directory word of the tile that holds base cell (i, j) in a layer. -/
def MapDesc.wordAt (d : MapDesc) (l i j : Nat) : Nat :=
  let p := i / 2 ^ d.shift l
  let q := j / 2 ^ d.shift l
  d.dirAt l + 4 * (q / 64 * d.wide l + p / 64)

/-- Index of a base cell within its tile (R134). -/
def MapDesc.inTile (d : MapDesc) (l i j : Nat) : Nat := 64 * (j / 2 ^ d.shift l % 64) + i / 2 ^ d.shift l % 64

/-- A directory word (R135): stored at an index, uniform, or malformed. A uniform VALUE wider than the layer's cells counts by their low bits
(DEDUCED, log entry 25). -/
inductive DirWord where
  | stored (index : Nat)
  | uniform (value : Nat)
  | bad
  deriving DecidableEq, Repr

def dirWord (w : Word) : DirWord :=
  if bit w 31 then (if fld w 21 10 = 0 then .stored (fld w 0 21) else .bad)
  else if fld w 21 10 = 0 ∧ fld w 8 13 = 0 then .uniform (fld w 0 8) else .bad

/-- Bits per cell of a layer, and the value of a cell in its tile (R134). -/
def cellBits (l : Nat) : Nat := match l with | 0 => 2 | 1 => 1 | _ => 8

/-- The value of a base cell in a layer, or none for a DRAM error (R156). -/
def layerRead (s : State) (d : MapDesc) (l i j : Nat) : Option Nat :=
  let a := d.wordAt l i j
  if !dramOk s a 4 then none
  else match dirWord (Mem.ld s.dram a) with
    | .bad => none
    | .uniform v => some (v % 2 ^ cellBits l)
    | .stored x =>
      let t := d.pool l + x * tileBytes l
      let n := d.inTile l i j * cellBits l
      if mapRegion < t + tileBytes l ∨ !dramOk s (t + n / 8) 1 then none
      else some ((SMap.get 0 s.dram (t + n / 8)).toNat / 2 ^ (n % 8) % 2 ^ cellBits l)

/-- What a sample reads of a cell: an error in any layer counts as excluded and not covered (R156). -/
def cellRead (s : State) (d : MapDesc) (i j : Nat) : CellRead :=
  match layerRead s d 0 i j, layerRead s d 1 i j, layerRead s d 2 i j with
  | some c, some x, some p => ⟨c, decide (x = 1), p, false⟩
  | _, _, _ => ⟨0, true, 0, true⟩

/-! ### Pose and prediction (R144 to R152) -/

/-- A ground point in 2^-96 mm, the heading there in 2^-64 turn, and the outlet's own speed in 2^-96 mm/s. -/
structure Ground where
  e : Int
  n : Int
  hd : Int
  v : Int
  deriving DecidableEq, Repr

/-- R145 and R146, exact but for the series of sine and cosine: the outlet at (x, y, z), `dt` ns after the pose. -/
def exactGround (p : Pose) (x y z dt : Int) : Ground :=
  let sr := sinTurn (p.roll * 2 ^ 32)
  let cr := cosTurn (p.roll * 2 ^ 32)
  let yr := y * cr - z * sr
  let zr := y * sr + z * cr
  let xp := x * cosTurn (p.pitch * 2 ^ 32) + zr * sinTurn (p.pitch * 2 ^ 32) / one96
  let turn := p.yaw * dt * 2 ^ 32 / 1000000000
  let half := p.yaw * dt * 2 ^ 31 / 1000000000
  let k := if half = 0 then one96 else sinTurn half * one96 / radians half
  let hd := p.heading * 2 ^ 32 + turn
  let mid := p.heading * 2 ^ 32 + half
  { e := p.x * one96 + p.speed * dt * (k * cosTurn mid / one96) / 1000000000 + (xp * cosTurn hd - yr * sinTurn hd) / one96,
    n := p.y * one96 + p.speed * dt * (k * sinTurn mid / one96) / 1000000000 + (xp * sinTurn hd + yr * cosTurn hd) / one96,
    hd := hd, v := p.speed * one96 - p.yaw * 2 * pi96 / 2 ^ 32 * yr / one96 }

/-- A free number held within ±r. -/
def within (r : Nat) (x : Int) : Int := x % (2 * r + 1 : Nat) - r

/-- Scribe's predicted ground point and speed: the exact values and a deviation inside the bounds of R151 — 0.25 mm and 1 mm/s up to 420 ms,
1 mm and 2 mm/s up to 700 ms, within the speeds of R152 — and a free one outside them. -/
def groundAt (p : Pose) (x y z dt : Int) : Ground :=
  let g := exactGround p x y z dt
  let d := Config.scribeDev [p.at_, p.x, p.y, p.heading, p.pitch, p.roll, p.speed, p.yaw, x, y, z, dt]
  let pick := fun (r vr : Nat) =>
    let de := within r d.1
    let dn := within (isqrt (r * r - de.natAbs * de.natAbs)) d.2.1
    { g with e := g.e + de * 2 ^ 64, n := g.n + dn * 2 ^ 64, v := g.v + within vr d.2.2 * 2 ^ 64 : Ground }
  if 22222 < p.speed.natAbs ∨ 700000000 < dt.natAbs then { g with e := d.1, n := d.2.1, v := d.2.2 }
  else if dt.natAbs ≤ 420000000 then pick (2 ^ 30) (2 ^ 32)
  else pick (2 ^ 32) (2 ^ 33)

/-- The offset of an outlet in the implement frame. -/
def outletPos (s : State) (k : Nat) : Int × Int × Int := ((s.rd (Reg.OUT_X k)).toInt, (s.rd (Reg.OUT_Y k)).toInt, (s.rd (Reg.OUT_Z k)).toInt)

/-- Rounded to nearest from 2^-96 units. -/
def round96 (i : Int) : Int := (i + 2 ^ 95) / one96

/-- The outlet's bit of SCR_OSTATE. -/
def outState (s : State) (k : Nat) : Bool := s.flag (Reg.SCR_OSTATE (k / 32)) (k % 32)

/-! ### Queries (R147 to R159) -/

/-- The edge LEAD chooses: on-delay or off-delay (R149). -/
def leadOn (s : State) (k : Nat) : Bool :=
  match s.rf (Reg.OUT_CFG k) 13 2 with
  | 0 => !outState s k
  | 1 => true
  | _ => false

/-- The delay in use came from Gauge (R147). -/
def delayLearned (s : State) (k : Nat) (onEdge : Bool) : Bool :=
  let cfg := s.rd (Reg.OUT_CFG k)
  let c := if fld cfg 28 3 = 2 then 96 + fld cfg 18 8 else fld cfg 18 8
  bit cfg 17 && decide (s.rf Reg.GAU_CFG1 0 8 ≤ fld (s.rd (if onEdge then Reg.GAU_ON c else Reg.GAU_OFF c)) 24 8)

/-- The pose a query uses: the last accepted one, unless it is too old (R79, R153). -/
def queryPose (s : State) : Option Pose :=
  match s.scr.poses with
  | [] => none
  | p :: _ => if s.rf Reg.SCR_CTRL 0 8 < (s.frame - p.frame).toNat then none else some p

/-- The base cell of a point in 2^-96 mm; none outside the map (R132). -/
def cellOf (d : MapDesc) (e n : Int) : Option (Nat × Nat) :=
  let i := (e - d.orgx.toInt * one96) / (d.cell * one96)
  let j := (n - d.orgy.toInt * one96) / (d.cell * one96)
  if 0 ≤ i ∧ i < (64 * d.tw : Nat) ∧ 0 ≤ j ∧ j < (64 * d.th : Nat) then some (i.toNat, j.toNat) else none

def takeSample (s : State) (d : MapDesc) (e n : Int) : QSample :=
  match cellOf d e n with
  | none => ⟨none, ⟨0, false, 0, false⟩⟩
  | some c => ⟨some c, cellRead s d c.1 c.2⟩

/-- The lattice of a footprint (R154): row by row, columns from the right to the left. -/
def footprint (s : State) (d : MapDesc) (width : Nat) (g : Ground) : Nat × List QSample :=
  let cols := min 32 ((2 * width + d.cell - 1) / d.cell)
  let rows := min 2 (1 + g.v.natAbs * 2 * s.period / (1000000000 * d.cell * 2 ^ 96))
  let sn := sinTurn g.hd
  let cs := cosTurn g.hd
  let dir : Int := if 0 ≤ g.v then 1 else -1
  (cols, (List.range rows).flatMap fun (r : Nat) => (List.range cols).map fun (j : Nat) =>
    let lat : Int := (width : Int) * (2 * (j : Int) + 1 - (cols : Int))
    let fwd : Int := dir * (r : Int) * (d.cell : Int)
    takeSample s d (g.e - lat * sn / (2 * cols) + fwd * cs / 2) (g.n + lat * cs / (2 * cols) + fwd * sn / 2))

/-- What a SQRY fixes for one outlet. -/
def queryOutlet (s : State) (d : MapDesc) (pose : Option Pose) (k : Nat) : QOutlet :=
  let cfg := s.rd (Reg.OUT_CFG k)
  let foot := s.rd (Reg.OUT_FOOT k)
  let on := leadOn s k
  let base : QOutlet := { num := k, early := 0, lead := !on, learned := delayLearned s k on, east := 0, north := 0, speed := 0, cols := 0,
                          samples := [], ton := fld foot 16 8, toff := fld foot 24 8, exign := bit cfg 12, on := outState s k }
  if ¬ bit cfg 31 then { base with early := 1 }
  else if ¬ d.en then { base with early := 2 }
  else match pose with
    | none => { base with early := 3 }
    | some p =>
      let q := outletPos s k
      let dt : Int := (s.base + s.period + s.rf (Reg.OUT_XOFS k) 0 24 + (delayInUse s k on + addOn s k on) * 10000 : Nat) - p.at_
      let g := groundAt p q.1 q.2.1 q.2.2 dt
      let f := footprint s d (fld foot 0 16) g
      { base with east := round96 g.e, north := round96 g.n, speed := round96 g.v, cols := f.1, samples := f.2 }

/-- A fresh ticket: nonzero and unlike those of the frame's other queries (R78); any such value may come (log entry 2). -/
def freshTicket (s : State) : Word :=
  let t := s.freeWord
  if t ≠ 0 ∧ !s.scr.started.contains t then t
  else match (List.range 258).find? (fun n => decide (n ≠ 0) && !s.scr.started.contains (BitVec.ofNat 32 n)) with
    | some n => BitVec.ofNat 32 n
    | none => 0

/-- A query that is not started (R159). -/
def State.refuseQuery (s : State) (badAddr : Bool) : State :=
  (s.count Reg.SCR_CNT 16 16 1).iff badAddr (fun t => t.setFlag Reg.SCR_STAT 4 true)

/-- SQRY of `count` outlets from `a`, its results to the FMEM engine address `b` (R80, R157, R159): the ticket, 0 when it is not started. -/
def State.scribeQuery (s : State) (a b count : Nat) : Word × State :=
  let o := b % 2 ^ 29
  let bad := decide (o % 16 ≠ 0) || decide (0x400000 < o + 16 * count)
  if 256 < s.rf Reg.SCR_STAT 16 9 + count ∨ 256 < a + count ∨ bad then (0, s.refuseQuery bad)
  else
    let t := freshTicket s
    let d := mapDesc s (activeMap s)
    let pose := queryPose s
    let q : Query := { ticket := t, frame := s.frame, bound := s.now + 2 * (600 + 60 * count), count := count, addr := o, desc := d, outside := s.flag Reg.SCR_CTRL 8,
                       outlets := (List.range count).map (fun k => queryOutlet s d pose (a + k)) }
    let s1 := s.spend.setFld Reg.SCR_STAT 16 9 (s.rf Reg.SCR_STAT 16 9 + count)
    let s2 := s1.iff pose.isNone (fun u => u.setFlag Reg.SCR_STAT 3 true)
    (t, { s2 with scr := { s2.scr with queries := s2.scr.queries ++ [q], started := t :: s2.scr.started,
                                       bounds := SMap.insert s2.scr.bounds t.toNat q.bound } })

/-- A sample at the completion of its query: the cell as it was or as it is, where a mark changed it meanwhile (R157). A sample in error has no
index, and one outside with OUTSIDE = 1 neither index nor coverage: free values (log entry 2). The number says which free value. -/
def settleSample (s : State) (q : Query) (x : QSample) (n : Nat) : CellRead :=
  let f := Config.freeNat n
  match x.cell with
  | none => if q.outside then ⟨f % 4, true, f / 4 % 256, false⟩ else ⟨0, false, 0, false⟩
  | some c =>
    let now := cellRead s q.desc c.1 c.2
    let r := if now = x.was ∨ f % 2 = 0 then x.was else now
    if r.err then { r with prx := f / 2 % 256 } else r

def numbered {α : Type} : Nat → List α → List (Nat × α)
  | _, [] => []
  | n, x :: xs => (n, x) :: numbered (n + 1) xs

/-- SUG (R158). -/
def suggest (o : QOutlet) (excl : Bool) (covf : Nat) : Bool :=
  if o.early ≠ 0 then false
  else if excl ∧ ¬ o.exign then false
  else if o.toff = 0 then true
  else if o.on then decide (covf < o.toff)
  else decide (covf ≤ o.ton)

/-- The four words of an outlet's result (R155, R156), whether it is a DRAM error, and the state with its free values spent. -/
def outletResult (s : State) (q : Query) (o : QOutlet) : List Word × Bool × State :=
  if o.early ≠ 0 then ([BitVec.ofNat 32 (2 ^ 24 + o.early * 2 ^ 29), 0, 0, 0], false, s)
  else
    let xs := (numbered s.free o.samples).map (fun p => settleSample s q p.2 p.1)
    let all := xs.length
    let covf := 255 * (xs.filter (fun c => decide (1 ≤ c.cov))).length / all
    let dblf := 255 * (xs.filter (fun c => decide (2 ≤ c.cov))).length / all
    let excl := xs.any (·.excl)
    let prx := (xs.getD (o.cols / 2) ⟨0, false, 0, false⟩).prx
    let mix := xs.any (fun c => decide (c.prx ≠ prx))
    let err := xs.any (·.err)
    let status := if err then 4 else if o.samples.any (fun x => x.cell.isNone) then 5 else 0
    let w := covf + dblf * 2 ^ 8 + prx * 2 ^ 16 + b2n excl * 2 ^ 24 + b2n mix * 2 ^ 25 + b2n (suggest o excl covf) * 2 ^ 26
      + b2n o.lead * 2 ^ 27 + b2n o.learned * 2 ^ 28 + status * 2 ^ 29
    ([BitVec.ofNat 32 w, wrap o.east, wrap o.north, wrap o.speed], err, { s with free := s.free + all })

/-- The results of a query, outlet by outlet, each stored at its place in FMEM with the tags of its words (R35, R155, R156). -/
def State.storeResults (s : State) (q : Query) : Nat → List QOutlet → State
  | _, [] => s
  | n, o :: os =>
    let r := outletResult s q o
    let s1 := r.2.2.fmemPut (q.addr + 16 * n) r.1
    let s2 := if r.2.1 then (s1.setFlag Reg.SCR_STAT 11 true).raise 66 (BitVec.ofNat 32 o.num) else s1
    s2.storeResults q (n + 1) os

/-- The queries without the oldest one with a ticket: a ticket may come again in a later frame (R78). -/
def dropQuery (l : List Query) (t : Word) : List Query := l.eraseP (fun q => decide (q.ticket = t))

/-- The oldest started query with a ticket, and whether it was started in the present frame. -/
def queryOf (s : State) (t : Word) : Option Query := s.scr.queries.find? (fun q => decide (q.ticket = t))
def queryNow (s : State) (t : Word) : Bool := (queryOf s t).any (fun q => decide (q.frame = s.frame))

/-- A started query is complete: its results are in FMEM, and a SWAIT of its frame sees it. -/
def State.queryDone (s : State) (t : Word) : State :=
  match queryOf s t with
  | none => s
  | some q =>
    let s1 := s.storeResults q 0 q.outlets
    { s1 with scr := { s1.scr with queries := dropQuery s1.scr.queries t, done := if q.frame = s.frame then t :: s1.scr.done else s1.scr.done } }

/-- Scribe has failed on a started query (R159): it is lost, with a Scribe fault. -/
def State.queryFailed (s : State) (t : Word) : State :=
  match queryOf s t with
  | some _ => ({ s with scr := { s.scr with queries := dropQuery s.scr.queries t } }).raise 65 0
  | none => s

/-! ### Marking (R138, R160 to R164) -/

/-- Marking is active in RUN, LIMP and SAFE (R174). -/
def markingOn (s : State) : Bool := s.sys.mode = .run || s.sys.mode = .limp || s.sys.mode = .safe

def State.marking (s : State) (k : Nat) : Marking := SMap.get Marking.none s.scr.marks k
def State.setMarking (s : State) (k : Nat) (x : Marking) : State :=
  { s with scr := { s.scr with marks := SMap.set Marking.none s.scr.marks k x } }

/-- A mark event or a cell update is discarded: counted, with its flag. -/
def State.markReject (s : State) (flag : Nat) : State := (s.setFlag Reg.SCR_STAT flag true).count Reg.SCR_CNT 0 16 1

/-- One byte of DRAM rewritten; a write leaves it with valid ECC. -/
def State.dramPut (s : State) (a : Nat) (bs : List Byte) : State :=
  { s with dram := Mem.stBytes s.dram a bs, dramBad := s.dramBad.filter (fun x => !(decide (a ≤ x) && decide (x < a + bs.length))) }

/-- Raise the coverage of a cell in the stored tile at DRAM offset `t`, for outlet `k` (R162, R407). -/
def State.raiseCell (s : State) (k : Nat) (d : MapDesc) (t i j : Nat) : State :=
  let n := d.inTile 0 i j * 2
  let a := t + n / 8
  if mapRegion < t + 1024 ∨ !dramOk s a 1 then (s.markReject 11).raise 66 (BitVec.ofNat 32 k)
  else
    let b := (SMap.get 0 s.dram a).toNat
    let v := b / 2 ^ (n % 8) % 4
    if 3 ≤ v then s else s.dramPut a [BitVec.ofNat 8 (b + 2 ^ (n % 8))]

/-- A uniform tile filled with its value, four cells to a byte. -/
def uniformTile (v : Nat) : List Byte := List.replicate 1024 (BitVec.ofNat 8 (v % 4 * 85))

/-- Mark one coverage cell of a map for outlet `k`, allocating its tile when it is uniform (R138). A directory word that reads as a DRAM error takes no mark
(DEDUCED, log entry 25), and a pool whose next tile would lie outside the map region has none left (DESIGN CHOICE, log entry 66). -/
def State.markCell (s : State) (k : Nat) (d : MapDesc) (i j : Nat) : State :=
  let a := d.wordAt 0 i j
  if !dramOk s a 4 then (s.markReject 11).raise 66 (BitVec.ofNat 32 k)
  else match dirWord (Mem.ld s.dram a) with
    | .bad => (s.markReject 11).raise 66 (BitVec.ofNat 32 k)
    | .stored x => s.raiseCell k d (d.pool 0 + x * 1024) i j
    | .uniform v =>
      let next := s.rf (Reg.MAP_CNEXT d.num) 0 21
      let t := d.pool 0 + next * 1024
      if next = s.rf (Reg.MAP_CLEN d.num) 0 21 ∨ mapRegion < t + 1024 then (s.markReject 6).raise 67 (BitVec.ofNat 32 d.num)
      else
        let s1 := (s.dramPut t (uniformTile v)).raiseCell k d t i j
        (s1.dramPut a (bytesOf (BitVec.ofNat 32 (2 ^ 31 + next)))).setFld (Reg.MAP_CNEXT d.num) 0 21 (next + 1)

/-- The latest pose of the history whose instant is not later than `t`. -/
def poseAt (s : State) (t : Int) : Option Pose := s.scr.poses.find? (fun p => decide (p.at_ ≤ t))

/-- Where an outlet is at an instant (R162). -/
def outletAt (s : State) (k : Nat) (t : Int) : Option Ground :=
  (poseAt s t).map (fun p => let q := outletPos s k; groundAt p q.1 q.2.1 q.2.2 (t - p.at_))

/-- A point's distance ahead of an outlet's lateral line, and to its left, in 2^-96 mm. -/
def aheadBy (g : Ground) (e n : Int) : Int := ((e - g.e) * cosTurn g.hd + (n - g.n) * sinTurn g.hd) / one96
def leftBy (g : Ground) (e n : Int) : Int := ((n - g.n) * cosTurn g.hd - (e - g.e) * sinTurn g.hd) / one96

/-- The EDGE tick between two at which a point, ahead at the first and not at the second, is passed (R162; DEDUCED, log entry 26). -/
def crossing1 (s : State) (k : Nat) (e n : Int) : Nat → Int → Int → Int
  | 0, _, hi => hi
  | f + 1, lo, hi =>
    if hi ≤ lo + 1 then hi
    else
      let mid := (lo + hi) / 2
      match outletAt s k mid with
      | some g => if 0 < aheadBy g e n then crossing1 s k e n f mid hi else crossing1 s k e n f lo mid
      | none => hi

/-- A cell is marked in the segment from t1 to t2 (R162). -/
def cellPassed (s : State) (k : Nat) (width : Nat) (d : MapDesc) (t1 t2 : Int) (g1 g2 : Ground) (i j : Nat) : Bool :=
  let e := d.orgx.toInt * one96 + (2 * i + 1) * d.cell * 2 ^ 95
  let n := d.orgy.toInt * one96 + (2 * j + 1) * d.cell * 2 ^ 95
  if 0 < aheadBy g1 e n ∧ aheadBy g2 e n ≤ 0 then
    match outletAt s k (crossing1 s k e n 64 t1 t2) with
    | some g =>
      let l := leftBy g e n
      decide (-(width * 2 ^ 95 : Int) ≤ l) && decide (l < (width * 2 ^ 95 : Int))
    | none => false
  else false

/-- A distance, mm, that no point the outlet's line passes in a segment exceeds from its first point: half the width, the travel of the reference
point, the outlet's swing, and the way between the ends. -/
def segmentReach (s : State) (k width : Nat) (t1 t2 : Int) (g1 g2 : Ground) : Int :=
  let q := outletPos s k
  let arm : Int := q.1.natAbs + q.2.1.natAbs + q.2.2.natAbs
  let dt := t2 - t1
  let p := (poseAt s t1).map (fun p => (p.speed.natAbs * dt) / 1000000000 + (p.yaw.natAbs * arm * 7 * dt) / (2 ^ 32 * 1000000000))
  width + p.getD 0 + (((g2.e - g1.e).natAbs + (g2.n - g1.n).natAbs : Nat) : Int) / one96 + 8

/-- The cells of a map whose centres may be passed, in rows from the south. -/
def nearCells (d : MapDesc) (g : Ground) (r : Int) : List (Nat × Nat) :=
  let lo := fun (o : Int) (p : Int) (m : Nat) => (max 0 (min (m : Int) ((p / one96 - r - o) / d.cell - 1))).toNat
  let hi := fun (o : Int) (p : Int) (m : Nat) => (max 0 (min (m : Int) ((p / one96 + r - o) / d.cell + 2))).toNat
  let w := 64 * d.tw
  let h := 64 * d.th
  let i0 := lo d.orgx.toInt g.e w
  let j0 := lo d.orgy.toInt g.n h
  (List.range (hi d.orgy.toInt g.n h - j0)).flatMap fun y => (List.range (hi d.orgx.toInt g.e w - i0)).map fun x => (i0 + x, j0 + y)

/-- The map of a segment that ends at an instant: the one that was active then (R140; DEDUCED, log entry 69). -/
def mapAt (s : State) (t : Int) : Nat :=
  match s.scr.maps.reverse.find? (fun x => decide (t < x.1)) with
  | some x => x.2
  | none => activeMap s

/-- Mark one segment of an outlet on its map (R140, R162, R163). -/
def State.markSegment (s : State) (k : Nat) (t1 t2 : Int) : State :=
  let d := mapDesc s (mapAt s t2)
  let w := s.rf (Reg.OUT_FOOT k) 0 16
  match outletAt s k t1, outletAt s k t2 with
  | some g1, some g2 =>
    if ¬ d.en ∨ t2 ≤ t1 then s
    else
      let cells := (nearCells d g1 (segmentReach s k w t1 t2 g1 g2)).filter (fun c => cellPassed s k w d t1 t2 g1 g2 c.1 c.2)
      eachOf cells (fun c u => u.markCell k d c.1 c.2) s
  | _, _ => s

/-- Mark from t1 to t2 in segments that end at the instants of accepted poses (R162). -/
def State.markSpan (s : State) (k : Nat) (t1 t2 : Int) : State :=
  let cuts := ((s.scr.poses.map (·.at_)).filter (fun t => decide (t1 < t) && decide (t < t2))).reverse
  (cuts ++ [t2]).foldl (fun (a : State × Int) t => (a.1.markSegment k a.2 t, t)) (s, t1) |>.1

/-- Marking of an outlet has no event left at or before `t`: an open delivery is marked up to there, and `ahead` are the events still to come. -/
def State.markReach (s : State) (k : Nat) (t : Int) (ahead : List MarkEvent) : State :=
  let x := s.marking k
  match x.open_, x.last with
  | true, some l =>
    if l < t then (s.markSpan k l t).setMarking k { x with last := some t, ahead := ahead } else s.setMarking k { x with ahead := ahead }
  | _, _ => s.setMarking k { x with ahead := ahead }

/-- Marking of an outlet advances to instant `t`, through the events that lie at or before it (R163). -/
def State.markTo (s : State) (k : Nat) (t : Int) : List MarkEvent → State
  | [] => s.markReach k t []
  | ev :: evs =>
    let x := s.marking k
    if t < ev.at_ then s.markReach k t (ev :: evs)
    else
      let s1 := match x.open_, x.last with
        | true, some l => s.markSpan k l ev.at_
        | _, _ => s
      (s1.setMarking k { x with open_ := ev.on, last := some (max ev.at_ (x.last.getD ev.at_)) }).markTo k t evs

/-- Marking of an outlet advances to the instant of the latest accepted pose (R163). -/
def State.markAdvance (s : State) (k : Nat) : State :=
  match s.scr.poses with
  | p :: _ => if markingOn s then s.markTo k p.at_ (s.marking k).ahead else s
  | [] => s

/-- The outlet's last marked instant: reached, or accepted ahead. -/
def lastMarked (x : Marking) : Option Int :=
  match x.ahead.getLast? with
  | some e => some (max e.at_ (x.last.getD e.at_))
  | none => x.last

/-- A mark event enters marking, or is discarded (R161, R174). Where several cases apply the first of OVF, SEQ and OLD sets its flag alone (DESIGN
CHOICE, log entry 97). -/
def State.markEvent (s : State) (k : Nat) (on : Bool) (at_ : Int) : State :=
  let x := s.marking k
  if !markingOn s then s.markReject 12
  else if 512 ≤ s.scr.accepted then (s.markReject 7).raise 68 0
  else if x.delivering = on then s.markReject 9
  else if (match s.scr.poses.getLast? with | some p => decide (at_ < p.at_) | none => false)
      || (match lastMarked x with | some l => decide (at_ < l) | none => false) then s.markReject 8
  else
    let s1 := { s with scr := { s.scr with accepted := s.scr.accepted + 1 } }
    (s1.setMarking k { x with delivering := on, ahead := x.ahead ++ [⟨on, at_⟩] }).markAdvance k

/-- SMARK (R81, R160): the delivery instant of an outlet with MARKSRC 0 or 1; with 2 or 3 the mark is discarded. The hardware
tracks outlets 0 to 255, and a greater number names nothing to mark (R141). -/
def State.smark (s : State) (k : Nat) (on : Bool) (frame : BitVec 48) (ofs : Nat) : State :=
  if 256 ≤ k then s
  else if 2 ≤ markSrc s k then (s.setFlag Reg.SCR_STAT 10 true).count Reg.SCR_CNT 0 16 1
  else
    let d := (if markSrc s k = 0 then delayInUse s k on else 0) + addOn s k on
    s.markEvent k on (s.base + (frame - s.frame).toInt * s.period + ofs + (d * 10000 : Nat))

/-- SPOSE (R144): accepted into the history, or discarded; marking then advances to it. Of a pose that is both
out of range and too early POSE_RANGE alone is set (DESIGN CHOICE, log entry 97). -/
def State.spose (s : State) (l : List Int) : State :=
  let g := fun n => l.getD n 0
  let at_ := s.base + g 7
  if g 7 < -16000000 ∨ 0 < g 7 then s.setFlag Reg.SCR_STAT 1 true
  else if (match s.scr.poses with | p :: _ => decide (at_ ≤ p.at_) | [] => false) then s.setFlag Reg.SCR_STAT 2 true
  else
    let p : Pose := ⟨at_, s.frame, g 0, g 1, g 2, g 3, g 4, g 5, g 6⟩
    let s1 := { s with scr := { s.scr with poses := (p :: s.scr.poses).take 4096 } }
    eachOf (s1.scr.marks.map (·.1)) (fun k u => u.markAdvance k) s1

/-! ### The boundary (R150, R164, R172, R174) -/

/-- The duty that a PWM channel has taken over gives it an active time; in MODE 3 the duty is the off-time (R199). -/
def pwmAsksOn (s : State) (p : Nat) : Bool :=
  let x := s.pch p
  if fld x.cfg 26 3 = 3 then decide (dutyNs x.cfg x.shPer.toNat x.shDuty.toNat < x.shPer.toNat) else decide (x.shDuty ≠ 0)

/-- Step (3): the SCR_OSTATE bits of the enabled outlets with DRIVE 1 or 2 (R150), and a new frame's count of
query outlets. A disabled entry has an outlet of the other kind, whose bit is written by programs (DESIGN CHOICE, log entry 97). -/
def State.scribeBoundary (s : State) : State :=
  let outs := s.regs.filterMap fun x =>
    if 0x024000 ≤ x.1 ∧ x.1 < 0x026000 ∧ (x.1 - 0x024000) % 0x20 = 0 ∧ bit x.2 31 ∧ (fld x.2 28 3 = 1 ∨ fld x.2 28 3 = 2) then
      some ((x.1 - 0x024000) / 0x20, if fld x.2 28 3 = 2 then 96 + fld x.2 18 8 else fld x.2 18 8)
    else none
  let isOn := fun (t : State) (c : Nat) =>
    lswInput t c || (decide (t.rf (Reg.CH_CFG c) 28 2 = 1) && t.flag (Reg.CH_CMD c) 31 && pwmAsksOn t (pwmOfSwitch c))
  let s1 := eachOf outs (fun o t => t.setFlag (Reg.SCR_OSTATE (o.1 / 32)) (o.1 % 32) (isOn t o.2)) s
  s1.setFld Reg.SCR_STAT 16 9 0

/-- The Gauge measurements and mark events of an input record take effect, after step (2); Gauge is off in BOOT and
SERVICE (R164, R169, R172, R174). -/
def State.scribeItems (s : State) (items : List RecItem) : State :=
  eachOf items (fun i t =>
    match i.kind, i.data with
    | .gauge, [c, onEdge, m] => if gaugeRuns t then t.gaugeUpdate c (decide (onEdge = 1)) m else t
    | .mark, [k, on, f, o] =>
      t.markEvent k (decide (on = 1)) (t.base + (BitVec.ofNat 48 f - t.frame).toInt * t.period + o)
    | _, _ => t) s

/-- Marking is off in a mode: every delivery ends where marking has reached (DEDUCED from R32, log entry 26). -/
def State.marksOff (s : State) : State := if markingOn s then s else { s with scr := { s.scr with marks := [] } }

/-- A write to an SCR_OSTATE word: the bits of local outlets keep their values (R150, R175). -/
def ostateWrite (s : State) (n : Nat) (v : Word) : Word :=
  (List.range 32).foldl (fun w i =>
    let cfg := s.rd (Reg.OUT_CFG (32 * n + i))
    if bit cfg 31 ∧ (fld cfg 28 3 = 1 ∨ fld cfg 28 3 = 2) then put w i 1 (fld (s.rd (Reg.SCR_OSTATE n)) i 1) else w) v

end Sys2Proof.Machine
end

