-- ==== Sys2Proof/Machine/HostOps.lean ====
section
/-! DEFINITION. The host port's pages and streams (R363 to R374). -/
namespace Sys2Proof.Machine

/-! ### Pages (R363 to R367) -/

def State.page (s : State) (p : Nat) : Page := SMap.get Page.reset s.hp.pages p
def State.setPage (s : State) (p : Nat) (x : Page) : State := { s with hp := { s.hp with pages := SMap.set Page.reset s.hp.pages p x } }

/-- The first word of a run of FMEM words that fails its check, with its number (R35). -/
def badCopyWord (s : State) (ofs : Nat) (n : Nat) : Option (Nat × Word × Byte) :=
  (List.range n).findSome? fun i =>
    let w := Mem.ld s.fmem (ofs + 4 * i)
    let t := SMap.get 0 s.fmemTag (ofs + 4 * i)
    if t = tagOf w then none else some (i, w, t)

/-- A publish of page `p` arrives: its words are taken from FMEM, and the copy is complete a little later (R364). None in BOOT (R379). -/
def State.publishPage (s : State) (p : Nat) : State :=
  if !s.flag (Reg.HP_PCFG p) 31 || s.sys.mode = .boot || !s.clocked then s
  else
    let ofs := s.rf (Reg.HP_PSRC p) 0 22
    let n := s.rf (Reg.HP_PCFG p) 0 8
    let c : PageCopy := { frame := s.frame.toNat, bad := badCopyWord s ofs n, data := Mem.words s.fmem ofs n }
    { s with hp := { s.hp with copying := s.hp.copying ++ [(p, c)] } }

/-- A write to HP_PUB_LO (first page 0) or HP_PUB_HI (first page 32). -/
def State.publish (s : State) (first : Nat) (v : Word) : State := each 32 (fun k t => if bit v k then t.publishPage (first + k) else t) s

/-- The oldest copy of page `p` is complete: it belongs to the next flip, or to the one after once the cutoff has passed (R364). A word
that failed its check is sent to the collector under its address in the mirror window (R367). -/
def State.pageCopied (s : State) (p : Nat) : State :=
  match s.hp.copying.find? (fun x => decide (x.1 = p)) with
  | none => s
  | some x =>
    let c := (p, { x.2 with frame := s.frame.toNat })
    let h := { s.hp with copying := s.hp.copying.erase x }
    let s1 := { s with hp := if s.closed then { h with copyAfter := h.copyAfter ++ [c] } else { h with copyNext := h.copyNext ++ [c] } }
    match x.2.bad with
    | some b =>
      let a := BitVec.ofNat 32 (p * 0x400 + 16 + 4 * b.1)
      s1.raiseDowel 45 a b.2.1 b.2.2 a
    | none => s1

/-- A frame begins: the copies of the frame before are for its flip. -/
def State.pagesBoundary (s : State) : State :=
  { s with hp := { s.hp with copyNow := s.hp.copyNext, copyNext := s.hp.copyAfter, copyAfter := [] } }

/-- Page `p` at a flip (R364 to R367): the last copy of it renews it, unless a word of that copy failed. -/
def State.flipPage (s : State) (p : Nat) : State :=
  let x := s.page p
  match (s.hp.copyNow.filter (fun y => decide (y.1 = p))).getLast? with
  | none => s.setPage p { x with stale := true }
  | some c =>
    if c.2.bad.isSome then s.setPage p { x with stale := true, dowel := true }
    else
      let s1 := s.setPage p { seq := x.seq + 1, stale := false, dowel := false, frame := c.2.frame, data := c.2.data,
                              read := false }
      if s.flag (if p < 32 then Reg.HP_PIRQ_LO else Reg.HP_PIRQ_HI) (p % 32) then s1.irq 1 else s1

def State.flipPages (s : State) : State :=
  let s1 := each 64 (fun p t => t.flipPage p) s
  { s1 with hp := { s1.hp with copyNow := [] } }

/-- Word `w` of page `p` as the mirror window shows it (R363). -/
def pageWord (s : State) (p w : Nat) : Word :=
  let x := s.page p
  match w with
  | 0 => x.seq
  | 1 => BitVec.ofNat 32 (b2n x.stale + 2 * b2n x.read + 4 * b2n x.dowel + 8 * b2n (s.flag (Reg.HP_PCFG p) 31))
  | 2 => BitVec.ofNat 32 x.frame
  | 3 => BitVec.ofNat 32 (x.frame / 2 ^ 32 % 2 ^ 16)
  | n => x.data.getD (n - 4) 0

/-! ### Streams (R369 to R373) -/

def State.setStream (s : State) (x : Stream) : State := { s with hp := { s.hp with stream := some x } }

/-- A stream is busy. -/
def streamBusy (s : State) : Bool :=
  match s.hp.stream with
  | some x => x.busy
  | none => false

/-- The stream ends: done (ERR 0), or with an error; STREAM in HP_ISTAT (R370, R372, R373, R375). Only an ECC error leaves its halves in the
buffer. -/
def State.streamEnd (s : State) (err : Nat) : State :=
  match s.hp.stream with
  | none => s
  | some x =>
    if !x.busy then s
    else
      let s1 := s.setStream { x with busy := false, left := 0, stop := x.pos, half := none, buf := if err = 3 then x.buf else [] }
      let s2 := (s1.setFlag Reg.HP_SSTAT 0 false).setFld Reg.HP_SSTAT 8 3 err
      (s2.iff (err = 0) (fun t => t.setFlag Reg.HP_SSTAT 2 true)).irq 3

/-- A GO is refused (R370). -/
def State.streamRefuse (s : State) (err : Nat) : State := (s.setFld Reg.HP_SSTAT 8 3 err).irq 3

/-- Bytes of a stream space with offsets (R369). -/
def spaceBytes (space : Nat) : Nat :=
  match space with
  | 0 => 0x400000
  | 1 => 0x80000000
  | 2 => 0x800000
  | 3 => 0x400000
  | _ => 0

/-- The run of a write reaches the active program bank (R99, R370). -/
def runsIntoActive (s : State) (a n : Nat) : Bool :=
  let b := s.rf Reg.PROG_BANK 8 1 * 0x400000
  s.flag Reg.PROG_BANK 10 && decide (a < b + 0x400000) && decide (b < a + n)

/-- The error of a GO, in the order of the table of R370: 0 none. -/
def goError (s : State) (space : Nat) (write : Bool) (a n : Nat) : Nat :=
  if 5 ≤ space ∨ (space ≠ 4 ∧ (a % 4 ≠ 0 ∨ n % 4 ≠ 0 ∨ n = 0 ∨ spaceBytes space < a + n)) then 1
  else if write ∧ (space = 3 ∨ space = 4 ∨ (space = 2 ∧ runsIntoActive s a n)) then 2
  else if s.sys.mode = .boot ∨ s.sys.mode = .freeze then 4
  else 0

/-- RSEQ at which a stream of space 4 begins: REC_RDSTART, or REC_OLDEST when REC_RDSTART is older (R427). -/
def readFrom (s : State) : Word :=
  if recBack s (s.rd Reg.REC_OLDEST) < recBack s (s.rd Reg.REC_RDSTART) then s.rd Reg.REC_OLDEST else s.rd Reg.REC_RDSTART

/-- The accepted GO of a read of space 4 (R427, R428): in RDMODE 0 up to the freeze point, without a freeze no data; in RDMODE 1 up to the
last record written. A start at or after that end has no data. -/
def State.recStream (s : State) : State :=
  let first := readFrom s
  let stop := if s.rf Reg.REC_CFG 0 1 = 1 then s.rd Reg.REC_HEAD else if s.flag Reg.REC_STAT 0 then s.rd Reg.REC_FRZSEQ else first
  let s1 := ({ s with rcd := { s.rcd with readYet := true } }).wr Reg.REC_RDPOS first
  let s2 := s1.setStream ⟨true, 4, false, first.toNat, 0, stop.toNat, none, [], 0⟩
  if recBack s first ≤ recBack s stop then s2.streamEnd 0 else s2

/-- A write to HP_SCTL: STOP ends a busy stream, and GO starts one (R369, R370). -/
def State.streamCtl (s : State) (v : Word) : State :=
  let s := if (bit v 8 ∨ bit v 0) ∧ streamBusy s then s.streamEnd 5 else s
  if !bit v 0 then s
  else
    let space := fld v 4 3
    let write := bit v 1
    let a := (s.rd Reg.HP_SADR).toNat
    let n := (s.rd Reg.HP_SLEN).toNat
    let err := goError s space write a n
    if err ≠ 0 then
      (s.iff (decide (err = 2) && decide (space = 2)) (fun t => t.setFlag Reg.PROG_STAT 25 true)).streamRefuse err
    else
      let s1 := ((((s.setFld Reg.HP_SSTAT 8 3 0).setFlag Reg.HP_SSTAT 1 write).setFlag Reg.HP_SSTAT 0 true)).wr Reg.HP_SPOS 0
      if space = 4 then s1.recStream
      else s1.setStream ⟨true, space, write, a, n, 0, none, [], 256⟩

/-- The word at an offset of spaces 0 to 3; none for an uncorrectable error in DRAM or MRAM. -/
def spaceWord (s : State) (space a : Nat) : Option Word :=
  match space with
  | 0 => some (Mem.ld s.fmem a)
  | 1 => if dramOk s a 4 then some (Mem.ld s.dram a) else none
  | 2 => if mramFails s 2 a then none else some (Mem.ld s.prog a)
  | _ => if mramFails s 3 a then none else some ((SMap.get [] s.jrn.ring (a / 64)).getD (a % 64 / 4) 0)

def wordHalves (w : Word) : List (BitVec 16 × Option Word) := [(w.extractLsb' 0 16, none), (w.extractLsb' 16 16, none)]

/-- The stored record that comes next from RSEQ `pos`, before RSEQ `stop`: its slot and its words. -/
def nextRecord (s : State) (pos stop : Word) : Option (Nat × List Word) :=
  match oldestSlot pos (fun ws => decide ((ws.getD 0 0 - pos).toNat < (stop - pos).toNat)) s.rcd.slots with
  | some x => some x
  | none => none

/-- REC_RDPOS moves on past skipped records: at once when the buffer is empty, else with the last half before them (R428). -/
def State.skipTo (s : State) (x : Stream) (next : Word) : State × Stream :=
  match x.buf.getLast? with
  | none => (s.wr Reg.REC_RDPOS next, x)
  | some h => (s, { x with buf := x.buf.dropLast ++ [(h.1, some next)] })

/-- The next record of a stream of space 4 goes to the buffer (R427, R428): those no longer there are skipped, with GAP in RDMODE 1; one
whose CRC fails is delivered as it stands, and a word with an uncorrectable error ends the stream, delivered as 0 (R373). -/
def State.fetchRecord (s : State) (x : Stream) : State :=
  let pos := BitVec.ofNat 32 x.pos
  let stop := BitVec.ofNat 32 x.stop
  let gap (t : State) : State := if t.rf Reg.REC_CFG 0 1 = 1 then t.setFlag Reg.REC_STAT 2 true else t
  match nextRecord s pos stop with
  | none =>
    let r := (gap s).skipTo x stop
    r.1.setStream { r.2 with pos := x.stop }
  | some y =>
    let q := y.2.getD 0 0
    let r := if q = pos then (s, x) else (gap s).skipTo x q
    let halves := y.2.flatMap wordHalves
    let marked := halves.dropLast ++ halves.getLast?.toList.map (fun h => (h.1, some (q + 1)))
    match (List.range 16).find? (fun k => mramFails s 4 (64 * y.1 + 4 * k)) with
    | some k => (r.1.setStream { r.2 with buf := r.2.buf ++ halves.take (2 * k) ++ wordHalves 0 }).streamEnd 3
    | none =>
    let s1 := r.1.setStream { r.2 with pos := (q + 1).toNat, buf := r.2.buf ++ marked }
    if y.2.getD 15 0 = crc32c (bytesOfWords (y.2.take 15)) then s1
    else (s1.setFlag Reg.REC_STAT 3 true).raise 328 (BitVec.ofNat 32 y.1)

/-- One word, or one record, goes to the buffer of a read stream. -/
def State.fetchOne (s : State) : State :=
  match s.hp.stream with
  | none => s
  | some x =>
    if !x.busy || x.write || decide (256 < x.buf.length + (if x.space = 4 then 32 else 2)) then s
    else if x.space = 4 then (if x.pos = x.stop then s else s.fetchRecord x)
    else if x.left = 0 then s
    else match spaceWord s x.space x.pos with
      | some w => s.setStream { x with pos := x.pos + 4, left := x.left - 4, buf := x.buf ++ wordHalves w }
      | none => (s.setStream { x with buf := x.buf ++ wordHalves 0 }).streamEnd 3

def fetchMany : Nat → State → State
  | 0, s => s
  | k + 1, s => fetchMany k s.fetchOne

/-- A read stream has nothing left to take and nothing left to read: it is done (R372). -/
def State.streamDone (s : State) : State :=
  match s.hp.stream with
  | some x =>
    if x.busy && !x.write && x.buf.isEmpty && decide (if x.space = 4 then x.pos = x.stop else x.left = 0) then s.streamEnd 0 else s
  | none => s

/-- What the buffer has taken since it was last looked at: how much is ready, or how many places are free, depends on rates that are not
modelled, so it is free up to the capacity of 256 halves (R371, R374, log entry 2). -/
def State.streamFlow (s : State) : State :=
  match s.hp.stream with
  | none => s
  | some x =>
    if !x.busy then s
    else if x.write then (s.setStream { x with room := x.room + s.freeNat % (257 - x.room) }).spend
    else ((fetchMany (s.freeNat % 129) s).streamDone).spend

/-- A read in the streaming window (R371, R372); in FREEZE without the owner's grant it gives 0 (R379). -/
def State.streamRead (s : State) : State :=
  let locked := decide (s.sys.mode = .freeze) && !frzReadGranted s
  let s := (if locked then s.lockHit 2 else s).streamFlow
  let none_ (t : State) : State := ({ t with hp := { t.hp with hd := 0 } }).setFlag Reg.HP_SSTAT 3 true
  match s.hp.stream with
  | none => none_ s
  | some x =>
    if x.write || locked then none_ s
    else match x.buf with
      | [] => none_ s
      | h :: r =>
        let s1 := s.setStream { x with buf := r }
        let s2 := ({ s1 with hp := { s1.hp with hd := h.1 } }).setFld Reg.HP_SPOS 0 28 (s1.rf Reg.HP_SPOS 0 28 + 2)
        let s3 := match h.2 with
          | some q => s2.wr Reg.REC_RDPOS q
          | none => s2
        s3.streamDone

/-- A DRAM offset in the coverage directory or coverage pool of the active map (R139). -/
def covProtected (s : State) (a : Nat) : Bool :=
  let d := mapDesc s (activeMap s)
  let dir := d.dirAt 0
  markingOn s && ((decide (dir ≤ a) && decide (a < dir + 4 * (d.wide 0 * d.high 0)))
    || (decide (d.pool 0 ≤ a) && decide (a < d.pool 0 + 1024 * s.rf (Reg.MAP_CLEN d.num) 0 21)))

/-- A word of a write stream reaches its memory (R369, R372). -/
def State.spaceWrite (s : State) (space a : Nat) (w : Word) : State :=
  match space with
  | 0 => s.fmemPut a [w]
  | 1 => if covProtected s a then s.setFlag Reg.SCR_STAT 5 true else s.dramPut a (bytesOf w)
  | _ => s.bankWrite a w

/-- A write in the streaming window (R371, R372); in FREEZE it is discarded (R379). -/
def State.streamWrite (s : State) (v : BitVec 16) : State :=
  if s.sys.mode = .freeze then s.setFlag Reg.HP_STAT 6 true
  else
    let s := s.streamFlow
    let overrun (t : State) : State := t.setFlag Reg.HP_SSTAT 4 true
    match s.hp.stream with
    | none => overrun s
    | some x =>
      if !x.busy || !x.write || decide (x.room = 0) then overrun s
      else match x.half with
        | none => s.setStream { x with half := some v, room := x.room - 1 }
        | some lo =>
          let s1 := (s.setStream { x with half := none, room := x.room - 1, pos := x.pos + 4, left := x.left - 4 }).spaceWrite x.space
            x.pos (v ++ lo)
          let s2 := s1.setFld Reg.HP_SPOS 0 28 (s1.rf Reg.HP_SPOS 0 28 + 4)
          if x.left ≤ 4 then s2.streamEnd 0 else s2

end Sys2Proof.Machine
end

