-- ==== Sys2Proof/Machine/LswEvents.lean ====
section
/-! DEFINITION. The events of the switch channels and banks (R226 to R243, R15): what comes from their dies and pins. -/
namespace Sys2Proof.Machine

/-- The diagnostics of R233 and R242 run in IDLE, RUN, LIMP and SAFE (R254). -/
def diagOn (s : State) : Bool := gaugeRuns s && !s.sys.powerFail

/-! ### Commands and inputs -/

/-- CHANNEL_COMMAND_EFFECT: the command that entered at the boundary takes effect at its EDGE offset (R226). -/
def execChannelCommandEffect (c : Fin 108) (s : State) : Host.Outcome State Fault Refusal :=
  .next (match (s.lch c).wait with
    | some w =>
      if s.clocked then
        (((s.at (fld w 0 20)).wr (Reg.CH_CMD c) (w &&& 0x800FFFFF#32)).setLch c { s.lch c with wait := none }).settle c
      else s
    | none => s)

/-- DIN_EDGE: an accepted level of a DIN pin; the channels with INSEL 2 on that pin follow it (R225, R227). -/
def execDinEdge (t : Nat) (n : Fin 16) (level : Bool) (s : State) : Host.Outcome State Fault Refusal :=
  .next (if s.sys.mode = .sill then s
    else
      let m : BitVec 16 := 1#16 <<< n.val
      let s0 := s.at t
      let s1 := { s0 with lsw := { s0.lsw with din := if level then s0.lsw.din ||| m else s0.lsw.din &&& ~~~m } }
      each lswChannels (fun c u =>
        let cfg := u.rd (Reg.CH_CFG c)
        if fld cfg 28 2 = 2 ∧ fld cfg 16 4 = n then u.settle c else u) (if s0.lsw.din.getLsbD n = level then s1 else s1.refEdge 0 n level))

/-- The command of a channel that a failed block carried is discarded, and the channel keeps its state (R15): a block that arrives after the
cutoff carries the command that would enter at the coming boundary, and one that arrives before it the command that entered at the last one,
waiting for its offset or not (DEDUCED, log entry 68). -/
def State.dropCommand (s : State) (c : Nat) : State :=
  if s.closed then { s with stNext := s.stNext.filter (fun x => decide (x.1 ≠ Reg.CH_CMD c)) }
  else if (s.lch c).wait.isSome then s.setLch c { s.lch c with wait := none }
  else match s.lsw.entered.find? (fun x => decide (x.1 = c)) with
    | some x => (({ s with lsw := { s.lsw with entered := s.lsw.entered.filter (fun y => decide (y.1 ≠ c)) } }).wr (Reg.CH_CMD c) x.2).settle c
    | none => s

/-- DIE_LINK_BLOCK: a block of switch commands arrives at a power die; on a CRC failure it is discarded, its channels keep
their previous state, and the collector sees the die's link fault (R15). -/
def execDieLinkBlock (t : Nat) (die : Fin 3) (chs : List (Fin 108)) (ok : Bool) (s : State) : Host.Outcome State Fault Refusal :=
  .next (if ok || !s.clocked then s
    else
      let mine := chs.filter (fun c => decide ((if c.val < 48 then 0 else if c.val < 96 then 1 else 2) = die.val))
      ((eachOf mine (fun c u => u.dropCommand c) (s.at t)).count Reg.LSW_CNT 16 16 1).raise (200 + die) 0)

/-! ### Frame values (R232, R233, R242, R250) -/

/-- The window test of a channel is suspended: its bank is in CRANK, or its isolator is open (R235). -/
def windowSuspended (s : State) (c : Nat) : Bool := s.flag (Reg.BSTAT (bankOf c)) 1 || !s.flag (Reg.BSTAT (bankOf c)) 0

/-- The channel's frame value of this frame is compared (R233): the channel is on for longer than INR_T, and under a PWM input below 100 % only
with the input on throughout the 10 µs before. -/
def windowTested (s : State) (c : Nat) : Bool :=
  let x := s.lch c
  let p := s.pch (pwmOfSwitch c)
  s.flag (Reg.CH_STAT c) 1 && decide (fld x.inr 24 8 * 1000000 < s.now - x.onAt)
    && (decide (s.rf (Reg.CH_CFG c) 28 2 ≠ 1)
        || (decide (p.onFrom = 0) && decide (p.onTo = (s.rd (Reg.PWM_PER (pwmOfSwitch c))).toNat))
        || (s.flag (Reg.CH_STAT c) 0 && decide (10000 ≤ s.now - x.inAt)))

/-- The window test of one frame value (R233). -/
def State.windowTest (s : State) (c v : Nat) : State :=
  let x := s.lch c
  let deb := fld x.lim 0 8
  if v < fld x.win 0 16 then
    let run := min 255 (x.ucRun + 1)
    let hit := decide (deb ≤ run) && !x.ucDone
    let s1 := s.setLch c { x with ucRun := run, ocRun := 0, ucDone := x.ucDone || hit }
    if hit then (s1.chFlag c 10).raise (116 + bankOf c) (BitVec.ofNat 32 c) else s1
  else if fld x.win 16 16 < v then
    let run := min 255 (x.ocRun + 1)
    let hit := decide (deb ≤ run) && !x.ocDone
    let s1 := s.setLch c { x with ucRun := 0, ocRun := run, ocDone := x.ocDone || hit }
    if hit then (s1.chFlag c 11).raise (128 + bankOf c) (BitVec.ofNat 32 c) else s1
  else s.setLch c { x with ucRun := 0, ocRun := 0, ucDone := false, ocDone := false }

/-- One channel's frame value: CH_MEAS, LIM, REVB, and, for a device alone, its window test. Whether it is to be compared is kept: a pair
compares the sum of both devices' values when their records of it have been exchanged (R250). -/
def State.frameValue (s : State) (c : Nat) (m : ChSample) : State :=
  let s1 := s.wr (Reg.CH_MEAS c) (m.i ++ m.v)
  let s2 := (s1.setFlag (Reg.CH_STAT c) 2 (m.lim && s1.flag (Reg.CH_STAT c) 1)).setFlag (Reg.CH_STAT c) 6 m.revb
  let ok := diagOn s2 && !windowSuspended s2 c && windowTested s2 c
  let s3 := s2.setLch c { s2.lch c with tests := (ok :: (s2.lch c).tests).take 3 }
  if ok && s3.solo then s3.windowTest c m.i.toNat else s3

/-- A record's frame value of a channel (R170, R232). -/
def recordCurrent (items : List RecItem) (c : Nat) : Nat :=
  (items.findSome? (fun i => match i.kind, i.data with
    | .current, [k, v, _] => if k = c then some v else none
    | _, _ => none)).getD 0

/-- The window tests of a pair, at the deadline of the frame that computes on the agreed record (R250): the sum of the lead's value and the
follower's, from the two devices' records of one input set, which hold the frame values of two frames before. Frames with AGREED = 0, or for
which the twin's health word carries UNAGREED, are skipped. -/
def State.pairWindows (s : State) (unagreed : Bool) : State :=
  if s.solo || !s.flag Reg.SYS_FRMSTAT 0 || unagreed then s
  else each lswChannels (fun c u =>
    if (u.lch c).tests.getD 2 false then u.windowTest c (recordCurrent u.inrec.prev c + recordCurrent u.tru.twinRec c) else u) s

/-- The sum of the frame values of a bank's channels, mA. -/
def bankSum (s : State) (b : Nat) : Nat :=
  ((List.range (bankSize b)).map (fun i => s.rf (Reg.CH_MEAS (bankFirst b + i)) 16 16)).sum

/-- The bank-sum test (R242), raised once for each run; with BOCISO the isolator opens (R241). -/
def State.bankTest (s : State) (b : Nat) (vbank : Nat) : State :=
  let sum := bankSum s b
  let s1 := s.wr (Reg.BCUR b) (BitVec.ofNat 32 (vbank % 2 ^ 16 * 2 ^ 16 + sum / 10 % 2 ^ 16))
  if !diagOn s1 then s1
  else
    let x := s1.bank b
    if s1.rf (Reg.BLIM b) 0 16 < sum then
      let run := min 65535 (x.bocRun + 1)
      let hit := decide (s1.rf (Reg.BLIM b) 16 16 ≤ run) && !x.boc
      let s2 := s1.setBank b { x with bocRun := run, boc := x.boc || hit }
      if hit then
        let s3 := (s2.setFlag (Reg.BSTAT b) 3 true).raise (164 + b) 0
        if s3.flag (Reg.BCFG b) 3 then s3.openIso b else s3
      else s2
    else s1.setBank b { x with bocRun := 0, boc := false }

/-- FRAME_VALUE_SAMPLE: the frame values are sampled at FRAME_PERIOD − 15,000 ns; `chs` holds the channels' samples in order,
`banks` the bank supplies in 10 mV units (R232). -/
def execFrameValueSample (chs : List ChSample) (banks : List (BitVec 16)) (s : State) : Host.Outcome State Fault Refusal :=
  .next (if !s.clocked then s
    else
      let s1 := each lswChannels (fun c u => if chAbsent u c then u else u.frameValue c (chs.getD c ChSample.zero))
        (s.at (s.period - 15000))
      each lswBanks (fun b u => u.bankTest b (banks.getD b 0).toNat) s1)

/-! ### Off-state detection (R234, R235, R250) -/

/-- The detection mode in force: OLMODE, 0 on the follower of a pair. -/
def olMode (s : State) (c : Nat) : Nat := if s.follower then 0 else s.rf (Reg.CH_CFG c) 12 2

/-- The detection runs: the channel is off, 1 ms has passed since it turned off, and no suspension of R235 holds. -/
def offTested (s : State) (c : Nat) : Bool :=
  let x := s.lch c
  (diagOn s || (s.sys.mode = .service && !s.sys.powerFail)) && !chAbsent s c && !s.flag (Reg.CH_STAT c) 1
    && (!x.wasOn || decide (1000000 ≤ s.now - x.offAt))
    && !s.flag (Reg.BSTAT (bankOf c)) 1 && s.flag (Reg.BSTAT (bankOf c)) 0

/-- OFF_STATE_DETECTION: with OLMODE 1, whether the output has stood above the threshold for 1 ms; with OLMODE 2, whether the
reading of this frame stands above it, counting toward OL in even and STB in odd frames (R234). -/
def execOffStateDetection (t : Nat) (c : Fin 108) (above : Bool) (s : State) : Host.Outcome State Fault Refusal :=
  .next (
    let s := s.at t
    let x := s.lch c
    let ol (u : State) : State := (u.chFlag c 8).raise (140 + bankOf c) (BitVec.ofNat 32 c)
    let stb (u : State) : State := (u.chFlag c 9).raise (152 + bankOf c) (BitVec.ofNat 32 c)
    if !offTested s c then s
    else match olMode s c with
      | 1 =>
        if !above then s.setLch c { x with olRun := 0 }
        else if x.olRun = 0 then ol (s.setLch c { x with olRun := 1 }) else s
      | 2 =>
        if s.frame.toNat % 2 = 0 then
          let s1 := s.setLch c { x with olRun := if above then min 6 (x.olRun + 1) else 0 }
          if above ∧ x.olRun = 4 then ol s1 else s1
        else
          let s1 := s.setLch c { x with stbRun := if above then min 6 (x.stbRun + 1) else 0 }
          if above ∧ x.stbRun = 4 then stb s1 else s1
      | _ => s)

/-! ### Protection and retry (R236 to R239) -/

/-- A retry has been decided: a channel that locked off raises its lockout fault (R238). -/
def State.retryDecision (s : State) (c : Nat) : State :=
  let r := s.decideRetry c
  if r.2 then (r.1.gaugeAbort c).raise (104 + bankOf c) (BitVec.ofNat 32 c) else r.1

/-- CURRENT_LIMIT_TIMEOUT: the channel has stayed in its limit for LIMT ms outside its inrush time (R236). -/
def execCurrentLimitTimeout (t : Nat) (c : Fin 108) (s : State) : Host.Outcome State Fault Refusal :=
  .next (if s.flag (Reg.CH_STAT c) 1 ∧ ¬ (s.lch c).inrush then
      (((s.at t).chFlag c 12).raise (80 + bankOf c) (BitVec.ofNat 32 c)).retryDecision c
    else s)

/-- THERMAL_SHUTDOWN: the junction reaches 175 °C, on or off: TLATCH and TSD are set and the channel is off (R236, R237). -/
def execThermalShutdown (t : Nat) (c : Fin 108) (s : State) : Host.Outcome State Fault Refusal :=
  .next (if s.sys.mode = .sill ∨ chAbsent s c ∨ s.flag (Reg.CH_STAT c) 3 then s
    else
      let s0 := s.at t
      let s1 := (s0.setFlag (Reg.CH_STAT c) 3 true).chFlag c 13
      let s2 := s1.setLch c { s1.lch c with retryDue := (s1.lch c).retryDue || s0.flag (Reg.CH_STAT c) 1 }
      (s2.settle c).raise (92 + bankOf c) (BitVec.ofNat 32 c))

/-- TLATCH_RELEASE: the junction has fallen to 160 °C (R237); a retry is decided when the latch was set while the channel was
on, and otherwise the channel follows its input (R238). -/
def execTlatchRelease (t : Nat) (c : Fin 108) (s : State) : Host.Outcome State Fault Refusal :=
  .next (if !s.flag (Reg.CH_STAT c) 3 then s
    else
      let s1 := (s.at t).setFlag (Reg.CH_STAT c) 3 false
      if (s1.lch c).retryDue then s1.retryDecision c else s1.settle c)

/-- The retry timer of a channel has run for RT ms (R238). -/
def retryOver (s : State) (c : Nat) : Bool := decide ((s.lch c).retryAt + fld (s.lch c).rty 16 10 * 1000000 ≤ s.now)

/-- RETRY_TIMER_EXPIRY: with the input on the channel retries and RTYCNT advances; with it off no retry is made (R238). A retry
timer never ends during a latch (R239), and before RT ms have passed nothing happens (log entry 78). -/
def execRetryTimerExpiry (t : Nat) (c : Fin 108) (s : State) : Host.Outcome State Fault Refusal :=
  .next (let w := s.rd (Reg.CH_STAT c)
    if !bit w 4 || bit w 3 || !s.clocked || !retryOver (s.at t) c then s
    else
      let s1 := (s.at t).setFlag (Reg.CH_STAT c) 4 false
      let s2 := if lswInput s1 c then s1.setFld (Reg.CH_STAT c) 16 4 (min 15 (fld w 16 4 + 1)) else s1
      s2.settle c)

/-- A channel has been on for STAB × 10 ms; OCOFF and TSD both turn it off (R238). -/
def stableOn (s : State) (c : Nat) : Bool := decide ((s.lch c).onAt + fld (s.lch c).rty 0 16 * 10000000 ≤ s.now)

/-- STABLE_ON_EXPIRY: the channel has been on for STAB × 10 ms without OCOFF or TSD, and RTYCNT returns to 0 (R238). Before that nothing happens
(log entry 78). -/
def execStableOnExpiry (c : Timed (Fin 108)) (s : State) : Host.Outcome State Fault Refusal :=
  .next (if s.flag (Reg.CH_STAT c.val) 1 && s.clocked && stableOn (s.at c.at_) c.val then (s.at c.at_).setFld (Reg.CH_STAT c.val) 16 4 0 else s)

/-- The inrush or boost time of a channel's last turn-on, INR_T ms, is over (R230, R231). -/
def inrushOver (s : State) (c : Nat) : Bool := decide ((s.lch c).onAt + fld (s.lch c).inr 24 8 * 1000000 ≤ s.now)

/-- INRUSH_END: INR_T after a turn-on the inrush or boost time ends (R230, R231), and not before (log entry 78). -/
def execInrushEnd (c : Timed (Fin 108)) (s : State) : Host.Outcome State Fault Refusal :=
  .next (if s.clocked && inrushOver (s.at c.at_) c.val then
      (s.at c.at_).setLch c.val { s.lch c.val with inrush := false, boost := false }
    else s)

/-! ### Isolators and supplies (R240 to R243) -/

/-- ISOLATOR_CLOSE_COMPLETE of a bank whose isolator was commanded closed (R240). -/
def execIsolatorCloseComplete (t : Nat) (b : Fin 12) (s : State) : Host.Outcome State Fault Refusal :=
  .next (if (s.bank b).isoCmd ∧ ¬ s.flag (Reg.BSTAT b) 0 then (s.at t).isoClosed b else s)

/-- ISOLATOR_OPEN_COMPLETE of a bank whose isolator was commanded open (R240, R241). -/
def execIsolatorOpenComplete (t : Nat) (b : Fin 12) (s : State) : Host.Outcome State Fault Refusal :=
  .next (if ¬ (s.bank b).isoCmd ∧ s.flag (Reg.BSTAT b) 0 then (s.at t).isoOpened b else s)

/-- ISOLATOR_FAULT: the measured drop has disagreed with the commanded state for 1 ms, or agrees again; raised once for each run
of disagreement (R242). -/
def execIsolatorFault (t : Nat) (b : Fin 12) (disagree : Bool) (s : State) : Host.Outcome State Fault Refusal :=
  .next (if !disagree then s.setBank b { s.bank b with isoBad := false }
    else if (s.bank b).isoBad || !diagOn s then s
    else
      let s1 := (s.at t).setBank b { s.bank b with isoBad := true }
      (s1.setFlag (Reg.BSTAT b) 7 true).raise (176 + b) 0)

/-- BANK_SUPPLY_STATE_CHANGE: the bank supply has crossed a threshold of R243. -/
def execBankSupplyStateChange (t : Nat) (b : Fin 12) (st : BankSupply) (s : State) : Host.Outcome State Fault Refusal :=
  .next (
    let s1 := (s.at t).setBank b { s.bank b with supply := st }
    let s2 := s1.setFlag (Reg.BSTAT b) 1 (decide (st = .crank))
    let s3 := match st with
      | .ov => s2.setFlag (Reg.BSTAT b) 5 true
      | .uv => s2.setFlag (Reg.BSTAT b) 4 true
      | .crank => each (bankSize b) (fun i u => u.gaugeAbort (bankFirst b + i)) s2
      | .normal => s2
    s3.settleBank b)

end Sys2Proof.Machine
end

