-- ==== Sys2Proof/Machine/Sched.lean ====
section
/-! DEFINITION. The frame scheduler (R101 to R117): what it latches, admission by heat and feed, shedding, placement, and the start of a
slice. -/
namespace Sys2Proof.Machine

/-! ### Tasks (R101 to R104) -/

/-- A task-table entry. -/
structure Task where
  num : Nat
  cls : Nat
  cutoff : Bool
  scribe : Bool
  engine : Nat
  order : Nat
  dep : Nat
  first : Nat
  count : Nat
  kind : Nat
  rate : Nat
  phase : Nat
  group : Nat
  feed : Nat
  energy : Nat
  deriving DecidableEq, Repr

def taskOf (s : State) (t : Nat) : Task :=
  let c := s.rd (Reg.TASK_CFG t)
  let m := s.rd (Reg.TASK_TIME t)
  let k := s.rd (Reg.TASK_COST t)
  { num := t, cls := fld c 29 2, cutoff := bit c 28, scribe := bit c 27, engine := fld c 24 3, order := fld c 16 8, dep := fld c 8 8,
    first := fld c 0 8, count := fld m 16 2 + 1, kind := fld m 18 2, rate := fld m 8 8, phase := fld m 0 8, group := fld k 17 6,
    feed := fld k 16 1, energy := fld k 0 16 }

/-- The enabled tasks, ascending. -/
def tasks (s : State) : List Task := (List.range 128).filterMap (fun t => if s.flag (Reg.TASK_CFG t) 31 then some (taskOf s t) else none)

/-- A kind may be admitted in a mode (R104, R129). -/
def kindOk (kind : Nat) (m : Mode) : Bool :=
  match kind with
  | 0 => m = .idle || m = .run || m = .limp
  | 1 => m = .idle || m = .run || m = .limp || m = .safe
  | 2 => m = .service
  | _ => false

/-- The switch channels of a heat group (R130); group 63 is none. -/
def groupCells (s : State) (g : Nat) : List Nat :=
  if 32 ≤ g then []
  else (List.range 108).filter (fun c =>
    if c < 96 then s.flag (Reg.HG_MASK g (c / 32)) (c % 32) else s.flag (Reg.HG_MASK3 g) (c - 96))

/-- A class is shed now (SCHED_STAT.SHED). -/
def isShed (s : State) (c : Nat) : Bool := decide (1 ≤ c) && s.flag Reg.SCHED_STAT c

/-! ### The latch at the cutoff (R110, R499, R500) -/

/-- The temperature points of a die, in order: control die, smart-power die 0 and 1, high-current die. -/
def dieOf (p : Nat) : Nat := if p < 8 then 0 else if p < 56 then 1 else if p < 104 then 2 else 3

/-- A point the variant does not have (R499). -/
def pointAbsent (s : State) (p : Nat) : Bool := decide (s.sys.variant = 2) && (dieOf p = 2 || decide (116 ≤ p))

/-- The latched reading of a point. -/
def pointNow (s : State) (p : Nat) : Int := signed 16 (s.rf (Reg.TMP_PT (p / 2)) (16 * (p % 2)) 16)

/-- Points that are present and have not failed. -/
def validPoints (s : State) : List Nat := (List.range 128).filter (fun p => !pointAbsent s p && !s.sys.tpBad.contains p)

def maxInt : List Int → Option Int
  | [] => none
  | x :: xs => some (xs.foldl max x)

/-- The reading used for a point, of readings given: its own, or in place of a failed one the highest valid reading of its die, then of the
device, then TLIM (R500). -/
def pointUsedOf (read : Nat → Int) (s : State) (p : Nat) : Int :=
  if pointAbsent s p then 0
  else if !s.sys.tpBad.contains p then read p
  else
    let v := validPoints s
    match maxInt ((v.filter (fun q => decide (dieOf q = dieOf p))).map read), maxInt (v.map read) with
    | some x, _ => x
    | none, some x => x
    | none, none => s.rf Reg.SCHED_TLIM 0 16

/-- The reading that the scheduler uses for a point: of those latched at the cutoff (R110, R500). -/
def pointUsed (s : State) (p : Nat) : Int := pointUsedOf (pointNow s) s p

/-- The temperature of a cell: of its two points the higher on an H-channel (R110). -/
def cellTemp (s : State) (c : Nat) : Int :=
  if c < 96 then pointUsed s (8 + c) else max (pointUsed s (104 + 2 * (c - 96))) (pointUsed s (105 + 2 * (c - 96)))

/-- What is staged for a host address at the next boundary, or the value given. -/
def stagedOr (s : State) (a : Nat) (v : Word) : Word := SMap.get v s.stNext a

/-- The staged duty of a channel: 0 when it is commanded off, 1 for a switch that is on, and for PWM input the part of the period in
which its PWM channel will be active, which in MODE 3 follows the off-time (R111, R199). -/
def stagedDuty (s : State) (c : Nat) : Nat × Nat :=
  let cmd := stagedOr s (Reg.CH_CMD c) (((s.lch c).wait).getD (s.rd (Reg.CH_CMD c)))
  if ¬ bit cmd 31 then (0, 1)
  else if s.rf (Reg.CH_CFG c) 28 2 ≠ 1 then (1, 1)
  else
    let p := pwmOfSwitch c
    let x := s.pch p
    let per := (stagedOr s (Reg.PWM_PER p) x.shPer).toNat
    let duty := (stagedOr s (Reg.PWM_DUTY p) x.shDuty).toNat
    let d := dutyNs x.cfg per duty
    if per = 0 then (0, 1) else (if fld x.cfg 26 3 = 3 then per - d else d, per)

/-- Latch the cells and the feeds. -/
def State.schedLatch (s : State) : State :=
  let cell := fun c => if chAbsent s c then CellLatch.zero
    else ⟨cellTemp s c, s.rf (Reg.CH_MEAS c) 16 16, (stagedDuty s c).1, (stagedDuty s c).2, s.flag (Reg.CH_STAT c) 3⟩
  { s with sched := { s.sched with cells := (List.range 108).map cell, vbat1 := s.rf Reg.PWR_VBAT 0 16,
                                   vbat2 := s.rf Reg.PWR_VBAT 16 16 } }

def latched (s : State) (c : Nat) : CellLatch := s.sched.cells.getD c CellLatch.zero

/-! ### The test (R111 to R114) -/

/-- The larger of the latched current and IHI of the channel's profile, mA. -/
def iEst (s : State) (c : Nat) : Nat := max (latched s c).cur (s.rf (Reg.PRF_WIN (s.rf (Reg.CH_CFG c) 24 3)) 16 16)

/-- T_pred of a cell (R111), in 0.125 °C. Ron is Ron25 × (7,200 + 4 T) / 8,000 with T in those units, so the rise in them is the difference
of the two powers times ZTH over 2: all exact, and rounded up once. -/
def tPred (s : State) (c : Nat) : Int :=
  let x := latched s c
  let r25 : Int := if c < 96 then 45 else 8
  let zth : Int := if c < 96 then s.rf Reg.SCHED_ZTH 0 16 else s.rf Reg.SCHED_ZTH 16 16
  let dp : Int := (iEst s c * iEst s c * x.dutyDen : Nat) - (x.cur * x.cur * x.dutyNum : Nat)
  let num : Int := dp * r25 * (7200 + 4 * x.temp) * zth
  let den : Int := x.dutyDen * 16000000000000
  if num ≤ 0 then x.temp else x.temp + (num + den - 1) / den

/-- The feed of a channel's bank: 0 VBAT1, 1 VBAT2. -/
def feedOf (s : State) (c : Nat) : Nat := s.rf Reg.SCHED_FEEDMAP (bankOf c) 1

/-- The cells under test: those of the heat groups of the candidates, each once, without the absent and the thermally latched (R111, R112). -/
def testCells (s : State) (cands : List Task) : List Nat :=
  let l := cands.flatMap (fun t => groupCells s t.group)
  (List.range 108).filter (fun c => l.contains c && !chAbsent s c && !(latched s c).tlatch)

/-- P_feed in 10 µW (R113). A thermally latched channel draws nothing. -/
def pFeed (s : State) (cands : List Task) (cells : List Nat) (n : Nat) : Nat :=
  let base := s.rf Reg.SCHED_PBASE (16 * n) 16 * 10000
  let volt := if n = 0 then s.sched.vbat1 else s.sched.vbat2
  let amps := ((List.range 108).map (fun c =>
    if feedOf s c ≠ n ∨ (latched s c).tlatch then 0 else if cells.contains c then iEst s c else (latched s c).cur)).sum
  base + volt * amps + ((cands.filter (fun t => decide (t.feed = n))).map (·.energy)).sum * 100

/-- The outcome of one test. -/
structure HeatTest where
  cells : List Nat
  hot : Bool
  over1 : Bool
  over2 : Bool
  p1 : Nat
  p2 : Nat
  deriving DecidableEq, Repr

def HeatTest.bad (t : HeatTest) : Bool := t.hot || t.over1 || t.over2

/-- The test of R114, with TLIM lowered by `hyst` and the feed limits at `pct` per cent. -/
def heatTest (s : State) (cands : List Task) (hyst pct : Nat) : HeatTest :=
  let cells := testCells s cands
  let beyond := fun n => decide (s.rf Reg.SCHED_PLIM (16 * n) 16 ≠ 0)
    && decide (s.rf Reg.SCHED_PLIM (16 * n) 16 * 10000 * pct < pFeed s cands cells n * 100)
  ⟨cells, cells.any (fun c => decide ((s.rf Reg.SCHED_TLIM 0 16 : Int) - hyst < tPred s c)), beyond 0, beyond 1, pFeed s cands cells 0,
    pFeed s cands cells 1⟩

/-- The FEEDn_OVER bits of a test. -/
def State.feedFlags (s : State) (t : HeatTest) : State :=
  (s.iff t.over1 (fun u => u.setFlag Reg.SCHED_STAT 5 true)).iff t.over2 (fun u => u.setFlag Reg.SCHED_STAT 6 true)

/-- A class is shed (R114): SHED, LIMP_REQ, the count. -/
def State.shedClass (s : State) (c : Nat) : State :=
  let s1 := ((s.setFlag Reg.SCHED_STAT c true).setFlag Reg.SCHED_STAT 0 true).count Reg.SCHED_CNT 16 16 1
  { s1 with sched := { s1.sched with justShed := s1.sched.justShed ++ [c] } }

/-- The loop of R114: the candidates that remain, and the last test. At most three classes can be shed. -/
def admitLoop : Nat → State → List Task → State × List Task × HeatTest × Bool
  | k, s, cands =>
    let t := heatTest s cands 0 100
    let s1 := s.feedFlags t
    if !t.bad then (s1, cands, t, false)
    else match (cands.map (·.cls)).max? with
      | some (c + 1) =>
        (match k with
         | 0 => (s1, cands, t, false)
         | j + 1 => admitLoop j (s1.shedClass (c + 1)) (cands.filter (fun x => decide (x.cls ≠ c + 1))))
      | _ => (s1.setFlag Reg.SCHED_STAT 4 true, cands, t, true)

/-- A number in 0.1 W from 10 µW. The rounding, and a number beyond the field, are not stated (log entry 2). -/
def State.feedWord (s : State) (p : Nat) : Nat × State :=
  if p % 10000 = 0 ∧ p / 10000 < 65536 then (p / 10000, s)
  else if p / 10000 + 1 < 65536 then (p / 10000 + s.freeNat % 2, s.spend)
  else (s.freeNat % 65536, s.spend)

/-- SCHED_HOT and SCHED_FEEDP of a decision (R130): the hottest prediction, one of its cells where several share it, and the feed powers.
They are those of the last test of the decision, and SCHED_HOT stays where it tests no cell (DESIGN CHOICE, log entry 96). -/
def State.schedShow (s : State) (t : HeatTest) : State :=
  let a := s.feedWord t.p1
  let b := a.2.feedWord t.p2
  let s1 := b.2.wr Reg.SCHED_FEEDP (BitVec.ofNat 32 (b.1 * 65536 + a.1))
  match maxInt (t.cells.map (tPred s)) with
  | none => s1
  | some m =>
    let top := t.cells.filter (fun c => decide (tPred s c = m))
    let c := top.getD (s1.freeNat % max 1 top.length) 0
    let v := if -32768 ≤ m ∧ m < 32768 then wrap m else s1.spend.freeWord
    (s1.spend.spend).wr Reg.SCHED_HOT (put (put 0 0 16 (v.toNat % 65536)) 16 7 c)

/-! ### Placement (R106 to R109) -/

/-- The order of placement (R108). -/
def taskBefore (a b : Task) : Bool :=
  decide (a.cls < b.cls) || (decide (a.cls = b.cls) && (decide (a.order < b.order) || (decide (a.order = b.order) && decide (a.num ≤ b.num))))

def insertTask (t : Task) : List Task → List Task
  | [] => [t]
  | x :: xs => if taskBefore t x then t :: x :: xs else x :: insertTask t xs

def sortTasks (l : List Task) : List Task := l.foldr insertTask []

/-- The bound on the end of a task's slices, in CORE cycles (R106). -/
def slotBound (period : Nat) (cutoff : Bool) : Nat := (period - (if cutoff then 6000 else 1000)) / 2

/-- Where placement stands: engines' free cycles, the tasks placed with their ends, and the slices. -/
structure Layout where
  free : SMap Nat
  ends : SMap Nat
  slices : List Placed
  deriving DecidableEq, Repr

def Layout.empty : Layout := ⟨[], [], []⟩

/-- The slices of a task from a start cycle, back to back, with the end cycle; none where the image lacks one. -/
def taskSlices (budgets : List Nat) (t : Task) : Nat → Nat → Nat → Nat → Option (List Placed × Nat)
  | 0, _, at_, _ => some ([], at_)
  | k + 1, n, at_, seq =>
    match budgets[n]? with
    | none => none
    | some b =>
      (taskSlices budgets t k (n + 1) (at_ + b + 6) (seq + 1)).map
        (fun r => (⟨t.engine, t.num, n, seq, at_, at_ + b + 6⟩ :: r.1, r.2))

/-- Place one task, or defer it (R107, R109). A DEP that is not placed yet is not admitted (DEDUCED, log entry 23). -/
def placeTask (engineOf : Nat → Nat) (budgets : List Nat) (period : Nat) (l : Layout) (t : Task) : Layout :=
  let ready := if t.dep = 255 then some 0
    else if SMap.get 0 l.ends t.dep = 0 then none
    else some (SMap.get 0 l.ends t.dep + (if engineOf t.dep = t.engine then 0 else 8))
  match ready with
  | none => l
  | some d =>
    let seq := (l.slices.filter (fun p => decide (p.engine = t.engine))).length
    match taskSlices budgets t t.count t.first (max d (SMap.get 0 l.free t.engine)) seq with
    | none => l
    | some r =>
      if slotBound period t.cutoff < r.2 then l
      else ⟨SMap.set 0 l.free t.engine r.2, SMap.set 0 l.ends t.num r.2, l.slices ++ r.1⟩

def placeAll (engineOf : Nat → Nat) (budgets : List Nat) (period : Nat) (l : List Task) : Layout :=
  (sortTasks l).foldl (placeTask engineOf budgets period) Layout.empty

def Layout.has (l : Layout) (t : Nat) : Bool := decide (SMap.get 0 l.ends t ≠ 0)

/-- The budgets of the active image's slices. -/
def imageBudgets (s : State) : List Nat :=
  match s.sched.image with
  | some i => i.slices.map sliceBudget
  | none => []

/-- FRAME_PERIOD of the coming frame: a slice never crosses a boundary (R44), so a change of period that applies there counts already. -/
def nextPeriod (s : State) : Nat :=
  if s.txn.state = .pending ∧ s.txn.applyAt = (s.frame + 1).toNat then
    periodOf (fld (SMap.get (s.rd Reg.SYS_FRMCFG) s.txn.shadow Reg.SYS_FRMCFG) 0 3)
  else s.period

/-! ### The decision (R103, R114 to R117) -/

/-- The recovery test of the lowest shed class, and its restoration (R116). It follows the placement for the coming frame, so that a
restored class's channels are released at the coming boundary and its tasks are admitted from the frame after it (DEDUCED, log entry 74). -/
def State.schedRecover (s : State) (m : Mode) (due cands : List Task) : State :=
  match [1, 2, 3].find? (isShed s) with
  | none => { s with sched := { s.sched with recClass := 0, recover := 0 } }
  | some c =>
    let old := if s.sched.recClass = c then s.sched.recover else 0
    let t := heatTest s (cands ++ due.filter (fun x => decide (x.cls = c) && kindOk x.kind m)) (s.rf Reg.SCHED_TLIM 16 8) 95
    if t.bad then { s with sched := { s.sched with recClass := c, recover := 0 } }
    else if old + 1 < s.rf Reg.SCHED_RECOV 0 24 then { s with sched := { s.sched with recClass := c, recover := old + 1 } }
    else
      let s1 := s.setFlag Reg.SCHED_STAT c false
      let s2 := s1.setFlag Reg.SCHED_STAT 0 ([1, 2, 3].any (isShed s1))
      { s2 with sched := { s2.sched with recClass := 0, recover := 0 } }

/-- TASK_STAT of a task after a decision, with the counts of a deferral (R109, R130). -/
def State.taskStat (s : State) (admitted deferred : Bool) (t : Task) : State :=
  let st := if admitted then 1 else if isShed s t.cls then 3 else if deferred then 2 else 0
  let s1 := s.setFld (Reg.TASK_STAT t.num) 24 2 st
  if deferred then (s1.count (Reg.TASK_STAT t.num) 16 8 1).count Reg.SCHED_CNT 0 16 1 else s1

/-- A task that is not enabled is idle (R130). -/
def State.idleTasks (s : State) : State := each 128 (fun t u => if u.flag (Reg.TASK_CFG t) 31 then u else u.setFld (Reg.TASK_STAT t) 24 2 0) s

/-- The decision for the coming frame, in the mode that takes effect at its boundary (R114, R117, R129, R462). -/
def State.schedDecide (s : State) (m : Mode) : State :=
  let f := (s.frame + 1).toNat
  let all := tasks s
  let due := all.filter (fun t => s.sched.owed.contains t.num || (decide (t.rate ≠ 0) && decide (f % t.rate = t.phase)))
  let s0 := { s with sched := { s.sched with justShed := [], owed := due.map (·.num), planned := [] } }
  if m = .boot ∨ m = .sill ∨ m = .freeze then s0.release 64
  else
    let elig := due.filter (fun t => kindOk t.kind m)
    let r := admitLoop 3 s0 (elig.filter (fun t => !isShed s0 t.cls))
    let s1 := r.1.schedShow r.2.2.1
    let s2 := if r.2.2.2 then s1.assert 64 (BitVec.ofNat 32 (s1.rf Reg.SCHED_HOT 16 7)) else s1.release 64
    let lay := placeAll (fun t => s.rf (Reg.TASK_CFG t) 24 3) (imageBudgets s) (nextPeriod s) r.2.1
    let s3 := { s2 with sched := { s2.sched with planned := lay.slices } }
    let s4 := eachOf all (fun t u => u.taskStat (lay.has t.num) (elig.contains t && !lay.has t.num) t) (s3.idleTasks)
    s4.schedRecover m due r.2.1

/-- A write to SCHED_CTRL.RESTART (R116). -/
def State.schedRestart (s : State) (v : Word) : State := if bit v 0 then { s with sched := { s.sched with recover := 0 } } else s

/-- At the boundary: the planned slices become the frame's, the shed classes' channels take their FS pattern until restored, and the axes
of the classes just shed decelerate (R115). A commit that applies at this boundary has set their task table (DESIGN CHOICE, log entry 96). -/
def State.schedBoundary (s : State) : State :=
  let shed := tasks s |>.filter (fun t => isShed s t.cls)
  let chans := shed.flatMap (fun t => groupCells s t.group)
  let stops := shed.filter (fun t => s.sched.justShed.contains t.cls)
  let s1 := { s with sched := { s.sched with plan := s.sched.planned, planned := [], started := [], justShed := [] },
                     lsw := { s.lsw with shed := (List.range 108).filter chans.contains } }
  each 16 (fun a t => if stops.any (fun k => t.flag (Reg.TASK_AXES k.num) a) then t.stopSoft a else t) s1

/-! ### Slices (R43, R45, R87, R108) -/

/-- The next slice of an engine in the present frame. -/
def nextSlice (s : State) (e : Nat) : Option Placed :=
  (s.sched.plan.filter (fun p => decide (p.engine = e)))[SMap.get 0 s.sched.started e]?

/-- SLICE_START: the engine's next admitted slice begins at its cycle, with its registers set as R45 states; the first bundle issues 4 cycles
later (R87). -/
def execSliceStart (e : Fin 8) (s : State) : Host.Outcome State Fault Refusal :=
  .next (match nextSlice s e, s.sched.image with
    | some p, some im =>
      let x := s.en e
      if x.state ≠ .idle ∨ ¬ s.clocked then s
      else
        let entry := im.slices.getD p.slice (0, 0)
        let s1 := (s.at (2 * p.start)).setEn e
          { x with rf := RegFile.zero, old := none, state := .run, pc := sliceEntry entry, ret := [], loops := [],
                   slice := BitVec.ofNat 32 (e * 2 ^ 16 + p.seq % 2 ^ 8 * 2 ^ 8 + p.task), budget := sliceBudget entry,
                   scribe := s.flag (Reg.TASK_CFG p.task) 27, cyc := 0, startEdge := 2 * p.start + 8, ready := [], divAt := 0, wait := .none,
                   loads := [] }
        let s2 := (s1.setFld (Reg.BE_STAT e) 16 8 p.task).setFld (Reg.TASK_STAT p.task) 0 16 (s1.frame.toNat % 2 ^ 16)
        { s2 with sched := { s2.sched with started := SMap.set 0 s2.sched.started e (SMap.get 0 s2.sched.started e + 1),
                                           owed := s2.sched.owed.filter (fun t => decide (t ≠ p.task)) } }
    | _, _ => s)

end Sys2Proof.Machine
end

