-- ==== Sys2Proof/Machine/CommitCheck.lean ====
section
/-! DEFINITION. What a commit is checked for (R4, R18, R100, R105, R121 to R123, R326, R418, R451 and every RANGE rule of the chapters). -/
namespace Sys2Proof.Machine

/-! ### The configuration that a commit would install -/

/-- The TX bits of the register at a host address. -/
def txMask (a : Nat) : Word :=
  match Reg.row? a with
  | some r => r.tx
  | none => 0

def mergeWord (old v m : Word) : Word := (old &&& ~~~m) ||| (v &&& m)

/-- The NGK-9612-NA's GNSS block ignores writes (R3). -/
def ignoresTx (s : State) (a : Nat) : Bool := decide (s.sys.variant = 1) && decide (0x070000 ≤ a) && decide (a < 0x080000)

/-- The registers with the words of the shadow bank in them. -/
def mergedRegs (s : State) (keep : Nat → Bool) : SMap Word :=
  s.txn.shadow.foldl (fun m x => if keep x.1 then Regs.set m x.1 (mergeWord (Regs.get m x.1) x.2 (txMask x.1)) else m) s.regs

/-- The device as the commit would configure it. -/
def State.merged (s : State) : State := { s with regs := mergedRegs s (fun _ => true) }

/-- The shadow bank holds a word of the addresses from `lo` up to `hi`. -/
def writesIn (s : State) (lo hi : Nat) : Bool := s.txn.shadow.any (fun x => decide (lo ≤ x.1) && decide (x.1 < hi))

/-- A refusal: the status, and the table, instance, limit and count of a LIMIT refusal. -/
structure Verdict where
  st : TxnStatus
  table : Nat
  unit : Nat
  limit : Nat
  count : Nat
  deriving DecidableEq, Repr

def Verdict.plain (st : TxnStatus) : Verdict := ⟨st, 0, 0, 0, 0⟩

/-! ### The hardware tables (R123) -/

/-- The highest index below `n` that satisfies `p`, plus 1; 0 where none does. -/
def highest : Nat → (Nat → Bool) → Nat
  | 0, _ => 0
  | n + 1, p => if p n then n + 1 else highest n p

/-- The switch channels that a written word configures (R4). -/
def configuredBy (a : Nat) (w : Word) : List Nat :=
  if 0x030100 ≤ a ∧ a < 0x030280 then
    let b := (a - 0x030100) / 0x20
    (List.range (bankSize b)).map (fun i => bankFirst b + i)
  else if 0x031000 ≤ a ∧ a < 0x031000 + lswChannels * 0x10 then [(a - 0x031000) / 0x10]
  else if 0x012E00 ≤ a ∧ a < 0x013000 then
    let j := (a - 0x012E00) % 0x10 / 4
    (List.range (if j = 3 then 12 else 32)).filterMap (fun k => if bit w k then some (32 * j + k) else none)
  else if 0x024000 ≤ a ∧ a < 0x028000 ∧ (a - 0x024000) % 0x20 = 0 ∧ bit w 31 then
    (if fld w 28 3 = 1 ∧ fld w 18 8 < 96 then [fld w 18 8] else if fld w 28 3 = 2 ∧ fld w 18 8 < 12 then [96 + fld w 18 8] else [])
  else []

/-- Every switch channel that the transaction configures. -/
def txnChannels (s v : State) : List Nat := s.txn.shadow.flatMap (fun x => configuredBy x.1 (v.rd x.1))

/-- The number of channels counted in one of the two channel tables: the highest of those configured, plus 1. -/
def channelCount (l : List Nat) (h : Bool) : Nat :=
  (l.filterMap (fun c => if decide (96 ≤ c) = h then some (if h then c - 95 else c + 1) else none)).foldl max 0

/-- The first table that the transaction overflows, in the order of R123. A disabled task entry with SCRIBE = 1 holds no place (DESIGN CHOICE, log
entry 91). -/
def tableCheck (s v : State) : Option Verdict :=
  let tooMany := fun (t u lim n : Nat) => if lim < n then some (⟨.limit, t, u, lim, n⟩ : Verdict) else none
  let ifIn := fun (lo hi : Nat) (x : Option Verdict) => if writesIn s lo hi then x else none
  let ctl := fun (f : Nat → Option Verdict) => (List.range 4).findSome? f
  let na := decide (s.sys.variant = 1)
  let small := decide (s.sys.variant = 2)
  let chans := if small then txnChannels s v else []
  [tooMany 1 0 shadowCap (txnCount s),
   ifIn 0x012400 0x012C00 (tooMany 3 0 1 ((tasks v).filter (·.scribe)).length),
   ifIn 0x024000 0x028000 (tooMany 4 0 256 (highest 512 (fun k => v.flag (Reg.OUT_CFG k) 31))),
   ifIn 0x074000 0x078000 (tooMany 5 0 (if na then 0 else 288) (highest 512 (fun k => v.flag (Reg.GCH_SIG k) 31))),
   ctl (fun n => ifIn (0x081000 + 0x4000 * n) (0x083000 + 0x4000 * n) (tooMany 6 n 256 (highest 512 (fun k => v.flag (Reg.FLT_CTL n k) 31)))),
   ctl (fun n => (List.range 4).findSome? (fun q => tooMany 7 n 256 (v.rf (Reg.BUS_QCFG n q) 0 10))),
   ctl (fun n => tooMany 8 n 64 (v.rf (Reg.BUS_TXNUM n) 0 7)),
   ifIn 0x0A9000 0x0AB000 (tooMany 9 0 1024 (highest 2048 (fun k => v.flag (Reg.REC_CODE k) 31))),
   tooMany 10 0 (if small then 48 else 96) (channelCount chans false),
   tooMany 11 0 (if small then 6 else 12) (channelCount chans true)].findSome? id

/-! ### Field ranges -/

/-- `lo` to `hi`. -/
def inRange (lo hi n : Nat) : Bool := decide (lo ≤ n) && decide (n ≤ hi)

def inRangeI (lo hi i : Int) : Bool := decide (lo ≤ i) && decide (i ≤ hi)

/-- R40 and R100; a shorter frame must still hold the reference messages' offsets (R349). -/
def periodRangeOk (v : State) : Bool :=
  let code := v.rf Reg.SYS_FRMCFG 0 3
  decide (code ≤ 5) && (match v.sched.image with | some i => decide (i.minPeriod ≤ code) | none => true)
    && (List.range 4).all (fun n => decide (v.rf (Reg.BUS_REFT n) 0 20 < periodOf code))

/-- R368. -/
def pageRangeOk (v : State) (i : Nat) : Bool :=
  let src := (v.rd (Reg.HP_PSRC i)).toNat
  let len := v.rf (Reg.HP_PCFG i) 0 8
  !v.flag (Reg.HP_PCFG i) 31
    || (inRange 1 252 len && decide (src % 32 = 0) && decide (0x20000000 ≤ src) && decide (src + 4 * len ≤ 0x20400000))

/-- The fields of a task entry, enabled or not (R104, R105, R130). -/
def taskFieldsOk (v : State) (t : Nat) : Bool :=
  let x := taskOf v t
  decide (x.kind ≠ 3) && (decide (x.group < 32) || decide (x.group = 63)) && decide (1 ≤ x.rate) && decide (x.phase < x.rate)

/-- Following DEP from a task ends outside the table, within as many steps as there are tasks (R105). -/
def depEnds (v : State) : Nat → Nat → Bool
  | 0, _ => false
  | n + 1, t => if t = 0xFF then true else decide (t < 128) && v.flag (Reg.TASK_CFG t) 31 && depEnds v n (v.rf (Reg.TASK_CFG t) 8 8)

/-- The slices that a task names. -/
def Task.run (x : Task) : List Nat := (List.range x.count).map (fun i => x.first + i)

/-- The first four rules of R105. A slice whose SCRIBE bit is 1 belongs to the Scribe task, so no other task names one; with no enabled
Scribe task no slice is asked for (DEDUCED, log entry 70). DEP is followed from enabled tasks only; the ranges of the other fields hold for
every entry that the commit writes (DEDUCED, log entry 71). -/
def taskTableOk (v : State) : Bool :=
  let sl := match v.sched.image with
    | some i => i.slices
    | none => []
  let scribeAt := fun (n : Nat) => match sl[n]? with
    | some x => sliceScribe x
    | none => false
  (tasks v).all (fun x =>
    taskFieldsOk v x.num && depEnds v 129 x.dep && x.run.all (fun n => decide (n < sl.length) && decide (scribeAt n = x.scribe))
      && (!x.scribe || (List.range sl.length).all (fun n => !scribeAt n || x.run.contains n)))

/-- R136, R175. -/
def mapRangeOk (v : State) (m : Nat) : Bool :=
  let d := mapDesc v m
  decide (fld d.geom 0 3 ≤ 5) && decide (d.esh ≤ 6) && decide (d.psh ≤ 6)
    && (!d.en || (decide (4096 * fld d.dir 0 19 + d.dirBytes ≤ mapRegion)
      && decide (d.pool 0 + 1024 * v.rf (Reg.MAP_CLEN m) 0 21 ≤ mapRegion) && decide (d.pool 1 < mapRegion) && decide (d.pool 2 < mapRegion)))

/-- R142 and R143, for an enabled entry. -/
def outletRangeOk (v : State) (k : Nat) : Bool :=
  let cfg := v.rd (Reg.OUT_CFG k)
  let foot := v.rd (Reg.OUT_FOOT k)
  let drive := fld cfg 28 3
  let unit := fld cfg 18 8
  let p := outletPos v k
  let learns := bit cfg 17 || decide (2 ≤ fld cfg 15 2)
  !bit cfg 31
    || (decide (drive ≤ 4) && (!learns || decide (drive = 1) || decide (drive = 2))
      && (match drive with | 1 => decide (unit < 96) | 2 => decide (unit < 12) | 3 => decide (unit < 16) | _ => true)
      && inRangeI (-50000) 50000 p.1 && inRangeI (-50000) 50000 p.2.1 && inRangeI (-10000) 10000 p.2.2
      && inRange 10 6400 (fld foot 0 16)
      && inRange 100 20000 (v.rf (Reg.OUT_FIX k) 0 15) && inRange 100 20000 (v.rf (Reg.OUT_FIX k) 16 15)
      && decide (v.rf (Reg.OUT_ADD k) 0 15 ≤ 20000) && decide (v.rf (Reg.OUT_ADD k) 16 15 ≤ 20000)
      && (decide (fld foot 24 8 = 0) || decide (fld foot 16 8 < fld foot 24 8)) && decide (fld cfg 13 2 ≤ 2))

/-- No switch channel is named by two enabled outlets (R142). -/
def outletsApart (v : State) : Bool :=
  let named := (List.range 256).filterMap (fun k =>
    let cfg := v.rd (Reg.OUT_CFG k)
    if bit cfg 31 ∧ (fld cfg 28 3 = 1 ∨ fld cfg 28 3 = 2) then some (fld cfg 28 3 * 256 + fld cfg 18 8) else none)
  decide named.Nodup

/-- R184. A SEL bit that the table does not name must be 0 (DEDUCED, log entry 27). -/
def triggerRangeOk (v : State) (t : Nat) : Bool :=
  let src := v.rd (Reg.ADC_TRGSRC t)
  let sel := fld src 0 16
  !bit src 31
    || (decide (fld src 24 2 ≠ 0)
      && (match fld src 26 2 with
          | 1 => decide (sel < 512) && decide (sel % 256 < 192)
          | 2 => decide (sel / 256 ≤ 2) && decide (sel % 256 < 24)
          | _ => true)
      && decide (1 ≤ v.rf (Reg.ADC_TRGLIST t) 16 8)
      && decide (v.rf (Reg.ADC_TRGLIST t) 0 4 + (v.rf (Reg.ADC_TRGLIST t) 8 4 + 1) ≤ 16))

/-- Samples that the frame-start triggers of a converter take (R187). -/
def frameStartSamples (v : State) (b : Bool) : Nat :=
  ((List.range 16).map (fun t =>
    let src := v.rd (Reg.ADC_TRGSRC t)
    if bit src 31 ∧ fld src 26 2 = 0 ∧ bit src (if b then 25 else 24) then
      ((List.range (v.rf (Reg.ADC_TRGLIST t) 8 4 + 1)).map (fun k =>
        let i := adcInput b (v.rf (Reg.ADC_TRGLIST t) 0 4 + k)
        if adcOff v i then 0 else 2 ^ v.rf (Reg.ADC_INCFG i) 4 2)).sum
    else 0)).sum

def adcRangeOk (v : State) : Bool :=
  (List.range 16).all (triggerRangeOk v) && decide (frameStartSamples v false ≤ 16) && decide (frameStartSamples v true ≤ 16)

/-- A port of TYPE 1 needs its unit as R270 asks. -/
def portUnitOk (v : State) (p : Nat) : Bool :=
  decide (v.rf (Reg.PT_CFG p) 28 2 ≠ 1)
    || (v.flag (Reg.PWM_UCTRL p) 1
      && (List.range 4).all (fun h => decide (v.rf (Reg.PWM_CHCFG (8 * p + 2 * h)) 26 3 = 1) && v.flag (Reg.PWM_CHCFG (8 * p + 2 * h + 1)) 19))

/-- R206 to R208, R214, R223. -/
def unitRangeOk (v : State) (u : Nat) : Bool :=
  let sync := v.rd (Reg.PWM_USYNC u)
  let time := v.rd (Reg.PWM_UTIME u)
  let head := decide (u = 0) || decide (u = 8)
  (!v.flag (Reg.PWM_UCTRL u) 1 || decide (u < 8)) && (match fld sync 24 2 with | 2 => head | 3 => !head | _ => true)
    && (!bit sync 31 || head) && decide (v.rf (Reg.PWM_UFLT u) 16 8 ≤ 191) && decide (4 ≤ fld time 0 12)
    && (decide (8 ≤ u) || (inRange 50 2000 (fld time 13 11) && decide (fld time 0 12 ≤ fld time 13 11) && decide (1 ≤ fld time 24 8)
      && portUnitOk v u))

/-- R198 to R200, R204, R211, R212, R223. -/
def carrierRangeOk (v : State) (c : Nat) : Bool :=
  let cfg := v.rd (Reg.PWM_CHCFG c)
  let mode := fld cfg 26 3
  let dt := v.rd (Reg.PWM_DT c)
  decide (mode ≤ 3) && (decide (mode ≤ 1) || (!bit cfg 22 && !bit cfg 21)) && (!bit cfg 25 || !(decide (c < 64) || (switchOfPwm v c).isSome))
    && (!bit cfg 19 || (decide (c < 64) && decide (c % 2 = 1))) && decide (1 ≤ fld cfg 8 8)
    && (decide (64 ≤ c) || decide (c % 2 = 1) || (inRange 20 2000 (fld dt 0 11) && inRange 20 2000 (fld dt 16 11) && decide (fld dt 0 11 ≤ fld dt 16 11)))

/-- The two channels of a pair are not both active under SAFELVL, nor under DISLVL (R211). -/
def pairLevelsOk (v : State) (even : Nat) : Bool :=
  let a := v.rd (Reg.PWM_CHCFG even)
  let b := v.rd (Reg.PWM_CHCFG (even + 1))
  !bit b 19 || (!(bit a 24 && bit b 24) && !(bit a 23 && bit b 23))

/-- R229, R230, R255. -/
def profileRangeOk (v : State) (p : Nat) : Bool :=
  let win := v.rd (Reg.PRF_WIN p)
  let inr := v.rd (Reg.PRF_INR p)
  let lim := v.rd (Reg.PRF_LIM p)
  let rty := v.rd (Reg.PRF_RTY p)
  decide (fld win 0 16 ≤ fld win 16 16) && decide (fld inr 24 8 ≤ 250) && inRange 500 6000 (fld inr 0 16) && inRange 1 1000 (fld lim 16 10)
    && decide (1 ≤ fld lim 0 8) && inRange 1 1000 (fld rty 16 10) && decide (1 ≤ fld rty 0 16)

/-- R256, R259, R273, R286. -/
def axisRangeOk (v : State) (a : Nat) : Bool :=
  let cfg := v.rd (Reg.AX_CFG a)
  let ref := v.rd (Reg.AX_REF a)
  decide (fld cfg 28 3 ≤ 3) && (!bit cfg 25 || decide (8 ≤ a)) && decide (fld cfg 20 4 ≤ 8) && (decide (fld cfg 28 3 ≠ 3) || decide (1 ≤ fld cfg 16 4))
    && decide (1 ≤ fld cfg 8 8) && decide (fld cfg 0 8 < fld cfg 8 8)
    && decide (fld ref 29 2 ≤ 2) && decide (fld ref 19 2 ≤ 2) && decide (fld ref 0 5 < (if fld ref 19 2 = 0 then 16 else 24))
    && decide (1 ≤ v.rf (Reg.AX_STALL a) 16 8) && decide (v.rf (Reg.AX_CUR a) 0 16 ≤ v.rf (Reg.AX_CUR a) 16 16)
    && inRange 100 10000 (v.rf (Reg.AX_STEP a) 0 16)

def portRangeOk (v : State) (p : Nat) : Bool :=
  decide (v.rf (Reg.PT_CFG p) 28 2 ≤ 2) && inRange 20000 100000 (v.rf (Reg.PT_CFG p) 0 20) && decide (1 ≤ v.rf (Reg.PT_PROT p) 8 8)
    && portUnitOk v p

/-- R278, R287. -/
def feedbackRangeOk (v : State) (n : Nat) : Bool :=
  let cfg := v.rd (Reg.FB_CFG n)
  (decide (fld cfg 28 3 ≠ 6) || decide (1 ≤ fld cfg 8 8)) && (decide (fld cfg 28 3 ≠ 7) || decide (1 ≤ fld cfg 0 8))
    && (decide (fld cfg 25 2 ≠ 2) || decide (v.rd (Reg.FB_IDX n) ≠ 0))

/-- The signals and satellites of a constellation (R290, R293): 0 GPS, 1 Galileo, 2 GLONASS, 3 BeiDou, 4 QZSS. -/
def signalOk (const sig : Nat) : Bool :=
  match const with
  | 0 | 4 => sig = 0 || sig = 1 || sig = 6 || sig = 8
  | 1 => sig = 2 || sig = 9
  | 2 => sig = 5 || sig = 7
  | 3 => sig = 3 || sig = 4 || sig = 10
  | _ => false

def satelliteOk (const sv : Nat) : Bool :=
  match const with
  | 0 => inRange 1 32 sv
  | 1 => inRange 1 36 sv
  | 2 => inRange 1 24 sv
  | 3 => inRange 1 63 sv
  | _ => inRange 193 202 sv

/-- R293 for an enabled entry, and the fields of GCH_DOP and GCH_TRK (R318). -/
def trackRangeOk (v : State) (n : Nat) : Bool :=
  let w := v.rd (Reg.GCH_SIG n)
  let dop := v.rd (Reg.GCH_DOP n)
  let const := fld w 26 3
  let fcn := signed 4 (fld w 16 4)
  let ant := fld w 29 2
  let mid := signed 16 (fld dop 0 16)
  let win : Int := fld dop 16 16
  inRange 100 10000 (fld dop 16 16) && decide (1 ≤ v.rf (Reg.GCH_TRK n) 16 8) && inRange 10 40 (v.rf (Reg.GCH_TRK n) 8 8)
    && (!bit w 31 || (signalOk const (fld w 22 4) && satelliteOk const (fld w 8 8)
      && (if const = 2 then inRangeI (-7) 6 fcn else decide (fcn = 0))
      && decide (ant ≠ 0) && v.flag (Reg.ANT_CFG (ant - 1)) 31 && inRangeI (-10000) 10000 (mid - win) && inRangeI (-10000) 10000 (mid + win)))

/-- Half the period of TPULSE, µs (R309, R318). -/
def pulseHalf (code : Nat) : Nat := match code with | 0 => 500000 | 1 => 50000 | _ => 5000

/-- The bit timing and message area of a controller (R322 to R324, R340, R349). DBRP counts as the prescaler itself (DEDUCED, log entry 28). -/
def busRangeOk (v : State) (n : Nat) : Bool :=
  let cfg := v.rd (Reg.BUS_CFG n)
  let nbt := v.rd (Reg.BUS_NBT n)
  let dbt := v.rd (Reg.BUS_DBT n)
  let nom := (fld nbt 27 5 + 1) * (3 + fld nbt 16 8 + fld nbt 9 7)
  let data := (fld dbt 19 5 + 1) * (3 + fld dbt 11 5 + fld dbt 4 4)
  let base := (v.rd (Reg.BUS_MBASE n)).toNat
  decide (fld cfg 9 3 ≤ 4) && decide (1 ≤ fld nbt 16 8) && decide (fld nbt 0 7 ≤ fld nbt 9 7) && decide (fld dbt 0 4 ≤ fld dbt 4 4)
    && decide (80 ≤ nom) && decide (16 ≤ data) && (!bit cfg 1 || decide (data ≤ nom)) && (!bit dbt 31 || decide (fld dbt 19 5 ≤ 1))
    && decide (base % 256 = 0) && decide (0x20000000 ≤ base)
    && decide (base + 80 * (v.rf (Reg.BUS_TXNUM n) 0 7 + ((List.range 4).map (fun q => v.rf (Reg.BUS_QCFG n q) 0 10)).sum) ≤ 0x20400000)
    && decide (v.rf (Reg.BUS_REF n) 30 2 ≠ 3) && (!bit cfg 4 || decide (v.rf (Reg.BUS_REF n) 30 2 = 0))
    && decide (1 ≤ v.rf (Reg.BUS_REFT n) 20 12) && decide (v.rf (Reg.BUS_REFT n) 0 20 < v.period) && decide (v.rd (Reg.BUS_AUTH n) ≠ 0)

/-- The message areas of two controllers do not overlap (R324). -/
def areasApart (v : State) : Bool :=
  let size := fun n => 80 * (v.rf (Reg.BUS_TXNUM n) 0 7 + ((List.range 4).map (fun q => v.rf (Reg.BUS_QCFG n q) 0 10)).sum)
  let base := fun n => (v.rd (Reg.BUS_MBASE n)).toNat
  (List.range 4).all (fun i => (List.range 4).all (fun j =>
    decide (j ≤ i) || decide (size i = 0) || decide (size j = 0) || decide (base i + size i ≤ base j) || decide (base j + size j ≤ base i)))

def filterRangeOk (v : State) (n j : Nat) : Bool := decide (v.rf (Reg.FLT_CTL n j) 29 2 ≠ 3) && decide (v.rf (Reg.FLT_CTL n j) 24 3 ≤ 4)

/-- R408. -/
def sourceRangeOk (v : State) (k : Nat) : Bool :=
  (!v.flag (Reg.FLT_SRC k) 31 || (Flt.resetSev? k).isSome) && (!v.flag (Reg.FLT_SRC k) 3 || (detailEngine k 0).isSome)

/-- The ranges that the write of one TX word puts at stake: those of the register's own instance, in the configuration that the commit would
install. -/
def wordRangeOk (v : State) (a : Nat) : Bool :=
  if a < 0x011000 then
    if a = Reg.SYS_FRMCFG then periodRangeOk v
    else if 0x010200 ≤ a ∧ a < 0x010400 then pageRangeOk v ((a - 0x010200) / 8)
    else if a = Reg.CLK_CFG then decide (v.rf a 0 2 ≤ 1)
    else if a = Reg.PWR_TCFG then decide (v.rf a 0 16 ≤ 1200)
    else true
  else if a < 0x014000 then
    if a = Reg.SCHED_TLIM then decide (v.rf a 0 16 ≤ 1320)
    else if a = Reg.SCHED_RECOV then decide (1 ≤ v.rf a 0 24)
    else if 0x012400 ≤ a ∧ a < 0x012C00 then taskFieldsOk v ((a - 0x012400) / 0x10)
    else true
  else if a < 0x030000 then
    if a = Reg.SCR_CTRL then decide (1 ≤ v.rf a 0 8)
    else if a = Reg.GAU_CFG0 then decide (1 ≤ v.rf a 8 8)
    else if a = Reg.GAU_CFG1 then decide (1 ≤ v.rf a 0 8)
    else if a = Reg.GAU_THR then decide (1 ≤ v.rf a 0 16) && decide (1 ≤ v.rf a 16 16)
    else if 0x020100 ≤ a ∧ a < 0x020180 then mapRangeOk v ((a - 0x020100) / 0x40)
    else if 0x021800 ≤ a ∧ a < 0x021808 then decide (v.rf a 0 2 ≠ 3)
    else if 0x024000 ≤ a ∧ a < 0x028000 then outletRangeOk v ((a - 0x024000) / 0x20)
    else true
  else if a < 0x040000 then
    if 0x030100 ≤ a ∧ a < 0x030280 then decide (1 ≤ v.rf (Reg.BLIM ((a - 0x030100) / 0x20)) 16 16)
    else if 0x030400 ≤ a ∧ a < 0x030480 then profileRangeOk v ((a - 0x030400) / 0x10)
    else if 0x031000 ≤ a then decide (v.rf a 28 2 ≠ 3) && decide (v.rf a 12 2 ≠ 3)
    else true
  else if a < 0x050000 then
    if a < 0x040800 then unitRangeOk v ((a - 0x040000) / 0x40)
    else if 0x041000 ≤ a then
      let c := (a - 0x041000) / 0x20
      carrierRangeOk v c && (decide (64 ≤ c) || (pairLevelsOk v (c - c % 2) && portUnitOk v (c / 8)))
    else true
  else if a < 0x058000 then
    if a < 0x050F00 then axisRangeOk v ((a - 0x050000) / 0x80)
    else if 0x051000 ≤ a then portRangeOk v ((a - 0x051000) / 0x20)
    else true
  else if a < 0x060000 then (if a < 0x058800 then feedbackRangeOk v ((a - 0x058000) / 0x40) else true)
  else if a < 0x070000 then true
  else if a < 0x080000 then
    if a = Reg.GNS_CTRL then decide (v.rf a 8 4 ≤ 8)
    else if a = Reg.GNS_BURST then inRange 20 250 (v.rf a 0 8)
    else if 0x070100 ≤ a ∧ a < 0x070130 then decide (v.rf a 0 2 ≠ 3)
    else if a = Reg.GNS_TCFG then decide (1 ≤ v.rf a 24 8) && inRange 1 100 (v.rf a 16 8)
    else if a = Reg.GNS_TPCFG then decide (v.rf a 28 2 ≠ 3) && inRange 1 (pulseHalf (v.rf a 28 2)) (v.rf a 0 16)
    else if 0x074000 ≤ a ∧ a < 0x078000 then trackRangeOk v ((a - 0x074000) / 0x20)
    else true
  else if a < 0x090000 then
    let n := (a - 0x080000) / 0x4000
    let o := (a - 0x080000) % 0x4000
    if 0x1000 ≤ o then filterRangeOk v n ((o - 0x1000) / 0x10) else busRangeOk v n
  else if a < 0x0A0000 then
    if a = Reg.TRU_CFG then decide (1 ≤ v.rf a 16 16) && decide (1 ≤ v.rf a 8 8)
    else
      -- JRN_RBASE and JRN_RLEN: the replay area lies in FMEM (DEDUCED, log entry 29).
      let b := (v.rd Reg.JRN_RBASE).toNat
      let n := (v.rd Reg.JRN_RLEN).toNat
      inRange 1 4096 n && decide (b % 64 = 0) && decide (0x20000000 ≤ b) && decide (b + 64 * n ≤ 0x20400000)
  else if a < 0x0A8000 then
    if a = Reg.FLT_QUIET then inRange 1 6000 (v.rf a 0 13)
    else if 0x0A1000 ≤ a then sourceRangeOk v ((a - 0x0A1000) / 4)
    else true
  else
    if a = Reg.REC_CFG then decide (1 ≤ v.rf a 8 8)
    else if 0x0A9000 ≤ a then !bit (v.rd a) 31 || (decide (1 ≤ v.rf a 16 8) && decide (1 ≤ v.rf a 0 16))
    else true

/-- Every range of the commit: that of each written word, and those that hold over several instances. The first four rules of R105, whose
status is RANGE, are judged here, before the mode rules (DESIGN CHOICE, log entry 72). On the NGK-9612-NA a word written to a GNSS register is
held and judged as on any other part (DESIGN CHOICE, log entry 89). -/
def rangeCheck (s v : State) : Bool :=
  s.txn.shadow.all (fun x => wordRangeOk v x.1)
    && (!writesIn s 0x012400 0x012C00 || taskTableOk v)
    && (!writesIn s 0x024000 0x028000 || outletsApart v)
    && (!writesIn s 0x060000 0x070000 || adcRangeOk v)
    && (!writesIn s 0x070100 0x070130 || (List.range 288).all (trackRangeOk v))
    && (!writesIn s 0x080000 0x090000 || areasApart v)

/-! ### Mode rules -/

/-- The commit changes the TX word at an address. -/
def changes (s v : State) (a : Nat) : Bool := decide (s.rd a ≠ v.rd a)

/-- A structural change of a controller (R326). -/
def busChanges (s v : State) (n : Nat) : Bool :=
  decide (s.rd (Reg.BUS_CFG n) &&& 0x92#32 ≠ v.rd (Reg.BUS_CFG n) &&& 0x92#32)
    || [Reg.BUS_NBT n, Reg.BUS_DBT n, Reg.BUS_MBASE n, Reg.BUS_TXNUM n, Reg.BUS_QCFG n 0, Reg.BUS_QCFG n 1, Reg.BUS_QCFG n 2,
        Reg.BUS_QCFG n 3].any (changes s v)

/-- The mode rules of the blocks: R18 and R418 (IDLE or SERVICE; any write of FLT_CFG commits INJEN), R140 (the active map in RUN, LIMP and
SAFE), R326. -/
def modeCheck (s v : State) : Bool :=
  let quiet := s.sys.mode = .idle || s.sys.mode = .service
  let m := activeMap s
  (quiet || !(changes s v Reg.SYS_FRMCFG || writesIn s Reg.FLT_CFG (Reg.FLT_CFG + 4)))
    && !(markingOn s && (mapDesc s m).en && (List.range 10).any (fun i => changes s v (Reg.MAP_GEOM m + 4 * i)))
    && (List.range 4).all (fun n => !busChanges s v n || (!s.flag (Reg.BUS_CFG n) 0 && !v.flag (Reg.BUS_CFG n) 0))

/-! ### Task feasibility (R105, R121) -/

/-- A task and the tasks it follows by DEP. -/
def depChain (v : State) : Nat → Task → List Task
  | 0, x => [x]
  | n + 1, x => if x.dep = 0xFF then [x] else x :: depChain v n (taskOf v x.dep)

/-- All enabled CRIT tasks fit together, and each task fits in some frame: with nothing placed but the tasks it depends on (DEDUCED, log entry
30). Without an image there is nothing to place. -/
def feasible (v : State) : Bool :=
  let engineOf := fun t => (taskOf v t).engine
  let place := placeAll engineOf (imageBudgets v) v.period
  let crit := (tasks v).filter (fun x => decide (x.cls = 0))
  v.sched.image.isNone || crit.all (fun x => (place crit).has x.num) && (tasks v).all (fun x => (place (depChain v 128 x)).has x.num)

/-! ### The check (R121) -/

/-- The first failure of the check, none where the commit is accepted. The owner and its token were checked when the COMMIT arrived.
Feasibility is checked too where the commit changes only the period (DESIGN CHOICE, log entry 73). -/
def commitVerdict (s : State) : Option Verdict :=
  let v := s.merged
  if !s.txn.digOk then some (.plain .auth)
  else match tableCheck s v with
    | some x => some x
    | none =>
      if !rangeCheck s v then some (.plain .range)
      else if !modeCheck s v then some (.plain .mode)
      else if (writesIn s 0x012400 0x012C00 || changes s v Reg.SYS_FRMCFG) && !feasible v then some (.plain .sched)
      else none

end Sys2Proof.Machine
end

