-- ==== Sys2Proof/Machine/FaultEvents.lean ====
section
/-! DEFINITION. The commands of the fault collector and of the recorder (R407 to R428). -/
namespace Sys2Proof.Machine

/-! ### The collector -/

/-- The sources of kind L, asserted for as long as their block reports the condition (R407, R486, R503). -/
def levelSource (src : Nat) : Bool :=
  (decide (16 ≤ src) && decide (src < 32)) || src = 64 || (decide (216 ≤ src) && decide (src < 224)) || src = 262
    || [298, 299, 301, 302, 303, 305, 312, 313, 314].contains src

/-- FAULT_RAISE: a block reports a source with its detail, or that a level source is released. A reserved source has no
block, so nothing reports it (R407). A Dowel mismatch carries the failing value, its tag and its address (R36). -/
def execFaultRaise (t : Nat) (src : Fin 512) (on : Bool) (det : Word) (val : Word) (tag : Byte) (addr : Word) (s : State) :
    Host.Outcome State Fault Refusal :=
  .next (match Flt.resetSev? src with
    | none => s
    | some _ =>
      if levelSource src then (if on then (s.at t).assert src det else (s.at t).release src)
      else if on then (s.at t).raiseDowel src det val tag addr
      else s)

/-- QUIET_PERIOD_EXPIRY: the quiet period of the reaction in force has run out (R414, R415, R417); it does not advance in
FREEZE. Before that instant nothing happens (log entry 78). -/
def execQuietPeriodExpiry (t : Nat) (s : State) : Host.Outcome State Fault Refusal :=
  .next (if collectorOn s then (s.at t).quietOver else s)

/-- RECOVERY_DECAY: RDECAY minutes without a reaction of DEGRADE or higher lower the recovery count by one (R417). -/
def execRecoveryDecay (s : State) : Host.Outcome State Fault Refusal :=
  .next (if collectorOn s ∧ s.flt.reaction = 0 ∧ s.rf Reg.FLT_RCFG 8 16 ≠ 0 ∧ s.rf Reg.FLT_RCFG 8 16 * 600000 ≤ s.flt.calm then
      ({ s with flt := { s.flt with calm := 0 } }).setFld Reg.FLT_RCNT 0 8 (s.rf Reg.FLT_RCNT 0 8 - 1)
    else s)

/-- A write to FLT_CTRL: KEY must be 0xA5, or the write is ignored (R415, R417). -/
def State.fltCtrl (s : State) (v : Word) : State :=
  if fld v 8 8 ≠ 0xA5 ∨ !collectorOn s then s
  else (s.iff (bit v 0) State.fltClear).iff (bit v 1) State.fltRclr

/-- The conditions under which an injection is refused (R418). -/
def injRefused (s : State) (src ofs : Nat) : Bool :=
  !s.flag Reg.FLT_CFG 0 || (Flt.resetSev? src).isNone || !srcEnabled s src || decide (s.period ≤ ofs) || s.flt.inj.isSome
    || s.sys.mode = .sill || s.sys.mode = .boot || s.sys.mode = .freeze

/-- A write to FLT_INJ with GO (R418). An injection armed while a SAFE or HALT reaction is in force is cancelled at its arrival
(R419). -/
def State.injArm (s : State) (v : Word) : State :=
  if ¬ bit v 31 then s
  else if injRefused s (fld v 20 9) (fld v 0 20) then s.setFlag Reg.FLT_INJST 2 true
  else
    let i : Inject := { src := fld v 20 9, ofs := fld v 0 20, det := s.rd Reg.FLT_INJDET, ready := false }
    let s1 := ({ s with flt := { s.flt with inj := some i } }).setFld Reg.FLT_INJST 0 2 1
    if 2 ≤ s1.flt.reaction then s1.cancelInjection true else s1

/-- A frame begins: an armed injection may fire in it (R418). -/
def State.injReady (s : State) : State :=
  { s with flt := { s.flt with inj := s.flt.inj.map (fun i => { i with ready := true }) } }

/-- INJECTION_FIRE: the armed injection raises its source at its offset, for one EDGE tick (R418); a level source is
therefore not left asserted. -/
def execInjectionFire (s : State) : Host.Outcome State Fault Refusal :=
  .next (match s.flt.inj with
    | some i =>
      if i.ready ∧ collectorOn s then
        let s1 := ({ s.at i.ofs with flt := { s.flt with inj := none } }).setFld Reg.FLT_INJST 0 2 2
        s1.raiseAs true i.src i.det []
      else s
    | none => s)

/-! ### The recorder -/

/-- RECORD_WRITE_COMPLETE: the record at the head of the queue is written to MRAM or dropped (R420, R423, R425). -/
def execRecordWriteComplete (s : State) : Host.Outcome State Fault Refusal :=
  .next (if recorderOn s then s.recordWritten else s)

/-- CHECKPOINT_SIGNED: the public-key engine ends its work on the oldest waiting checkpoint, whose signature is written as records of codes 517
and 518 (R421, R422, R455). -/
def execCheckpointSigned (t : Nat) (k : BitVec 256) (s : State) : Host.Outcome State Fault Refusal :=
  .next (if recorderOn s ∧ s.peg.serving = some .checkpoint then (s.at t).sealCheckpoint k else s)

/-- SUMMARY_DUE: a pending suppressed count of a code is written as a summary (R424). -/
def execSummaryDue (code : Fin 1024) (s : State) : Host.Outcome State Fault Refusal :=
  .next (if recorderOn s then s.summaryDue code else s)

/-- A write to REC_SWCODE: a record of a program's own, its payload checked word by word (R426). -/
def State.recSwcode (s : State) (v : Word) : State :=
  let code := fld v 0 10
  let data := (List.range 8).map (fun i => s.rd (Reg.REC_SWDATA i))
  let bad := (List.range 8).find? (fun i => decide (SMap.get 0 s.rcd.swTag i ≠ tagOf (s.rd (Reg.REC_SWDATA i))))
  if !recorderOn s then s
  else if code < 768 then s.setFlag Reg.REC_STAT 8 true
  else match bad with
    | some i =>
      s.raiseDowel 44 (BitVec.ofNat 32 (Reg.REC_SWDATA i)) (s.rd (Reg.REC_SWDATA i)) (SMap.get 0 s.rcd.swTag i)
        (BitVec.ofNat 32 (Reg.REC_SWDATA i))
    | none => s.putRec code (fld v 12 2) (s.rd Reg.REC_SWDETAIL) data

/-- A freeze is released (R427). -/
def State.recRelease (s : State) : State := s.setFlag Reg.REC_STAT 0 false

/-- A write to REC_CTL: FREEZE takes a freeze point in RDMODE 0, RELEASE ends a freeze (R427). -/
def State.recCtl (s : State) (v : Word) : State :=
  let taken := { s with rcd := { s.rcd with frozen := 0 } }
  let s1 := if bit v 0 ∧ s.rf Reg.REC_CFG 0 1 = 0 then (taken.wr Reg.REC_FRZSEQ (s.rd Reg.REC_HEAD)).setFlag Reg.REC_STAT 0 true else s
  s1.iff (bit v 1) State.recRelease

/-- FREEZE_TIMEOUT: REC_CFG.FRZTO seconds after it was taken, a recorder freeze ends (R427). -/
def execFreezeTimeout (s : State) : Host.Outcome State Fault Refusal :=
  .next (if recorderOn s ∧ s.rf Reg.REC_CFG 8 8 * 10000 ≤ s.rcd.frozen then s.recRelease else s)

/-- A committed REC_CODE entry: the bucket of a code starts full at the commit that enables it (R424). -/
def State.recCodeCommitted (s : State) (k : Nat) (old : Word) : State :=
  if s.flag (Reg.REC_CODE k) 31 ∧ ¬ bit old 31 then s.fillBucket k else s

end Sys2Proof.Machine
end

