-- ==== Sys2Proof/Machine/Truss.lean ====
section
/-! DEFINITION. The pair (R24 to R30, R381 to R391): the exchange at the deadline, agreement, takeover and the KILL lines. -/
namespace Sys2Proof.Machine

/-- The device is killed (R390), and whether a Scarf probation compares digests (R392). -/
def killed (s : State) : Bool := s.flag Reg.TRU_STAT 9
def inProbation (s : State) : Bool := decide (0 < s.tru.probation)

/-- Probation begins, or begins again, with TRU_CFG.PROB clean frames to come (R392). -/
def probationStart (s : State) : Nat := s.rf Reg.TRU_CFG 16 16 + 1

/-- TRU_STAT.STATE (R405). -/
def State.truState (s : State) (v : Nat) : State := s.setFld Reg.TRU_STAT 0 3 v

/-! ### The exchange of a frame (R24 to R27, R382, R385) -/

/-- The parts of the twin's record, in block order, when every block up to the last one of the record is there (R24). -/
def recordParts (m : SMap TrussContent) : Option (List RecItem) :=
  let rec go : List (Nat × TrussContent) → Nat → List RecItem → Option (List RecItem)
    | [], _, _ => none
    | (k, .record items last) :: r, n, acc =>
      if k ≠ n then none else if last then some (acc ++ items) else go r (n + 1) (acc ++ items)
    | (k, _) :: r, n, acc => if k ≠ n then none else go r (n + 1) acc
  go m 0 []

/-- The twin's output digest and configuration CRC, and its health word, among the blocks received. -/
def twinDigest (m : SMap TrussContent) : Option (Word × Word) :=
  m.findSome? (fun x => match x.2 with
    | .digest o c => some (o, c)
    | _ => none)

def twinHealth (m : SMap TrussContent) : Option (Bool × Bool × Bool) :=
  m.findSome? (fun x => match x.2 with
    | .health u sp h => some (u, sp, h)
    | _ => none)

/-- The twin's complete, CRC-correct exchange of this frame: record, digests and health word (R24). -/
def twinExchange (s : State) : Option TwinExchange :=
  match recordParts s.tru.blocks, twinDigest s.tru.blocks, twinHealth s.tru.blocks with
  | some r, some d, some h => some ⟨r, d.1, d.2, h.1, h.2.1, h.2.2⟩
  | _, _, _ => none

/-- Every register word that holds a TX field, ascending (R387). -/
def txWords : List Nat := (List.range 0x30000).filterMap (fun i =>
  match Reg.row? (4 * i) with
  | some r => if r.tx = 0 then none else some (4 * i)
  | none => none)

/-- A CRC-32C over register words: for each, its address and its value, both little-endian (R387, R519). -/
def wordsCrc (ws : List (Nat × Word)) : Word := crc32c (ws.flatMap (fun x => bytesOf (BitVec.ofNat 32 x.1) ++ bytesOf x.2))

/-- The configuration CRC of R387. -/
def configCrc (s : State) : Word := wordsCrc (txWords.map (fun a => (a, Regs.get s.tru.config a)))

/-- What this device sends in the window of R19: its form of I(N), its output digest and its configuration CRC, and its health word, with
UNAGREED = 1 where it computes the frame on a record that was not agreed (R26). The health word is the device's as it stands when the window
opens (DEDUCED, log entry 77). -/
def State.formExchange (s : State) : State :=
  let x := if trussRuns s && s.flag Reg.TRU_STAT 6 && !killed s then
      some (TwinExchange.mk s.inrec.cur s.tru.digest (configCrc s) (!s.flag Reg.SYS_FRMSTAT 0) s.tru.suspect s.flt.halt)
    else none
  { s with tru := { s.tru with sent := x } }

/-- TRUSS_BLOCK_RECEIVED: block `n` of this frame's exchange. One that fails its CRC is counted and requested again once; what
comes after the deadline is discarded (R24, R382). -/
def execTrussBlockReceived (t : Nat) (n : Nat) (ok : Bool) (c : TrussContent) (s : State) : Host.Outcome State Fault Refusal :=
  .next (if !trussRuns s || !s.flag Reg.TRU_STAT 6 || killed s then s
    else
      let s := s.at t
      if !ok then
        ({ s with tru := { s.tru with asked := insertNat n s.tru.asked } }).count Reg.TRU_CNT 0 16 1
      else if s.tru.passed then s
      else { s with tru := { s.tru with blocks := SMap.insert s.tru.blocks n c } })

/-! ### KILL (R388 to R390) -/

/-- Drive the KILL output: suppressed by KILLEN = 0, and by a device that is killed itself (R389, R390). -/
def State.driveKill (s : State) (on : Bool) : State :=
  { s with tru := { s.tru with killOut := on && s.flag Reg.TRU_CFG 1 && !killed s } }

/-- The levels at KILLO_A and KILLO_B: A high and B low assert KILL, A low and B high is idle (R389). -/
def killLines (s : State) : Bool × Bool := (s.tru.killOut, !s.tru.killOut)

/-- A takeover was detected; it takes effect at the first boundary whose exchange deadline follows (R391). -/
def State.takeDetected (s : State) : State := { s with tru := { s.tru with takeDet := true } }

/-- The device leaves the pair: it is alone, no lead, and reads SOLO = 1. -/
def State.leavePair (s : State) : State :=
  let s1 := ((s.setFlag Reg.SYS_FRMSTAT 1 true).setFlag Reg.SYS_FRMSTAT 0 false).setFlag Reg.TRU_STAT 4 false
  { s1 with tru := { s1.tru with hold := false, takeDet := false, takeArm := false, agreedNext := false, probation := 0,
                                 isoCommit := none, joinAt := none } }

/-- KILL_INPUT: asserted, it opens every isolator at once and the device is killed; SAFE follows at the next cutoff (R390,
R463). A hold that the deadline has decided stays for its boundary (R388). Off in SILL. -/
def execKillInput (t : Nat) (on : Bool) (s : State) : Host.Outcome State Fault Refusal :=
  .next (if s.sys.mode = .sill then s
    else
      let s1 := (s.atRun t).setFlag Reg.TRU_STAT 7 on
      if !on then s1
      else
        let s2 := (each lswBanks (fun b u => u.openIso b) s1).leavePair
        let s3 := { s2 with tru := { s2.tru with hold := s.tru.hold } }
        ((s3.driveKill false).setFlag Reg.TRU_STAT 9 true).truState 5)

/-- KILL_LINE_FAULT: an invalid state of the KILL input lines, held for 10 µs, is treated as idle (R389). -/
def execKillLineFault (t : Nat) (s : State) : Host.Outcome State Fault Refusal :=
  .next (if s.sys.mode = .sill then s
    else (((s.atRun t).setFlag Reg.TRU_STAT 12 true).setFlag Reg.TRU_STAT 7 false).raise 291 0)

/-- A write to TRU_KILL: KEY 0xA5, else ignored (R389). Off in SILL. -/
def State.truKill (s : State) (v : Word) : State := if fld v 8 8 = 0xA5 then s.driveKill (bit v 0) else s

/-! ### The link (R382 to R384, R388) -/

/-- The link is lost (R382): the lead drives KILL and continues alone, the follower takes over unless its KILL input is asserted
(R388). -/
def State.linkLost (s : State) : State :=
  if !s.flag Reg.TRU_STAT 6 then s
  else
    let s1 := ((s.setFlag Reg.TRU_STAT 6 false).setFlag Reg.TRU_STAT 11 true).raise 288 0
    let s2 := ({ s1 with tru := { s1.tru with joiner := none, probation := 0, isoCommit := none, joinAt := none, blocks := [] } }).setFld
      Reg.TRU_SCARF 8 3 0
    if s2.solo then (if s2.isLead || killed s2 then s2 else s2.truState 1)
    else if s2.isLead then (s2.driveKill true).takeDetected
    else if s2.flag Reg.TRU_STAT 7 then s2
    else s2.takeDetected

/-- A commit that sets EN starts the training of the link, unless the device is killed; one that clears it ends the link and the pair (R405; the
instants at which STATE changes are DEDUCED, log entry 87). -/
def State.trussEnabled (s : State) (on : Bool) : State :=
  if on then (if killed s then s else s.truState 1)
  else
    let s1 := if s.solo then s else s.leavePair
    let s2 := { s1.setFlag Reg.TRU_STAT 6 false with tru := { s1.tru with joiner := none, joinAt := none, blocks := [] } }
    if killed s2 then s2 else s2.truState 0

/-- LINK_LOSS: a lane without a valid symbol lock for 2 µs (R382). -/
def execLinkLoss (t : Nat) (s : State) : Host.Outcome State Fault Refusal :=
  .next (if s.sys.mode = .sill ∨ s.sys.mode = .freeze then s else (s.at t).linkLost)

/-- SKEW_FAULT: the boundary skew to the lead as measured, ns; above 500 ns it is flagged (R384). -/
def execSkewFault (t : Nat) (skew : BitVec 16) (s : State) : Host.Outcome State Fault Refusal :=
  .next (if !s.follower || !trussRuns s then s
    else
      let s1 := (s.at t).setFld Reg.TRU_SKEW 0 16 skew.toNat
      if 500 < skew.toInt.natAbs then (s1.setFlag Reg.TRU_STAT 13 true).raise 289 0 else s1)

/-- TRUSS_LINK_UP: both lanes are locked, and the device at the other end is known (R383). The first time since both devices came
up they pair at the next boundary, side A leading; later a device joins only through Scarf (R392). -/
def execTrussLinkUp (t : Nat) (j : Joiner) (s : State) : Host.Outcome State Fault Refusal :=
  .next (if !trussTrains s || killed s || !s.solo then s
    else
      let s1 := (s.at t).setFlag Reg.TRU_STAT 6 true
      let s2 := { s1 with tru := { s1.tru with joiner := some j } }
      if j.side = s.sys.tside then s2.setFld Reg.TRU_STAT 16 4 1
      else if j.leads then s2.truState 2
      else if s.tru.pairedOnce || s.isLead then s2
      else
        { (s2.setFld Reg.TRU_STAT 16 4 0).truState 2 with
            tru := { s2.tru with joinAt := some (if s.sys.tside then j.frame else s.frame + 1) } })

/-! ### The deadline (R24 to R28, R387, R388) -/

/-- The boundary is late: the bank is applied without comparison, and LATELIM of them in a row lose the link (R24, R25, R382). A follower with
AGREED = 0 applies it too: R25, for the late boundary, goes before R28, which would have it hold (DESIGN CHOICE, log entry 75). -/
def State.lateBoundary (s : State) : State :=
  let s1 := (((s.setFlag Reg.SYS_FRMSTAT 2 true).setFlag Reg.SYS_FRMSTAT 3 true).count Reg.SYS_FRMSTAT 8 8 1)
  let s2 := { s1 with tru := { s1.tru with lateRun := min 255 (s1.tru.lateRun + 1) } }
  if s2.rf Reg.TRU_CFG 8 8 ≤ s2.tru.lateRun then s2.linkLost else s2

/-- The digests differ (R40, R388): a device to be killed keeps its states, a healthy one drives KILL and goes on. Each device counts as
suspect by the health word it sent. In probation it starts the probation again (R392). -/
def State.cmpFail (s : State) (twinSuspect : Bool) : State :=
  let own := match s.tru.sent with
    | some x => x.suspect
    | none => s.tru.suspect
  let s1 := (s.setFlag Reg.SYS_FRMSTAT 4 true).raise 285 (BitVec.ofNat 32 s.frame.toNat)
  if inProbation s1 then { s1 with tru := { s1.tru with probation := probationStart s1 } }
  else
    let killMe := if own = twinSuspect then !s1.isLead else own
    if killMe then { s1 with tru := { s1.tru with hold := true } } else (s1.driveKill true).takeDetected

/-- The exchange is complete (R26, R27, R387, R388). -/
def State.onTime (s : State) (x : TwinExchange) : State :=
  let s0 := { s with tru := { s.tru with lateRun := 0, agreedNext := true, twinRec := x.items, twinUnagreed := x.unagreed } }
  let differ := decide (configCrc s0 ≠ x.config)
  let s1 := if differ then (s0.setFlag Reg.TRU_STAT 10 true).raise 290 0 else s0
  let s2 :=
    if !inProbation s1 && (!s1.flag Reg.SYS_FRMSTAT 0 || x.unagreed) then
      let u := s1.setFlag Reg.SYS_FRMSTAT 3 true
      { u with tru := { u.tru with hold := !u.isLead } }
    else if s1.tru.digest ≠ x.output then s1.cmpFail x.suspect
    else if inProbation s1 then
      { s1 with tru := { s1.tru with suspect := false,
                                     probation := if differ then probationStart s1 else max 1 (s1.tru.probation - 1) } }
    else { s1 with tru := { s1.tru with suspect := false } }
  if x.halt ∧ ¬ s2.solo then s2.takeDetected else s2

/-- The deadline's part in the pair: lateness, comparison, agreement, and the takeover that the next boundary makes. -/
def State.trussDeadline (s : State) : State :=
  let paired := !s.solo || inProbation s
  let s1 :=
    if !trussRuns s || !paired then { s with tru := { s.tru with agreedNext := false } }
    else match twinExchange s with
      | some x => s.onTime x
      | none =>
        let u := { s with tru := { s.tru with agreedNext := false, twinUnagreed := (twinHealth s.tru.blocks).any (·.1) } }
        if u.solo then u else u.lateBoundary
  { s1 with tru := { s1.tru with passed := true, takeArm := s1.tru.takeDet, takeDet := false } }

/-! ### The boundary (R384, R391, R392) -/

/-- A takeover takes effect: the survivor leads alone and applies its own bank (R391). -/
def State.takeover (s : State) : State :=
  let s1 := s.leavePair
  (((s1.setFlag Reg.TRU_STAT 4 true).truState 4).setFlag Reg.TRU_STAT 8 true).raise 292 0

/-- Two devices pair: SOLO reads 0 on both, and side A leads (R383). -/
def State.pairUp (s : State) (lead : Bool) : State :=
  let s1 := ((s.setFlag Reg.SYS_FRMSTAT 1 false).setFlag Reg.TRU_STAT 4 lead).truState 3
  { s1 with tru := { s1.tru with pairedOnce := true, joinAt := none, lateRun := 0, suspect := false, probation := 0,
                                 isoCommit := none } }

/-- At the boundary at which the lead's commit of ISO on the replacement applies, the two devices are a pair (R392). -/
def State.isoJoins (s : State) : State := (s.setFld Reg.TRU_SCARF 8 3 0).pairUp s.isLead

/-- The boundary's part in the pair, before anything transfers: takeovers, pairing, the agreement of the frame that begins, and an
empty exchange for it. -/
def State.trussBoundary (s : State) : State :=
  let s1 := if s.tru.takeArm then s.takeover else s
  let s2 := match s1.tru.isoCommit with
    | some false => s1.isoJoins
    | some true => { s1 with tru := { s1.tru with isoCommit := some false } }
    | none => if s1.tru.joinAt.isSome ∧ s1.tru.probation = 0 ∧ trussRuns s1 then s1.pairUp (!s1.sys.tside) else s1
  let s3 := s2.setFlag Reg.SYS_FRMSTAT 0 (s2.tru.agreedNext && !s2.solo)
  { s3 with tru := { s3.tru with blocks := [], asked := [], passed := false, agreedNext := false, joinAt := none } }

end Sys2Proof.Machine
end

