-- ==== Sys2Proof/Machine/Commit.lean ====
section
/-! DEFINITION. How a commit is decided and applied (R19, R23, R32, R118 to R128): the end of its check, step (2) of the boundary, the
time-out, and the host's three commands. -/
namespace Sys2Proof.Machine

/-! ### BEGIN (R118, R119, R124) -/

/-- What a BEGIN meets: a free slot; the holder's own slot; the slot that another owner of higher rank opened in the same CORE cycle, and has not
used (R119); or a refusal. -/
inductive BeginResult where
  | granted | again | outranks | refused (st : TxnStatus)
  deriving DecidableEq, Repr

/-- The rank of the BEGIN that holds the slot, where that slot opened in the present CORE cycle and nothing was written since. -/
def openRank (s : State) : Option Nat :=
  if s.txn.state = .opened ∧ s.txn.beganAt = s.now / 2 ∧ s.txn.shadow = [] ∧ s.txn.beyond = [] then
    ((s.txn.begins.filter (fun x => decide (x.holder = s.txn.holder))).map (·.rank)).min?
  else none

/-- A BEGIN (R118, R124): the free slot opens for its holder; the holder's own BEGIN succeeds again but for a PENDING slot; any other gives
BUSY. In BOOT transactions are refused with MODE (R129), and a host BEGIN with TOKEN 0 with RANGE (R130). -/
def txnBeginResult (s : State) (q : BeginReq) : BeginResult :=
  if s.sys.mode = .boot ∨ s.sys.mode = .sill ∨ s.sys.mode = .freeze then .refused .mode
  else if q.holder = .host 0 ∨ q.holder = .twin 0 then .refused .range
  else match s.txn.state with
    | .free => .granted
    | .pending => .refused .busy
    | _ =>
      if s.txn.holder = q.holder then .again
      else match openRank s with
        | some r => if q.rank < r then .outranks else .refused .busy
        | none => .refused .busy

/-- The BEGIN is one of the cycle in which the slot opened (R119). -/
def State.beganWith (s : State) (q : BeginReq) : State :=
  if s.txn.state = .opened ∧ s.txn.beganAt = s.now / 2 then { s with txn := { s.txn with begins := q :: s.txn.begins } } else s

/-- A BEGIN that outranks the one that opened the slot in the same cycle takes the slot; the other is answered BUSY, and every TBEGIN of the
cycle learns its result anew (R82, R119, R126). -/
def State.txnOutrank (s : State) (q : BeginReq) : State :=
  let old := s.txn.holder
  let s1 := { s with txn := { s.txn with holder := q.holder } }
  let s2 := eachOf s.txn.begins (fun x t =>
    match x.pred with
    | some p => t.putP p.1 p.2 (decide (x.holder = q.holder))
    | none => t) s1
  s2.txnRefuse old.code .busy

/-- A repeated BEGIN of the holder leaves the count of R127 as it is (DESIGN CHOICE, log entry 91). -/
def State.txnBegin (s : State) (q : BeginReq) : State :=
  match txnBeginResult s q with
  | .granted => ({ s with txn := { Txn.reset with state := .opened, holder := q.holder, beganAt := s.now / 2, begins := [q] } }).txnStatus .accepted
  | .again => (s.beganWith q).txnStatus .accepted
  | .outranks => (s.txnOutrank q).beganWith q
  | .refused st => (s.beganWith q).txnRefuse q.holder.code st

/-- The BEGIN of a host, or of the twin. -/
def beginReq (h : Holder) : BeginReq := ⟨match h with | .twin _ => 0 | _ => 1, h, none⟩

/-! ### The check ends (R121) -/

/-- A TCOMMIT's wait ends with its result word: STATUS, TABLE and LIMIT (R82, R121). -/
def State.commitAnswer (s : State) (e : Nat) (word : Word) : State :=
  match (s.en e).wait with
  | .commit d => s.answerG e 400 d word
  | _ => s

/-- The result reaches the engine whose TCOMMIT waits for it. -/
def State.answerWaiter (s : State) (waiter : Option Nat) (word : Word) : State :=
  match waiter with
  | some e => s.commitAnswer e word
  | none => s

/-- The end of a check: accepted, and PENDING until its boundary; or refused as a whole, recorded, and the slot free (R121, R122, R126). -/
def State.commitChecked (s : State) : State :=
  let t := s.txn
  match commitVerdict s with
  | none => (({ s with txn := { t with state := .pending } }).txnStatus .accepted).answerWaiter t.waiter 0
  | some v =>
    let s1 := ((s.txnFree).txnResult v.st v.table v.unit v.limit v.count).txnRecord t.holder.code v.st v.table v.unit v.limit v.count
    s1.answerWaiter t.waiter (BitVec.ofNat 32 (v.st.code + v.table % 256 * 2 ^ 8 + v.limit % 65536 * 2 ^ 16))

/-- COMMIT_CHECK_COMPLETE: the device has checked the transaction that is CHECKING, at most 400 cycles after its COMMIT. -/
def execCommitCheckComplete (t : Nat) (s : State) : Host.Outcome State Fault Refusal :=
  .next (if s.txn.state = .checking ∧ s.clocked then (s.at t).commitChecked else s)

/-- TRANSACTION_TIMEOUT: 10,000 advances of the operating time without a TX write of the owner (R127). -/
def execTransactionTimeout (s : State) : Host.Outcome State Fault Refusal :=
  .next (if s.txn.state = .opened ∧ 10000 ≤ s.txn.idle ∧ s.clocked then s.txnRollback .timeout else s)

/-- A COMMIT with the DIG of the host command that carried it, which counts while HAUTH is 1 (R451). -/
def State.txnCommitDig (s : State) (h : Holder) (dig : Word) : State :=
  let s1 := s.txnCommit h none
  if s.txn.state = .opened ∧ s1.txn.state = .checking ∧ hauth s then
    let own := crc32c (s.txn.shadow.flatMap (fun x => bytesOf (BitVec.ofNat 32 x.1) ++ bytesOf x.2))
    { s1 with txn := { s1.txn with digOk := decide (own = dig) } }
  else s1

/-- A word of TXN_CTRL from the host or, with a pair, from the lead's record: CMD 1 BEGIN, 2 COMMIT, 3 ROLLBACK (R130). `mk` makes the
holder from the token. -/
def State.txnCtrl (s : State) (mk : Nat → Holder) (v dig : Word) : State :=
  let h := mk (fld v 0 16)
  match fld v 16 2 with
  | 1 => s.txnBegin (beginReq h)
  | 2 => s.txnCommitDig h dig
  | 3 => s.txnRollbackCmd h
  | _ => s

/-- A host's write to a TX register (R120, R124): the owner's goes to the shadow bank while the slot is OPEN, any other sets STRAY. -/
def State.txnHostWrite (s : State) (a : Nat) (v : Word) : State :=
  match s.txn.state, s.txn.holder with
  | .opened, .host _ => s.shadowWrite a v
  | _, _ => s.setFlag Reg.TXN_STAT 5 true

/-- A TX write from the lead's record (R386). -/
def State.txnTwinWrite (s : State) (a : Nat) (v : Word) : State :=
  match s.txn.state, s.txn.holder with
  | .opened, .twin _ => s.shadowWrite a v
  | _, _ => s.setFlag Reg.TXN_STAT 5 true

/-! ### Step (2) of the boundary -/

/-- What a block does when a word of its configuration has changed at step (2); `old` is the word that was in force. Switch channels and
drivers take their states once, at the end of step (3) (R20). -/
def State.wordApplied (s : State) (a : Nat) (old : Word) : State :=
  if a = Reg.SYS_FRMCFG then
    if s.rd a = old then s else ({ s with scr := { s.scr with poses := [], maps := [] } }).gaugeAbortAll
  else if a = Reg.SCR_CTRL then
    if bit (s.rd a) 9 = bit old 9 then s else { s with scr := { s.scr with maps := ((s.base : Int), fld old 9 1) :: s.scr.maps } }
  else if a = Reg.CLK_CFG then s.refUpdate false
  else if 0x030100 ≤ a ∧ a < 0x030280 then
    let b := (a - 0x030100) / 0x20
    if (a - 0x030100) % 0x20 = 0 then s.applyBcfg b old else s
  else if 0x031000 ≤ a ∧ a < 0x0316C0 ∧ a % 0x10 = 0 then
    let c := (a - 0x031000) / 0x10
    if fld (s.rd a) 12 2 = fld old 12 2 then s else s.setLch c { s.lch c with olRun := 0, stbRun := 0 }
  else if a = Reg.PWM_FLTPOL then
    let turned := (List.range 16).filter (fun n => bit old n != bit (s.rd a) n)
    eachOf (turned.filter (fun n => !s.flag Reg.PWM_FLTLVL n)) (fun n u => u.pinActive n)
      (eachOf (turned.filter (s.flag Reg.PWM_FLTLVL)) (fun n u => u.pinRelease n) s)
  else if 0x040000 ≤ a ∧ a < 0x040800 then
    let u := (a - 0x040000) / 0x40
    let s1 := s.pinForce u
    if s1.safeState && s1.flag (Reg.PWM_UFLT u) 31 && !s1.flag (Reg.PWM_UFSTAT u) 0 then s1.forceUnit u 2 0 else s1
  else if 0x050000 ≤ a ∧ a < 0x050F00 then (if a % 0x80 = 0 then s.axisCommitted ((a - 0x050000) / 0x80) old else s)
  else if 0x058000 ≤ a ∧ a < 0x058600 ∧ (a - 0x058000) % 0x40 = 0 then s.fbCommitted ((a - 0x058000) / 0x40) old
  else if 0x060100 ≤ a ∧ a < 0x060180 then s.adcRanged ((a - 0x060100) / 4) old
  else if a = Reg.GNS_TCFG ∨ a = Reg.GNS_HOCFG then s.holdBack.uncCheck
  else if 0x070100 ≤ a ∧ a < 0x070130 then s.antCommitted ((a - 0x070100) / 0x10) old
  else if 0x074000 ≤ a ∧ a < 0x076400 then
    let n := (a - 0x074000) / 0x20
    s.gCommitted n (if a = Reg.GCH_SIG n then old else s.rd (Reg.GCH_SIG n))
  else if 0x080000 ≤ a ∧ a < 0x090000 then
    let s1 := s.busPast a old
    if a % 0x4000 = 0 then s1.busCommitted ((a - 0x080000) / 0x4000) old
    else if a % 0x4000 = 0x14 then s1.busRefCommitted ((a - 0x080000) / 0x4000) old
    else s1
  else if 0x0A9000 ≤ a ∧ a < 0x0AA000 then s.recCodeCommitted ((a - 0x0A9000) / 4) old
  else if a = Reg.TRU_CFG then
    let s1 := if s.flag a 1 then s else s.driveKill false
    if s1.flag a 0 = bit old 0 then s1 else s1.trussEnabled (s1.flag a 0)
  else s

/-- The sensor converter drops the lists of triggers that the commit disables. -/
def State.adcApplied (s : State) (l : List (Nat × Word)) : State :=
  if l.any (fun x => decide (0x060000 ≤ x.1) && decide (x.1 < 0x070000)) then s.adcCommitted else s

/-- The transaction that is due applies: every word at once, TXN_APPLY takes the frame number, the slot is free (R19, R124). The units see the
pins under the new polarity (R216). -/
def State.txnApply (s : State) : State :=
  if s.txn.state = .pending ∧ s.txn.applyAt = s.frame.toNat then
    let l := s.txn.shadow.filter (fun x => !ignoresTx s x.1)
    let s := if gnssOn s then s.rtSync else s
    let olds := l.map (fun x => (x.1, s.rd x.1))
    let s1 := ({ s with regs := mergedRegs s (fun a => !ignoresTx s a) }).txnFree
    let s2 := (s1.wr Reg.TXN_APPLY_LO (BitVec.ofNat 32 s.frame.toNat)).wr Reg.TXN_APPLY_HI (BitVec.ofNat 32 (s.frame.toNat / 2 ^ 32))
    let pol := fun (x : Nat × Word) => decide (x.1 = Reg.PWM_FLTPOL)
    (eachOf (olds.filter pol ++ olds.filter (fun x => !pol x)) (fun x u => u.wordApplied x.1 x.2) s2).adcApplied l
  else s

end Sys2Proof.Machine
end

