-- ==== Sys2Proof/Machine/Scarf.lean ====
section
/-! DEFINITION. Hot replacement by Scarf (R392, R393), and the journal's commands of the link and of MRAM (R397, R400). -/
namespace Sys2Proof.Machine

/-! ### Scarf -/

/-- PHASE of TRU_SCARF. -/
def scarfPhase (s : State) : Nat := s.rf Reg.TRU_SCARF 8 3
def State.setPhase (s : State) (p : Nat) : State := s.setFld Reg.TRU_SCARF 8 3 p

/-- JOINERR of the device at the other end, in the order of R393: 0 none. The image hashes, the hashes of the owner keys and the key check values
are compared (R447). -/
def joinError (s : State) (j : Joiner) : Nat :=
  if j.side = s.sys.tside then 1
  else if j.variant ≠ s.sys.variant then 2
  else if j.imgHash ≠ (List.range 8).map (fun i => s.rd (Reg.PEG_IMGHASH i)) then 3
  else if j.ownHash ≠ ownHash s ∨ j.checks ≠ keyChecks s then 4
  else if j.period ≠ s.rf Reg.SYS_FRMCFG 0 3 then 5
  else 0

/-- A write to TRU_SCARF.GO: on a lead that is SOLO, with a joining device on the link in IDLE or SERVICE, Scarf starts, or JOINERR names why
it does not. -/
def State.scarfGo (s : State) (v : Word) : State :=
  if !bit v 0 || !trussRuns s || !s.solo || !s.isLead || !s.flag Reg.TRU_STAT 6 || scarfPhase s ≠ 0 then s
  else match s.tru.joiner with
    | none => s
    | some j =>
      if !j.ready then s
      else
        let e := joinError s j
        let s1 := s.setFld Reg.TRU_STAT 16 4 e
        if e = 0 then s1.setPhase 1 else s1

/-- The token of the twin owner's own transactions, to which the spec gives none (DESIGN CHOICE, log entry 104). -/
def scarfOwner : Holder := .twin 1

/-- A transaction of the twin owner on the replacement: BEGIN, the words, COMMIT and its check; a refusal is recorded as any other (R118 to R122,
R392). -/
def State.twinCommit (s : State) (ws : List (Nat × Word)) : State :=
  let s1 := eachOf ws (fun x t => t.txnTwinWrite x.1 x.2) (s.txnBegin (beginReq scarfOwner))
  (s1.txnCommit scarfOwner none).iff (decide (s1.txn.state = .opened) && decide (s1.txn.holder = scarfOwner)) State.commitChecked

/-- The twin owner's transaction is accepted and waits for its boundary. -/
def twinPending (s : State) : Bool := decide (s.txn.state = .pending) && decide (s.txn.holder = scarfOwner)

/-- The registers that phase 1 copies, in transactions of what the shadow bank holds; the isolators stay open until phase 6 (R392). Each has
applied when the phase ends (log entry 104). -/
def State.scarfRegs (s : State) (ws : List (Nat × Word)) : State :=
  let word (x : Nat × Word) : Nat × Word :=
    if (List.range lswBanks).any (fun b => decide (x.1 = Reg.BCFG b)) then (x.1, put x.2 0 1 (s.rf x.1 0 1)) else x
  each ((ws.length + shadowCap - 1) / shadowCap) (fun k t =>
    let t1 := t.twinCommit (((ws.drop (shadowCap * k)).take shadowCap).map word)
    if twinPending t1 then ({ t1 with txn := { t1.txn with applyAt := t1.frame.toNat } }).txnApply else t1) s

/-- The replacement takes one part of what the later phases copy. -/
def State.scarfTake (s : State) (i : ScarfItem) : State :=
  match i with
  | .reg _ _ => s
  | .dram a bytes => s.dramPut a bytes
  | .fmem ofs words => s.fmemPut ofs words
  | .dmem e ofs words =>
    s.updEn e (fun x => { x with dmem := Mem.stWords x.dmem ofs words, dmemTag := Mem.tagWords x.dmemTag ofs words })
  | .journal head entries =>
    let ring := entries.foldl (fun m x => SMap.set [] m (x.1 % ringSize) x.2) []
    { s.mramWritten 3 0 0x400000 with jrn := { s.jrn with ring := ring, head := head, opened := openOf head (validEntries ring), writing := [], live := [] } }
  | .recorder head oldest hash hashPrev slots =>
    let s1 := (s.wr Reg.REC_HEAD head).wr Reg.REC_OLDEST oldest
    { s1.mramWritten 4 0 0x1000000 with rcd := { s1.rcd with hash := hash, hashPrev := hashPrev, slots := slots.foldl (fun m x => SMap.set [] m x.1 x.2) [] } }

/-- SCARF_PHASE_COMPLETE: a phase from 1 to 4 ends and the next one begins. On the replacement, `items` are what the phase has copied, and at the
end of phase 4 it joins at the next boundary with the lead's frame number there (R384, R392). -/
def execScarfPhaseComplete (t : Nat) (frame : BitVec 48) (items : List ScarfItem) (s : State) : Host.Outcome State Fault Refusal :=
  .next (
    let p := scarfPhase s
    if !trussRuns s || !s.solo || !s.flag Reg.TRU_STAT 6 || killed s || 5 ≤ p then s
    else if s.isLead then
      (if p = 0 then s
       else
        let s1 := (s.at t).setPhase (p + 1)
        if p = 4 then { s1 with tru := { s1.tru with probation := probationStart s1 } } else s1)
    else if (s.tru.joiner.map (·.leads)) = some true then
      let regs := items.filterMap (fun i => match i with
        | .reg a v => some (a, v)
        | _ => none)
      let s1 := (eachOf items (fun i u => u.scarfTake i) ((s.at t).scarfRegs regs)).drivers.settleAll
      let n := max 1 p
      let s2 := s1.setPhase (n + 1)
      if n = 4 then { s2 with tru := { s2.tru with probation := probationStart s2, joinAt := some frame } } else s2
    else s)

/-- PROBATION_END: PROB frames have passed without CMP_FAIL or CFGDIV, and the lead commits ISO on the replacement; `iso` carries the lead's ISO
bits to the replacement, which applies them as a transaction of the twin owner (R392). Where that one is refused the phase stays. -/
def execProbationEnd (t : Nat) (iso : BitVec 12) (s : State) : Host.Outcome State Fault Refusal :=
  .next (if scarfPhase s = 5 ∧ s.tru.probation = 1 ∧ trussRuns s then
      let s0 := s.at t
      let s1 := if s.isLead then s0
        else s0.twinCommit ((List.range lswBanks).map (fun b => (Reg.BCFG b, put (s.rd (Reg.BCFG b)) 0 1 (b2n (iso.getLsbD b)))))
      if s.isLead || twinPending s1 then
        let s2 := s1.setPhase 6
        { s2 with tru := { s2.tru with isoCommit := some s2.closed } }
      else s1
    else s)

/-! ### The journal -/

/-- Engines whose JSYNC waits for an entry that has become durable go on with 1 at this instant, or with 0 at their bound where that has passed
(R83, R397). -/
def State.journalAnswers (s : State) : State :=
  each 8 (fun e t =>
    match (t.en e).wait with
    | .journal p q bound => if bound < t.now then t.answerAt e bound p false else if jsyncDone t q then t.answerAt e t.now p true else t
    | _ => t) s

/-- JOURNAL_WRITE_COMPLETE: the oldest entry being written is in the device's own MRAM (R397). -/
def execJournalWriteComplete (t : Nat) (s : State) : Host.Outcome State Fault Refusal :=
  .next (if !journalOn s || s.sys.powerFail || s.jrn.writing.isEmpty then s else (s.at t).jrnWritten.journalAnswers)

/-- JOURNAL_CONFIRMATION: the twin confirms a SEQ with the CRC of its entry (R397). -/
def execJournalConfirmation (t : Nat) (seq : BitVec 64) (crc : Word) (s : State) : Host.Outcome State Fault Refusal :=
  .next (if !trussRuns s || s.solo then s else ((s.at t).jrnConfirm seq.toNat crc).journalAnswers)

/-- MARK_DRAIN: the oldest mark of the buffer goes to MRAM (R400). -/
def execMarkDrain (s : State) : Host.Outcome State Fault Refusal := .next (if !journalOn s || s.sys.powerFail then s else s.drainMark)

/-- JSYNC_TIMEOUT: the entry is not durable within 8,000 cycles of its JSYNC, which returns 0 at that instant (R83). -/
def execJsyncTimeout (t : Nat) (e : Fin 8) (s : State) : Host.Outcome State Fault Refusal :=
  .next (match (s.en e).wait with
    | .journal p _ bound => if s.clocked ∧ bound ≤ (s.at t).now then (s.at t).answerAt e bound p false else s
    | _ => s)

end Sys2Proof.Machine
end

