-- ==== Sys2Proof/Machine/Modes.lean ====
section
/-! DEFINITION. Modes, SILL, resets, start-up and FREEZE (R462 to R488): ONE shared entry to a mode, ONE shared reset, and the commands of
the mode controller. -/
namespace Sys2Proof.Machine

def State.setSys (s : State) (f : Sys → Sys) : State := { s with sys := f s.sys }

/-- TARGET of SYS_MODE. -/
def target (s : State) : Nat := s.rf Reg.SYS_MODE 8 3

/-- The mode of a code of R8. -/
def Mode.ofCode : Nat → Mode
  | 0 => .sill | 1 => .boot | 2 => .idle | 3 => .run | 4 => .limp | 5 => .safe | 6 => .freeze | _ => .service

/-! ### A change of mode (R464, R466) -/

/-- SYS_MODE.MODE changes: its cause, the record of code 513, and MODE in HP_ISTAT (R375, R466). -/
def State.changeMode (s : State) (m : Mode) (cause : Nat) : State :=
  let old := s.sys.mode.code
  let s1 := (s.setSys (fun y => { y with mode := m })).setFld Reg.SYS_MODE 16 8 cause
  (s1.putRec 513 0 (BitVec.ofNat 32 m.code) [BitVec.ofNat 32 old, BitVec.ofNat 32 cause, 0, 0, 0, 0, 0, 0]).irq 5

/-- Every output takes the state of the mode now in force (R41, R215, R222, R248, R254, R272). -/
def State.outputs (s : State) : State := s.drivers.settleAll

/-- Channels of enabled PWM units keep SAFELVL until their next period boundary (R218). -/
def State.holdUnits (s : State) : State := each 24 (fun u t => t.holdUnit u) s

/-- The first entry to RUN since a BOOT that loaded an image, with AUTOROLL = 1, raises the counter of the signing slot (R439). -/
def State.firstRun (s : State) : State :=
  match s.sched.image with
  | none => s
  | some im =>
    if s.sys.ranOnce then s
    else
      let s1 := s.setSys (fun y => { y with ranOnce := true })
      let a := Reg.PEG_ROLL (s1.rf Reg.PEG_STAT 12 2)
      if autoroll s1 ∧ (s1.rd a).toNat < im.version then s1.wr a (BitVec.ofNat 32 im.version) else s1

/-- BOOT ends: a device that has to enter SERVICE stays there until a request (R445, R465), and a link that no EN carries on is off (R404, log
entry 87). -/
def State.leaveBoot (s : State) (m : Mode) : State :=
  let s1 := if m = .service then s.setFld Reg.SYS_MODE 8 3 7 else s
  if s1.flag Reg.TRU_CFG 0 then s1 else s1.trussEnabled false

/-- Entry to IDLE, RUN, LIMP, SAFE or SERVICE at a boundary, and what each block does there; the outputs follow at the end of its step (3). -/
def State.enterMode (s : State) (m : Mode) (cause : Nat) : State :=
  let old := s.sys.mode
  let s1 := s.changeMode m cause
  let s2 := s1.marksOff
  let s3 := if m = .safe then
      (((if target s2 = 3 then s2.setFld Reg.SYS_MODE 8 3 2 else s2).streamEnd 5).motionSafe)
    else s2
  let s4 := if old = .safe then s3.holdUnits else s3
  let s5 := if gaugeRuns s4 then s4 else s4.gaugeAbortAll
  let s5 := if old = .boot then s5.leaveBoot m else s5
  let s6 := if m = .idle ∧ s5.jrn.replayDue then s5.replayJournal else s5
  let s7 := if m = .run then s6.firstRun else s6
  s7.gBurstSync

/-! ### The decision (R462, R463) -/

/-- The mode of the next boundary and its cause (R463, R466). -/
def chooseMode (s : State) : Mode × Nat :=
  let tgt := target s
  let works := tgt = 2 ∨ tgt = 3
  let limpReq := s.flag Reg.SCHED_STAT 0
  match s.sys.reqBoot with
  | some _ => (.boot, 0)
  | none =>
    if s.sys.reqSill.isSome ∨ s.sys.keyOff then (.sill, s.sys.reqSill.getD 10)
    else if killed s then (.safe, 9)
    else if 2 ≤ s.flt.reaction ∧ works then (.safe, 4)
    else if (s.flt.reaction = 1 ∨ limpReq) ∧ works then
      (.limp, if s.sys.mode = .safe then 5 else if s.flt.reaction = 1 then 4 else 6)
    else
      (Mode.ofCode tgt, if s.sys.mode = .safe then 5
        else if s.sys.mode = .limp then (if s.sys.limpReq then 6 else 5)
        else s.sys.reqBy)

/-- The decision at the output cutoff; in BOOT only its end decides (R462, R465). -/
def State.decideMode (s : State) : State :=
  let d := if s.sys.mode = .boot then
      (match s.sys.bootDone with
       | some m => some (m, if m = .idle then 7 else 8)
       | none => none)
    else
      let c := chooseMode s
      if c.1 = s.sys.mode then none else some c
  s.setSys (fun y => { y with decided := d, limpReq := s.flag Reg.SCHED_STAT 0 })

/-- The mode that the coming frame will have, as it stands after the cutoff. -/
def comingMode (s : State) : Mode :=
  match s.sys.decided with
  | some d => d.1
  | none => s.sys.mode

/-! ### Resets (R475 to R477) -/

inductive ResetKind where
  | power | wake | system
  deriving DecidableEq, Repr

/-- The bits of a register word that a reset keeps (R476, R488): what stands in MRAM or is a factory value; with a system reset what shows a
level that is measured on, and but for a power-on reset the isolators' state (DEDUCED, log entry 35); with a wake or system reset what stands in the Sill domain; with a system
reset the grant and the thermal latches, which no reset but SILL and power-on clears (R237). -/
def keepMask (k : ResetKind) (a : Nat) : Word :=
  let all : Word := 0xFFFFFFFF#32
  if a = Reg.REC_HEAD ∨ a = Reg.REC_OLDEST ∨ a = Reg.REC_RDSTART ∨ a = Reg.REC_FRZSEQ ∨ a = Reg.REC_RDPOS ∨ a = Reg.PEG_CFG
      ∨ (0x0B0008 ≤ a ∧ a ≤ 0x0B000C) ∨ (0x0B0020 ≤ a ∧ a < 0x0B0048) then all
  else if a = Reg.PROG_BANK then 1#32
  else if a = Reg.PEG_STAT then (if k = .system then 0x700#32 else 0x100#32)
  else if a = Reg.JRN_STAT then 0x20#32
  else if a = Reg.PWR_STAT then (if k = .system then 0x107F#32 else 0x1000#32)
  else if a = Reg.CLK_STAT then (if k = .system then 0x7#32 else 0x3#32)
  else if a = Reg.HP_CFG then 1#32
  else if k = .power then 0#32
  else if 0x030100 ≤ a ∧ a < 0x030280 ∧ a % 0x20 = 0x0C then 3#32
  else if k = .system ∧ 0x031000 ≤ a ∧ a < 0x0316C0 ∧ a % 0x10 = 8 then 8#32
  else if (0x010400 ≤ a ∧ a ≤ 0x010408) ∨ a = Reg.SIL_PCYC ∨ a = Reg.BUS_WAKE ∨ a = Reg.SYS_FRMCFG ∨ a = Reg.FLT_RCNT
      ∨ (0x0A0018 ≤ a ∧ a ≤ 0x0A0024) then all
  else if a = Reg.FLT_RCFG then 0xFF#32
  else if a = Reg.TRU_STAT then 0x280#32
  else if k = .system ∧ a = Reg.PEG_GRANT then all
  else 0#32

def keptRegs (k : ResetKind) (m : SMap Word) : SMap Word :=
  m.foldl (fun acc x =>
    let b := keepMask k x.1
    if b = 0 then acc else Regs.set acc x.1 ((Reg.resetOf x.1 &&& ~~~b) ||| (x.2 &&& b))) []

/-- FLT pins at their active level after a reset: the levels at the pins stay, and FLTPOL is 0 again (R223). -/
def pinsAfter (s : State) : Word := s.rd Reg.PWM_FLTLVL ^^^ s.rd Reg.PWM_FLTPOL

/-- Level sources that stay asserted through a reset, with their details, because the condition outside the device stays: active FLT pins
(R407), and with a system reset the supplies and the temperatures. The collector takes them when it works
again (R430; DEDUCED, log entry 88). -/
def assertedAfter (s : State) (k : ResetKind) : SMap Word :=
  let stays := fun x => decide (298 ≤ x) && decide (x < 316) && decide (x ≠ 305) && decide (k = .system)
  ((List.range 16).filter (fun n => bit (pinsAfter s) n)).map (fun n => (n + 16, 0#32))
    ++ (s.flt.asserted.filter stays).map (fun x => (x, s.rd (Reg.FLT_SDET x)))

/-- The register file after a reset. -/
def State.regsAfter (s : State) (k : ResetKind) : SMap Word :=
  (assertedAfter s k).foldl (fun m x => Regs.set m (Reg.FLT_SST x.1) 2#32)
    (Regs.set (keptRegs k s.regs) Reg.PWM_FLTLVL (pinsAfter s))

/-- The journal after a reset: what stands in MRAM, with the next SEQ after it; the Sill-domain buffer stays but for a power-on reset;
replay is due at entry to IDLE (R400, R401). -/
def Jrn.afterReset (j : Jrn) (k : ResetKind) : Jrn :=
  let head := ringHead j.ring
  { Jrn.reset with ring := j.ring, head := head, opened := openOf head (validEntries j.ring), marks := if k = .power then [] else j.marks,
                   cutShort := j.cutShort, replayDue := true }

/-- The recorder after a reset: the records of MRAM; the queue is kept by a system reset, written before a wake reset, and counted as lost
before a power-on reset (R425, R476). -/
def Rec.afterReset (r : Rec) (k : ResetKind) : Rec :=
  let n := r.queue.length + r.overdue.length
  let r1 := { r with buckets := [], sigs := [], swTag := [], readYet := if k = .system then r.readYet else false }
  if k = .power then { r1 with queue := [], overdue := [], lost := 0, lostPower := r1.lostPower + n } else r1

/-- Sys after a reset: counts, straps, and what the Sill domain and the pins hold. -/
def Sys.afterReset (y : Sys) (k : ResetKind) : Sys :=
  let y1 := { Sys.reset with
    mode := .boot, keyOff := if k = .power then false else y.keyOff, koRun := if k = .power then 0 else y.koRun, ign := y.ign, watch := false, ignSeenLow := false, ignDeb := if k = .power then false else y.ignDeb, sillDone := false,
    saved := decide (k = .power) && y.saved, savedOptime := y.savedOptime, savedPcyc := y.savedPcyc, optime := y.optime, variant := y.variant, dierev := y.dierev,
    spans := y.spans, hsync := y.hsync, tside := y.tside, refPresent := y.refPresent, ref25 := y.ref25, tcxoGood := y.tcxoGood, bothLow := none,
    viohFloat := decide (k = .system) && y.viohFloat, viogFloat := decide (k = .system) && y.viogFloat }
  y1

/-- What every reset makes of the machine (R476); the commands that wait stay. The frame number and the place in the frame go on through a
system reset and start at 0 otherwise (R17, R475). -/
def State.afterReset (s : State) (k : ResetKind) : State :=
  let goes := decide (k = .system)
  let bank := if k = .power then [] else s.lsw.bank.foldl (fun m x => SMap.set Bank.reset m x.1 { Bank.reset with supply := x.2.supply }) []
  { State.reset with
    pending := s.pending, free := s.free, frame := if goes then s.frame else 0, edge := if goes then s.edge else 0,
    closed := goes && s.closed, base := if goes then s.base else 0, regs := s.regsAfter k,
    sys := { s.sys.afterReset k with spans := if goes then s.sys.spans else [⟨0, 0, if k = .wake then s.period else 100000⟩] }, jtag := if goes then s.jtag else Jtag.reset,
    flt := { Flt.reset with asserted := (assertedAfter s k).map (·.1), waiting := assertedAfter s k },
    prog := s.prog, mramBad := s.mramBad, lsw := { Lsw.reset with din := s.lsw.din, bank := bank }, rcd := s.rcd.afterReset k,
    gns := { Gnss.reset with at_ := if goes then s.now else 0 }, imu := { held := false, last := if goes then s.now else 0 },
    bus := { Buses.reset with txFresh := s.bus.txFresh, rxFresh := s.bus.rxFresh, keys := s.bus.keys },
    tru := { Truss.reset with pairedOnce := goes && s.tru.pairedOnce }, jrn := s.jrn.afterReset k,
    peg := { Peg.reset with owner := s.peg.owner, hostKey := s.peg.hostKey, grantEnd := if goes then s.peg.grantEnd else none,
                            granted := goes && s.peg.granted } }

/-- BOOT begins (R475, R477): the cause, the PLLs and the reference, IGN after debounce (R474), the record of the mode change, but for a power-on
reset, the raises that waited, and the power-up record, which tells the records lost at the last power-down (R421). A stream that the reset
ended shows ERR 5 (R373). -/
def State.beginBoot (s : State) (old : State) (cause : Nat) : State :=
  let s1 := (s.wr Reg.SYS_RSTCAUSE (BitVec.ofNat 32 cause)).setFlag Reg.CLK_STAT 6 true
  let s2 := (s1.setFlag Reg.CLK_STAT 7 (decide (s1.sys.variant ≠ 1))).setFlag Reg.CLK_STAT 2 s1.sys.refPresent
  let s3 := s2.setFld Reg.CLK_STAT 0 2 (refSource s2)
  let s4 := if streamBusy old then s3.setFld Reg.HP_SSTAT 8 3 5 else s3
  let s4 := (s4.setSys (fun y => { y with bootAt := s4.now })).setFlag Reg.SIL_STAT 0 s4.sys.ignDeb
  let s5 := if cause = 1 then s4
    else s4.putRec 513 0 1#32 [BitVec.ofNat 32 old.sys.mode.code, 0, 0, 0, 0, 0, 0, 0]
  let s6 := s5.takeWaiting
  let s7 := s6.putRec 515 0 (BitVec.ofNat 32 cause)
    [BitVec.ofNat 32 s6.rcd.lostPower, BitVec.ofNat 32 (b2n (s6.flag Reg.JRN_STAT 5) + 2 * b2n (s6.flag Reg.PWR_STAT 12)), 0, 0, 0, 0, 0, 0]
  { s7 with rcd := { s7.rcd with lostPower := 0 } }

/-- A system reset of a cause of R475. -/
def State.systemReset (s : State) (cause : Nat) : State := (s.afterReset .system).beginBoot s cause

/-- The power-cycle count advances, saturating at 16,777,215 (R471). -/
def State.cycleCount (s : State) : State := s.wr Reg.SIL_PCYC (BitVec.ofNat 32 (min 16777215 ((s.rd Reg.SIL_PCYC).toNat + 1)))

/-- A wake reset from SILL, with its source in WAKESRC (R472). -/
def State.wakeReset (s : State) (src : Nat) : State := (((s.afterReset .wake).setFld Reg.SIL_STAT 4 3 src).cycleCount).beginBoot s 2

/-! ### SILL (R470 to R473) -/

/-- The Sill save (R471). -/
def State.sillSave (s : State) : State :=
  s.setSys (fun y => { y with savedOptime := s.sys.optime, savedPcyc := (s.rd Reg.SIL_PCYC).toNat })

/-- The save at an entry to SILL is complete (R471). -/
def State.savedSill (s : State) : State := s.sillSave.setSys (fun y => { y with saved := true })

/-- Entry to SILL begins (R470): a CAN frame in progress ends first, and Peg is off (R460). -/
def State.enterSill (s : State) (cause : Nat) : State :=
  let s1 := s.endGrant.txnDiscard.streamEnd 5
  let s2 := (s1.changeMode .sill cause).setSys (fun y =>
    { y with decided := none, reqSill := none, reqBoot := none, keyOff := false, sillDone := false, wakeLatched := none, ignSeenLow := !y.ign })
  let s3 := (each lswBanks (fun b t => t.openIso b) s2).setFlag Reg.SIL_STAT 1 false
  let s4 := { s3 with eng := [], scr := Scribe.reset, tru := { s3.tru with killOut := false }, hp := { s3.hp with posted := [], held := none },
                      peg := { s3.peg with running := none, report := none, policy := none, serving := none, keyWaits := false } }
  s4.busLast.gaugeAbortAll.outputs

/-- Journal entries that were being written are in MRAM. -/
def writeAll : Nat → State → State
  | 0, s => s
  | k + 1, s => writeAll k s.jrnWritten

/-- The journal's part of a power-down: writes in progress complete and the buffer drains (R400). -/
def State.drainJournal (s : State) : State := (writeAll s.jrn.writing.length s).drainBuffer

/-- A wake source acts: at once when entry to SILL is complete, else as soon as it is; the first one is kept (R470, R472). -/
def State.wake (s : State) (src : Nat) : State :=
  if s.sys.mode ≠ .sill ∨ s.sys.watch ∨ s.sys.powerFail then s
  else if s.sys.sillDone then s.wakeReset src
  else s.setSys (fun y => { y with wakeLatched := some (y.wakeLatched.getD src) })

/-- SILL_ENTRY_COMPLETE: the journal buffer has drained, the recorder queue and the Sill save are written, and every die but the Sill domain
is switched off, with its state lost (R470). -/
def execSillEntryComplete (s : State) : Host.Outcome State Fault Refusal :=
  .next (if s.sys.mode ≠ .sill ∨ s.sys.sillDone ∨ s.sys.powerFail then s
    else
      let s1 := s.drainJournal.drainAll
      let s2 := ({ s1 with rcd := { s1.rcd with lostPower := 0 } }).sillSave
      let lost := s2.afterReset .wake
      let s3 := { lost with sys := { s2.sys with sillDone := true, saved := true },
                            jrn := { Jrn.reset with ring := s2.jrn.ring, marks := s2.jrn.marks, cutShort := s2.jrn.cutShort } }
      match s3.sys.wakeLatched with
      | some src => s3.wakeReset src
      | none => s3)

/-- IGN_CHANGE: the level at the pin changes. During the watch an inactive level leads to SILL; outside SILL the key-off timer starts or
stops (R472, R473). -/
def execIgnChange (active : Bool) (s : State) : Host.Outcome State Fault Refusal :=
  .next (
    let s1 := s.setSys (fun y => { y with ign := active, ignSeenLow := y.ignSeenLow || !active })
    if s.sys.powerFail then s1
    else if s.sys.watch then (if active then s1 else (s1.setSys (fun y => { y with watch := false })).savedSill)
    else if s.sys.mode = .sill ∨ active = s.sys.ign then s1
    else (s1.setSys (fun y => { y with koRun := 0 })).setFlag Reg.SIL_STAT 1 (!active && decide (0 < s1.rf Reg.SIL_CFG 16 16)))

/-- IGN_DEBOUNCE_EXPIRY: the level at the pin has stood for KEYDEB ms. Active, it ends the watch in BOOT or wakes the device from SILL; in every
other mode it shows in SIL_STAT.IGN (R472, R474). -/
def execIgnDebounceExpiry (s : State) : Host.Outcome State Fault Refusal :=
  .next (let u := s.setSys (fun y => { y with ignDeb := y.ign })
    if u.sys.powerFail then u
    else if u.sys.watch then
      (if u.sys.ign then
        ((u.setSys (fun y => { y with watch := false, mode := .boot, sillDone := false, saved := false })).beginBoot s 1)
       else u)
    else if u.sys.mode = .sill then
      (if u.sys.ign ∧ u.sys.ignSeenLow ∧ u.flag Reg.SIL_CFG 0 then u.wake 1 else u)
    else u.setFlag Reg.SIL_STAT 0 u.sys.ign)

/-- WAKE_UP_PATTERN: BUS0's transceiver detects a wake-up pattern in SILL; WOKE tells that it is the wake that is kept (R320, R349, R472). -/
def execWakeUpPattern (s : State) : Host.Outcome State Fault Refusal :=
  .next (if s.sys.mode = .sill ∧ ¬ s.sys.watch ∧ ¬ s.sys.powerFail ∧ s.flag Reg.BUS_WAKE 0 ∧ (s.sys.sillDone ∨ s.sys.wakeLatched.isNone) then
      (s.setFlag Reg.BUS_WAKE 1 true).wake 2
    else s)

/-- WAKE_TIMER_EXPIRY: SIL_WTIMER seconds have passed since entry to SILL was complete (R472). -/
def execWakeTimerExpiry (s : State) : Host.Outcome State Fault Refusal :=
  .next (if s.sys.sillDone ∧ s.flag Reg.SIL_CFG 2 ∧ 0 < s.rf Reg.SIL_WTIMER 0 24 then s.wake 3 else s)

/-- KEY_OFF_TIMEOUT: the key-off timer reaches KOTO seconds of operating time (R473). Before that instant nothing happens (log entry 78). -/
def execKeyOffTimeout (t : Nat) (s : State) : Host.Outcome State Fault Refusal :=
  .next (if s.clocked ∧ s.flag Reg.SIL_STAT 1 ∧ ¬ s.sys.keyOff ∧ 0 < s.rf Reg.SIL_CFG 16 16 ∧ s.rf Reg.SIL_CFG 16 16 * 10000 ≤ s.sys.koRun then
      ((s.at t).setSys (fun y => { y with keyOff := true })).raise 308 0
    else s)

/-- OPERATING_TIME_ADVANCE: 100 µs of EDGE time have passed; the operating time saturates at 2^44 - 1. The quiet period, the interval of the
decay, a recorder freeze, the key-off timer and the time-out of an open transaction count it (R127, R414, R417, R427, R471, R473). -/
def execOperatingTimeAdvance (s : State) : Host.Outcome State Fault Refusal :=
  .next (if !s.clocked then s
    else
      let s1 := (s.setSys (fun y => { y with optime := min (2 ^ 44 - 1) (y.optime + 1), koRun := y.koRun + 1 })).fltAdvance.recAdvance
      { s1 with txn := { s1.txn with idle := if s1.txn.state = .opened then s1.txn.idle + 1 else s1.txn.idle } })

/-- SILL_SAVE: the save of every 10 s of operating time (R471). Before that instant nothing happens (log entry 78). -/
def execSillSave (s : State) : Host.Outcome State Fault Refusal :=
  .next (if s.clocked ∧ s.sys.savedOptime + 100000 ≤ s.sys.optime then s.sillSave else s)

/-! ### Power-on reset and BOOT (R437, R471 to R477) -/

/-- POWER_ON_RESET: the Sill supply has risen above its threshold, with the IGN level and the straps as they stand at the pins. A drain that
the hold-up did not complete sets HOLDFAIL (R400); the counts are restored from the last save (R471). -/
def execPowerOnReset (ign hsync tside : Bool) (s : State) : Host.Outcome State Fault Refusal :=
  .next (
    let cut := !s.jrn.marks.isEmpty || !s.jrn.writing.isEmpty
    let s1 := s.afterReset .power
    let opt := if s.sys.saved then s.sys.savedOptime else min (2 ^ 44 - 1) (s.sys.savedOptime + 100000)
    let s2 := s1.setSys (fun y => { y with mode := .sill, sillDone := true, watch := ign, ign := ign, hsync := hsync, tside := tside, optime := opt,
                                           ignSeenLow := !ign })
    let s3 := (s2.wr Reg.SIL_PCYC (BitVec.ofNat 32 s.sys.savedPcyc)).cycleCount
    let s4 := s3.setFlag Reg.PWR_STAT 12 s.sys.powerFail
    let s5 := if cut then ({ s4 with jrn := { s4.jrn with cutShort := true } }).setFlag Reg.JRN_STAT 5 true else s4
    if ign then s5 else s5.savedSill)

/-- The key slots whose copies both fail are empty, and the counters hold no known value (R436, R437). -/
def State.badSlot (s : State) (k : Nat) : State :=
  let s1 :=
    if k < 4 then s.setOwner k []
    else if 16 ≤ k ∧ k < 80 then s.setMessageKey (k - 16) []
    else if k = 96 then s.setHostKey []
    else if k = 97 then
      let c := each 4 (fun i t => (t.wr (Reg.PEG_ROLL i) t.freeWord).spend) s
      ((c.wr Reg.PEG_HCTR_LO c.freeWord).spend.wr Reg.PEG_HCTR_HI c.spend.freeWord).spend
    else s
  (s1.setFlag Reg.PEG_STAT 1 true).raise 324 (BitVec.ofNat 32 k)

/-- BOOT_COMPLETE: Peg is ready, the images are checked and one is loaded or none, and DRAM is zeroed (R437, R465, R477). The device enters IDLE
or SERVICE at the next boundary, and Truss trains once an image has passed (R404). With DIK_BAD no checkpoint is signed (R437). -/
def execBootComplete (t : Nat) (r : BootReport) (s : State) : Host.Outcome State Fault Refusal :=
  .next (if s.sys.mode ≠ .boot ∨ s.sys.bootDone.isSome ∨ s.sys.powerFail then s
    else
      let s0 := s.at t
      let s1 := if r.selfTest = 0 then s0 else (s0.setFlag Reg.PEG_STAT 4 true).raise 320 (BitVec.ofNat 32 r.selfTest)
      let s2 := eachOf r.badSlots (fun k u => u.badSlot k) s1
      let s3 := if r.dikBad then ((s2.setFlag Reg.PEG_STAT 5 true).signNone).raise 327 0 else s2
      let l := if r.selfTest = 0 then s3.bootLoad else (s3, false)
      let s4 := l.1.newNonce.iff (l.2 && !killed l.1) (fun u => u.truState 1)
      s4.setSys (fun y => { y with bootDone := some (if l.2 && owned s4 then .idle else .service) }))

/-- PLL_UNLOCK of a GNSS or BUS PLL asserts source 305; of CORE, EDGE or MEM it ends in a system reset of cause 5, with the outputs
in their BOOT states (R481). -/
def execPllUnlock (t : Nat) (p : Pll) (s : State) : Host.Outcome State Fault Refusal :=
  .next (if !s.clocked then s
    else match p with
      | .gnss => if s.sys.variant = 1 ∨ ¬ s.flag Reg.CLK_STAT 7 then s else (s.at t).pllLost false
      | .bus => if s.flag Reg.CLK_STAT 6 then (s.at t).pllLost true else s
      | _ => (s.at t).systemReset 5)

/-- SILL_OSCILLATOR_FAULT: the Sill oscillator is off its rate by more than 5 % (R486). -/
def execSillOscillatorFault (t : Nat) (s : State) : Host.Outcome State Fault Refusal :=
  .next (if s.clocked then ((s.at t).setFlag Reg.SIL_STAT 2 true).raise 306 0 else s)

/-! ### FREEZE (R482, R483) -/

/-- FREEZE is entered with a cause of R466; MRAM writes in progress complete (R482), and the clocks stop. An engine that runs
no slice keeps its STATE, IDLE, REHASH or OFF: HALTED is the state of a slice that was stopped (DESIGN CHOICE, log entry 76). -/
def State.enterFreeze (s : State) (cause : Nat) : State :=
  let s0 := writeAll s.jrn.writing.length s
  let s1 := (s0.streamEnd 4).cancelInjection false
  let s2 := s1.setSys (fun y => { y with before := y.mode })
  let s3 := s2.changeMode .freeze cause
  let s4 := each 24 (fun u t => t.setFlag (Reg.PWM_UFSTAT u) 6 true) s3
  let s5 := each 8 (fun e t => if (t.en e).state = .run then t.setEn e { t.en e with state := .halted } else t) s4
  s5.outputs

/-- A source of FREEZE begins: the pin, or a debug freeze. FREEZE is entered from any mode but SILL. -/
def State.freezeBy (s : State) (cause : Nat) : State :=
  if s.sys.mode = .sill ∨ s.sys.powerFail then s
  else
    let s1 := s.setSys (fun y => if cause = 11 then { y with frzPin := true } else { y with frzDbg := true })
    if s.sys.mode = .freeze then s1 else s1.enterFreeze cause

/-- The last source of FREEZE has ended: the clocks restart, the mode is the one before, and each block resumes by its own rule (R483). -/
def State.resume (s : State) : State :=
  if s.sys.mode ≠ .freeze ∨ s.sys.frzPin ∨ s.sys.frzDbg ∨ s.sys.powerFail then s
  else
    let s1 := s.changeMode s.sys.before 14
    let s2 := each 8 (fun e t => if (t.en e).state = .halted then t.setEn e { t.en e with state := .run } else t) s1
    (s2.journalAnswers.gaugeAbortAll.adcResume.motionResume.gnssResume.busResume.holdUnits).outputs.takeWaiting

/-- FREEZE_PIN: the pin has been high for 1 µs; it acts while SYS_CFG.FRZEN = 1 (R482), and reads as low with VIO_G out of range (R517). -/
def execFreezePin (t : Nat) (s : State) : Host.Outcome State Fault Refusal :=
  .next (if s.flag Reg.SYS_CFG 0 ∧ ¬ s.sys.viogFloat then (s.atRun t).freezeBy 11 else s)

/-- FREEZE_RELEASE: the pin has been low for 1 µs (R483). -/
def execFreezeRelease (s : State) : Host.Outcome State Fault Refusal := .next ((s.setSys (fun y => { y with frzPin := false })).resume)

/-! ### Requests (R467, R468) -/

/-- The mode that a request names may be requested now. -/
def requestOk (s : State) (req : Nat) : Bool :=
  let m := s.sys.mode
  let awake := m = .idle || m = .run || m = .limp || m = .safe || m = .service
  match req with
  | 0 => m = .idle || m = .safe || m = .service
  | 1 => awake
  | 2 => m = .run || m = .limp || m = .service || (awake && decide (target s = 2))
  | 3 => ((m = .idle || m = .limp) && decide (s.flt.reaction < 2) && !killed s) || (awake && decide (target s = 3))
  | 7 => m = .idle || (awake && decide (target s = 7))
  | _ => false

/-- A request is refused (R467). -/
def State.requestRefused (s : State) (req by_ : Nat) : State :=
  let s1 := (((s.setFlag Reg.SYS_MODESTAT 0 true).setFld Reg.SYS_MODESTAT 8 3 req).setFld Reg.SYS_MODESTAT 16 2 by_)
  s1.raise 307 (BitVec.ofNat 32 (req + s.sys.mode.code * 2 ^ 8 + by_ * 2 ^ 16))

/-- A write to SYS_MODEREQ by an owner: 1 host, 2 engines, 3 the twin's record. The last request accepted before the cutoff decides. -/
def State.modeRequest (s : State) (v : Word) (by_ : Nat) : State :=
  let req := fld v 0 3
  if fld v 8 8 ≠ 0xA5 then s
  else if !requestOk s req then s.requestRefused req by_
  else
    let s1 := s.setSys (fun y => { y with reqBoot := if req = 1 then some by_ else none, reqSill := if req = 0 then some by_ else none })
    if 2 ≤ req ∧ req ≠ target s then (s1.setFld Reg.SYS_MODE 8 3 req).setSys (fun y => { y with reqBy := by_ }) else s1

/-- A write to SYS_RST (R475). -/
def State.sysRst (s : State) (v : Word) : State :=
  if fld v 8 8 = 0xA5 ∧ bit v 0 ∧ s.sys.mode ≠ .sill ∧ s.sys.mode ≠ .freeze then s.systemReset 3 else s

/-- The boundary's part: the mode decided at the cutoff, or the end of a BOOT that came after it (R462, R465). -/
def State.modeBoundary (s : State) : State :=
  let d : Option (Mode × Nat) := match s.sys.decided with
    | some d => some d
    | none => if s.sys.mode = .boot then s.sys.bootDone.map (fun m => (m, if m = .idle then 7 else 8)) else none
  let s1 := s.setSys (fun y => { y with decided := none })
  match d with
  | none => s1
  | some (.boot, _) => s1.reactionEnds.systemReset 4
  | some (.sill, c) => s1.reactionEnds.enterSill c
  | some (m, c) => (s1.setSys (fun y => { y with bootDone := none })).enterMode m c

end Sys2Proof.Machine
end

