-- ==== Sys2Proof/Machine/EngineSystem.lean ====
section
/-! DEFINITION. Frame, Scribe, transaction, journal and system instructions (R77 to R84, R522). -/
namespace Sys2Proof.Machine

/-! ### Frame instructions (R77) -/

/-- TIME: the EDGE offset of the issue cycle, accurate to 2 ns either way (log entry 2). -/
def execTime (e : Fin 8) (h : Hdr) (f : FmtX) (s : State) : Host.Outcome State Fault Refusal :=
  .next (s.issue e 0xB0 h f.fields fun i t =>
    let v : Int := clampI 0 (t.period - 1 : Nat) ((i.x.startEdge + 2 * i.cyc : Nat) + (t.freeNat % 5 : Nat) - 2)
    t.spend.putG e f.d.toNat (newTW (wrap v)))

/-- The FMEM engine address of the input record that a frame computes on (R26, R77); its place is not in the spec (log entry 7). -/
def recordAddr (frame : Nat) : Nat := 0x20000000 + Config.recordSlot frame % 0x100000 * 4

def execInrec (e : Fin 8) (h : Hdr) (f : FmtX) (s : State) : Host.Outcome State Fault Refusal :=
  .next (s.issue e 0xB1 h f.fields fun _ t => t.putG e f.d.toNat (newTW (BitVec.ofNat 32 (recordAddr t.frame.toNat))))

/-- TOKEN: a is on its way to the banks of IMM[11:0] (R77, R244). -/
def execToken (e : Fin 8) (h : Hdr) (f : FmtX) (s : State) : Host.Outcome State Fault Refusal :=
  .next (s.issue e 0xB2 h f.fields fun i t =>
    let a := i.g f.a.toNat
    t.checked i true [a] fun u =>
      u.updEn e (fun y => { y with stores := y.stores ++ [⟨Reg.LSW_WDTOK, a.1, a.2, i.x.task, some (f.imm.setWidth 12)⟩] }))

/-- FENCE: the next bundle issues when every earlier BLOCK store of this engine has arrived (R77). -/
def execFence (e : Fin 8) (h : Hdr) (f : FmtX) (s : State) : Host.Outcome State Fault Refusal :=
  .next (s.issueWith e 0xB3 h f.fields fun i go t =>
    if !go then t.holdFor i 40 else if (t.en e).stores.isEmpty then t else t.waitFor i .fence)

/-! ### Scribe instructions (R78 to R81) -/

/-- SPOSE: submits the pose in V[A]; all eight lanes are used. -/
def execSpose (e : Fin 8) (h : Hdr) (f : FmtX) (s : State) : Host.Outcome State Fault Refusal :=
  .next (s.issue e 0xC0 h f.fields fun i t =>
    let v := i.v f.a.toNat
    t.checked i true v fun u => u.spose (v.map fun x => x.1.toInt))

/-- SQRY: a query of IMM[8:0] outlets from outlet a, with its results at b; d = ticket. -/
def execSqry (e : Fin 8) (h : Hdr) (f : FmtX) (s : State) : Host.Outcome State Fault Refusal :=
  .next (s.issue e 0xC1 h f.fields fun i t =>
    let a := i.g f.a.toNat
    let b := i.g f.b.toNat
    t.checked i true [a, b] fun u =>
      let r := u.scribeQuery a.1.toNat b.1.toNat (fld f.imm 0 9)
      r.2.putG e f.d.toNat (newTW r.1))

/-- Cycles from the issue of a SWAIT to its bound: 1 for a ticket that names no query of this frame (R78). -/
def swaitBound (s : State) (i : Issue) (ticket : Word) : Nat :=
  if ticket = 0 ∨ !s.scr.started.contains ticket then 1
  else max 1 ((SMap.get 0 s.scr.bounds ticket.toNat - (s.base + i.x.startEdge + 2 * i.cyc) + 1) / 2)

/-- SWAIT: P[D] = 1 once the query with ticket a is complete (R78). -/
def execSwait (e : Fin 8) (h : Hdr) (f : FmtX) (s : State) : Host.Outcome State Fault Refusal :=
  .next (s.issueWith e 0xC2 h f.fields fun i go t =>
    let a := i.g f.a.toNat
    let p := f.d.toNat
    let keys := Use.key .pw p
    if !go then let n := swaitBound t i a.1; (t.holdFor i n).readyIn i n keys
    else (t.readyIn i 1 keys).checked i true [a] fun u =>
      if a.1 = 0 ∨ ¬ u.scr.started.contains a.1 then u.putP e p false
      else if u.scr.done.contains a.1 then u.putP e p true
      else if ¬ u.scr.queries.any (fun q => decide (q.ticket = a.1 ∧ q.frame = u.frame)) ∨ SMap.get 0 u.scr.bounds a.1.toNat < u.now then u.putP e p false
      else u.waitFor i (.query p a.1))

/-- Engines whose SWAIT waits for a ticket go on with its result, at the instant of its completion or, where that is not before it, of its bound:
never later than 600 + 60 × count cycles from the SQRY (R78, R522). -/
def State.queryAnswers (s : State) (ticket : Word) (b : Bool) : State :=
  let bound := SMap.get 0 s.scr.bounds ticket.toNat
  let ok := b && decide (s.now ≤ bound)
  each 8 (fun e t =>
    match (t.en e).wait with
    | .query p k => if k = ticket then t.answerAt e (if ok then s.now else bound) p ok else t
    | _ => t) s

/-- SCRIBE_QUERY_COMPLETE: the results of a started query are in FMEM (R155). -/
def execScribeQueryComplete (t : Nat) (ticket : Word) (s : State) : Host.Outcome State Fault Refusal :=
  .next (if !s.clocked || (queryOf s ticket).isNone then s
    else
      let u := (s.at t).queryDone ticket
      if queryNow s ticket then u.queryAnswers ticket true else u)

/-- SCRIBE_QUERY_TIMEOUT: a query is not complete at its bound: SWAIT returns 0, and Scribe has failed (R78, R159). -/
def execScribeQueryTimeout (t : Nat) (ticket : Word) (s : State) : Host.Outcome State Fault Refusal :=
  .next (let u := s.at t
    match queryOf s ticket with
    | some q =>
      if !s.clocked || decide (u.now < q.bound) then s
      else if queryNow s ticket then (u.queryFailed ticket).queryAnswers ticket false else u.queryFailed ticket
    | none => s)

/-- SMARK: asks Scribe to mark the actuation in lanes 0 to 4 of V[A]. Of the edge word bit 0 counts alone (DESIGN CHOICE, log entry 65: R81 gives
the values 0 and 1 only). -/
def execSmark (e : Fin 8) (h : Hdr) (f : FmtX) (s : State) : Host.Outcome State Fault Refusal :=
  .next (s.issue e 0xC3 h f.fields fun i t =>
    let v := i.v f.a.toNat
    let w := fun n => (v.getD n (0, 0)).1
    t.checked i true (v.take 5) fun u =>
      u.smark (w 0).toNat (bit (w 1) 0) ((w 3).setWidth 16 ++ w 2) (w 4).toNat)

/-! ### Transactions (R82) -/

/-- TBEGIN: P[D] = 1 when the engines' transaction is granted to this task; 20 cycles (R522). -/
def execTbegin (e : Fin 8) (h : Hdr) (f : FmtX) (s : State) : Host.Outcome State Fault Refusal :=
  .next (s.issueWith e 0xD0 h f.fields fun i go t =>
    if !go then t.holdFor i 20
    else
      let q : BeginReq := ⟨2 + e, .engines i.x.task, some (e, f.d.toNat)⟩
      let ok := match txnBeginResult t q with
        | .refused _ => false
        | _ => true
      ((t.txnBegin q).holdFor i 20).putP e f.d.toNat ok)

/-- The COMMIT of a TCOMMIT reaches the TXN block: refused at once, or its check begins and the result follows. -/
def State.tcommit (s : State) (e task d : Nat) : State :=
  let s1 := s.txnCommit (.engines task) (some e)
  if s.txn.state = .opened ∧ s.txn.holder = .engines task then s1.updEn e (fun x => { x with wait := .commit d })
  else s1.answerG e 400 d (BitVec.ofNat 32 (s1.rf Reg.TXN_STAT 8 8))

/-- TCOMMIT: commits, and d takes the result word; it goes to the block once the engine's earlier BLOCK stores have arrived (DEDUCED, log
entry 36). -/
def execTcommit (e : Fin 8) (h : Hdr) (f : FmtX) (s : State) : Host.Outcome State Fault Refusal :=
  .next (s.issueWith e 0xD1 h f.fields fun i go t =>
    if !go then t.holdFor i 400
    else if (t.en e).stores.isEmpty then t.tcommit e i.x.task f.d.toNat
    else t.waitFor i (.commitDue f.d.toNat))

/-- TROLL: rolls the engines' transaction back; 20 cycles. -/
def execTroll (e : Fin 8) (h : Hdr) (f : FmtX) (s : State) : Host.Outcome State Fault Refusal :=
  .next (s.issueWith e 0xD2 h f.fields fun i go t =>
    if go then (t.txnRollbackCmd (.engines i.x.task)).holdFor i 20 else t.holdFor i 20)

/-! ### The journal (R83) -/

/-- JPUT: appends an entry of IMM[19:16] words of V[A] with type IMM[15:0]; d = low 32 bits of its SEQ, P[B] whether it is appended. What d
takes when it is not appended is not stated (log entry 2). -/
def execJput (e : Fin 8) (h : Hdr) (f : FmtX) (s : State) : Host.Outcome State Fault Refusal :=
  .next (s.issue e 0xD3 h f.fields fun i t =>
    let n := fld f.imm 16 4
    let v := (i.v f.a.toNat).take n
    t.checked i true v fun u =>
      let seq := u.jrn.head
      let r := u.jput (fld f.imm 0 16) n (v.map (·.1))
      let d := if r.2 then BitVec.ofNat 32 seq else u.freeWord
      ((if r.2 then r.1 else r.1.spend).putG e f.d.toNat (newTW d)).putP e f.b.toNat r.2)

/-- The instant of JSYNC's bound, 8,000 cycles from its issue, ns since reset (R83). -/
def jsyncBound (s : State) (i : Issue) : Nat := s.base + i.x.startEdge + 2 * (i.cyc + 8000)

/-- JSYNC: P[D] = 1 when the entry whose SEQ has low bits a is durable, 0 if not within 8,000 cycles. -/
def execJsync (e : Fin 8) (h : Hdr) (f : FmtX) (s : State) : Host.Outcome State Fault Refusal :=
  .next (s.issueWith e 0xD4 h f.fields fun i go t =>
    let a := i.g f.a.toNat
    let p := f.d.toNat
    if !go then t.holdFor i 8000
    else (t.readyIn i 1 (Use.key .pw p)).checked i true [a] fun u =>
      if jsyncDone u a.1 then u.putP e p true else u.waitFor i (.journal p a.1 (jsyncBound u i)))

/-! ### System instructions (R84) -/

def execChk (e : Fin 8) (h : Hdr) (f : FmtX) (s : State) : Host.Outcome State Fault Refusal :=
  .next (s.issue e 0xE0 h f.fields fun i t => t.checked i true [i.g f.a.toNat] fun u => u)

/-- FAULT: raises software fault source IMM[3:0], with the engine and the instruction index (R407). -/
def execFault (e : Fin 8) (h : Hdr) (f : FmtX) (s : State) : Host.Outcome State Fault Refusal :=
  .next (s.issue e 0xE1 h f.fields fun i t => t.raise (fld f.imm 0 4) (BitVec.ofNat 32 (i.e * 2 ^ 16 + i.idx % 2 ^ 15)))

/-- BKPT: under a DEBUG grant the device enters FREEZE (R482); without one it does nothing but the report of R453. -/
def execBkpt (e : Fin 8) (h : Hdr) (f : FmtX) (s : State) : Host.Outcome State Fault Refusal :=
  .next (s.issue e 0xE2 h f.fields fun _ t => if debugGranted t then t.freezeBy 12 else t.lockHit 0)

end Sys2Proof.Machine
end

