-- ==== Sys2Proof/Machine/Arrive.lean ====
section
/-! DEFINITION. A register write reaches its block (R7, R23, R120, R361, R386, R468): ONE operation for the host's posted words, the writes of
host commands and the stores of engines. -/
namespace Sys2Proof.Machine

/-- A write on its way: who makes it (with the task, for an engine), its register and value, the DIG of the host command that carried it
(R451), and what the bus does for a controller when a cancel arrives (R334). -/
structure Write where
  owner : Owner
  task : Nat
  addr : Nat
  val : Word
  dig : Word
  ph : BusPhase
  ago : Nat
  deriving DecidableEq, Repr

/-- A host's write. -/
def hostWrite (a : Nat) (v : Word) : Write := ⟨.host, 0, a, v, 0, .idle, 0⟩

def Owner.isHost : Owner → Bool
  | .host => true
  | _ => false

/-- In a pair, a host write travels in the lead's input record (R386, R468). -/
def forwards (s : State) (o : Owner) : Bool := o.isHost && !s.solo && s.isLead

/-- The write of a host on the follower, which the pair does not take (R386, R468). -/
def keptOut (s : State) (o : Owner) : Bool := o.isHost && s.follower

/-! ### TX registers (R82, R120, R386) -/

/-- The TX part of a write: the owner's goes to the shadow bank while the slot is OPEN and sets STRAY while it is PENDING; an engine's is
discarded otherwise, and a host's sets STRAY (R82, R120, R124). -/
def State.txPart (s : State) (w : Write) : State :=
  let v := w.val &&& txMask w.addr
  match w.owner with
  | .host =>
    if forwards s .host then s.recordCut ⟨.txnWrite, [w.addr, v.toNat, 0]⟩
    else if keptOut s .host then s.setFlag Reg.TXN_STAT 5 true
    else s.txnHostWrite w.addr v
  | .engine _ =>
    if s.txn.holder = .engines w.task then
      (if s.txn.state = .opened then s.shadowWrite w.addr v
       else if s.txn.state = .pending then s.setFlag Reg.TXN_STAT 5 true
       else s)
    else s
  | .twin => s.txnTwinWrite w.addr v

/-- A write to TXN_CTRL. The engines command the slot with TBEGIN, TCOMMIT and TROLL only (DEDUCED from R82, log entry 37). -/
def State.txnPart (s : State) (w : Write) : State :=
  match w.owner with
  | .host =>
    if forwards s .host then s.recordCut ⟨.txnWrite, [Reg.TXN_CTRL, w.val.toNat, w.dig.toNat]⟩
    else if keptOut s .host then s.setFlag Reg.TXN_STAT 5 true
    else s.txnCtrl .host w.val w.dig
  | .engine _ => s
  | .twin => s.txnCtrl .twin w.val w.dig

/-- A write to SYS_MODEREQ (R467, R468). -/
def State.modePart (s : State) (w : Write) : State :=
  match w.owner with
  | .host =>
    if forwards s .host then s.recordCut ⟨.modeRequest, [w.val.toNat]⟩
    else if keptOut s .host then (if fld w.val 8 8 = 0xA5 then s.requestRefused (fld w.val 0 3) 1 else s)
    else s.modeRequest w.val 1
  | .engine _ => s.modeRequest w.val 2
  | .twin => s.modeRequest w.val 3

/-! ### The access codes (R7) -/

/-- RW bits take the value, W1C bits clear where a 1 is written, and nothing else changes. -/
def plainWord (r : RegRow) (old v : Word) : Word := ((old &&& ~~~r.rw) ||| (v &&& r.rw)) &&& ~~~(v &&& r.w1c)

def State.plain (s : State) (r : RegRow) (a : Nat) (v : Word) : State := s.wr a (plainWord r (s.rd a) v)

/-- The same, but for bit `i`, which has a rule of its own. -/
def State.plainBut (s : State) (r : RegRow) (a : Nat) (v : Word) (i : Nat) : State := s.plain r a (put v i 1 0)

/-! ### Blocks -/

/-- SYS: modes, the host port, clocks and supplies. -/
def State.sysPart (s : State) (r : RegRow) (w : Write) : State :=
  let a := w.addr
  if a = Reg.SYS_MODEREQ then s.modePart w
  else if a = Reg.SYS_RST then s.sysRst w.val
  else if a = Reg.HP_PUB_LO then s.publish 0 w.val
  else if a = Reg.HP_PUB_HI then s.publish 32 w.val
  else if a = Reg.HP_SADR ∨ a = Reg.HP_SLEN ∨ a = Reg.HP_SCTL then
    (if !w.owner.isHost then s else if a = Reg.HP_SCTL then s.streamCtl w.val else s.plain r a w.val)
  else s.plain r a w.val

/-- SCHED, the program banks, the engines and Scribe. -/
def State.corePart (s : State) (r : RegRow) (w : Write) : State :=
  let a := w.addr
  if a = Reg.SCHED_CTRL then s.schedRestart w.val
  else if a = Reg.PROG_BANK then s.progVerify w.val
  else if a = Reg.BE_RST then s.beRst w.val
  else if Reg.SCR_OSTATE 0 ≤ a ∧ a < Reg.SCR_OSTATE 8 then s.wr a (ostateWrite s ((a - Reg.SCR_OSTATE 0) / 4) w.val)
  else s.plain r a w.val

/-- LSW: staged commands, of which one with an OFFSET at or above the frame period is discarded with CMD_BAD, tokens, and the two clears
with rules of their own (R226, R239, R244, R246). -/
def State.lswPart (s : State) (r : RegRow) (w : Write) : State :=
  let a := w.addr
  if a = Reg.LSW_WDTOK then s.token (s.rf Reg.LSW_WDMASK 0 12) w.val
  else if a < 0x030300 ∧ 0x030100 ≤ a ∧ a % 0x20 = 0x0C then
    let t := s.plainBut r a w.val 2
    if bit w.val 2 then t.wdexpClear ((a - 0x030100) / 0x20) else t
  else if 0x031000 ≤ a ∧ a % 0x10 = 4 then
    (if s.period ≤ fld w.val 0 20 then s.chFlag ((a - 0x031000) / 0x10) 14 else s.stage a (w.val &&& r.rw))
  else if 0x031000 ≤ a ∧ a % 0x10 = 8 then
    let t := s.plainBut r a w.val 5
    if bit w.val 5 then t.lockClear ((a - 0x031000) / 0x10) else t
  else s.plain r a w.val

/-- PWM: unit enable, the clear of a force, and the staged words (R21, R218, R219). -/
def State.pwmPart (s : State) (r : RegRow) (w : Write) : State :=
  let a := w.addr
  if a < 0x040600 ∧ a % 0x40 = 0 then s.unitWrite ((a - 0x040000) / 0x40) (bit w.val 0)
  else if a < 0x040600 ∧ a % 0x40 = 0x0C then
    let t := s.plainBut r a w.val 0
    if bit w.val 0 then t.flatchClear ((a - 0x040000) / 0x40) else t
  else if 0x041000 ≤ a ∧ 4 ≤ a % 0x20 ∧ a % 0x20 ≤ 0x10 then s.stage a (w.val &&& r.rw)
  else s.plain r a w.val

/-- MOT, FBK and the inertial unit: staged words, stops and the self-test (R260, R266, R313). -/
def State.motPart (s : State) (r : RegRow) (w : Write) : State :=
  let a := w.addr
  if a < 0x050800 then
    let ax := (a - 0x050000) / 0x80
    let ofs := a % 0x80
    if ofs = 0x20 then s.axisCmd ax w.val
    else if r.rw ≠ 0 ∨ r.wo ≠ 0 then s.axisStage ax ofs (w.val &&& (r.rw ||| r.wo))
    else s.plain r a w.val
  else if a = Reg.MOT_START then s.stage a (w.val &&& r.wo)
  else if a = Reg.IMU_TEST then s.imuTest w.val
  else s.plain r a w.val

/-- ADC and GNSS (R184, R191, R305, R307). -/
def State.sensePart (s : State) (r : RegRow) (w : Write) : State :=
  let a := w.addr
  if a = Reg.ADC_SWTRG then s.adcSwtrg w.val
  else if a = Reg.ADC_SHUNT then s.adcShunt w.val
  else if a < 0x070000 then s.plain r a w.val
  else if s.sys.variant = 1 then s
  else if a = Reg.GNS_STEER_PH then s.steerPhase w.val
  else if a = Reg.GNS_STEER_FR then s.steerFreq w.val
  else if a = Reg.GNS_TSET_WK then s.wr a (w.val &&& r.wo)
  else if a = Reg.GNS_TSET_S then s.timeSet w.val
  else if a = Reg.GNS_UNC0 then (if gnssOn s then s.rtSync else s).plain r a w.val |>.uncCheck
  else s.plain r a w.val

/-- A message bus controller (R329, R332, R334, R338). -/
def State.busPart (s : State) (r : RegRow) (w : Write) : State :=
  let n := (w.addr - 0x080000) / 0x4000
  let ofs := w.addr % 0x4000
  if ofs = 0x40 then s.txRequests n 0 w.val
  else if ofs = 0x44 then s.txRequests n 32 w.val
  else if ofs = 0x48 then (s.txOnBus n w.ago w.ph).txCancels n 0 w.val
  else if ofs = 0x4C then (s.txOnBus n w.ago w.ph).txCancels n 32 w.val
  else if ofs = 0x50 then s.busRestart n w.val
  else if 0x64 ≤ ofs ∧ ofs < 0x84 ∧ r.wo ≠ 0 then s.queueAck n ((ofs - 0x64) / 8) w.val
  else s.plain r w.addr w.val

/-- TRUSS, JRNL, FLT and REC (R389, R392, R401, R414, R418, R426, R427). -/
def State.logPart (s : State) (r : RegRow) (w : Write) (tag : Byte) : State :=
  let a := w.addr
  if a = Reg.TRU_SCARF then s.scarfGo w.val
  else if a = Reg.TRU_KILL then s.truKill w.val
  else if a = Reg.JRN_RCTL then s.jrnRctl w.val
  else if a = Reg.FLT_CTRL then s.fltCtrl w.val
  else if a = Reg.FLT_INJ then s.injArm w.val
  else if a = Reg.REC_CTL then s.recCtl w.val
  else if a = Reg.REC_SWCODE then s.recSwcode w.val
  else if Reg.REC_SWDATA 0 ≤ a ∧ a < Reg.REC_SWDATA 8 then
    let t := s.plain r a w.val
    { t with rcd := { t.rcd with swTag := SMap.set 0 t.rcd.swTag ((a - Reg.REC_SWDATA 0) / 4) tag } }
  else s.plain r a w.val

/-- What a write does at its block beside its TX fields. A command of the twin reaches the TXN block and the mode controller only (R386, R468). -/
def State.blockPart (s : State) (r : RegRow) (w : Write) (tag : Byte) : State :=
  let a := w.addr
  if r.rw = 0 ∧ r.w1c = 0 ∧ r.wo = 0 then s
  else if a = Reg.TXN_CTRL then s.txnPart w
  else if w.owner = .twin ∧ a ≠ Reg.SYS_MODEREQ then s
  else if a < 0x011000 then s.sysPart r w
  else if a < 0x030000 then s.corePart r w
  else if a < 0x040000 then s.lswPart r w
  else if a < 0x050000 then s.pwmPart r w
  else if a < 0x060000 then s.motPart r w
  else if a < 0x080000 then s.sensePart r w
  else if a < 0x090000 then s.busPart r w
  else if a < 0x0B0000 then s.logPart r w tag
  else s

/-- A write with the tag it carries reaches its block: its TX part goes to the shadow bank, and the rest takes effect by the register's kind.
Nothing happens where no register is assigned (R361). The PEG block takes only the host's direct writes, which `State.pegPart` makes. -/
def State.arrive (s : State) (w : Write) (tag : Byte) : State :=
  match Reg.row? w.addr with
  | none => s
  | some r => (if r.tx = 0 then s else s.txPart w).blockPart r w tag

/-! ### Writes of one CORE cycle (R50) -/

/-- A write as it reached its block. -/
def Arrival.write (x : Arrival) : Write := ⟨if x.rank = 8 then .host else .engine x.rank, x.task, x.addr, x.val, 0, .idle, 0⟩

/-- A register at whose block the last write is the one that counts, so that the order of the writes shows: one that holds what was written to
it, the staged words and starts of the axes, the week and the frequency of receiver time, and KILL. -/
def holdsValue (a : Nat) : Bool :=
  match Reg.row? a with
  | some r =>
    (decide (r.rw ≠ 0) && decide (r.wo = 0)) || a = Reg.MOT_START || a = Reg.GNS_TSET_WK || a = Reg.GNS_STEER_FR || a = Reg.TRU_KILL
      || (decide (0x050000 ≤ a) && decide (a < 0x050800) && (a % 0x80 == 0x28 || a % 0x80 == 0x2C))
  | none => false

/-- The order of writes to this register shows in its shadow word or at its block (R50), or in the mode that is targeted (R467). -/
def orderShows (a : Nat) : Bool := decide (txMask a ≠ 0) || holdsValue a || a = Reg.SYS_MODEREQ

/-- A write of higher rank in the same cycle is applied after the one that has just come: an engine's in the shadow bank too, which a host's
reached alone, and a request for a mode where the controller accepts it. -/
def State.reapply (s : State) (x : Arrival) : State :=
  match Reg.row? x.addr with
  | none => s
  | some r =>
    let s1 := if r.tx ≠ 0 ∧ x.rank ≠ 8 then s.txPart x.write else s
    if holdsValue x.addr then s1.blockPart r x.write x.tag
    else if x.addr = Reg.SYS_MODEREQ ∧ requestOk s1 (fld x.val 0 3) ∧ ¬ (x.rank = 8 ∧ ¬ s1.solo) then s1.blockPart r x.write x.tag
    else s1

/-- The writes that reached the blocks in the present CORE cycle. -/
def arrivedNow (s : State) : List Arrival := if s.sys.arrivedAt = s.now / 2 then s.sys.arrived else []

/-- Arrivals in ascending rank; the later write of one rank to one register takes the place of the earlier. -/
def insertArrival (x : Arrival) : List Arrival → List Arrival
  | [] => [x]
  | y :: ys =>
    if y.rank = x.rank ∧ y.addr = x.addr then x :: ys
    else if x.rank < y.rank then x :: y :: ys
    else y :: insertArrival x ys

/-- A write of a rank, engines by number and the host above them, reaches its block: those of higher rank that reached the same register in
the same CORE cycle are applied after it, so that theirs is the value that remains (R50, log entry 10). -/
def State.arriveRanked (s : State) (rank : Nat) (w : Write) (tag : Byte) : State :=
  let was := arrivedNow s
  let s1 := s.arrive w tag
  if !orderShows w.addr then s1
  else
    let s2 := eachOf (was.filter (fun x => decide (x.addr = w.addr) && decide (rank < x.rank))) (fun x t => t.reapply x) s1
    { s2 with sys := { s2.sys with arrivedAt := s.now / 2, arrived := insertArrival ⟨rank, w.task, w.addr, w.val, tag⟩ was } }

/-! ### The host (R355, R356, R361, R448, R450) -/

/-- The other registers of the trust anchor: windows are written word by word, and GO and REVOKE act (R446, R454). `stored` says that both
copies of a key reached MRAM (R436, R442). -/
def State.pegPart (s : State) (a : Nat) (v : Word) (stored : Bool) : State :=
  match Reg.row? a with
  | none => s
  | some r =>
    if a = Reg.PEG_KCTL then s.keyGo v stored
    else if a = Reg.PEG_ACTL then s.attestGo v (configCrc s)
    else if a = Reg.PEG_GRANT then s.pegGrant v
    else if Reg.PEG_KCMD 0 ≤ a ∧ a < Reg.PEG_KCMD 64 then s.wr a v
    else if a = Reg.PEG_ASTAT then s.plain { r with w1c := 6#32 } a v
    else s.plain r a v

/-- A host write that reaches an address without a register, or the mirror window, sets NOADR (R361). -/
def State.noAddress (s : State) : State := s.hpErr 4

/-- What a host write does at its block, once it may. -/
def State.deliver (s : State) (w : Write) : State :=
  match Reg.row? w.addr with
  | none => s.noAddress
  | some _ => s.arriveRanked 8 w (tagOf w.val)

/-- The write of PEG_HC_TAG_HI: the host command is checked, and when all checks pass its write is delivered; one that comes while another
executes has RESULT 6 (R450). Peg takes it in every mode
but SILL, BOOT and FREEZE (R460). -/
def State.hostCommand (s : State) (tagHi : Word) (ph : BusPhase) (ago : Nat) : State :=
  if s.sys.mode = .sill ∨ s.sys.mode = .boot ∨ s.sys.mode = .freeze then s
  else if s.now < s.peg.hcUntil then { s with peg := { s.peg with hcBusy := true } }
  else
    let r := hostCmdResult s tagHi
    let s1 := (s.hostCmdChecked r).hostCmdBegins r
    if r = 1 then s1.deliver ⟨.host, 0, s.rf Reg.PEG_HC_ADDR 0 24, s.rd Reg.PEG_HC_DATA, s.rd Reg.PEG_HC_DIG, ph, ago⟩ else s1

/-- A posted word of the host reaches its block. A protected write made directly is discarded (R448). -/
def State.hostArrive (s : State) (a : Nat) (v : Word) (stored : Bool) (ph : BusPhase) (ago : Nat) : State :=
  if needsHostCmd s a v then s.directHit a
  else if a = Reg.PEG_HC_TAG_HI then s.hostCommand v ph ago
  else if 0x0B0000 ≤ a ∧ a < 0x0C0000 ∧ (Reg.row? a).isSome then s.pegPart a v stored
  else s.deliver { hostWrite a v with ph := ph, ago := ago }

/-! ### Engines (R35, R50, R77) -/

/-- The fault source of the Dowel check of a block that checks what it takes (R35): the staged words of PWM, LSW and MOT, transmit entries and
the recorder's payload; none for a block that takes the word unchecked. -/
def checkingSource (a : Nat) : Option Nat :=
  if 0x0A8060 ≤ a ∧ a < 0x0A8080 then none
  else if 0x030000 ≤ a ∧ a < 0x040000 then some 41
  else if 0x040000 ≤ a ∧ a < 0x050000 then some 40
  else if 0x050000 ≤ a ∧ a < 0x058000 then some 42
  else if 0x080000 ≤ a ∧ a < 0x090000 then some 43
  else if 0x0A8000 ≤ a ∧ a < 0x0B0000 then some 44
  else none

/-- What the arrival of an engine's stores sets free: loads behind them, a FENCE, a TCOMMIT (R50, R77). -/
def State.storesMoved (s : State) (e : Nat) : State :=
  let x := s.en e
  let ready := x.loads.filter (fun l => decide (l.ahead ≤ 1))
  let s1 := s.updEn e (fun y => { y with loads := y.loads.filterMap (fun l => if l.ahead ≤ 1 then none else some { l with ahead := l.ahead - 1 }) })
  let s2 := eachOf ready (fun l u =>
    let n := max (x.cyc - l.cyc) (1 + u.freeNat % 64)
    (u.spend.putG e l.d (newTW (u.view l.addr))).updEn e (fun y => { y with ready := setReady y.ready (l.cyc + n) [l.d] })) s1
  match (s2.en e).wait, (s2.en e).stores with
  | .fence, [] => s2.answer e 40 []
  | .commitDue d, [] => s2.tcommit e (s2.en e).task d
  | _, _ => s2

/-- BLOCK_STORE_ARRIVAL: the oldest store of an engine reaches its block. A word that fails the block's check is not taken (R36). -/
def execBlockStoreArrival (t : Nat) (e : Fin 8) (ph : BusPhase) (ago : Nat) (s : State) : Host.Outcome State Fault Refusal :=
  .next (match (s.en e).stores with
    | [] => s
    | x :: xs =>
      if !s.clocked then s
      else
        let s1 := (s.at t).updEn e (fun y => { y with stores := xs })
        let bad := decide (x.tag ≠ tagOf x.val)
        let s2 := match checkingSource x.addr, bad with
          | some src, true => s1.raiseDowel src (BitVec.ofNat 32 x.addr) x.val x.tag (BitVec.ofNat 32 x.addr)
          | _, _ =>
            match x.token with
            | some m => s1.token m.toNat x.val
            | none => s1.arriveRanked e ⟨.engine e, x.task, x.addr, x.val, 0, ph, ago⟩ x.tag
        s2.storesMoved e)

end Sys2Proof.Machine
end

