-- ==== Sys2Proof/Machine/EngineArith.lean ====
section
/-! DEFINITION. Integer arithmetic and immediate forms (R63, R64). -/
namespace Sys2Proof.Machine

/-! ### Operations on values -/

def addS (a b : Word) : Word := satS (a.toInt + b.toInt)
def subS (a b : Word) : Word := satS (a.toInt - b.toInt)
/-- High 32 bits of the signed product. -/
def mulHS (a b : Word) : Word := wrap (a.toInt * b.toInt / 2 ^ 32)
/-- Signed quotient and remainder, truncated toward zero; b = 0 gives 0 and a. -/
def divS (a b : Word) : Word × Word := if b = 0 then (0, a) else (wrap (a.toInt.tdiv b.toInt), wrap (a.toInt.tmod b.toInt))
def divU (a b : Word) : Word × Word := if b = 0 then (0, a) else (BitVec.ofNat 32 (a.toNat / b.toNat), BitVec.ofNat 32 (a.toNat % b.toNat))
/-- The lesser and the greater of two words. Of two equal words the result is a's, with its tag (DESIGN CHOICE, log entry 62: R63 does not say
from which operand it is taken). -/
def minTW (lt : Word → Word → Bool) (a b : TW) : TW := if lt b.1 a.1 then b else a
def maxTW (lt : Word → Word → Bool) (a b : TW) : TW := if lt a.1 b.1 then b else a
/-- EXT: the field of `len + 1` bits at bit `pos`. -/
def extField (a imm : Word) : Word := (a >>> fld imm 0 5) &&& BitVec.ofNat 32 (2 ^ (fld imm 8 5 + 1) - 1)
/-- INS: the low `len + 1` bits of a, inserted into d at bit `pos`; bits beyond bit 31 are lost. -/
def insField (d a imm : Word) : Word :=
  let mask : Word := BitVec.ofNat 32 ((2 ^ (fld imm 8 5 + 1) - 1) * 2 ^ fld imm 0 5)
  (d &&& ~~~mask) ||| ((a <<< fld imm 0 5) &&& mask)
/-- Saturation to a signed and to an unsigned field of n bits. -/
def satField (a : Word) (n : Nat) : Word := wrap (clampI (-(2 ^ (n - 1))) (2 ^ (n - 1) - 1) a.toInt)
def satFieldU (a : Word) (n : Nat) : Word := wrap (clampI 0 (2 ^ n - 1) a.toInt)
/-- Arithmetic right shift. -/
def sarW (a : Word) (n : Nat) : Word := a.sshiftRight n

/-! ### R63 -/

def execAdd (e : Fin 8) (h : Hdr) (f : FmtR) (s : State) : Host.Outcome State Fault Refusal := .next (s.binR e 0x10 h f false addTW)
def execSub (e : Fin 8) (h : Hdr) (f : FmtR) (s : State) : Host.Outcome State Fault Refusal := .next (s.binR e 0x11 h f false subTW)
def execAdds (e : Fin 8) (h : Hdr) (f : FmtR) (s : State) : Host.Outcome State Fault Refusal :=
  .next (s.binR e 0x12 h f true (onValues addS))
def execSubs (e : Fin 8) (h : Hdr) (f : FmtR) (s : State) : Host.Outcome State Fault Refusal :=
  .next (s.binR e 0x13 h f true (onValues subS))
def execMul (e : Fin 8) (h : Hdr) (f : FmtR) (s : State) : Host.Outcome State Fault Refusal := .next (s.binR e 0x14 h f false mulTW)
def execMulhu (e : Fin 8) (h : Hdr) (f : FmtR) (s : State) : Host.Outcome State Fault Refusal :=
  .next (s.binR e 0x15 h f false mulhuTW)
def execMulhs (e : Fin 8) (h : Hdr) (f : FmtR) (s : State) : Host.Outcome State Fault Refusal :=
  .next (s.binR e 0x16 h f true (onValues mulHS))
/-- MAC: d = d + low 32 bits of a × b. -/
def execMac (e : Fin 8) (h : Hdr) (f : FmtR) (s : State) : Host.Outcome State Fault Refusal :=
  .next (s.issue e 0x17 h f.fields fun i t =>
    t.checked i false [i.g f.d.toNat, i.g f.a.toNat, i.g f.b.toNat] fun u =>
      u.putG e f.d.toNat (macTW (i.g f.d.toNat) (i.g f.a.toNat) (i.g f.b.toNat)))
def execMin (e : Fin 8) (h : Hdr) (f : FmtR) (s : State) : Host.Outcome State Fault Refusal :=
  .next (s.binR e 0x18 h f false (minTW BitVec.slt))
def execMax (e : Fin 8) (h : Hdr) (f : FmtR) (s : State) : Host.Outcome State Fault Refusal :=
  .next (s.binR e 0x19 h f false (maxTW BitVec.slt))
def execMinu (e : Fin 8) (h : Hdr) (f : FmtR) (s : State) : Host.Outcome State Fault Refusal :=
  .next (s.binR e 0x1A h f false (minTW BitVec.ult))
def execMaxu (e : Fin 8) (h : Hdr) (f : FmtR) (s : State) : Host.Outcome State Fault Refusal :=
  .next (s.binR e 0x1B h f false (maxTW BitVec.ult))
/-- ABS: rule P for a ≥ 0, the NEG rule otherwise; 0x8000_0000 stays. -/
def execAbs (e : Fin 8) (h : Hdr) (f : FmtR) (s : State) : Host.Outcome State Fault Refusal :=
  .next (s.unR e 0x1C h f false fun a => if a.1.msb then negTW a else a)
def execNeg (e : Fin 8) (h : Hdr) (f : FmtR) (s : State) : Host.Outcome State Fault Refusal := .next (s.unR e 0x1D h f false negTW)

/-- Quotient to G[D], remainder to G[C]; the spec does not say what one register holds that is both, so it takes a free value
(log entry 2). -/
def State.division (s : State) (e opc : Nat) (h : Hdr) (f : FmtR) (op : Word → Word → Word × Word) : State :=
  s.issue e opc h f.fields fun i t =>
    let qr := op (i.g f.a.toNat).1 (i.g f.b.toNat).1
    t.dual i [i.g f.a.toNat, i.g f.b.toNat] qr.1 fun u =>
      if f.d = f.c then (u.putG e f.d.toNat (newTW u.freeWord)).spend
      else (u.putG e f.c.toNat (newTW qr.2)).putG e f.d.toNat (newTW qr.1)

def execDiv (e : Fin 8) (h : Hdr) (f : FmtR) (s : State) : Host.Outcome State Fault Refusal := .next (s.division e 0x1E h f divS)
def execDivu (e : Fin 8) (h : Hdr) (f : FmtR) (s : State) : Host.Outcome State Fault Refusal := .next (s.division e 0x1F h f divU)

/-! ### R64 -/

def execAddi (e : Fin 8) (h : Hdr) (f : FmtI) (s : State) : Host.Outcome State Fault Refusal := .next (s.binI e 0x20 h f false addTW)
def execMuli (e : Fin 8) (h : Hdr) (f : FmtI) (s : State) : Host.Outcome State Fault Refusal := .next (s.binI e 0x21 h f false mulTW)
def execMovi (e : Fin 8) (h : Hdr) (f : FmtI) (s : State) : Host.Outcome State Fault Refusal :=
  .next (s.issue e 0x22 h f.fields fun _ t => t.putG e f.d.toNat (newTW f.imm))
def execMini (e : Fin 8) (h : Hdr) (f : FmtI) (s : State) : Host.Outcome State Fault Refusal :=
  .next (s.binI e 0x23 h f false (minTW BitVec.slt))
def execMaxi (e : Fin 8) (h : Hdr) (f : FmtI) (s : State) : Host.Outcome State Fault Refusal :=
  .next (s.binI e 0x24 h f false (maxTW BitVec.slt))
def execAndi (e : Fin 8) (h : Hdr) (f : FmtI) (s : State) : Host.Outcome State Fault Refusal :=
  .next (s.binI e 0x25 h f true (onValues (· &&& ·)))
def execOri (e : Fin 8) (h : Hdr) (f : FmtI) (s : State) : Host.Outcome State Fault Refusal :=
  .next (s.binI e 0x26 h f true (onValues (· ||| ·)))
def execXori (e : Fin 8) (h : Hdr) (f : FmtI) (s : State) : Host.Outcome State Fault Refusal :=
  .next (s.binI e 0x27 h f true (onValues (· ^^^ ·)))
def execShli (e : Fin 8) (h : Hdr) (f : FmtI) (s : State) : Host.Outcome State Fault Refusal :=
  .next (s.binI e 0x28 h f true (onValues fun a m => a <<< fld m 0 5))
def execShri (e : Fin 8) (h : Hdr) (f : FmtI) (s : State) : Host.Outcome State Fault Refusal :=
  .next (s.binI e 0x29 h f true (onValues fun a m => a >>> fld m 0 5))
def execSari (e : Fin 8) (h : Hdr) (f : FmtI) (s : State) : Host.Outcome State Fault Refusal :=
  .next (s.binI e 0x2A h f true (onValues fun a m => sarW a (fld m 0 5)))
/-- CMPI: as CMP, with IMM in place of b (R66). -/
def execCmpi (e : Fin 8) (h : Hdr) (f : FmtI) (s : State) : Host.Outcome State Fault Refusal :=
  .next (s.issue e 0x2B h f.fields fun i t =>
    t.checked i true [i.g f.a.toNat] fun u =>
      u.putP e f.d.toNat (combine (f.mod.toNat / 8) (i.p f.d.toNat) (condition (f.mod.toNat % 8) (i.g f.a.toNat).1 f.imm)))
def execExt (e : Fin 8) (h : Hdr) (f : FmtI) (s : State) : Host.Outcome State Fault Refusal :=
  .next (s.binI e 0x2C h f true (onValues extField))
def execIns (e : Fin 8) (h : Hdr) (f : FmtI) (s : State) : Host.Outcome State Fault Refusal :=
  .next (s.issue e 0x2D h f.fields fun i t =>
    let r := insField (i.g f.d.toNat).1 (i.g f.a.toNat).1 f.imm
    t.dual i [i.g f.d.toNat, i.g f.a.toNat] r fun u => u.putG e f.d.toNat (newTW r))
def execSats (e : Fin 8) (h : Hdr) (f : FmtI) (s : State) : Host.Outcome State Fault Refusal :=
  .next (s.binI e 0x2E h f true (onValues fun a m => satField a (fld m 0 6)))
def execSatu (e : Fin 8) (h : Hdr) (f : FmtI) (s : State) : Host.Outcome State Fault Refusal :=
  .next (s.binI e 0x2F h f true (onValues fun a m => satFieldU a (fld m 0 6)))

end Sys2Proof.Machine
end

