-- ==== Sys2Proof/Machine/EngineControl.lean ====
section
/-! DEFINITION. Control instructions (R62, R73 to R76). -/
namespace Sys2Proof.Machine

/-- Continue at index `t`, with the loops of the engine before the instruction cut down to those that `t` stays in. -/
def State.jump (s : State) (i : Issue) (t : Nat) : State :=
  s.updRun i.e (fun x => { x with pc := t, loops := leaveLoops i.x.ret.length t i.x.loops })

def execNop (e : Fin 8) (h : Hdr) (f : FmtC) (s : State) : Host.Outcome State Fault Refusal :=
  .next (s.issue e 0x00 h f.fields fun _ t => t)

/-- BR t: 3 cycles, taken or not (R57, R62). -/
def execBr (e : Fin 8) (h : Hdr) (f : FmtC) (s : State) : Host.Outcome State Fault Refusal :=
  .next (s.issueWith e 0x01 h f.fields fun i go t => (if go then t.jump i f.target.toNat else t).holdFor i 3)

/-- CALL t: pushes the next index; a ninth entry abandons the slice with CAUSE 5 (R42, R75, R88). -/
def execCall (e : Fin 8) (h : Hdr) (f : FmtC) (s : State) : Host.Outcome State Fault Refusal :=
  .next (s.issueWith e 0x02 h f.fields fun i go t =>
    if !go then t.holdFor i 3
    else if 8 ≤ i.x.ret.length then t.abandon e 5
    else (t.updEn e (fun x => { x with pc := f.target.toNat, ret := (i.idx + 1) :: i.x.ret, loops := i.x.loops })).holdFor i 3)

/-- RET: continues at the popped index; where that call stood at the end of a loop body, with the loop's next pass. The loops
of the subroutine end with it. An empty stack abandons the slice with CAUSE 5. -/
def execRet (e : Fin 8) (h : Hdr) (f : FmtC) (s : State) : Host.Outcome State Fault Refusal :=
  .next (s.issueWith e 0x03 h f.fields fun i _ t =>
    match i.x.ret with
    | [] => t.abandon e 5
    | r :: rs =>
      let nx := seqNext rs.length (r - 1) (i.x.loops.filter (fun l => decide (l.depth ≤ rs.length)))
      (t.updEn e (fun x => { x with pc := nx.1, loops := nx.2, ret := rs })).holdFor i 3)

/-- LOOP [Ga,] #n, e: runs the body min(a, n) times, n times when A = 0; 0 times, and after a mismatch on a, it is skipped (R61,
R62). A fifth loop abandons the slice with CAUSE 5. -/
def execLoop (e : Fin 8) (h : Hdr) (f : FmtC) (s : State) : Host.Outcome State Fault Refusal :=
  .next (s.issueWith e 0x04 h f.fields fun i _ t =>
    let a := i.g f.a.toNat
    let bad := firstBad true (if f.a = 0 then [] else [a])
    let n := match bad with
      | some _ => 0
      | none => if f.a = 0 then f.bound.toNat else min a.1.toNat f.bound.toNat
    let t1 := match bad with
      | some b => t.mismatch i b (BitVec.ofNat 32 i.idx)
      | none => t
    if n = 0 then
      let nx := seqNext i.x.ret.length f.aux.toNat i.x.loops
      (t1.updRun e (fun x => { x with pc := nx.1, loops := nx.2 })).holdFor i 2
    else if 4 ≤ i.x.loops.length then t1.abandon e 5
    else (t1.updRun e (fun x => { x with pc := i.idx + 1, loops := ⟨i.idx + 1, f.aux.toNat, n, i.x.ret.length⟩ :: i.x.loops })).holdFor
      i 2)

/-- JT Ga, #n: continues at JT + 1 + min(a, n); after a mismatch on a it continues after its table (R61, R62). -/
def execJt (e : Fin 8) (h : Hdr) (f : FmtC) (s : State) : Host.Outcome State Fault Refusal :=
  .next (s.issueWith e 0x05 h f.fields fun i _ t =>
    let a := i.g f.a.toNat
    match firstBad true [a] with
    | some b => ((t.mismatch i b (BitVec.ofNat 32 i.idx)).jump i (i.idx + 1 + f.bound.toNat)).holdFor i 3
    | none => (t.jump i (i.idx + 1 + min a.1.toNat f.bound.toNat)).holdFor i 3)

/-- END: the slice is complete; BE_CYC.LAST_CYC counts its cycles, the one of END included (DEDUCED, log entry 22). -/
def execEnd (e : Fin 8) (h : Hdr) (f : FmtC) (s : State) : Host.Outcome State Fault Refusal :=
  .next (s.issue e 0x06 h f.fields fun i t =>
    (t.setFld (Reg.BE_CYC e) 0 20 (min (i.cyc + 1) (2 ^ 20 - 1))).updEn e Eng.finished)

end Sys2Proof.Machine
end

