-- ==== Sys2Proof/Machine/EngineLogic.lean ====
section
/-! DEFINITION. Logical, compare, predicate and move instructions (R65 to R67). -/
namespace Sys2Proof.Machine

/-- Leading zeros, 0 to 32, and the number of ones. -/
def clzW (a : Word) : Word := BitVec.ofNat 32 (((List.range 32).find? (fun i => a.getLsbD (31 - i))).getD 32)
def popW (a : Word) : Word := BitVec.ofNat 32 ((List.range 32).filter (fun i => a.getLsbD i)).length
/-- A shift amount: b AND 31. -/
def sh5 (b : Word) : Nat := fld b 0 5

def execAnd (e : Fin 8) (h : Hdr) (f : FmtR) (s : State) : Host.Outcome State Fault Refusal :=
  .next (s.binR e 0x30 h f true (onValues (· &&& ·)))
def execOr (e : Fin 8) (h : Hdr) (f : FmtR) (s : State) : Host.Outcome State Fault Refusal :=
  .next (s.binR e 0x31 h f true (onValues (· ||| ·)))
def execXor (e : Fin 8) (h : Hdr) (f : FmtR) (s : State) : Host.Outcome State Fault Refusal :=
  .next (s.binR e 0x32 h f true (onValues (· ^^^ ·)))
def execAndn (e : Fin 8) (h : Hdr) (f : FmtR) (s : State) : Host.Outcome State Fault Refusal :=
  .next (s.binR e 0x33 h f true (onValues fun a b => a &&& ~~~b))
def execNot (e : Fin 8) (h : Hdr) (f : FmtR) (s : State) : Host.Outcome State Fault Refusal :=
  .next (s.unR e 0x34 h f true fun a => newTW (~~~a.1))
def execShl (e : Fin 8) (h : Hdr) (f : FmtR) (s : State) : Host.Outcome State Fault Refusal :=
  .next (s.binR e 0x35 h f true (onValues fun a b => a <<< sh5 b))
def execShr (e : Fin 8) (h : Hdr) (f : FmtR) (s : State) : Host.Outcome State Fault Refusal :=
  .next (s.binR e 0x36 h f true (onValues fun a b => a >>> sh5 b))
def execSar (e : Fin 8) (h : Hdr) (f : FmtR) (s : State) : Host.Outcome State Fault Refusal :=
  .next (s.binR e 0x37 h f true (onValues fun a b => a.sshiftRight (sh5 b)))
def execRol (e : Fin 8) (h : Hdr) (f : FmtR) (s : State) : Host.Outcome State Fault Refusal :=
  .next (s.binR e 0x38 h f true (onValues fun a b => a.rotateLeft (sh5 b)))
def execClz (e : Fin 8) (h : Hdr) (f : FmtR) (s : State) : Host.Outcome State Fault Refusal :=
  .next (s.unR e 0x39 h f true fun a => newTW (clzW a.1))
def execPopc (e : Fin 8) (h : Hdr) (f : FmtR) (s : State) : Host.Outcome State Fault Refusal :=
  .next (s.unR e 0x3A h f true fun a => newTW (popW a.1))

/-- CMP (R66): rule K on both operands. -/
def execCmp (e : Fin 8) (h : Hdr) (f : FmtR) (s : State) : Host.Outcome State Fault Refusal :=
  .next (s.issue e 0x40 h f.fields fun i t =>
    t.checked i true [i.g f.a.toNat, i.g f.b.toNat] fun u =>
      u.putP e f.d.toNat (combine (f.mod.toNat / 8) (i.p f.d.toNat)
        (condition (f.mod.toNat % 8) (i.g f.a.toNat).1 (i.g f.b.toNat).1)))

/-- PAND, POR and PXOR combine P[A] and P[B], which MOD[0] inverts first (R66). -/
def State.predOp (s : State) (e opc : Nat) (h : Hdr) (f : FmtR) (op : Bool → Bool → Bool) : State :=
  s.issue e opc h f.fields fun i t => t.putP e f.d.toNat (op (i.p f.a.toNat) (i.p f.b.toNat ^^ f.mod.getLsbD 0))

def execPand (e : Fin 8) (h : Hdr) (f : FmtR) (s : State) : Host.Outcome State Fault Refusal :=
  .next (s.predOp e 0x41 h f (· && ·))
def execPor (e : Fin 8) (h : Hdr) (f : FmtR) (s : State) : Host.Outcome State Fault Refusal :=
  .next (s.predOp e 0x42 h f (· || ·))
def execPxor (e : Fin 8) (h : Hdr) (f : FmtR) (s : State) : Host.Outcome State Fault Refusal :=
  .next (s.predOp e 0x43 h f (· ^^ ·))

def execMov (e : Fin 8) (h : Hdr) (f : FmtR) (s : State) : Host.Outcome State Fault Refusal :=
  .next (s.unR e 0x50 h f false fun a => a)
def execSel (e : Fin 8) (h : Hdr) (f : FmtR) (s : State) : Host.Outcome State Fault Refusal :=
  .next (s.issue e 0x51 h f.fields fun i t =>
    t.checked i false [i.g f.a.toNat, i.g f.b.toNat] fun u =>
      u.putG e f.d.toNat (if i.p f.c.toNat then i.g f.a.toNat else i.g f.b.toNat))

/-- FRAME bits 31:0, FRAME bits 47:32, SLICE and BUDGET at issue (R43, R67). -/
def special (s : State) (i : Issue) (n : Nat) : Word :=
  match n with
  | 0 => BitVec.ofNat 32 s.frame.toNat
  | 1 => BitVec.ofNat 32 (s.frame.toNat / 2 ^ 32)
  | 2 => i.x.slice
  | _ => BitVec.ofNat 32 (i.x.budget - i.cyc)

def execMfs (e : Fin 8) (h : Hdr) (f : FmtR) (s : State) : Host.Outcome State Fault Refusal :=
  .next (s.issue e 0x52 h f.fields fun i t => t.putG e f.d.toNat (newTW (special t i f.mod.toNat)))
def execMovv (e : Fin 8) (h : Hdr) (f : FmtR) (s : State) : Host.Outcome State Fault Refusal :=
  .next (s.issue e 0x53 h f.fields fun i t =>
    t.checked i false [i.g f.a.toNat] fun u => u.putLane e f.d.toNat f.mod.toNat (i.g f.a.toNat))
def execMovg (e : Fin 8) (h : Hdr) (f : FmtR) (s : State) : Host.Outcome State Fault Refusal :=
  .next (s.issue e 0x54 h f.fields fun i t =>
    t.checked i false [i.rf.lane f.a.toNat f.mod.toNat] fun u => u.putG e f.d.toNat (i.rf.lane f.a.toNat f.mod.toNat))
def execPtog (e : Fin 8) (h : Hdr) (f : FmtR) (s : State) : Host.Outcome State Fault Refusal :=
  .next (s.issue e 0x55 h f.fields fun i t => t.putG e f.d.toNat (newTW (b2w (i.p f.a.toNat))))

end Sys2Proof.Machine
end

