-- ==== Sys2Proof/Machine/EngineVector.lean ====
section
/-! DEFINITION. Vector instructions (R72). -/
namespace Sys2Proof.Machine

def execVadd (e : Fin 8) (h : Hdr) (f : FmtR) (s : State) : Host.Outcome State Fault Refusal := .next (s.binV e 0x80 h f false addTW)
def execVsub (e : Fin 8) (h : Hdr) (f : FmtR) (s : State) : Host.Outcome State Fault Refusal := .next (s.binV e 0x81 h f false subTW)
def execVadds (e : Fin 8) (h : Hdr) (f : FmtR) (s : State) : Host.Outcome State Fault Refusal :=
  .next (s.binV e 0x82 h f true (onValues addS))
def execVmul (e : Fin 8) (h : Hdr) (f : FmtR) (s : State) : Host.Outcome State Fault Refusal := .next (s.binV e 0x83 h f false mulTW)
/-- VMAC: multiply-accumulate into V[D], lane by lane. -/
def execVmac (e : Fin 8) (h : Hdr) (f : FmtR) (s : State) : Host.Outcome State Fault Refusal :=
  .next (s.issue e 0x84 h f.fields fun i t =>
    let d := fun n => i.rf.lane f.d.toNat n
    let a := fun n => i.rf.lane f.a.toNat n
    let b := fun n => i.rf.lane f.b.toNat n
    t.checked i false ((selected f.mask).flatMap fun n => [d n, a n, b n]) fun u =>
      u.lanes e f.d.toNat f.mask (fun n => macTW (d n) (a n) (b n)))
def execVmin (e : Fin 8) (h : Hdr) (f : FmtR) (s : State) : Host.Outcome State Fault Refusal :=
  .next (s.binV e 0x85 h f false (minTW BitVec.slt))
def execVmax (e : Fin 8) (h : Hdr) (f : FmtR) (s : State) : Host.Outcome State Fault Refusal :=
  .next (s.binV e 0x86 h f false (maxTW BitVec.slt))
/-- VSPL: every selected lane of V[D] = G[A]. -/
def execVspl (e : Fin 8) (h : Hdr) (f : FmtR) (s : State) : Host.Outcome State Fault Refusal :=
  .next (s.issue e 0x87 h f.fields fun i t =>
    t.checked i false [i.g f.a.toNat] fun u => u.lanes e f.d.toNat f.mask (fun _ => i.g f.a.toNat))
/-- VSUM: the ADD rule over lanes 0 to 7 in order (R60). -/
def sumTW (l : List TW) : TW :=
  match l with
  | [] => (0, 0)
  | x :: xs => xs.foldl addTW x
def execVsum (e : Fin 8) (h : Hdr) (f : FmtR) (s : State) : Host.Outcome State Fault Refusal :=
  .next (s.issue e 0x88 h f.fields fun i t =>
    t.checked i false (i.v f.a.toNat) fun u => u.putG e f.d.toNat (sumTW (i.v f.a.toNat)))
def execVand (e : Fin 8) (h : Hdr) (f : FmtR) (s : State) : Host.Outcome State Fault Refusal :=
  .next (s.binV e 0x90 h f true (onValues (· &&& ·)))
def execVor (e : Fin 8) (h : Hdr) (f : FmtR) (s : State) : Host.Outcome State Fault Refusal :=
  .next (s.binV e 0x91 h f true (onValues (· ||| ·)))
def execVxor (e : Fin 8) (h : Hdr) (f : FmtR) (s : State) : Host.Outcome State Fault Refusal :=
  .next (s.binV e 0x92 h f true (onValues (· ^^^ ·)))
def execVshl (e : Fin 8) (h : Hdr) (f : FmtR) (s : State) : Host.Outcome State Fault Refusal :=
  .next (s.unV e 0x93 h f (fun a => a <<< f.mod.toNat))
def execVshr (e : Fin 8) (h : Hdr) (f : FmtR) (s : State) : Host.Outcome State Fault Refusal :=
  .next (s.unV e 0x94 h f (fun a => a >>> f.mod.toNat))
def execVsar (e : Fin 8) (h : Hdr) (f : FmtR) (s : State) : Host.Outcome State Fault Refusal :=
  .next (s.unV e 0x95 h f (fun a => sarW a f.mod.toNat))
def execVsats (e : Fin 8) (h : Hdr) (f : FmtR) (s : State) : Host.Outcome State Fault Refusal :=
  .next (s.unV e 0x96 h f (fun a => satField a (f.mod.toNat + 1)))
/-- VCMP: bit n of G[D] is the condition on lane n, for the lanes of MASK; the others and bits 31:8 are 0. -/
def execVcmp (e : Fin 8) (h : Hdr) (f : FmtR) (s : State) : Host.Outcome State Fault Refusal :=
  .next (s.issue e 0x97 h f.fields fun i t =>
    let a := fun n => i.rf.lane f.a.toNat n
    let b := fun n => i.rf.lane f.b.toNat n
    t.checked i true ((selected f.mask).flatMap fun n => [a n, b n]) fun u =>
      u.putG e f.d.toNat (newTW (BitVec.ofNat 32
        ((selected f.mask).map fun n => b2n (condition f.mod.toNat (a n).1 (b n).1) * 2 ^ n).sum)))
/-- VSEL: lane n of V[A] when bit n of G[C] is 1, else of V[B]. -/
def execVsel (e : Fin 8) (h : Hdr) (f : FmtR) (s : State) : Host.Outcome State Fault Refusal :=
  .next (s.issue e 0x98 h f.fields fun i t =>
    let a := fun n => i.rf.lane f.a.toNat n
    let b := fun n => i.rf.lane f.b.toNat n
    t.checked i false (i.g f.c.toNat :: (selected f.mask).flatMap fun n => [a n, b n]) fun u =>
      u.lanes e f.d.toNat f.mask (fun n => if (i.g f.c.toNat).1.getLsbD n then a n else b n))

end Sys2Proof.Machine
end

