-- ==== Sys2Proof/Machine/HostPort.lean ====
section
/-! DEFINITION. Accesses of the host (R354 to R362, R371, R379): halves written and read, posted words and their arrival, RC fields and the
streaming window. -/
namespace Sys2Proof.Machine

/-- The port works: it is powered in every mode but SILL (R379), and with VIO_H out of range its lands carry no access (R493, R517; DEDUCED, log
entry 56). -/
def portOn (s : State) : Bool := s.sys.mode ≠ .sill && !s.sys.powerFail && !s.sys.viohFloat

/-- The word address of a half, and the streaming window (R354, R371, R376). -/
def wordAddr (a : BitVec 24) : Nat := a.toNat / 4 * 4
def streamWindow (a : BitVec 24) : Bool := decide (0x100000 ≤ a.toNat)

/-! ### Writes (R355, R356) -/

/-- Places of the queue of posted words (R356). -/
def postCap : Nat := 64

/-- A completed word is posted, or discarded when the queue is full. -/
def State.post (s : State) (a : Nat) (v : Word) : State :=
  if postCap ≤ s.hp.posted.length then (s.hpErr 1).raise 284 0
  else { s with hp := { s.hp with posted := s.hp.posted ++ [(a, v)] } }

def State.hold (s : State) (h : Option (Nat × BitVec 16)) : State := { s with hp := { s.hp with held := h } }

/-- A low half is held. One that was held for another word is discarded (R355). -/
def State.lowWrite (s : State) (a : Nat) (v : BitVec 16) : State :=
  match s.hp.held with
  | some x => (if x.1 = a then s else s.hpErr 2).hold (some (a, v))
  | none => s.hold (some (a, v))

/-- A high half completes its word, or is discarded (R355). -/
def State.highWrite (s : State) (a : Nat) (v : BitVec 16) : State :=
  match s.hp.held with
  | some x => if x.1 = a then (s.hold none).post a (v ++ x.2) else (s.hold none).hpErr 2
  | none => s.hpErr 2

/-- A write access: into the streaming window, or a half of a word; in FREEZE it is discarded (R379). -/
def State.hostHalf (s : State) (a : BitVec 24) (v : BitVec 16) (f : State → State) : State :=
  if !portOn s then s
  else if streamWindow a then s.streamWrite v
  else if s.sys.mode = .freeze then s.setFlag Reg.HP_STAT 6 true
  else f s

def execLowHalfWrite (t : Nat) (a : BitVec 24) (v : BitVec 16) (s : State) : Host.Outcome State Fault Refusal :=
  .next ((if s.clocked then s.at t else s).hostHalf a v fun u => u.lowWrite (wordAddr a) v)

def execHighHalfWrite (t : Nat) (a : BitVec 24) (v : BitVec 16) (s : State) : Host.Outcome State Fault Refusal :=
  .next ((if s.clocked then s.at t else s).hostHalf a v fun u => u.highWrite (wordAddr a) v)

/-! ### The arrival of a posted word (R23, R356) -/

/-- A posted word at the head of the queue reaches its block, when it is one that the command names. -/
def State.popPosted (s : State) (t : Nat) (p : Nat → Word → Bool) (stored : Bool) (ph : BusPhase) (ago : Nat) : State :=
  match s.hp.posted with
  | [] => s
  | x :: xs =>
    if s.clocked && p x.1 x.2 then ({ s.at t with hp := { s.hp with posted := xs } }).hostArrive x.1 x.2 stored ph ago else s

/-- A posted word that needs nothing but its instant. -/
def State.popWrite (s : State) (t : Nat) (p : Nat → Word → Bool) : State := s.popPosted t p true .idle 0

/-- A cancel of transmit entries, a key command of the trust anchor, a host command: they come by commands of their own. -/
def isCancel (a : Nat) : Bool := decide (0x080000 ≤ a) && decide (a < 0x090000) && (decide (a % 0x4000 = 0x48) || decide (a % 0x4000 = 0x4C))

/-- REGISTER_WRITE: a posted word reaches its block. -/
def execRegisterWrite (t : Nat) (s : State) : Host.Outcome State Fault Refusal :=
  .next (s.popWrite t fun a v =>
    !isCancel a && !(a = Reg.PEG_KCTL && bit v 0 && decide (1 ≤ keyOp s) && decide (keyOp s ≤ 8)) && a != Reg.PEG_HC_TAG_HI)

/-! ### Reads (R354, R357 to R362) -/

/-- RC fields of a register: first bit and width (R360). -/
def rcFields (a : Nat) : List (Nat × Nat) :=
  if a = Reg.SYS_FRMSTAT then [(8, 8)]
  else if 0x013000 ≤ a ∧ a < 0x013200 then [(16, 8)]
  else if 0x014000 ≤ a ∧ a < 0x014800 then (if a % 0x100 = 8 then [(0, 8), (8, 8), (16, 8)] else [])
  else if 0x028000 ≤ a ∧ a < 0x0286C0 then (if a % 0x10 = 8 then [(0, 8), (8, 8), (16, 8), (24, 8)] else [])
  else if 0x0A2000 ≤ a ∧ a < 0x0A2800 then [(8, 8)]
  else if 0x080000 ≤ a ∧ a < 0x090000 ∧ a % 0x4000 = 0x34 then [(16, 3)]
  else if 0x080000 ≤ a ∧ a < 0x090000 ∧ a % 0x4000 = 0x38 then [(0, 16), (16, 8), (24, 8)]
  else match Reg.row? a with
    | some r => [(0, 16), (16, 16)].filter (fun f => decide (fld r.rc f.1 f.2 ≠ 0))
    | none => []

/-- LEC of BUS_ERR is the one RC field that is no count. -/
def rcIsCount (a : Nat) : Bool := !(decide (0x080000 ≤ a) && decide (a < 0x090000) && decide (a % 0x4000 = 0x34))

/-- What is left of a field once a read that returned `ret` of it has cleared it: a count keeps what it gained since, a saturated one clears
to 0, and another field clears only if it still holds what was returned. -/
def rcLeft (count : Bool) (n cur ret : Nat) : Nat :=
  if count then (if ret = 2 ^ n - 1 then 0 else cur - ret) else if cur = ret then 0 else cur

/-- A read that returned `w` of a register clears one of its fields, in the block and in what the next flip will show. Of a
snapshot-class count, what an earlier read of the same image has cleared is not cleared again. -/
def State.rcClear (s : State) (a : Nat) (w : Word) (f : Nat × Nat) : State :=
  let ret := fld w f.1 f.2
  let done := if isSnap a then SMap.get 0 s.hp.rcDone a else 0
  let s1 := s.setFld a f.1 f.2 (rcLeft (rcIsCount a) f.2 (s.rf a f.1 f.2) (if ret = 2 ^ f.2 - 1 then ret else ret - done))
  if isSnap a then
    let c := Regs.get s1.capt a
    let capt := Regs.set s1.capt a (put c f.1 f.2 (fld c f.1 f.2 - (ret - done)))
    { s1 with capt := capt, hp := { s1.hp with rcDone := SMap.set 0 s1.hp.rcDone a ret } }
  else s1

/-- The fields of the half that a read returned are cleared; in FREEZE the blocks stand still (R379, R482). -/
def State.rcRead (s : State) (a : Nat) (w : Word) (high : Bool) : State :=
  if s.clocked then
    eachOf ((rcFields a).filter (fun f => decide (f.1 < 16) != high)) (fun f u => u.rcClear a w f) s
  else s

/-- Registers that a host may read in FREEZE without a grant (R379): the serial, the identity public key and the certificate read the same in
every mode but SILL (R434; DEDUCED, log entry 32). -/
def freezeOpen (a : Nat) : Bool :=
  a = Reg.SYS_ID || a = Reg.SYS_MODE || a = Reg.HP_STAT || a = Reg.PEG_SERIAL_LO || a = Reg.PEG_SERIAL_HI || isIdentity a

/-- A read in FREEZE that the owner has not authorised finds 0 (R379). -/
def frozenOut (s : State) (a : Nat) : Bool := decide (s.sys.mode = .freeze) && !frzReadGranted s && !freezeOpen a

/-- The word that a host read finds at an address (R357, R361, R363, R379). -/
def hostWord (s : State) (a : Nat) : Word :=
  if frozenOut s a then 0
  else if a < 0x010000 then pageWord s (a / 0x400) (a % 0x400 / 4)
  else s.imageOf a

/-- What comes before a read: a stream's counts are looked at, and a locked read in FREEZE is reported (R371, R453). -/
def State.beforeRead (s : State) (a : Nat) : State :=
  let s1 := if a = Reg.HP_SSTAT ∨ a = Reg.HP_SPOS then s.streamFlow else s
  if frozenOut s1 a then s1.lockHit 2 else s1

def State.drive (s : State) (v : BitVec 16) : State := { s with hp := { s.hp with hd := v } }

/-- A read of a low half returns it, latches the high half, marks a page whose header word 1 it is, and clears RC fields (R354, R360,
R366). -/
def State.readLow (s : State) (a : Nat) : State :=
  let s1 := s.beforeRead a
  let w := hostWord s1 a
  let s2 := (s1.drive (w.setWidth 16)).rcRead a w false
  let s3 := { s2 with hp := { s2.hp with latch := some (a, w.extractLsb' 16 16) } }
  if a < 0x010000 ∧ a % 0x400 = 4 then s3.setPage (a / 0x400) { s3.page (a / 0x400) with read := true } else s3

/-- A read of a high half returns the latched one, or the present one with UNPAIRED set (R354). -/
def State.readHigh (s : State) (a : Nat) : State :=
  let s1 := s.beforeRead a
  match s1.hp.latch with
  | some x =>
    if frozenOut s1 a then s1.drive 0
    else if x.1 = a then (s1.drive x.2).rcRead a (x.2 ++ 0#16) true
    else
      let w := hostWord s1 a
      ((s1.drive (w.extractLsb' 16 16)).hpErr 3).rcRead a w true
  | none =>
    let w := hostWord s1 a
    ((s1.drive (w.extractLsb' 16 16)).hpErr 3).rcRead a w true

/-- A read access. -/
def State.hostRead (s : State) (a : BitVec 24) (high : Bool) : State :=
  if !portOn s then s
  else if streamWindow a then s.streamRead
  else if high then s.readHigh (wordAddr a) else s.readLow (wordAddr a)

def execLowHalfRead (a : BitVec 24) (s : State) : Host.Outcome State Fault Refusal := .next (s.hostRead a false)
def execHighHalfRead (a : BitVec 24) (s : State) : Host.Outcome State Fault Refusal := .next (s.hostRead a true)

/-- RC_READ: a read of the half of a register that holds RC fields (R360). -/
def execRcRead (a : BitVec 24) (high : Bool) (s : State) : Host.Outcome State Fault Refusal :=
  .next (if (rcFields (wordAddr a)).any (fun f => decide (f.1 < 16) != high) then s.hostRead a high else s)

/-- PAGE_HEADER_READ: a read of the low half of header word 1 of a page (R366). -/
def execPageHeaderRead (p : Fin 64) (s : State) : Host.Outcome State Fault Refusal :=
  .next (s.hostRead (BitVec.ofNat 24 (p.val * 0x400 + 4)) false)

def execStreamRead (s : State) : Host.Outcome State Fault Refusal := .next (if portOn s then s.streamRead else s)
def execStreamWrite (v : BitVec 16) (s : State) : Host.Outcome State Fault Refusal := .next (if portOn s then s.streamWrite v else s)

/-- PAGE_COPY_COMPLETE: the oldest copy of a page is complete (R364). -/
def execPageCopyComplete (t : Nat) (p : Fin 64) (s : State) : Host.Outcome State Fault Refusal :=
  .next (if s.clocked then (s.at t).pageCopied p else s)

end Sys2Proof.Machine
end

