-- ==== Sys2Proof/Machine/HostWrites.lean ====
section
/-! DEFINITION. The posted writes that the opcode table names (R23, R356): each takes the word at the head of the queue when it is the one named, and
brings it to its block. -/
namespace Sys2Proof.Machine

/-- One of `n` registers at a stride. -/
def inRegs (a base n stride : Nat) : Bool := decide (base ≤ a) && decide ((a - base) % stride = 0) && decide ((a - base) / stride < n)

/-! ### Blocks -/

/-- BE_RST: the reset of engines (R90). -/
def execBeRst (t : Nat) (s : State) : Host.Outcome State Fault Refusal :=
  .next (s.popWrite t fun a _ => decide (a = Reg.BE_RST))

/-- VERIFY: the checks on a program bank start (R99). -/
def execVerify (t : Nat) (s : State) : Host.Outcome State Fault Refusal :=
  .next (s.popWrite t fun a v => decide (a = Reg.PROG_BANK) && decide (fld v 16 2 ≠ 0))

/-- BEGIN (R118). -/
def execBegin (t : Nat) (s : State) : Host.Outcome State Fault Refusal :=
  .next (s.popWrite t fun a v => decide (a = Reg.TXN_CTRL) && decide (fld v 16 2 = 1))

/-- COMMIT (R121). -/
def execCommit (t : Nat) (s : State) : Host.Outcome State Fault Refusal :=
  .next (s.popWrite t fun a v => decide (a = Reg.TXN_CTRL) && decide (fld v 16 2 = 2))

/-- ROLLBACK (R125). -/
def execRollback (t : Nat) (s : State) : Host.Outcome State Fault Refusal :=
  .next (s.popWrite t fun a v => decide (a = Reg.TXN_CTRL) && decide (fld v 16 2 = 3))

/-- TX_REGISTER_WRITE: a register word with a TX field (R120). -/
def execTxRegisterWrite (t : Nat) (s : State) : Host.Outcome State Fault Refusal :=
  .next (s.popWrite t fun a _ => decide (txMask a ≠ 0))

/-- SCHED_CTRL_RESTART (R116). -/
def execSchedCtrlRestart (t : Nat) (s : State) : Host.Outcome State Fault Refusal :=
  .next (s.popWrite t fun a v => decide (a = Reg.SCHED_CTRL) && bit v 0)

/-- ADC_SWTRG (R184). -/
def execAdcSwtrg (t : Nat) (s : State) : Host.Outcome State Fault Refusal :=
  .next (s.popWrite t fun a _ => decide (a = Reg.ADC_SWTRG))

/-- ADC_SHUNT: shunts are connected again (R183). -/
def execAdcShunt (t : Nat) (s : State) : Host.Outcome State Fault Refusal :=
  .next (s.popWrite t fun a _ => decide (a = Reg.ADC_SHUNT))

/-- FLATCH_CLEAR (R218). -/
def execFlatchClear (t : Nat) (s : State) : Host.Outcome State Fault Refusal :=
  .next (s.popWrite t fun a v => inRegs a (Reg.PWM_UFSTAT 0) 24 0x40 && bit v 0)

/-- UNIT_ENABLE (R219). -/
def execUnitEnable (t : Nat) (s : State) : Host.Outcome State Fault Refusal :=
  .next (s.popWrite t fun a v => inRegs a (Reg.PWM_UCTRL 0) 24 0x40 && bit v 0)

/-- UNIT_DISABLE (R219). -/
def execUnitDisable (t : Nat) (s : State) : Host.Outcome State Fault Refusal :=
  .next (s.popWrite t fun a v => inRegs a (Reg.PWM_UCTRL 0) 24 0x40 && !bit v 0)

/-- LOCK_CLEAR (R239). -/
def execLockClear (t : Nat) (s : State) : Host.Outcome State Fault Refusal :=
  .next (s.popWrite t fun a v => inRegs a (Reg.CH_STAT 0) 108 0x10 && bit v 5)

/-- LSW_WDTOK: a token of the host (R244). -/
def execLswWdtok (t : Nat) (s : State) : Host.Outcome State Fault Refusal :=
  .next (s.popWrite t fun a _ => decide (a = Reg.LSW_WDTOK))

/-- WDEXP_CLEAR (R246). -/
def execWdexpClear (t : Nat) (s : State) : Host.Outcome State Fault Refusal :=
  .next (s.popWrite t fun a v => inRegs a (Reg.BSTAT 0) 12 0x20 && bit v 2)

/-- STOP_CONTROLLED (R266). -/
def execStopControlled (t : Nat) (s : State) : Host.Outcome State Fault Refusal :=
  .next (s.popWrite t fun a v => inRegs a (Reg.AX_CMD 0) 16 0x80 && decide (fld v 0 2 = 1))

/-- STOP_IMMEDIATE (R266). -/
def execStopImmediate (t : Nat) (s : State) : Host.Outcome State Fault Refusal :=
  .next (s.popWrite t fun a v => inRegs a (Reg.AX_CMD 0) 16 0x80 && decide (fld v 0 2 = 2))

/-- GNS_STEER_FR (R305). -/
def execGnsSteerFr (t : Nat) (s : State) : Host.Outcome State Fault Refusal :=
  .next (s.popWrite t fun a _ => decide (a = Reg.GNS_STEER_FR))

/-- GNS_STEER_PH without STEP (R307). -/
def execGnsSteerPh (t : Nat) (s : State) : Host.Outcome State Fault Refusal :=
  .next (s.popWrite t fun a v => decide (a = Reg.GNS_STEER_PH) && !bit v 31)

/-- GNS_STEER_STEP: a phase write with STEP (R307). -/
def execGnsSteerStep (t : Nat) (s : State) : Host.Outcome State Fault Refusal :=
  .next (s.popWrite t fun a v => decide (a = Reg.GNS_STEER_PH) && bit v 31)

/-- GNS_TSET_S (R305). -/
def execGnsTsetS (t : Nat) (s : State) : Host.Outcome State Fault Refusal :=
  .next (s.popWrite t fun a _ => decide (a = Reg.GNS_TSET_S))

/-- IMU_TEST (R313). -/
def execImuTest (t : Nat) (s : State) : Host.Outcome State Fault Refusal :=
  .next (s.popWrite t fun a v => decide (a = Reg.IMU_TEST) && bit v 0)

/-- BUS_QACK (R329). -/
def execBusQack (t : Nat) (s : State) : Host.Outcome State Fault Refusal :=
  .next (s.popWrite t fun a _ => (List.range 4).any (fun j => inRegs a (Reg.BUS_QACK 0 j) 4 0x4000))

/-- BUS_TXREQ (R332). -/
def execBusTxreq (t : Nat) (s : State) : Host.Outcome State Fault Refusal :=
  .next (s.popWrite t fun a _ => inRegs a (Reg.BUS_TXREQ_LO 0) 4 0x4000 || inRegs a (Reg.BUS_TXREQ_HI 0) 4 0x4000)

/-- BUS_CMD_RESTART (R338). -/
def execBusCmdRestart (t : Nat) (s : State) : Host.Outcome State Fault Refusal :=
  .next (s.popWrite t fun a v => inRegs a (Reg.BUS_CMD 0) 4 0x4000 && bit v 0)

/-- PUBLISH (R364). -/
def execPublish (t : Nat) (s : State) : Host.Outcome State Fault Refusal :=
  .next (s.popWrite t fun a _ => decide (a = Reg.HP_PUB_LO) || decide (a = Reg.HP_PUB_HI))

/-- STREAM_GO (R370). -/
def execStreamGo (t : Nat) (s : State) : Host.Outcome State Fault Refusal :=
  .next (s.popWrite t fun a v => decide (a = Reg.HP_SCTL) && bit v 0)

/-- STREAM_STOP (R370). -/
def execStreamStop (t : Nat) (s : State) : Host.Outcome State Fault Refusal :=
  .next (s.popWrite t fun a v => decide (a = Reg.HP_SCTL) && bit v 8)

/-- TRU_KILL_ASSERT (R389). -/
def execTruKillAssert (t : Nat) (s : State) : Host.Outcome State Fault Refusal :=
  .next (s.popWrite t fun a v => decide (a = Reg.TRU_KILL) && bit v 0)

/-- TRU_KILL_RELEASE (R389). -/
def execTruKillRelease (t : Nat) (s : State) : Host.Outcome State Fault Refusal :=
  .next (s.popWrite t fun a v => decide (a = Reg.TRU_KILL) && !bit v 0)

/-- SCARF_GO (R392). -/
def execScarfGo (t : Nat) (s : State) : Host.Outcome State Fault Refusal :=
  .next (s.popWrite t fun a v => decide (a = Reg.TRU_SCARF) && bit v 0)

/-- REPLAY (R401). -/
def execReplay (t : Nat) (s : State) : Host.Outcome State Fault Refusal :=
  .next (s.popWrite t fun a v => decide (a = Reg.JRN_RCTL) && bit v 0)

/-- NEXT (R401). -/
def execNext (t : Nat) (s : State) : Host.Outcome State Fault Refusal :=
  .next (s.popWrite t fun a v => decide (a = Reg.JRN_RCTL) && bit v 1)

/-- CLEAR (R415). -/
def execClear (t : Nat) (s : State) : Host.Outcome State Fault Refusal :=
  .next (s.popWrite t fun a v => decide (a = Reg.FLT_CTRL) && bit v 0)

/-- RCLR (R417). -/
def execRclr (t : Nat) (s : State) : Host.Outcome State Fault Refusal :=
  .next (s.popWrite t fun a v => decide (a = Reg.FLT_CTRL) && bit v 1)

/-- INJECTION_ARM (R418). -/
def execInjectionArm (t : Nat) (s : State) : Host.Outcome State Fault Refusal :=
  .next (s.popWrite t fun a v => decide (a = Reg.FLT_INJ) && bit v 31)

/-- REC_SWCODE (R426). -/
def execRecSwcode (t : Nat) (s : State) : Host.Outcome State Fault Refusal :=
  .next (s.popWrite t fun a _ => decide (a = Reg.REC_SWCODE))

/-- REC_FREEZE (R427). -/
def execRecFreeze (t : Nat) (s : State) : Host.Outcome State Fault Refusal :=
  .next (s.popWrite t fun a v => decide (a = Reg.REC_CTL) && bit v 0)

/-- REC_RELEASE (R427). -/
def execRecRelease (t : Nat) (s : State) : Host.Outcome State Fault Refusal :=
  .next (s.popWrite t fun a v => decide (a = Reg.REC_CTL) && bit v 1)

/-- ATTESTATION (R446). -/
def execAttestation (t : Nat) (s : State) : Host.Outcome State Fault Refusal :=
  .next (s.popWrite t fun a v => decide (a = Reg.PEG_ACTL) && bit v 0)

/-- REVOKE (R454). -/
def execRevoke (t : Nat) (s : State) : Host.Outcome State Fault Refusal :=
  .next (s.popWrite t fun a v => decide (a = Reg.PEG_GRANT) && bit v 8)

/-- REQUEST_BOOT (R467). -/
def execRequestBoot (t : Nat) (s : State) : Host.Outcome State Fault Refusal :=
  .next (s.popWrite t fun a v => decide (a = Reg.SYS_MODEREQ) && decide (fld v 0 3 = 1))

/-- REQUEST_IDLE (R467). -/
def execRequestIdle (t : Nat) (s : State) : Host.Outcome State Fault Refusal :=
  .next (s.popWrite t fun a v => decide (a = Reg.SYS_MODEREQ) && decide (fld v 0 3 = 2))

/-- REQUEST_RUN (R467). -/
def execRequestRun (t : Nat) (s : State) : Host.Outcome State Fault Refusal :=
  .next (s.popWrite t fun a v => decide (a = Reg.SYS_MODEREQ) && decide (fld v 0 3 = 3))

/-- REQUEST_SERVICE (R467). -/
def execRequestService (t : Nat) (s : State) : Host.Outcome State Fault Refusal :=
  .next (s.popWrite t fun a v => decide (a = Reg.SYS_MODEREQ) && decide (fld v 0 3 = 7))

/-- REQUEST_SILL (R467). -/
def execRequestSill (t : Nat) (s : State) : Host.Outcome State Fault Refusal :=
  .next (s.popWrite t fun a v => decide (a = Reg.SYS_MODEREQ) && decide (fld v 0 3 = 0))

/-- SYS_RST (R475). -/
def execSysRst (t : Nat) (s : State) : Host.Outcome State Fault Refusal :=
  .next (s.popWrite t fun a _ => decide (a = Reg.SYS_RST))

/-- BUS_TXCAN: a cancel, with what the bus does for the controller when it arrives (R334). -/
def execBusTxcan (t : Nat) (ph : BusPhase) (ago : Nat) (s : State) : Host.Outcome State Fault Refusal :=
  .next (s.popPosted t (fun a _ => isCancel a) true ph ago)

/-! ### The trust anchor -/

/-- GO of the key command in the window, with its OP (R441). -/
def isKeyGo (s : State) (op a : Nat) (v : Word) : Bool := decide (a = Reg.PEG_KCTL) && bit v 0 && decide (keyOp s = op)

/-- KEY_ENROL: OP 1; `stored` says that both copies of the key reached MRAM (R436, R441). -/
def execKeyEnrol (t : Nat) (stored : Bool) (s : State) : Host.Outcome State Fault Refusal :=
  .next (s.popPosted t (isKeyGo s 1) stored .idle 0)

/-- KEY_REVOKE: OP 2; `stored` says that both copies of the key reached MRAM (R436, R441). -/
def execKeyRevoke (t : Nat) (stored : Bool) (s : State) : Host.Outcome State Fault Refusal :=
  .next (s.popPosted t (isKeyGo s 2) stored .idle 0)

/-- LOAD_MESSAGE_KEY: OP 3; `stored` says that both copies of the key reached MRAM (R436, R443). -/
def execLoadMessageKey (t : Nat) (stored : Bool) (s : State) : Host.Outcome State Fault Refusal :=
  .next (s.popPosted t (isKeyGo s 3) stored .idle 0)

/-- LOAD_HOST_KEY: OP 4; `stored` says that both copies of the key reached MRAM (R436, R441). -/
def execLoadHostKey (t : Nat) (stored : Bool) (s : State) : Host.Outcome State Fault Refusal :=
  .next (s.popPosted t (isKeyGo s 4) stored .idle 0)

/-- RAISE_ROLLBACK: OP 5; `stored` says that both copies of the key reached MRAM (R436, R441). -/
def execRaiseRollback (t : Nat) (stored : Bool) (s : State) : Host.Outcome State Fault Refusal :=
  .next (s.popPosted t (isKeyGo s 5) stored .idle 0)

/-- RELEASE_OWNERSHIP: OP 6; `stored` says that both copies of the key reached MRAM (R436, R445). -/
def execReleaseOwnership (t : Nat) (stored : Bool) (s : State) : Host.Outcome State Fault Refusal :=
  .next (s.popPosted t (isKeyGo s 6) stored .idle 0)

/-- GRANT: OP 7; `stored` says that both copies of the key reached MRAM (R436, R453). -/
def execGrant (t : Nat) (stored : Bool) (s : State) : Host.Outcome State Fault Refusal :=
  .next (s.popPosted t (isKeyGo s 7) stored .idle 0)

/-- SET_POLICY: OP 8; `stored` says that both copies of the key reached MRAM (R436, R441). -/
def execSetPolicy (t : Nat) (stored : Bool) (s : State) : Host.Outcome State Fault Refusal :=
  .next (s.popPosted t (isKeyGo s 8) stored .idle 0)

/-- HOST_COMMAND: PEG_HC_TAG_HI arrives, and the command is checked and delivered (R450). -/
def execHostCommand (t : Nat) (ph : BusPhase) (ago : Nat) (s : State) : Host.Outcome State Fault Refusal :=
  .next (s.popPosted t (fun a _ => decide (a = Reg.PEG_HC_TAG_HI)) true ph ago)

end Sys2Proof.Machine
end

