-- ==== Sys2Proof/Machine/Supplies.lean ====
section
/-! DEFINITION. Logic feeds, hold-up, rails and temperature points (R491 to R501): the commands of the supply supervision. -/
namespace Sys2Proof.Machine

/-- The feeds, HOLD and the rails are supervised in every mode but SILL (R505), and during entry to SILL, until a power-fail is declared
(R496). -/
def supervised (s : State) : Bool := (s.sys.mode ≠ .sill && !s.sys.powerFail) || s.entersSill

/-- PWR_STAT's code of a feed state. -/
def FeedState.code : FeedState → Nat
  | .normal => 0 | .crank => 1 | .low => 2 | .ov => 3

/-- The source the logic draws from (R492): VBAT1 while it is NORMAL or OV, else the higher feed that is not LOW, else HOLD. -/
def logicSource (st1 st2 v1 v2 : Nat) : Nat :=
  if st1 = 0 ∨ st1 = 3 then 0
  else if st1 = 2 ∧ st2 = 2 then 2
  else if st1 = 2 then 1
  else if st2 = 2 then 0
  else if v1 < v2 then 1 else 0

/-- LFEED follows the feeds. -/
def State.showSource (s : State) (v1 v2 : Nat) : State :=
  s.setFld Reg.PWR_STAT 4 2 (logicSource (s.rf Reg.PWR_STAT 0 2) (s.rf Reg.PWR_STAT 2 2) v1 v2)

/-- Both feeds are LOW (R496, R497). -/
def bothFeedsLow (s : State) : Bool := s.rf Reg.PWR_STAT 0 2 = 2 && s.rf Reg.PWR_STAT 2 2 = 2

/-- The last of both feeds leaves LOW: within 10 us, outside a declared power-fail, that was a dip carried by HOLD (R497). -/
def State.dipEnds (s : State) : State :=
  match s.sys.bothLow with
  | none => s
  | some t0 =>
    let s1 := s.setSys (fun y => { y with bothLow := none })
    let d := s.now - t0
    if d < 10000 then (s1.count Reg.PWR_CNT 0 16 1).raise 300 (BitVec.ofNat 32 d) else s1

/-- FEED_STATE_CHANGE: VBAT1 or, with `second`, VBAT2 changes state; `v1` and `v2` are the voltages of the feeds, 10 mV (R491, R492,
R497). -/
def execFeedStateChange (t : Nat) (second : Bool) (st : FeedState) (v1 v2 : BitVec 16) (s : State) : Host.Outcome State Fault Refusal :=
  .next (if !supervised s then s
    else
      let s0 := s.atRun t
      let n := b2n second
      let old := s0.rf Reg.PWR_STAT (2 * n) 2
      if old = st.code then s0
      else
        let v := BitVec.setWidth 32 (if second then v2 else v1)
        let both := bothFeedsLow s0
        let s1 := (s0.setFld Reg.PWR_STAT (2 * n) 2 st.code).showSource v1.toNat v2.toNat
        let s2 := if old = 3 then s1.release (298 + n) else s1
        let s3 := if st = .ov then s2.assert (298 + n) v else s2
        let s4 := if st = .crank ∧ (old = 0 ∨ old = 3) then (s3.count Reg.PWR_CNT 16 16 1).raise (296 + n) v else s3
        if bothFeedsLow s4 ∧ ¬ both then s4.setSys (fun y => { y with bothLow := some s4.now })
        else if both then s4.dipEnds else s4)

/-- A power-fail may be declared: both feeds are LOW, for 10 us or with HOLDOK = 0 (R496). In FREEZE and during
entry to SILL the model's time stands still. -/
def powerFailDue (s : State) : Bool :=
  supervised s && bothFeedsLow s &&
    (!s.flag Reg.PWR_STAT 6 || !s.clocked ||
      (match s.sys.bothLow with
       | some t0 => decide (t0 + 10000 ≤ s.now)
       | none => false))

/-- POWER_FAIL: the sequence of R496; `drained` says that HOLD lasted for the drain and the save (R400, R471). The records still in the
queue are written or lost (R425); the spec does not fix how many of them (log entry 2). -/
def execPowerFail (t : Nat) (drained : Bool) (s : State) : Host.Outcome State Fault Refusal :=
  .next (
    let s0 := s.atRun t
    if !powerFailDue s0 then s
    else
      let s1 := s0.setSys (fun y => { y with powerFail := true, saved := false })
      let s2 := (each lswBanks (fun b u => u.openIso b) s1).outputs
      let s3 := each 8 (fun e u => u.setEn e (u.en e).finished) s2
      let n := s3.freeNat % (s3.rcd.queue.length + 1)
      let s4 := drainRecords n s3.spend
      let s5 := { s4 with rcd := { s4.rcd with lostPower := s4.rcd.lostPower + s4.rcd.queue.length, queue := [] } }
      if drained then (s5.drainJournal.sillSave).setSys (fun y => { y with saved := true }) else s5)

/-- A low HOLD is a fault: it has fallen with a feed NORMAL, or it has not been above 30 V and 50 ms have passed since the start of BOOT (R495). -/
def holdFaulty (s : State) : Bool :=
  if s.flag Reg.PWR_STAT 6 then s.rf Reg.PWR_STAT 0 2 = 0 || s.rf Reg.PWR_STAT 2 2 = 0 else decide (s.sys.bootAt + 50000000 ≤ s.now)

/-- HOLD_FAULT: HOLD is not above 30 V 50 ms after the start of BOOT, or has fallen to `v`, 10 mV; HOLDOK falls, and with a feed NORMAL, or where
HOLD never was up, that is a fault (R495). -/
def execHoldFault (t : Nat) (v : BitVec 16) (s : State) : Host.Outcome State Fault Refusal :=
  .next (if !supervised s || decide (3000 < v.toNat) then s
    else
      let s0 := s.atRun t
      let s1 := s0.setFlag Reg.PWR_STAT 6 false
      if holdFaulty s0 then (s1.setFlag Reg.PWR_STAT 10 true).assert 301 (v.setWidth 32) else s1)

/-- HOLD_CHARGED: HOLD is above 30 V (R495). -/
def execHoldCharged (t : Nat) (s : State) : Host.Outcome State Fault Refusal :=
  .next (if !supervised s then s else ((s.atRun t).setFlag Reg.PWR_STAT 6 true).release 301)

/-- The input lands of VIO_G read as low: a fault pin of active-low polarity is active, any other is not (R517). -/
def State.pinsLow (s : State) : State :=
  each 16 (fun n u => if bit (u.rd Reg.PWM_FLTPOL) n then u.pinRelease n else u.pinActive n) s

/-- A rail of `v` 10 mV is out of range: below 1.6 V, between 2.0 V and 3.0 V, or above 3.5 V (R493). -/
def vioBad (v : BitVec 16) : Bool := decide (v.toNat < 160) || (decide (200 < v.toNat) && decide (v.toNat < 300)) || decide (350 < v.toNat)

/-- VIO_FAULT: VIO_H, or with `g` VIO_G, has been out of range for 10 us; every output land on that rail is high-impedance and every input land
reads as low: the fault pins, TRST_N, which resets the test logic, and the others, of which nothing is seen until the rail is back (R493, R517;
DEDUCED, log entry 56). -/
def execVioFault (t : Nat) (g : Bool) (v : BitVec 16) (s : State) : Host.Outcome State Fault Refusal :=
  .next (if !supervised s || !vioBad v then s
    else
      let s0 := if g then { (s.atRun t).pinsLow with jtag := Jtag.reset } else s.atRun t
      let s1 := s0.setSys (fun y => if g then { y with viogFloat := true } else { y with viohFloat := true })
      (s1.setFlag Reg.PWR_STAT (8 + b2n g) true).assert (302 + b2n g) (v.setWidth 32))

/-- VIO_RECOVERY: the rail has been in range for 1 ms (R493). -/
def execVioRecovery (t : Nat) (g : Bool) (s : State) : Host.Outcome State Fault Refusal :=
  .next (if !supervised s then s
    else ((s.atRun t).setSys (fun y => if g then { y with viogFloat := false } else { y with viohFloat := false })).release (302 + b2n g))

/-! ### Temperature points (R499 to R501) -/

/-- The points are sampled in every mode but SILL (R505). -/
def pointsOn (s : State) : Bool := s.sys.mode ≠ .sill && !s.sys.powerFail

/-- A reading lies within -55 C to +200 C, in 0.125 C units (R500). -/
def tempGood (x : BitVec 16) : Bool := decide (-440 ≤ x.toInt) && decide (x.toInt ≤ 1600)

/-- TEMPERATURE_POINT_FAIL: a point reads outside -55 to +200 C or has not been updated for 100 us (R500). -/
def execTemperaturePointFail (t : Nat) (p : PointFail) (s : State) : Host.Outcome State Fault Refusal :=
  .next (if !pointsOn s || pointAbsent s p.point || s.sys.tpBad.contains p.point.val || p.reading.any tempGood then s
    else (((s.atRun t).setSys (fun y => { y with tpBad := insertNat p.point y.tpBad })).setFlag Reg.PWR_STAT 11 true).raiseLater 315
      (BitVec.ofNat 32 p.point))

/-- A point of those sampled, and what is used for it where it has failed (R500). -/
def sampleUsed (temps : List (BitVec 16)) (s : State) (p : Nat) : Int := pointUsedOf (fun q => (temps.getD q 0).toInt) s p

/-- The readings whose mean supervises power die `d`: its valid points, or where it has none what is used for them (R500, R501). The NGK-4806-GA
has no die 1 (R499). -/
def dieReadings (temps : List (BitVec 16)) (s : State) (d : Nat) : List Int :=
  let all := (List.range 128).filter (fun p => decide (dieOf p = d + 1) && !pointAbsent s p)
  let good := all.filter (fun p => !s.sys.tpBad.contains p)
  (if good.isEmpty then all else good).map (sampleUsed temps s)

/-- The threshold of source 312 + k: TWARN, or 150 °C for the fixed limit of the control die (R501). -/
def tempLimit (s : State) (k : Nat) : Int := if k = 1 then 1200 else s.rf Reg.PWR_TCFG 0 16

/-- The mean of a power die's readings lies above a limit, and 4 °C or more below it. -/
def dieAbove (temps : List (BitVec 16)) (s : State) (d : Nat) (limit : Int) : Bool :=
  decide (limit * (dieReadings temps s d).length < (dieReadings temps s d).sum)
def dieBelow (temps : List (BitVec 16)) (s : State) (d : Nat) (limit : Int) : Bool :=
  decide ((dieReadings temps s d).sum ≤ (limit - 32) * (dieReadings temps s d).length)

/-- The first point of the control die above a limit; the spec names none of several (DESIGN CHOICE, log entry 105). -/
def pointAbove (temps : List (BitVec 16)) (s : State) (limit : Int) : Option Nat :=
  (List.range 8).find? (fun p => decide (limit < sampleUsed temps s p))

/-- TEMPERATURE_WARNING: a point of the control die, or the mean of the valid points of power die `d`, is sampled above TWARN; `d` is none for the
control die (R501). -/
def execTemperatureWarning (t : Nat) (d : Option (Fin 3)) (x : List (BitVec 16)) (s : State) : Host.Outcome State Fault Refusal :=
  .next (if !pointsOn s then s
    else match d with
      | none => (match pointAbove x s (tempLimit s 0) with
        | some p => (s.atRun t).assert 312 (BitVec.ofNat 32 p)
        | none => s)
      | some k => if dieAbove x s k (tempLimit s 0) then (s.atRun t).assert 314 (BitVec.ofNat 32 k) else s)

/-- CONTROL_DIE_OVERTEMP: a point of the control die has stood above 150 C for 1 ms (R501). -/
def execControlDieOvertemp (t : Nat) (x : List (BitVec 16)) (s : State) : Host.Outcome State Fault Refusal :=
  .next (match pointsOn s, pointAbove x s (tempLimit s 1) with
    | true, some p => (s.atRun t).assert 313 (BitVec.ofNat 32 p)
    | _, _ => s)

/-- Everything that source 312 + k supervises is 4 °C or more below its threshold (R501). -/
def tempCool (temps : List (BitVec 16)) (s : State) (k : Nat) : Bool :=
  if k = 2 then (List.range 3).all (fun d => dieBelow temps s d (tempLimit s 2))
  else (List.range 8).all (fun p => decide (sampleUsed temps s p + 32 ≤ tempLimit s k))

/-- TEMPERATURE_RELEASE: source 312, 313 or 314 is released 4 °C below its threshold (R501). -/
def execTemperatureRelease (t : Nat) (x : Samples (Fin 3)) (s : State) : Host.Outcome State Fault Refusal :=
  .next (if pointsOn s && tempCool x.temps s x.val then (s.atRun t).release (312 + x.val) else s)

/-! ### What the output cutoff latches (R499, R504) -/

/-- Points, feed voltages and HOLD voltage are latched; a failed point that reads correctly again is good. A point that is not updated, none among
`temps`, keeps its last reading, and stays failed where it is (R500). -/
def State.latchSupplies (s : State) (temps : List (Option (BitVec 16))) (v1 v2 hold : BitVec 16) : State :=
  let pts := (List.range 128).map (fun p => if pointAbsent s p then 0 else (temps.getD p none).getD (BitVec.ofInt 16 (pointNow s p)))
  let s1 := each 64 (fun k u => u.wr (Reg.TMP_PT k) ((pts.getD (2 * k + 1) 0) ++ (pts.getD (2 * k) 0))) s
  let valid := (List.range 128).filterMap (fun p => if pointAbsent s p then none else some (p, pts.getD p 0))
  let m := valid.foldl (fun b x => if b.2.toInt < x.2.toInt then x else b) (valid.headD (0, 0))
  let s2 := s1.wr Reg.TMP_MAX (BitVec.ofNat 32 (m.1 * 2 ^ 16 + m.2.toNat))
  let s3 := s2.setSys (fun y => { y with tpBad := y.tpBad.filter (fun p => !(temps.getD p none).any tempGood) })
  ((s3.wr Reg.PWR_VBAT (v2 ++ v1)).wr Reg.PWR_HOLD (hold.setWidth 32)).showSource v1.toNat v2.toNat

end Sys2Proof.Machine
end

