-- ==== Sys2Proof/Machine/Frame.lean ====
section
/-! DEFINITION. The steps of the frame (R19 to R28, R358): output cutoff, exchange deadline, boundary and snapshot flip. -/
namespace Sys2Proof.Machine

/-! ### The output cutoff (R19, R519) -/

/-- The staged output words of R519 in ascending host address, each with the value in its shadow, without the channels that the variant lacks
(R4). -/
def shadowWords (s : State) : List (Nat × Word) :=
  ((List.range lswChannels).filter (fun c => !chAbsent s c)).map (fun c => (Reg.CH_CMD c, ((s.lch c).wait).getD (s.rd (Reg.CH_CMD c))))
  ++ (List.range 192).flatMap (fun c =>
    let x := s.pch c
    [(Reg.PWM_DUTY c, x.shDuty), (Reg.PWM_PER c, x.shPer), (Reg.PWM_CMPA c, x.shA), (Reg.PWM_CMPB c, x.shB)])
  ++ (List.range 16).flatMap (fun a =>
    [Reg.AX_VMAX a, Reg.AX_AMAX a, Reg.AX_DMAX a, Reg.AX_JMAX a, Reg.AX_TGT_LO a, Reg.AX_TGT_HI a, Reg.AX_SETP a].map (fun r => (r, s.motSh r))
    ++ [(Reg.AX_PSET_LO a, 0), (Reg.AX_PSET_HI a, 0)])
  ++ [(Reg.MOT_START, 0)]

/-- The output digest: each word with the value it will enter its shadow with. -/
def outputDigest (s : State) : Word := wordsCrc ((shadowWords s).map (fun x => (x.1, stagedOr s x.1 x.2)))

/-- OUTPUT_CUTOFF, 6,000 ns before the boundary: staged outputs and commits close, the digest is formed, the mode is decided (R462), and the
temperature points, currents, feed voltages and the HOLD voltage are latched (R110, R499, R504). -/
def execOutputCutoff (temps : List (Option (BitVec 16))) (v1 v2 hold : BitVec 16) (s : State) : Host.Outcome State Fault Refusal :=
  .next (if !s.clocked then s
    else
      let s1 := (s.at (s.period - 6000)).latchSupplies temps v1 v2 hold
      let s2 := { s1 with closed := true, tru := { s1.tru with digest := outputDigest s1 } }
      s2.formExchange.schedLatch.decideMode)

/-! ### The exchange deadline (R24 to R27, R114, R386) -/

/-- The twin's record is the form that the coming frame computes on: the exchange was complete, and the twin leads (R385; in probation the
replacement computes on the lead's record, R392). -/
def usesTwin (s : State) : Bool := s.tru.agreedNext && !s.isLead && (!s.solo || inProbation s)

/-- The input record of the present frame in the form that the coming frame computes on (R26, R385). -/
def agreedItems (s : State) : List RecItem := if usesTwin s then s.tru.twinRec else s.inrec.cur

/-- The number of an item's kind in the bytes of a record. -/
def RecKind.code : RecKind → Nat
  | .gauge => 0 | .mark => 1 | .adc => 2 | .epoch => 3 | .symbol => 4 | .can => 5 | .feedback => 6 | .sincos => 7 | .current => 8
  | .din => 9 | .imu => 10 | .axis => 11 | .modeRequest => 12 | .txnWrite => 13

/-- The record is placed in frame memory with its tags (R19, R35); its layout is open (log entry 7). -/
def State.placeRecord (s : State) (items : List RecItem) : State :=
  let ofs := recordAddr (s.frame.toNat + 1) - 0x20000000
  s.fmemPut ofs ((wordsOf (Config.recordBytes (items.map (fun i => (i.kind.code, i.data))))).take ((0x400000 - ofs) / 4))

/-- The host writes that the lead's record carries reach their blocks as commands of the twin owner, in record order (R386, R468). -/
def State.recordWrites (s : State) (items : List RecItem) : State :=
  eachOf items (fun i t =>
    match i.kind, i.data with
    | .txnWrite, [a, v, d] => t.arrive ⟨.twin, 0, a, BitVec.ofNat 32 v, BitVec.ofNat 32 d, .idle, 0⟩ (tagOf (BitVec.ofNat 32 v))
    | .modeRequest, [v] => t.modeRequest (BitVec.ofNat 32 v) 3
    | _, _ => t) s

/-- EXCHANGE_DEADLINE, 1,000 ns before the boundary: the window tests of a pair; lateness, comparison and agreement; the admitted slices;
the placing of the record and the commands it carries. -/
def execExchangeDeadline (s : State) : Host.Outcome State Fault Refusal :=
  .next (if !s.clocked then s
    else
      let s0 := s.at (s.period - 1000)
      let s1 := (s0.pairWindows ((twinHealth s0.tru.blocks).any (·.1))).trussDeadline
      let s2 := s1.schedDecide (comingMode s1)
      let items := agreedItems s2
      (s2.placeRecord items).recordWrites items)

/-! ### The boundary (R19) -/

/-- Step (1), the frame number, the input records and Scribe's counts of the frame that begins (R161, R164): what the device forms at the
steps of this boundary belongs to it; a device that joins the lead takes the lead's, and its pending commit stays due at this boundary (R17,
R384). -/
def State.nextFrame (s : State) : State :=
  let n := s.tru.joinAt.getD (s.frame + 1)
  let due := (BitVec.ofNat 48 s.txn.applyAt + n - (s.frame + 1)).toNat
  { s with frame := n, base := s.base + s.period, edge := 0, closed := false,
           inrec := { prev := s.inrec.cur, cur := s.inrec.next, next := s.inrec.after, after := [] },
           lsw := { s.lsw with entered := [] }, jrn := { s.jrn with told := [] },
           scr := { s.scr with started := [], done := [], bounds := [], accepted := 0 },
           txn := { s.txn with applyAt := if s.txn.state = .pending ∨ s.txn.state = .checking then due else s.txn.applyAt } }

/-- A staged word enters its block's shadow (R21): switch commands take effect now or at the EDGE offset they carry, and one whose
offset lies at or above a frame period that was shortened since it reached the block is discarded with CMD_BAD, the previous command staying
(R226). The command before one that takes effect now is kept for R15. -/
def State.enterStaged (s : State) (a : Nat) (v : Word) : State :=
  if a < 0x040000 then
    let c := (a - 0x031004) / 0x10
    if s.period ≤ fld v 0 20 then s.chFlag c 14
    else if fld v 0 20 = 0 then
      (({ s with lsw := { s.lsw with entered := (c, s.rd a) :: s.lsw.entered } }).wr a v).setLch c { s.lch c with wait := none }
    else s.setLch c { s.lch c with wait := some v }
  else if a < 0x050000 then s.enterPwm ((a - 0x041000) / 0x20) (a % 0x20 / 4) v
  else s.enterMotion a v

/-- Step (3): the staged bank transfers, unless a follower holds its outputs (R28, R388); ended reactions, cleared banks and shed classes take
effect; every output takes its state; the servo boundaries (R258); the outlets' states (R150); the frame-start sync events (R220). A bank that a holding
follower does not transfer is dropped (DESIGN CHOICE, log entry 92). -/
def State.transferOutputs (s : State) : State :=
  let bank := if s.tru.hold then [] else s.stNext
  let s1 := { s with stNext := s.stAfter, stAfter := [], tru := { s.tru with hold := false } }
  let s2 := eachOf bank (fun x t => t.enterStaged x.1 x.2) s1
  let s3 := s2.reactionEnds.releaseBanks.schedBoundary
  (each 16 (fun a t => t.axisSync a) s3).outputs.servoAll.scribeBoundary.frameSyncs

/-- Step (4): the watchdog of every bank; an expiry raises its fault with MISS (R244, R245). -/
def State.watchdogAll (s : State) : State :=
  each lswBanks (fun b t =>
    let r := t.watchdog b
    match r.2 with
    | some miss => r.1.raise (188 + b) (BitVec.ofNat 32 miss)
    | none => r.1) s

/-- Step (5): the input record of the frame takes the values of the frame-start latch (R170, R232, R280, R312, R330). -/
def State.latchInputs (s : State) (imu : ImuSample) : State :=
  let chans := (List.range lswChannels).map (fun c => RecItem.mk .current [c, s.rf (Reg.CH_MEAS c) 16 16, s.rf (Reg.CH_MEAS c) 0 16])
  let s2 := eachOf (motionItems s ++ chans ++ [RecItem.mk .din [s.lsw.din.toNat]]) (fun i t => t.recordCur i) s
  (s2.imuLatch imu).busLatch.adcFrameStart

/-- FRAME_BOUNDARY: the steps of R19 in their order, with the changes of mode and of the pair at step (1) (R391, R462), and what begins with a
frame. The admitted slices begin by SLICE_START. -/
def execFrameBoundary (m : FrameSample) (s : State) : Host.Outcome State Fault Refusal :=
  .next (if !s.clocked then s
    else
      let items := agreedItems s
      let s0 := s.nextFrame
      let s1 := (s0.iff (decide (comingMode s0 = .sill)) (fun u => u.busNow m.bus)).modeBoundary
      if s1.sys.mode = .sill then s1
      else
        let s2 := (s1.busNow m.bus).takeWaiting.trussBoundary.journalAnswers
        let s3 := s2.txnApply.spanNow.rehashDone.gBurstSync
        let s4 := { s3 with tru := { s3.tru with config := s3.regs } }
        let s5 := (s4.scribeItems items).transferOutputs.pagesBoundary
        let s6 := ((s5.gnssLatch m).capture.watchdogAll.latchInputs m.imu).injReady
        if s6.jrn.cutShort then ({ s6 with jrn := { s6.jrn with cutShort := false } }).raise 295 0 else s6)

/-! ### The snapshot flip (R358, R362, R364 to R367) -/

/-- A register word that fails its check at the refresh: its address, its value and its tag as they were found. It keeps its previous image
value: a word of the snapshot class that of the flip before, one of the live class what the image showed of it at the last flip, until it
changes again (log entry 84), and one that never changes its value. -/
def State.staleWord (s : State) (old : SMap Word) (x : Nat × Word × Byte) : State :=
  let s1 := if isSnap x.1 then { s with image := Regs.set s.image x.1 (Regs.get old x.1) }
    else if isIdentity x.1 then s
    else { s with hp := { s.hp with stuck := (x.1, s.view x.1, Regs.get s.hp.seen x.1) :: s.hp.stuck.filter (fun y => decide (y.1 ≠ x.1)) } }
  let s2 := if s1.flag Reg.HP_STAT 5 then s1 else s1.wr Reg.HP_RSTALEA (BitVec.ofNat 32 x.1)
  (s2.hpErr 5).raiseDowel 45 (BitVec.ofNat 32 x.1) x.2.1 x.2.2 (BitVec.ofNat 32 x.1)

/-- SNAPSHOT_FLIP, 100 ns after the boundary: the image shows the captured values, and the renewed pages. `bad` holds the words that failed
at their refresh: those of the snapshot class at this flip, and those of the live class since the flip before. -/
def execSnapshotFlip (bad : List (Nat × Word × Byte)) (s : State) : Host.Outcome State Fault Refusal :=
  .next (if !s.clocked then s
    else
      let s0 := (s.at 100).flipImage
      let s1 := { s0 with hp := { s0.hp with stuck := s0.hp.stuck.filter (fun x => decide (s0.view x.1 = x.2.1)) } }
      let fails := bad.filter (fun x => (Reg.row? x.1).isSome && decide (x.2.2 ≠ tagOf x.2.1))
      let s2 := eachOf fails (fun x t => t.staleWord s.image x) s1
      ({ s2 with hp := { s2.hp with rcDone := [], seen := liveImage s2 } }).flipPages.irq 0)

end Sys2Proof.Machine
end

