-- ==== Sys2Proof/Machine/TestPort.lean ====
section
/-! DEFINITION. The test port (R484, R485). Each command is one instruction loaded and one scan of its data register. -/
namespace Sys2Proof.Machine

def State.setJtag (s : State) (f : Jtag → Jtag) : State := { s with jtag := f s.jtag }

/-- The test port works: not in SILL, where its die is off and TDO high-impedance, and not with VIO_G out of range, where TRST_N reads as low
(R470, R493, R515, R517). -/
def testOn (s : State) : Bool := s.sys.mode ≠ .sill && !s.sys.viogFloat

/-- The code of an instruction is loaded, and the instruction acts. -/
def State.loadIr (s : State) (i : TestInstr) (f : State → State) : State :=
  if testOn s then f (s.setJtag (fun j => { j with ir := i.code, acts := i })) else s

/-- The instruction loaded acts as BYPASS. -/
def State.bypass (s : State) : State := s.setJtag (fun j => { j with acts := .bypass, out := 0 })

/-- An instruction that needs the DEBUG grant; without it, it acts as BYPASS and raises the locked-access source (R453, R484). -/
def State.debugOnly (s : State) (i : TestInstr) (f : State → State) : State :=
  s.loadIr i (fun u => if debugGranted u then f u else u.bypass.lockHit 1)

/-- EXTEST: in SERVICE or FREEZE the cells drive the digital lands; in other modes it acts as BYPASS. -/
def execExtest (captured cells : List Bool) (s : State) : Host.Outcome State Fault Refusal :=
  .next (s.loadIr .extest fun u =>
    if u.sys.mode = .service ∨ u.sys.mode = .freeze then u.setJtag (fun j => { j with captured := captured, cells := cells }) else u.bypass)

/-- IDCODE: DIEREV bits 3:0, PART, the manufacturer identity and 1. -/
def idcode (s : State) : Word := BitVec.ofNat 4 (fld (s.view Reg.SYS_ID) 8 8) ++ BitVec.ofNat 16 (fld (s.view Reg.SYS_ID) 16 16) ++ Config.maker ++ 1#1

def execIdcode (s : State) : Host.Outcome State Fault Refusal :=
  .next (s.loadIr .idcode fun u => u.setJtag (fun j => { j with out := (idcode u).setWidth 40 }))

/-- SAMPLE/PRELOAD: captures the lands and loads the cells, without driving them. -/
def execSamplePreload (captured cells : List Bool) (s : State) : Host.Outcome State Fault Refusal :=
  .next (s.loadIr .samplePreload fun u => u.setJtag (fun j => { j with captured := captured, cells := cells }))

/-- BYPASS, of code 0xFF or any that names no other instruction (R484). -/
def execBypass (s : State) : Host.Outcome State Fault Refusal := .next (s.loadIr .bypass State.bypass)

/-- FRZ_ENTER enters a debug freeze (R482). -/
def execFrzEnter (t : Nat) (s : State) : Host.Outcome State Fault Refusal :=
  .next (s.debugOnly .frzEnter fun u => (u.atRun t).freezeBy 13)

/-- FRZ_RESUME ends a debug freeze (R483). -/
def execFrzResume (s : State) : Host.Outcome State Fault Refusal :=
  .next (s.debugOnly .frzResume fun u => (u.setSys (fun y => { y with frzDbg := false })).resume)

/-- DBG_SEL: bits 35:32 select the area, bits 31:0 the address. -/
def execDbgSel (v : BitVec 36) (s : State) : Host.Outcome State Fault Refusal :=
  .next (s.debugOnly .dbgSel fun u => u.setJtag (fun j => { j with sel := v }))

/-- What an index of area 2 names, with the tag of a tagged register; none for an index beyond the table (R485). -/
def dbgIndex (s : State) (e i : Nat) : Option (Word × Option Byte) :=
  let x := s.en e
  let tagged (w : TW) : Option (Word × Option Byte) := some (w.1, some w.2)
  let plain (w : Word) : Option (Word × Option Byte) := some (w, none)
  let runs := x.state = .run || x.state = .halted
  if i < 32 then tagged (x.rf.gv i)
  else if i < 160 then tagged (x.rf.lane ((i - 32) / 8) ((i - 32) % 8))
  else if i < 168 then plain (b2w (x.rf.pv (i - 160)))
  else if i = 168 then plain (if runs then s.frame.setWidth 32 else 0)
  else if i = 169 then plain (if runs then BitVec.ofNat 32 (s.frame.toNat / 2 ^ 32) else 0)
  else if i = 170 then plain x.slice
  else if i = 171 then plain (BitVec.ofNat 32 (x.budget - x.cyc))
  else if i = 172 then plain (BitVec.ofNat 32 x.pc)
  else none

/-- What a selection names: the word, and its tag where it has one; none where it names nothing (R485). -/
def dbgWord (s : State) (area a : Nat) : Option (Word × Option Byte) :=
  let tagged (w : TW) : Option (Word × Option Byte) := some (w.1, some w.2)
  let e := a / 2 ^ 29
  match area with
  | 0 =>
    if a % 4 ≠ 0 then none
    else if a < 0x20000 then tagged (taggedWord (s.en 0).dmem (s.en 0).dmemTag a)
    else if 0x20000000 ≤ a ∧ a < 0x20400000 then tagged (taggedWord s.fmem s.fmemTag (a - 0x20000000))
    else if 0x40010000 ≤ a ∧ a < 0x40100000 then tagged (newTW (s.view (a - 0x40000000)))
    else none
  | 1 => if a % 4 ≠ 0 then none else tagged (taggedWord (s.en e).dmem (s.en e).dmemTag (a % 2 ^ 17))
  | 2 => dbgIndex s e (a % 2 ^ 8)
  | _ => none

/-- DBG_READ: data only in FREEZE, 0 otherwise. The value of a selection that names nothing, and the tag of a register that has none, are not
stated (log entry 2). The selection then advances by 4, or by 1 in area 2. -/
def execDbgRead (s : State) : Host.Outcome State Fault Refusal :=
  .next (s.debugOnly .dbgRead fun u =>
    let area := u.jtag.sel.toNat / 2 ^ 32
    let a := u.jtag.sel.toNat % 2 ^ 32
    let out : BitVec 40 := if u.sys.mode = .freeze then
        (match dbgWord u area a with
         | some (w, some g) => g ++ w
         | some (w, none) => BitVec.ofNat 8 u.freeNat ++ w
         | none => BitVec.ofNat 40 u.freeNat)
      else 0
    let next := (a + if area = 2 then 1 else 4) % 2 ^ 32
    u.spend.setJtag (fun j => { j with out := out, sel := BitVec.ofNat 36 (area * 2 ^ 32 + next) }))

/-- TEST_LOGIC_RESET: TRST_N, or five cycles of TMS, loads IDCODE; the test logic only is reset. -/
def execTestLogicReset (s : State) : Host.Outcome State Fault Refusal := .next (s.setJtag (fun j => { j with ir := TestInstr.idcode.code, acts := .idcode }))

end Sys2Proof.Machine
end

