-- ==== Sys2Proof/Machine/Dispatch.lean ====
section
/-! DEFINITION. What each command does: one arm for each constructor of Instr, each one call of its meaning. -/
namespace Sys2Proof.Machine

def exec (i : Instr) (s : State) : Host.Outcome State Fault Refusal :=
  match i with
  | .outputCutoff temps v1 v2 hold => Sys2Proof.Machine.execOutputCutoff temps v1 v2 hold s
  | .exchangeDeadline => Sys2Proof.Machine.execExchangeDeadline s
  | .frameBoundary m => Sys2Proof.Machine.execFrameBoundary m s
  | .sillEntryComplete => Sys2Proof.Machine.execSillEntryComplete s
  | .snapshotFlip bad => Sys2Proof.Machine.execSnapshotFlip bad s
  | .sliceStart e => Sys2Proof.Machine.execSliceStart e s
  | .budgetExhausted e => Sys2Proof.Machine.execBudgetExhausted e s
  | .nop e h f => Sys2Proof.Machine.execNop e h f s
  | .br e h f => Sys2Proof.Machine.execBr e h f s
  | .call e h f => Sys2Proof.Machine.execCall e h f s
  | .ret e h f => Sys2Proof.Machine.execRet e h f s
  | .loop e h f => Sys2Proof.Machine.execLoop e h f s
  | .jt e h f => Sys2Proof.Machine.execJt e h f s
  | .end_ e h f => Sys2Proof.Machine.execEnd e h f s
  | .add e h f => Sys2Proof.Machine.execAdd e h f s
  | .sub e h f => Sys2Proof.Machine.execSub e h f s
  | .adds e h f => Sys2Proof.Machine.execAdds e h f s
  | .subs e h f => Sys2Proof.Machine.execSubs e h f s
  | .mul e h f => Sys2Proof.Machine.execMul e h f s
  | .mulhu e h f => Sys2Proof.Machine.execMulhu e h f s
  | .mulhs e h f => Sys2Proof.Machine.execMulhs e h f s
  | .mac e h f => Sys2Proof.Machine.execMac e h f s
  | .min e h f => Sys2Proof.Machine.execMin e h f s
  | .max e h f => Sys2Proof.Machine.execMax e h f s
  | .minu e h f => Sys2Proof.Machine.execMinu e h f s
  | .maxu e h f => Sys2Proof.Machine.execMaxu e h f s
  | .abs e h f => Sys2Proof.Machine.execAbs e h f s
  | .neg e h f => Sys2Proof.Machine.execNeg e h f s
  | .div e h f => Sys2Proof.Machine.execDiv e h f s
  | .divu e h f => Sys2Proof.Machine.execDivu e h f s
  | .addi e h f => Sys2Proof.Machine.execAddi e h f s
  | .muli e h f => Sys2Proof.Machine.execMuli e h f s
  | .movi e h f => Sys2Proof.Machine.execMovi e h f s
  | .mini e h f => Sys2Proof.Machine.execMini e h f s
  | .maxi e h f => Sys2Proof.Machine.execMaxi e h f s
  | .andi e h f => Sys2Proof.Machine.execAndi e h f s
  | .ori e h f => Sys2Proof.Machine.execOri e h f s
  | .xori e h f => Sys2Proof.Machine.execXori e h f s
  | .shli e h f => Sys2Proof.Machine.execShli e h f s
  | .shri e h f => Sys2Proof.Machine.execShri e h f s
  | .sari e h f => Sys2Proof.Machine.execSari e h f s
  | .cmpi e h f => Sys2Proof.Machine.execCmpi e h f s
  | .ext e h f => Sys2Proof.Machine.execExt e h f s
  | .ins e h f => Sys2Proof.Machine.execIns e h f s
  | .sats e h f => Sys2Proof.Machine.execSats e h f s
  | .satu e h f => Sys2Proof.Machine.execSatu e h f s
  | .and e h f => Sys2Proof.Machine.execAnd e h f s
  | .or e h f => Sys2Proof.Machine.execOr e h f s
  | .xor e h f => Sys2Proof.Machine.execXor e h f s
  | .andn e h f => Sys2Proof.Machine.execAndn e h f s
  | .not e h f => Sys2Proof.Machine.execNot e h f s
  | .shl e h f => Sys2Proof.Machine.execShl e h f s
  | .shr e h f => Sys2Proof.Machine.execShr e h f s
  | .sar e h f => Sys2Proof.Machine.execSar e h f s
  | .rol e h f => Sys2Proof.Machine.execRol e h f s
  | .clz e h f => Sys2Proof.Machine.execClz e h f s
  | .popc e h f => Sys2Proof.Machine.execPopc e h f s
  | .cmp e h f => Sys2Proof.Machine.execCmp e h f s
  | .pand e h f => Sys2Proof.Machine.execPand e h f s
  | .por e h f => Sys2Proof.Machine.execPor e h f s
  | .pxor e h f => Sys2Proof.Machine.execPxor e h f s
  | .mov e h f => Sys2Proof.Machine.execMov e h f s
  | .sel e h f => Sys2Proof.Machine.execSel e h f s
  | .mfs e h f => Sys2Proof.Machine.execMfs e h f s
  | .movv e h f => Sys2Proof.Machine.execMovv e h f s
  | .movg e h f => Sys2Proof.Machine.execMovg e h f s
  | .ptog e h f => Sys2Proof.Machine.execPtog e h f s
  | .ld e h f => Sys2Proof.Machine.execLd e h f s
  | .st e h f => Sys2Proof.Machine.execSt e h f s
  | .ldv e h f => Sys2Proof.Machine.execLdv e h f s
  | .stv e h f => Sys2Proof.Machine.execStv e h f s
  | .blockStoreArrival t e ph ago => Sys2Proof.Machine.execBlockStoreArrival t e ph ago s
  | .lut e h f => Sys2Proof.Machine.execLut e h f s
  | .luti e h f => Sys2Proof.Machine.execLuti e h f s
  | .vadd e h f => Sys2Proof.Machine.execVadd e h f s
  | .vsub e h f => Sys2Proof.Machine.execVsub e h f s
  | .vadds e h f => Sys2Proof.Machine.execVadds e h f s
  | .vmul e h f => Sys2Proof.Machine.execVmul e h f s
  | .vmac e h f => Sys2Proof.Machine.execVmac e h f s
  | .vmin e h f => Sys2Proof.Machine.execVmin e h f s
  | .vmax e h f => Sys2Proof.Machine.execVmax e h f s
  | .vspl e h f => Sys2Proof.Machine.execVspl e h f s
  | .vsum e h f => Sys2Proof.Machine.execVsum e h f s
  | .vand e h f => Sys2Proof.Machine.execVand e h f s
  | .vor e h f => Sys2Proof.Machine.execVor e h f s
  | .vxor e h f => Sys2Proof.Machine.execVxor e h f s
  | .vshl e h f => Sys2Proof.Machine.execVshl e h f s
  | .vshr e h f => Sys2Proof.Machine.execVshr e h f s
  | .vsar e h f => Sys2Proof.Machine.execVsar e h f s
  | .vsats e h f => Sys2Proof.Machine.execVsats e h f s
  | .vcmp e h f => Sys2Proof.Machine.execVcmp e h f s
  | .vsel e h f => Sys2Proof.Machine.execVsel e h f s
  | .time e h f => Sys2Proof.Machine.execTime e h f s
  | .inrec e h f => Sys2Proof.Machine.execInrec e h f s
  | .token e h f => Sys2Proof.Machine.execToken e h f s
  | .fence e h f => Sys2Proof.Machine.execFence e h f s
  | .spose e h f => Sys2Proof.Machine.execSpose e h f s
  | .sqry e h f => Sys2Proof.Machine.execSqry e h f s
  | .scribeQueryComplete t ticket => Sys2Proof.Machine.execScribeQueryComplete t ticket s
  | .scribeQueryTimeout t ticket => Sys2Proof.Machine.execScribeQueryTimeout t ticket s
  | .swait e h f => Sys2Proof.Machine.execSwait e h f s
  | .smark e h f => Sys2Proof.Machine.execSmark e h f s
  | .tbegin e h f => Sys2Proof.Machine.execTbegin e h f s
  | .tcommit e h f => Sys2Proof.Machine.execTcommit e h f s
  | .troll e h f => Sys2Proof.Machine.execTroll e h f s
  | .jput e h f => Sys2Proof.Machine.execJput e h f s
  | .jsync e h f => Sys2Proof.Machine.execJsync e h f s
  | .jsyncTimeout t e => Sys2Proof.Machine.execJsyncTimeout t e s
  | .chk e h f => Sys2Proof.Machine.execChk e h f s
  | .fault e h f => Sys2Proof.Machine.execFault e h f s
  | .bkpt e h f => Sys2Proof.Machine.execBkpt e h f s
  | .beRst t => Sys2Proof.Machine.execBeRst t s
  | .rehashComplete e => Sys2Proof.Machine.execRehashComplete e s
  | .verify t => Sys2Proof.Machine.execVerify t s
  | .verifyComplete => Sys2Proof.Machine.execVerifyComplete s
  | .begin t => Sys2Proof.Machine.execBegin t s
  | .commit t => Sys2Proof.Machine.execCommit t s
  | .rollback t => Sys2Proof.Machine.execRollback t s
  | .commitCheckComplete t => Sys2Proof.Machine.execCommitCheckComplete t s
  | .txRegisterWrite t => Sys2Proof.Machine.execTxRegisterWrite t s
  | .transactionTimeout => Sys2Proof.Machine.execTransactionTimeout s
  | .schedCtrlRestart t => Sys2Proof.Machine.execSchedCtrlRestart t s
  | .gaugeMeasurement t c samples => Sys2Proof.Machine.execGaugeMeasurement t c samples s
  | .gaugeMiss t c samples => Sys2Proof.Machine.execGaugeMiss t c samples s
  | .adcTrigger t trg => Sys2Proof.Machine.execAdcTrigger t trg s
  | .adcSwtrg t => Sys2Proof.Machine.execAdcSwtrg t s
  | .adcConversionComplete t b codes => Sys2Proof.Machine.execAdcConversionComplete t b codes s
  | .adcReferenceCheck t b code => Sys2Proof.Machine.execAdcReferenceCheck t b code s
  | .adcShuntOpen t k => Sys2Proof.Machine.execAdcShuntOpen t k s
  | .adcShunt t => Sys2Proof.Machine.execAdcShunt t s
  | .periodBoundary t c => Sys2Proof.Machine.execPeriodBoundary t c s
  | .compareMatch t c b => Sys2Proof.Machine.execCompareMatch t c b s
  | .syncEvent t u => Sys2Proof.Machine.execSyncEvent t u s
  | .syncinEdge t k => Sys2Proof.Machine.execSyncinEdge t k s
  | .deadTimeWaitEnd c tout => Sys2Proof.Machine.execDeadTimeWaitEnd c tout s
  | .faultPin t n => Sys2Proof.Machine.execFaultPin t n s
  | .flatchClear t => Sys2Proof.Machine.execFlatchClear t s
  | .unitEnable t => Sys2Proof.Machine.execUnitEnable t s
  | .unitDisable t => Sys2Proof.Machine.execUnitDisable t s
  | .channelCommandEffect c => Sys2Proof.Machine.execChannelCommandEffect c s
  | .dinEdge t n level => Sys2Proof.Machine.execDinEdge t n level s
  | .frameValueSample chs banks => Sys2Proof.Machine.execFrameValueSample chs banks s
  | .offStateDetection t c above => Sys2Proof.Machine.execOffStateDetection t c above s
  | .currentLimitTimeout t c => Sys2Proof.Machine.execCurrentLimitTimeout t c s
  | .thermalShutdown t c => Sys2Proof.Machine.execThermalShutdown t c s
  | .tlatchRelease t c => Sys2Proof.Machine.execTlatchRelease t c s
  | .retryTimerExpiry t c => Sys2Proof.Machine.execRetryTimerExpiry t c s
  | .stableOnExpiry c => Sys2Proof.Machine.execStableOnExpiry c s
  | .lockClear t => Sys2Proof.Machine.execLockClear t s
  | .isolatorCloseComplete t b => Sys2Proof.Machine.execIsolatorCloseComplete t b s
  | .isolatorFault t b disagree => Sys2Proof.Machine.execIsolatorFault t b disagree s
  | .bankSupplyStateChange t b st => Sys2Proof.Machine.execBankSupplyStateChange t b st s
  | .lswWdtok t => Sys2Proof.Machine.execLswWdtok t s
  | .wdexpClear t => Sys2Proof.Machine.execWdexpClear t s
  | .setpointTimeout a => Sys2Proof.Machine.execSetpointTimeout a s
  | .stopControlled t => Sys2Proof.Machine.execStopControlled t s
  | .stopImmediate t => Sys2Proof.Machine.execStopImmediate t s
  | .stallDetected t a => Sys2Proof.Machine.execStallDetected t a s
  | .referenceLatch t a => Sys2Proof.Machine.execReferenceLatch t a s
  | .portFault t p flags => Sys2Proof.Machine.execPortFault t p flags s
  | .feedbackEdge t n a b z => Sys2Proof.Machine.execFeedbackEdge t n a b z s
  | .indexPulse t n => Sys2Proof.Machine.execIndexPulse t n s
  | .periodStale n => Sys2Proof.Machine.execPeriodStale n s
  | .frequencyGateEnd n => Sys2Proof.Machine.execFrequencyGateEnd n s
  | .sincosAmplitudeFault t p => Sys2Proof.Machine.execSincosAmplitudeFault t p s
  | .antennaBiasShort t a => Sys2Proof.Machine.execAntennaBiasShort t a s
  | .biasRetry a => Sys2Proof.Machine.execBiasRetry a s
  | .antennaOpen t a below => Sys2Proof.Machine.execAntennaOpen t a below s
  | .signalFound x => Sys2Proof.Machine.execSignalFound x s
  | .codeCarrierLock t x => Sys2Proof.Machine.execCodeCarrierLock t x s
  | .pullinTimeout n => Sys2Proof.Machine.execPullinTimeout n s
  | .signalLoss n => Sys2Proof.Machine.execSignalLoss n s
  | .reacqTimeout n => Sys2Proof.Machine.execReacqTimeout n s
  | .epoch t ms cn0 => Sys2Proof.Machine.execEpoch t ms cn0 s
  | .epochRecordComplete t => Sys2Proof.Machine.execEpochRecordComplete t s
  | .symbolWord t n back symbols => Sys2Proof.Machine.execSymbolWord t n back symbols s
  | .burstStart => Sys2Proof.Machine.execBurstStart s
  | .burstEnd => Sys2Proof.Machine.execBurstEnd s
  | .gnsSteerFr t => Sys2Proof.Machine.execGnsSteerFr t s
  | .gnsSteerPh t => Sys2Proof.Machine.execGnsSteerPh t s
  | .gnsSteerStep t => Sys2Proof.Machine.execGnsSteerStep t s
  | .pendingStepApply t => Sys2Proof.Machine.execPendingStepApply t s
  | .slewComplete t => Sys2Proof.Machine.execSlewComplete t s
  | .gnsTsetS t => Sys2Proof.Machine.execGnsTsetS t s
  | .holdtoExpiry t => Sys2Proof.Machine.execHoldtoExpiry t s
  | .uncOver t => Sys2Proof.Machine.execUncOver t s
  | .tpulse t => Sys2Proof.Machine.execTpulse t s
  | .imuTest t => Sys2Proof.Machine.execImuTest t s
  | .imuSelfTestComplete t passed => Sys2Proof.Machine.execImuSelfTestComplete t passed s
  | .imuFault t => Sys2Proof.Machine.execImuFault t s
  | .frameReceived t n f ago => Sys2Proof.Machine.execFrameReceived t n f ago s
  | .busQack t => Sys2Proof.Machine.execBusQack t s
  | .busTxreq t => Sys2Proof.Machine.execBusTxreq t s
  | .txatReached t n k => Sys2Proof.Machine.execTxatReached t n k s
  | .busTxcan t ph ago => Sys2Proof.Machine.execBusTxcan t ph ago s
  | .transmissionComplete t n ago => Sys2Proof.Machine.execTransmissionComplete t n ago s
  | .transmissionError t n ago lec dom arb place => Sys2Proof.Machine.execTransmissionError t n ago lec dom arb place s
  | .busOffRecovery n => Sys2Proof.Machine.execBusOffRecovery n s
  | .busCmdRestart t => Sys2Proof.Machine.execBusCmdRestart t s
  | .referenceMessage n => Sys2Proof.Machine.execReferenceMessage n s
  | .referenceMissing n => Sys2Proof.Machine.execReferenceMissing n s
  | .dominantTimeout t n => Sys2Proof.Machine.execDominantTimeout t n s
  | .lowHalfWrite t a v => Sys2Proof.Machine.execLowHalfWrite t a v s
  | .highHalfWrite t a v => Sys2Proof.Machine.execHighHalfWrite t a v s
  | .registerWrite t => Sys2Proof.Machine.execRegisterWrite t s
  | .lowHalfRead a => Sys2Proof.Machine.execLowHalfRead a s
  | .highHalfRead a => Sys2Proof.Machine.execHighHalfRead a s
  | .rcRead a high => Sys2Proof.Machine.execRcRead a high s
  | .pageHeaderRead p => Sys2Proof.Machine.execPageHeaderRead p s
  | .publish t => Sys2Proof.Machine.execPublish t s
  | .pageCopyComplete t p => Sys2Proof.Machine.execPageCopyComplete t p s
  | .streamGo t => Sys2Proof.Machine.execStreamGo t s
  | .streamStop t => Sys2Proof.Machine.execStreamStop t s
  | .streamRead => Sys2Proof.Machine.execStreamRead s
  | .streamWrite v => Sys2Proof.Machine.execStreamWrite v s
  | .trussBlockReceived t n ok c => Sys2Proof.Machine.execTrussBlockReceived t n ok c s
  | .linkLoss t => Sys2Proof.Machine.execLinkLoss t s
  | .skewFault t skew => Sys2Proof.Machine.execSkewFault t skew s
  | .killInput t on => Sys2Proof.Machine.execKillInput t on s
  | .killLineFault t => Sys2Proof.Machine.execKillLineFault t s
  | .truKillAssert t => Sys2Proof.Machine.execTruKillAssert t s
  | .truKillRelease t => Sys2Proof.Machine.execTruKillRelease t s
  | .scarfGo t => Sys2Proof.Machine.execScarfGo t s
  | .scarfPhaseComplete t frame items => Sys2Proof.Machine.execScarfPhaseComplete t frame items s
  | .probationEnd t iso => Sys2Proof.Machine.execProbationEnd t iso s
  | .journalWriteComplete t => Sys2Proof.Machine.execJournalWriteComplete t s
  | .journalConfirmation t seq crc => Sys2Proof.Machine.execJournalConfirmation t seq crc s
  | .markDrain => Sys2Proof.Machine.execMarkDrain s
  | .replay t => Sys2Proof.Machine.execReplay t s
  | .next t => Sys2Proof.Machine.execNext t s
  | .faultRaise t src on det val tag addr => Sys2Proof.Machine.execFaultRaise t src on det val tag addr s
  | .quietPeriodExpiry t => Sys2Proof.Machine.execQuietPeriodExpiry t s
  | .recoveryDecay => Sys2Proof.Machine.execRecoveryDecay s
  | .clear t => Sys2Proof.Machine.execClear t s
  | .rclr t => Sys2Proof.Machine.execRclr t s
  | .injectionArm t => Sys2Proof.Machine.execInjectionArm t s
  | .injectionFire => Sys2Proof.Machine.execInjectionFire s
  | .recordWriteComplete => Sys2Proof.Machine.execRecordWriteComplete s
  | .checkpointSigned t k => Sys2Proof.Machine.execCheckpointSigned t k s
  | .summaryDue code => Sys2Proof.Machine.execSummaryDue code s
  | .recSwcode t => Sys2Proof.Machine.execRecSwcode t s
  | .recFreeze t => Sys2Proof.Machine.execRecFreeze t s
  | .recRelease t => Sys2Proof.Machine.execRecRelease t s
  | .freezeTimeout => Sys2Proof.Machine.execFreezeTimeout s
  | .keyEnrol t stored => Sys2Proof.Machine.execKeyEnrol t stored s
  | .keyRevoke t stored => Sys2Proof.Machine.execKeyRevoke t stored s
  | .loadMessageKey t stored => Sys2Proof.Machine.execLoadMessageKey t stored s
  | .loadHostKey t stored => Sys2Proof.Machine.execLoadHostKey t stored s
  | .raiseRollback t stored => Sys2Proof.Machine.execRaiseRollback t stored s
  | .releaseOwnership t stored => Sys2Proof.Machine.execReleaseOwnership t stored s
  | .grant t stored => Sys2Proof.Machine.execGrant t stored s
  | .setPolicy t stored => Sys2Proof.Machine.execSetPolicy t stored s
  | .keyCommandComplete => Sys2Proof.Machine.execKeyCommandComplete s
  | .attestation t => Sys2Proof.Machine.execAttestation t s
  | .reportComplete t k => Sys2Proof.Machine.execReportComplete t k s
  | .hostCommand t ph ago => Sys2Proof.Machine.execHostCommand t ph ago s
  | .revoke t => Sys2Proof.Machine.execRevoke t s
  | .grantExpiry => Sys2Proof.Machine.execGrantExpiry s
  | .requestBoot t => Sys2Proof.Machine.execRequestBoot t s
  | .requestIdle t => Sys2Proof.Machine.execRequestIdle t s
  | .requestRun t => Sys2Proof.Machine.execRequestRun t s
  | .requestService t => Sys2Proof.Machine.execRequestService t s
  | .requestSill t => Sys2Proof.Machine.execRequestSill t s
  | .ignChange active => Sys2Proof.Machine.execIgnChange active s
  | .ignDebounceExpiry => Sys2Proof.Machine.execIgnDebounceExpiry s
  | .wakeUpPattern => Sys2Proof.Machine.execWakeUpPattern s
  | .wakeTimerExpiry => Sys2Proof.Machine.execWakeTimerExpiry s
  | .keyOffTimeout t => Sys2Proof.Machine.execKeyOffTimeout t s
  | .powerOnReset ign hsync tside => Sys2Proof.Machine.execPowerOnReset ign hsync tside s
  | .sysRst t => Sys2Proof.Machine.execSysRst t s
  | .bootComplete t r => Sys2Proof.Machine.execBootComplete t r s
  | .operatingTimeAdvance => Sys2Proof.Machine.execOperatingTimeAdvance s
  | .sillSave => Sys2Proof.Machine.execSillSave s
  | .refclkLoss t => Sys2Proof.Machine.execRefclkLoss t s
  | .refclkReturn t r25 => Sys2Proof.Machine.execRefclkReturn t r25 s
  | .oscillatorFail t => Sys2Proof.Machine.execOscillatorFail t s
  | .pllUnlock t p => Sys2Proof.Machine.execPllUnlock t p s
  | .sillOscillatorFault t => Sys2Proof.Machine.execSillOscillatorFault t s
  | .freezePin t => Sys2Proof.Machine.execFreezePin t s
  | .freezeRelease => Sys2Proof.Machine.execFreezeRelease s
  | .extest captured cells => Sys2Proof.Machine.execExtest captured cells s
  | .idcode => Sys2Proof.Machine.execIdcode s
  | .samplePreload captured cells => Sys2Proof.Machine.execSamplePreload captured cells s
  | .bypass => Sys2Proof.Machine.execBypass s
  | .frzEnter t => Sys2Proof.Machine.execFrzEnter t s
  | .frzResume => Sys2Proof.Machine.execFrzResume s
  | .dbgSel v => Sys2Proof.Machine.execDbgSel v s
  | .dbgRead => Sys2Proof.Machine.execDbgRead s
  | .feedStateChange t second st v1 v2 => Sys2Proof.Machine.execFeedStateChange t second st v1 v2 s
  | .powerFail t drained => Sys2Proof.Machine.execPowerFail t drained s
  | .holdFault t v => Sys2Proof.Machine.execHoldFault t v s
  | .vioFault t g v => Sys2Proof.Machine.execVioFault t g v s
  | .vioRecovery t g => Sys2Proof.Machine.execVioRecovery t g s
  | .temperaturePointFail t p => Sys2Proof.Machine.execTemperaturePointFail t p s
  | .temperatureWarning t d x => Sys2Proof.Machine.execTemperatureWarning t d x s
  | .controlDieOvertemp t x => Sys2Proof.Machine.execControlDieOvertemp t x s
  | .dieLinkBlock t die chs ok => Sys2Proof.Machine.execDieLinkBlock t die chs ok s
  | .pllRelock t bus => Sys2Proof.Machine.execPllRelock t bus s
  | .isolatorOpenComplete t b => Sys2Proof.Machine.execIsolatorOpenComplete t b s
  | .inrushEnd c => Sys2Proof.Machine.execInrushEnd c s
  | .holdCurrentSwitch a => Sys2Proof.Machine.execHoldCurrentSwitch a s
  | .stepPulse t a => Sys2Proof.Machine.execStepPulse t a s
  | .coilCurrentSample t p ia ib vm => Sys2Proof.Machine.execCoilCurrentSample t p ia ib vm s
  | .dutyEdge t c => Sys2Proof.Machine.execDutyEdge t c s
  | .faultPinRelease n => Sys2Proof.Machine.execFaultPinRelease n s
  | .portConditionEnd p => Sys2Proof.Machine.execPortConditionEnd p s
  | .temperatureRelease t x => Sys2Proof.Machine.execTemperatureRelease t x s
  | .holdCharged t => Sys2Proof.Machine.execHoldCharged t s
  | .trussLinkUp t j => Sys2Proof.Machine.execTrussLinkUp t j s
  | .arbitrationLost t n ago ide id => Sys2Proof.Machine.execArbitrationLost t n ago ide id s
  | .receiveError t n lec eight => Sys2Proof.Machine.execReceiveError t n lec eight s
  | .carrierLockLoss n => Sys2Proof.Machine.execCarrierLockLoss n s
  | .secondaryCodeSync n => Sys2Proof.Machine.execSecondaryCodeSync n s
  | .sincosSample t p sin cos => Sys2Proof.Machine.execSincosSample t p sin cos s
  | .imuSamplesResume => Sys2Proof.Machine.execImuSamplesResume s
  | .testLogicReset => Sys2Proof.Machine.execTestLogicReset s

end Sys2Proof.Machine
end

