-- ==== Sys2Proof/WellFormed.lean ====
section
/-! DEFINITION. When a command is well formed: its stamp lies in the longest frame (R12, R16), the bits that an instruction format calls zero are
zero (R52), and its lists and frames have the shape their rule gives. Every meaning is defined on every command, well formed or not. -/
namespace Sys2Proof

open Machine

/-- A stamp within the longest FRAME_PERIOD (R16). -/
def inFrame (t : Nat) : Bool := decide (t < 1000000)

/-- The address of a low and of a high half of a word (R354). -/
def lowHalf (a : BitVec 24) : Bool := decide (a.toNat % 4 < 2)
def highHalf (a : BitVec 24) : Bool := decide (2 ≤ a.toNat % 4)

/-- Formats R and M have bits that are zero (R52). -/
def Machine.FmtR.wf (f : FmtR) : Bool := decide (f.zero = 0)
def Machine.FmtM.wf (f : FmtM) : Bool := decide (f.zero = 0)

/-- The inertial latch carries twelve values (R312). -/
def Machine.ImuSample.wf (m : ImuSample) : Bool := decide (m.vals.length = 12)

/-- A frame of the bus (R328): its identifier fits, its data are as long as LEN says, and a remote frame carries none. -/
def Machine.CanFrame.wf (f : CanFrame) : Bool :=
  (f.ide || decide (f.id.toNat < 2048)) && decide (f.len ≤ (if f.fdf then 64 else 8)) && decide (f.data.length = if f.rtr then 0 else f.len)
    && !(f.fdf && f.rtr)

/-- The findings of a BOOT name one of the five self-tests, and key slots that exist (R436, R437). -/
def Machine.BootReport.wf (r : BootReport) : Bool :=
  decide (r.selfTest ≤ 5) && r.badCopies.all (fun k => decide (k.1 < 4) || (decide (16 ≤ k.1) && decide (k.1 < 80)) || k.1 == 96 || k.1 == 97)

def Instr.wf : Instr → Bool
  | .outputCutoff temps _ _ _ => decide (temps.length = 128)
  | .exchangeDeadline => true
  | .frameBoundary m => m.imu.wf
  | .sillEntryComplete => true
  | .snapshotFlip bad => bad.all (fun x => decide (x.2.2 ≠ BitVec.ofNat 8 (x.2.1.toNat % 251)))
  | .sliceStart _ => true
  | .budgetExhausted _ => true
  | .nop _ _ _ => true
  | .br _ _ _ => true
  | .call _ _ _ => true
  | .ret _ _ _ => true
  | .loop _ _ _ => true
  | .jt _ _ _ => true
  | .end_ _ _ _ => true
  | .add _ _ f => f.wf
  | .sub _ _ f => f.wf
  | .adds _ _ f => f.wf
  | .subs _ _ f => f.wf
  | .mul _ _ f => f.wf
  | .mulhu _ _ f => f.wf
  | .mulhs _ _ f => f.wf
  | .mac _ _ f => f.wf
  | .min _ _ f => f.wf
  | .max _ _ f => f.wf
  | .minu _ _ f => f.wf
  | .maxu _ _ f => f.wf
  | .abs _ _ f => f.wf
  | .neg _ _ f => f.wf
  | .div _ _ f => f.wf
  | .divu _ _ f => f.wf
  | .addi _ _ _ => true
  | .muli _ _ _ => true
  | .movi _ _ _ => true
  | .mini _ _ _ => true
  | .maxi _ _ _ => true
  | .andi _ _ _ => true
  | .ori _ _ _ => true
  | .xori _ _ _ => true
  | .shli _ _ _ => true
  | .shri _ _ _ => true
  | .sari _ _ _ => true
  | .cmpi _ _ _ => true
  | .ext _ _ _ => true
  | .ins _ _ _ => true
  | .sats _ _ _ => true
  | .satu _ _ _ => true
  | .and _ _ f => f.wf
  | .or _ _ f => f.wf
  | .xor _ _ f => f.wf
  | .andn _ _ f => f.wf
  | .not _ _ f => f.wf
  | .shl _ _ f => f.wf
  | .shr _ _ f => f.wf
  | .sar _ _ f => f.wf
  | .rol _ _ f => f.wf
  | .clz _ _ f => f.wf
  | .popc _ _ f => f.wf
  | .cmp _ _ f => f.wf
  | .pand _ _ f => f.wf
  | .por _ _ f => f.wf
  | .pxor _ _ f => f.wf
  | .mov _ _ f => f.wf
  | .sel _ _ f => f.wf
  | .mfs _ _ f => f.wf
  | .movv _ _ f => f.wf
  | .movg _ _ f => f.wf
  | .ptog _ _ f => f.wf
  | .ld _ _ f => f.wf
  | .st _ _ f => f.wf
  | .ldv _ _ f => f.wf
  | .stv _ _ f => f.wf
  | .blockStoreArrival t _ _ _ => inFrame t
  | .lut _ _ _ => true
  | .luti _ _ _ => true
  | .vadd _ _ f => f.wf
  | .vsub _ _ f => f.wf
  | .vadds _ _ f => f.wf
  | .vmul _ _ f => f.wf
  | .vmac _ _ f => f.wf
  | .vmin _ _ f => f.wf
  | .vmax _ _ f => f.wf
  | .vspl _ _ f => f.wf
  | .vsum _ _ f => f.wf
  | .vand _ _ f => f.wf
  | .vor _ _ f => f.wf
  | .vxor _ _ f => f.wf
  | .vshl _ _ f => f.wf
  | .vshr _ _ f => f.wf
  | .vsar _ _ f => f.wf
  | .vsats _ _ f => f.wf
  | .vcmp _ _ f => f.wf
  | .vsel _ _ f => f.wf
  | .time _ _ _ => true
  | .inrec _ _ _ => true
  | .token _ _ _ => true
  | .fence _ _ _ => true
  | .spose _ _ _ => true
  | .sqry _ _ _ => true
  | .scribeQueryComplete t _ => inFrame t
  | .scribeQueryTimeout t _ => inFrame t
  | .swait _ _ _ => true
  | .smark _ _ _ => true
  | .tbegin _ _ _ => true
  | .tcommit _ _ _ => true
  | .troll _ _ _ => true
  | .jput _ _ _ => true
  | .jsync _ _ _ => true
  | .jsyncTimeout t _ => inFrame t
  | .chk _ _ _ => true
  | .fault _ _ _ => true
  | .bkpt _ _ _ => true
  | .beRst t => inFrame t
  | .rehashComplete _ => true
  | .verify t => inFrame t
  | .verifyComplete => true
  | .begin t => inFrame t
  | .commit t => inFrame t
  | .rollback t => inFrame t
  | .commitCheckComplete t => inFrame t
  | .txRegisterWrite t => inFrame t
  | .transactionTimeout => true
  | .schedCtrlRestart t => inFrame t
  | .gaugeMeasurement t _ samples => inFrame t && decide (samples.length ≤ 19901)
  | .gaugeMiss t _ samples => inFrame t && decide (samples.length ≤ 19901)
  | .adcTrigger t _ => inFrame t
  | .adcSwtrg t => inFrame t
  | .adcConversionComplete t _ _ => inFrame t
  | .adcReferenceCheck t _ _ => inFrame t
  | .adcShuntOpen t _ => inFrame t
  | .adcShunt t => inFrame t
  | .periodBoundary t _ => inFrame t
  | .compareMatch t _ _ => inFrame t
  | .syncEvent t _ => inFrame t
  | .syncinEdge t _ => inFrame t
  | .deadTimeWaitEnd c _ => inFrame c.at_
  | .faultPin t _ => inFrame t
  | .flatchClear t => inFrame t
  | .unitEnable t => inFrame t
  | .unitDisable t => inFrame t
  | .channelCommandEffect _ => true
  | .dinEdge t _ _ => inFrame t
  | .frameValueSample chs banks => decide (chs.length = 108) && decide (banks.length = 12)
  | .offStateDetection t _ _ => inFrame t
  | .currentLimitTimeout t _ => inFrame t
  | .thermalShutdown t _ => inFrame t
  | .tlatchRelease t _ => inFrame t
  | .retryTimerExpiry t _ => inFrame t
  | .stableOnExpiry c => inFrame c.at_
  | .lockClear t => inFrame t
  | .isolatorCloseComplete t _ => inFrame t
  | .isolatorFault t _ _ => inFrame t
  | .bankSupplyStateChange t _ _ => inFrame t
  | .lswWdtok t => inFrame t
  | .wdexpClear t => inFrame t
  | .setpointTimeout _ => true
  | .stopControlled t => inFrame t
  | .stopImmediate t => inFrame t
  | .stallDetected t _ => inFrame t
  | .referenceLatch t _ => inFrame t
  | .portFault t _ _ => inFrame t
  | .feedbackEdge x _ _ _ _ => inFrame x.at_
  | .indexPulse t _ => inFrame t
  | .periodStale n => inFrame n.at_
  | .frequencyGateEnd _ => true
  | .sincosAmplitudeFault t _ => inFrame t
  | .antennaBiasShort t _ => inFrame t
  | .biasRetry _ => true
  | .antennaOpen t _ _ => inFrame t
  | .signalFound x => inFrame x.at_
  | .codeCarrierLock t _ => inFrame t
  | .pullinTimeout n => inFrame n.at_
  | .signalLoss n => inFrame n.at_
  | .reacqTimeout n => inFrame n.at_
  | .epoch t _ _ => inFrame t
  | .epochRecordComplete t => inFrame t
  | .symbolWord t _ _ _ => inFrame t
  | .burstStart => true
  | .burstEnd => true
  | .gnsSteerFr t => inFrame t
  | .gnsSteerPh t => inFrame t
  | .gnsSteerStep t => inFrame t
  | .pendingStepApply t => inFrame t
  | .slewComplete t => inFrame t
  | .gnsTsetS t => inFrame t
  | .holdtoExpiry t => inFrame t
  | .uncOver t => inFrame t
  | .tpulse t => inFrame t
  | .imuTest t => inFrame t
  | .imuSelfTestComplete t _ => inFrame t
  | .imuFault t => inFrame t
  | .frameReceived t _ f _ => inFrame t && f.wf
  | .busQack t => inFrame t
  | .busTxreq t => inFrame t
  | .txatReached t _ _ => inFrame t
  | .busTxcan t _ _ => inFrame t
  | .transmissionComplete t _ _ => inFrame t
  | .transmissionError t _ _ _ _ _ _ => inFrame t
  | .busOffRecovery _ => true
  | .busCmdRestart t => inFrame t
  | .referenceMessage _ => true
  | .referenceMissing _ => true
  | .dominantTimeout t _ => inFrame t
  | .lowHalfWrite t a _ => inFrame t && lowHalf a
  | .highHalfWrite t a _ => inFrame t && highHalf a
  | .registerWrite t => inFrame t
  | .lowHalfRead a => lowHalf a
  | .highHalfRead a => highHalf a
  | .rcRead _ _ => true
  | .pageHeaderRead _ => true
  | .publish t => inFrame t
  | .pageCopyComplete t _ => inFrame t
  | .streamGo t => inFrame t
  | .streamStop t => inFrame t
  | .streamRead => true
  | .streamWrite _ => true
  | .trussBlockReceived t _ _ _ => inFrame t
  | .linkLoss t => inFrame t
  | .skewFault t _ => inFrame t
  | .killInput t _ => inFrame t
  | .killLineFault t => inFrame t
  | .truKillAssert t => inFrame t
  | .truKillRelease t => inFrame t
  | .scarfGo t => inFrame t
  | .scarfPhaseComplete t _ _ => inFrame t
  | .probationEnd t _ => inFrame t
  | .journalWriteComplete t => inFrame t
  | .journalConfirmation t _ _ => inFrame t
  | .markDrain => true
  | .replay t => inFrame t
  | .next t => inFrame t
  | .faultRaise t _ _ _ _ _ _ => inFrame t
  | .quietPeriodExpiry t => inFrame t
  | .recoveryDecay => true
  | .clear t => inFrame t
  | .rclr t => inFrame t
  | .injectionArm t => inFrame t
  | .injectionFire => true
  | .recordWriteComplete => true
  | .checkpointSigned _ _ => true
  | .summaryDue _ => true
  | .recSwcode t => inFrame t
  | .recFreeze t => inFrame t
  | .recRelease t => inFrame t
  | .freezeTimeout => true
  | .keyEnrol t _ => inFrame t
  | .keyRevoke t _ => inFrame t
  | .loadMessageKey t _ => inFrame t
  | .loadHostKey t _ => inFrame t
  | .raiseRollback t _ => inFrame t
  | .releaseOwnership t _ => inFrame t
  | .grant t _ => inFrame t
  | .setPolicy t _ => inFrame t
  | .keyCommandComplete => true
  | .attestation t => inFrame t
  | .reportComplete _ _ => true
  | .hostCommand t _ _ => inFrame t
  | .revoke t => inFrame t
  | .grantExpiry => true
  | .requestBoot t => inFrame t
  | .requestIdle t => inFrame t
  | .requestRun t => inFrame t
  | .requestService t => inFrame t
  | .requestSill t => inFrame t
  | .ignChange _ => true
  | .ignDebounceExpiry => true
  | .wakeUpPattern => true
  | .wakeTimerExpiry => true
  | .keyOffTimeout t => inFrame t
  | .powerOnReset _ _ _ => true
  | .sysRst t => inFrame t
  | .bootComplete t r => inFrame t && r.wf
  | .operatingTimeAdvance => true
  | .sillSave => true
  | .refclkLoss t => inFrame t
  | .refclkReturn t _ => inFrame t
  | .oscillatorFail t => inFrame t
  | .pllUnlock t _ => inFrame t
  | .sillOscillatorFault t => inFrame t
  | .freezePin t => inFrame t
  | .freezeRelease => true
  | .extest _ _ => true
  | .idcode => true
  | .samplePreload _ _ => true
  | .bypass => true
  | .frzEnter t => inFrame t
  | .frzResume => true
  | .dbgSel _ => true
  | .dbgRead => true
  | .feedStateChange t _ _ _ _ => inFrame t
  | .powerFail t _ => inFrame t
  | .holdFault t _ => inFrame t
  | .vioFault t _ _ => inFrame t
  | .vioRecovery t _ => inFrame t
  | .temperaturePointFail t _ => inFrame t
  | .temperatureWarning t _ _ => inFrame t
  | .controlDieOvertemp t _ => inFrame t
  | .dieLinkBlock t _ _ _ => inFrame t
  | .pllRelock t _ => inFrame t
  | .isolatorOpenComplete t _ => inFrame t
  | .inrushEnd c => inFrame c.at_
  | .holdCurrentSwitch a => inFrame a.at_
  | .stepPulse t _ => inFrame t
  | .coilCurrentSample t _ _ _ _ => inFrame t
  | .dutyEdge t _ => inFrame t
  | .faultPinRelease _ => true
  | .portConditionEnd _ => true
  | .temperatureRelease t _ => inFrame t
  | .holdCharged t => inFrame t
  | .trussLinkUp t _ => inFrame t
  | .arbitrationLost t _ _ _ _ => inFrame t
  | .receiveError t _ _ _ => inFrame t
  | .carrierLockLoss _ => true
  | .secondaryCodeSync _ => true
  | .sincosSample t _ _ _ => inFrame t
  | .imuSamplesResume => true
  | .testLogicReset => true

end Sys2Proof
end

