-- ==== Sys2Proof/Safety.lean ====
section
/-! DEFINITION. The terms claims are stated in: a memory in canonical form, an engine that is ready to issue an instruction, what it reads,
and what an instruction of one engine leaves alone. -/
namespace Sys2Proof.Machine

/-! ### Canonical forms -/

/-- A memory of bytes is in canonical form: addresses rising, and no entry equal to what an unlisted address reads as (log entry 5). -/
def Memory.wf (m : SMap Byte) : Bool := SMap.wf (fun _ => 0) m

/-- Every map of registers and bytes that State holds beside the engines is in canonical form. -/
def State.canonical (s : State) : Bool :=
  SMap.wf Reg.resetOf s.regs && Memory.wf s.fmem && Memory.wf s.fmemTag && Memory.wf s.dram && Memory.wf s.prog

/-! ### An engine at the issue of an instruction (R42, R53 to R59, R522) -/

/-- The registers an instruction reads: those before its bundle, when it stands in slot 1 (R55). -/
def Eng.operands (x : Eng) : RegFile := match x.old with
  | some o => o.1
  | none => x.rf

/-- The cycle at which the instruction issues (R57). -/
def Eng.issueAt (x : Eng) (r : IsaRow) (h : Hdr) (f : Fields) : Nat :=
  match x.old with
  | some o => o.2
  | none => issueCycle x r h f (SMap.get 0 x.imem (x.pc + 1))

/-- The instruction is legal where it stands: by itself and in its bundle (R54, R55). -/
def legalHere (s : State) (x : Eng) (r : IsaRow) (h : Hdr) (f : Fields) : Bool :=
  if x.old.isSome then r.legal h f && r.slot1 && !h.pair
  else bundleOk r h f x.pc (decide (x.pc + 1 < nInsn s)) (SMap.get 0 x.imem (x.pc + 1))

/-- The registers whose loads the bundle waits for (R57). -/
def bundleNeeds (x : Eng) (r : IsaRow) (h : Hdr) (f : Fields) : List Nat :=
  r.sources h f ++ (if h.pair then
    (match slot1Row (SMap.get 0 x.imem (x.pc + 1)) with
     | some q => q.1.sources (wordHdr (SMap.get 0 x.imem (x.pc + 1))) q.2
     | none => [])
  else [])

/-- The instruction of row `r` issues now and takes part in its slice: the engine runs, the instruction is legal where it stands, no load
that it needs is outstanding, a Scribe instruction stands in the Scribe task, the budget covers its cycle, and its words have no
error and its units agree. -/
def issuesRow (s : State) (e : Nat) (r : IsaRow) (h : Hdr) (f : Fields) : Bool :=
  let x := s.en e
  issues s x && legalHere s x r h f
    && !(x.old.isNone && x.loads.any (fun l => (bundleNeeds x r h f).contains l.d))
    && !(decide (0xC0 ≤ r.opc) && decide (r.opc < 0xD0) && !x.scribe)
    && !(x.old.isNone && decide (x.budget ≤ x.issueAt r h f)) && !fetchBad x h && decide (fetchCorr x h = 0) && !x.unitBad

/-- The instruction with opcode `opc` issues now. -/
def issuesNow (s : State) (e opc : Nat) (h : Hdr) (f : Fields) : Bool :=
  match Isa.row? opc with
  | some r => decide (r.opc = opc) && issuesRow s e r h f
  | none => false

/-- Its predicate holds (R51, R62). -/
def predTrue (s : State) (e : Nat) (h : Hdr) : Bool := (s.en e).operands.pv h.pred.toNat != h.neg

/-- The instruction issues now and its predicate holds. -/
def goes (s : State) (e opc : Nat) (h : Hdr) (f : Fields) : Bool := issuesNow s e opc h f && predTrue s e h

/-- The machine just after the issue: the engine is past the instruction, and the instant is that of the issue cycle. -/
def atIssue (s : State) (e opc : Nat) (h : Hdr) (f : Fields) : State :=
  match Isa.row? opc with
  | some r =>
    let x := s.en e
    let c := x.issueAt r h f
    (s.setEn e (x.issued x.old.isSome r h f c)).at (x.startEdge + 2 * c)
  | none => s

/-- What the instruction knows at its issue. -/
def issuePoint (s : State) (e opc : Nat) (h : Hdr) (f : Fields) : Issue :=
  let x := s.en e
  ⟨e, x, x.pc, (match Isa.row? opc with
    | some r => x.issueAt r h f
    | none => 0), x.operands⟩

/-- G r, P r and lane n of V r as the instruction reads them. -/
def State.readG (s : State) (e r : Nat) : TW := (s.en e).operands.gv r
def State.readP (s : State) (e r : Nat) : Bool := (s.en e).operands.pv r
def State.readLane (s : State) (e r n : Nat) : TW := (s.en e).operands.lane r n

/-- G r, P r and lane n of V r as the engine holds them. -/
def State.gOf (s : State) (e r : Nat) : TW := (s.en e).rf.gv r
def State.pOf (s : State) (e r : Nat) : Bool := (s.en e).rf.pv r
def State.laneOf (s : State) (e r n : Nat) : TW := (s.en e).rf.lane r n

/-- The tag is that of the value (R34, R58). -/
def intact (x : TW) : Bool := decide (x.2 = tagOf x.1)

/-! ### What an instruction of one engine leaves alone -/

/-- Nothing but engine `e`, the present instant and the model's own count of free values differs. -/
def onlyEngine (e : Nat) (s t : State) : Prop :=
  (∃ g n k, t = { s with eng := g, edge := n, free := k }) ∧ ∀ k, k ≠ e → t.en k = s.en k

/-- Engine `e` keeps its predicates, its vectors and every G register but those named; its DMEM and its stores on their way. -/
def keepsButG (e : Nat) (ds : List Nat) (s t : State) : Prop :=
  onlyEngine e s t ∧ (∀ r, r ∉ ds → t.gOf e r = s.gOf e r) ∧ (∀ r, t.pOf e r = s.pOf e r) ∧ (∀ r n, t.laneOf e r n = s.laneOf e r n)
    ∧ (t.en e).dmem = (s.en e).dmem ∧ (t.en e).dmemTag = (s.en e).dmemTag ∧ (t.en e).stores = (s.en e).stores
    ∧ (t.en e).state = (s.en e).state

/-- The same for an instruction that writes predicates only. -/
def keepsButP (e : Nat) (ds : List Nat) (s t : State) : Prop :=
  onlyEngine e s t ∧ (∀ r, t.gOf e r = s.gOf e r) ∧ (∀ r, r ∉ ds → t.pOf e r = s.pOf e r) ∧ (∀ r n, t.laneOf e r n = s.laneOf e r n)
    ∧ (t.en e).dmem = (s.en e).dmem ∧ (t.en e).dmemTag = (s.en e).dmemTag ∧ (t.en e).stores = (s.en e).stores
    ∧ (t.en e).state = (s.en e).state

/-- A byte of the engine's DMEM (space 0) or of FMEM (space 1), and the tag of the word that begins there. -/
def byteOf (s : State) (e space a : Nat) : Byte := if space = 0 then SMap.get 0 (s.en e).dmem a else SMap.get 0 s.fmem a
def tagAt (s : State) (e space a : Nat) : Byte := if space = 0 then SMap.get 0 (s.en e).dmemTag a else SMap.get 0 s.fmemTag a

/-- A store of `n` bytes at offset `o` of a space: every other byte of both memories keeps its value and tag, and the engine its
registers and stores; nothing else differs. -/
def keepsButBytes (e space o n : Nat) (s t : State) : Prop :=
  (∃ g k m mt, t = { s with eng := g, edge := k, fmem := m, fmemTag := mt }) ∧ (∀ k, k ≠ e → t.en k = s.en k)
    ∧ (∀ sp a, sp < 2 → (sp ≠ space ∨ a < o ∨ o + n ≤ a) → byteOf t e sp a = byteOf s e sp a ∧ tagAt t e sp a = tagAt s e sp a)
    ∧ (t.en e).rf = (s.en e).rf ∧ (t.en e).stores = (s.en e).stores ∧ (t.en e).state = (s.en e).state

/-- The same for an instruction that writes lanes of V d only; `ls` are the lanes it writes. -/
def keepsButV (e d : Nat) (ls : List Nat) (s t : State) : Prop :=
  onlyEngine e s t ∧ (∀ r, t.gOf e r = s.gOf e r) ∧ (∀ r, t.pOf e r = s.pOf e r)
    ∧ (∀ r n, n < 8 → (r ≠ d ∨ n ∉ ls) → t.laneOf e r n = s.laneOf e r n)
    ∧ (t.en e).dmem = (s.en e).dmem ∧ (t.en e).dmemTag = (s.en e).dmemTag ∧ (t.en e).stores = (s.en e).stores
    ∧ (t.en e).state = (s.en e).state

end Sys2Proof.Machine
end

