-- ==== Sys2Proof/Certificates/Slice0/Obligations.lean ====
section
/-! DEFINITION. The statements for the provers. Each name says what it states; each docstring cites the rules of spec/ it comes from. -/
namespace Sys2Proof.Claims
open Sys2Proof.Machine

/-! ### Engine instructions: the tables the statements go through -/

/-- An instruction of format R with its opcode and its value as a function of its operands' values. -/
structure InsnR where
  ins : Fin 8 → Hdr → FmtR → Instr
  opc : Nat
  val : Word → Word → Word

/-- An instruction of format I in the same form; the second operand is IMM. -/
structure InsnI where
  ins : Fin 8 → Hdr → FmtI → Instr
  opc : Nat
  val : Word → Word → Word

/-- An instruction of format R whose result carries a tag computed from its operands' tags (R60): its value of the operands' values, and the
tag before it is taken modulo 251, of the operands' values and tags. -/
structure InsnC where
  ins : Fin 8 → Hdr → FmtR → Instr
  opc : Nat
  val : Word → Word → Word
  tag : Word → Word → Int → Int → Int

/-- The carried rules of R60 with two operands, hi and lo being the halves of the product. -/
def carriedOperand : List InsnC :=
  [⟨.add, 0x10, fun a b => a + b, fun a b ta tb => ta + tb - 123 * ((a.toNat + b.toNat) / 2 ^ 32 : Nat)⟩,
   ⟨.sub, 0x11, fun a b => a - b, fun a b ta tb => ta - tb + 123 * (if a.toNat < b.toNat then 1 else 0)⟩,
   ⟨.mul, 0x14, fun a b => a * b, fun a b ta tb => ta * tb - 123 * (a.toNat * b.toNat / 2 ^ 32 % 251 : Nat)⟩,
   ⟨.mulhu, 0x15, fun a b => BitVec.ofNat 32 (a.toNat * b.toNat / 2 ^ 32),
     fun a b ta tb => (ta * tb - (a.toNat * b.toNat % 2 ^ 32 % 251 : Nat)) * 100⟩]

/-- A value with the carried tag `i` modulo 251. -/
def carriedTW (w : Word) (i : Int) : TW := (w, BitVec.ofInt 8 (i % 251))

/-- The tag is one of the 251 (R59). -/
abbrev inTags (x : TW) : Prop := x.2.toNat < 251

/-- A number held to the signed range of n bits, and to the unsigned one, as a word. -/
def heldS (n : Nat) (i : Int) : Word := BitVec.ofInt 32 (max (-(2 ^ (n - 1))) (min (2 ^ (n - 1) - 1) i))
def heldU (n : Nat) (i : Int) : Word := BitVec.ofInt 32 (max 0 (min (2 ^ n - 1) i))

/-- The two-operand scalar instructions of R63 and R65. -/
def twoOperand : List InsnR :=
  [⟨.add, 0x10, fun a b => a + b⟩, ⟨.sub, 0x11, fun a b => a - b⟩,
   ⟨.adds, 0x12, fun a b => heldS 32 (a.toInt + b.toInt)⟩, ⟨.subs, 0x13, fun a b => heldS 32 (a.toInt - b.toInt)⟩,
   ⟨.mul, 0x14, fun a b => a * b⟩, ⟨.mulhu, 0x15, fun a b => BitVec.ofNat 32 (a.toNat * b.toNat / 2 ^ 32)⟩,
   ⟨.mulhs, 0x16, fun a b => BitVec.ofInt 32 (a.toInt * b.toInt / 2 ^ 32)⟩,
   ⟨.min, 0x18, fun a b => if a.toInt ≤ b.toInt then a else b⟩, ⟨.max, 0x19, fun a b => if b.toInt ≤ a.toInt then a else b⟩,
   ⟨.minu, 0x1A, fun a b => if a.toNat ≤ b.toNat then a else b⟩, ⟨.maxu, 0x1B, fun a b => if b.toNat ≤ a.toNat then a else b⟩,
   ⟨.and, 0x30, fun a b => a &&& b⟩, ⟨.or, 0x31, fun a b => a ||| b⟩, ⟨.xor, 0x32, fun a b => a ^^^ b⟩,
   ⟨.andn, 0x33, fun a b => a &&& ~~~b⟩, ⟨.shl, 0x35, fun a b => a <<< (b.toNat % 32)⟩,
   ⟨.shr, 0x36, fun a b => a >>> (b.toNat % 32)⟩, ⟨.sar, 0x37, fun a b => BitVec.ofInt 32 (a.toInt / 2 ^ (b.toNat % 32))⟩,
   ⟨.rol, 0x38, fun a b => (a <<< (b.toNat % 32)) ||| (a >>> (32 - b.toNat % 32))⟩]

/-- The one-operand scalar instructions of R63, R65 and R67; the value does not depend on the second argument. -/
def oneOperand : List InsnR :=
  [⟨.abs, 0x1C, fun a _ => if a.toInt < 0 then -a else a⟩, ⟨.neg, 0x1D, fun a _ => -a⟩, ⟨.not, 0x34, fun a _ => ~~~a⟩,
   ⟨.clz, 0x39, fun a _ => BitVec.ofNat 32 (if a.toNat = 0 then 32 else 31 - a.toNat.log2)⟩,
   ⟨.popc, 0x3A, fun a _ => BitVec.ofNat 32 ((List.range 32).countP fun i => a.getLsbD i)⟩, ⟨.mov, 0x50, fun a _ => a⟩]

/-- The immediate instructions of R64 with one register operand. -/
def immediate : List InsnI :=
  [⟨.addi, 0x20, fun a m => a + m⟩, ⟨.muli, 0x21, fun a m => a * m⟩,
   ⟨.mini, 0x23, fun a m => if a.toInt ≤ m.toInt then a else m⟩, ⟨.maxi, 0x24, fun a m => if m.toInt ≤ a.toInt then a else m⟩,
   ⟨.andi, 0x25, fun a m => a &&& m⟩, ⟨.ori, 0x26, fun a m => a ||| m⟩, ⟨.xori, 0x27, fun a m => a ^^^ m⟩,
   ⟨.shli, 0x28, fun a m => a <<< (m.toNat % 32)⟩, ⟨.shri, 0x29, fun a m => a >>> (m.toNat % 32)⟩,
   ⟨.sari, 0x2A, fun a m => BitVec.ofInt 32 (a.toInt / 2 ^ (m.toNat % 32))⟩,
   ⟨.ext, 0x2C, fun a m => BitVec.ofNat 32 (a.toNat / 2 ^ (m.toNat % 32) % 2 ^ (m.toNat / 256 % 32 + 1))⟩,
   ⟨.sats, 0x2E, fun a m => heldS (m.toNat % 64) a.toInt⟩, ⟨.satu, 0x2F, fun a m => heldU (m.toNat % 64) a.toInt⟩]

/-- The lane-wise instructions of R72 with two vector operands. -/
def twoVector : List InsnR :=
  [⟨.vadd, 0x80, fun a b => a + b⟩, ⟨.vsub, 0x81, fun a b => a - b⟩, ⟨.vadds, 0x82, fun a b => heldS 32 (a.toInt + b.toInt)⟩,
   ⟨.vmul, 0x83, fun a b => a * b⟩, ⟨.vmin, 0x85, fun a b => if a.toInt ≤ b.toInt then a else b⟩,
   ⟨.vmax, 0x86, fun a b => if b.toInt ≤ a.toInt then a else b⟩, ⟨.vand, 0x90, fun a b => a &&& b⟩,
   ⟨.vor, 0x91, fun a b => a ||| b⟩, ⟨.vxor, 0x92, fun a b => a ^^^ b⟩]

/-- The lane-wise instructions of R72 with one vector operand and MOD; the second argument is MOD. -/
def oneVector : List InsnR :=
  [⟨.vshl, 0x93, fun a m => a <<< (m.toNat % 32)⟩, ⟨.vshr, 0x94, fun a m => a >>> (m.toNat % 32)⟩,
   ⟨.vsar, 0x95, fun a m => BitVec.ofInt 32 (a.toInt / 2 ^ (m.toNat % 32))⟩,
   ⟨.vsats, 0x96, fun a m => heldS (m.toNat % 32 + 1) a.toInt⟩]

/-- The eight lanes as one row of tags is intact where the mask names them. -/
abbrev lanesIntact (s : State) (e r : Nat) (mask : BitVec 8) : Prop := ∀ n < 8, mask.getLsbD n = true → intact (s.readLane e r n) = true

/-- The condition of a compare by its number (R66). -/
def holds (c : Nat) (a b : Word) : Bool :=
  if c = 0 then decide (a.toNat = b.toNat) else if c = 1 then decide (a.toNat ≠ b.toNat) else if c = 2 then decide (a.toInt < b.toInt)
  else if c = 3 then decide (b.toInt ≤ a.toInt) else if c = 4 then decide (a.toNat < b.toNat)
  else if c = 5 then decide (b.toNat ≤ a.toNat) else decide ((a &&& b).toNat ≠ 0)

/-- A change of the registers that reports a transaction's result: STATUS of TXN_STAT, and TXN of HP_ISTAT; no other register but TXN_LIMIT
(R121, R375). -/
abbrev resultOnly (s u : State) (status : Nat) : Prop :=
  u.rf Reg.TXN_STAT 8 8 = status ∧ u.flag Reg.HP_ISTAT 2 = true ∧
    ∀ a, a ≠ Reg.TXN_STAT → a ≠ Reg.TXN_LIMIT → a ≠ Reg.HP_ISTAT → u.rd a = s.rd a

/-- Of the engines' registers, only the named G registers and predicates of engine `e` differ. -/
abbrev keepsRegs (e : Nat) (gs ps : List Nat) (s t : State) : Prop :=
  (∀ k, k ≠ e → t.en k = s.en k) ∧ (∀ r, r ∉ gs → t.gOf e r = s.gOf e r) ∧ (∀ r, r ∉ ps → t.pOf e r = s.pOf e r) ∧
    ∀ r n, t.laneOf e r n = s.laneOf e r n

/-- What a compare leaves in P[D], by bits 4:3 of MOD: the condition, its AND with P[D], its OR with P[D] (R66). -/
def combined (mod : Nat) (old new : Bool) : Bool := if mod / 8 = 0 then new else if mod / 8 = 1 then old && new else old || new

end Sys2Proof.Claims

open Sys2Proof Sys2Proof.Machine Sys2Proof.Claims

/-! ### Engine instructions: results and frames -/

/-- R63, R65, R60: a two-operand scalar instruction that goes writes its value with the value's own tag to G[D], and nothing else. R63, R65,
R67: the same for ABS, NEG, NOT, CLZ, POPC and MOV. R60: ADD, SUB, MUL, MULHU, NEG and MAC do not check their operands' tags against the values,
and their results carry the tags that the formulas of R60 give. -/
def Obligations.ScalarResults : Prop :=
  (∀ p ∈ carriedOperand, ∀ (s : State) (e : Fin 8) (h : Hdr) (f : FmtR), goes s e p.opc h f.fields = true →
     inTags (s.readG e f.a.toNat) → inTags (s.readG e f.b.toNat) →
     ∃ t, exec (p.ins e h f) s = .next t ∧ keepsButG e [f.d.toNat] s t ∧
       t.gOf e f.d.toNat = (if f.d = 0 then (0, 0) else carriedTW (p.val (s.readG e f.a.toNat).1 (s.readG e f.b.toNat).1)
         (p.tag (s.readG e f.a.toNat).1 (s.readG e f.b.toNat).1 (s.readG e f.a.toNat).2.toNat (s.readG e f.b.toNat).2.toNat))) ∧
  (∀ (s : State) (e : Fin 8) (h : Hdr) (f : FmtR), inTags (s.readG e f.a.toNat) →
     (goes s e 0x1D h f.fields = true → ∃ t, exec (.neg e h f) s = .next t ∧ keepsButG e [f.d.toNat] s t ∧
       t.gOf e f.d.toNat = (if f.d = 0 then (0, 0) else carriedTW (-(s.readG e f.a.toNat).1)
         (if (s.readG e f.a.toNat).1 = 0 then 0 else 123 - (s.readG e f.a.toNat).2.toNat))) ∧
     ∀ (d a b : Word) (td ta tb lo : Nat), goes s e 0x17 h f.fields = true →
       (d, BitVec.ofNat 8 td) = s.readG e f.d.toNat → (a, BitVec.ofNat 8 ta) = s.readG e f.a.toNat →
       (b, BitVec.ofNat 8 tb) = s.readG e f.b.toNat → td < 251 → ta < 251 → tb < 251 → lo = a.toNat * b.toNat % 2 ^ 32 →
       ∃ t, exec (.mac e h f) s = .next t ∧ keepsButG e [f.d.toNat] s t ∧
         t.gOf e f.d.toNat = (if f.d = 0 then (0, 0) else carriedTW (d + a * b)
           (td + (ta * tb - 123 * (a.toNat * b.toNat / 2 ^ 32 % 251 : Nat)) - 123 * ((d.toNat + lo) / 2 ^ 32 : Nat)))) ∧
  (∀ p ∈ twoOperand, ∀ (s : State) (e : Fin 8) (h : Hdr) (f : FmtR), goes s e p.opc h f.fields = true →
     intact (s.readG e f.a.toNat) = true → intact (s.readG e f.b.toNat) = true →
     ∃ t, exec (p.ins e h f) s = .next t ∧
       t.gOf e f.d.toNat =
         (if f.d = 0 then (0, 0) else newTW (p.val (s.readG e f.a.toNat).1 (s.readG e f.b.toNat).1)) ∧
       keepsButG e [f.d.toNat] s t) ∧
  (∀ p ∈ oneOperand, ∀ (s : State) (e : Fin 8) (h : Hdr) (f : FmtR), goes s e p.opc h f.fields = true →
     intact (s.readG e f.a.toNat) = true →
     ∃ t, exec (p.ins e h f) s = .next t ∧
       t.gOf e f.d.toNat = (if f.d = 0 then (0, 0) else newTW (p.val (s.readG e f.a.toNat).1 0)) ∧
       keepsButG e [f.d.toNat] s t)

/-- R64: the same for the immediate instructions with one register operand; IMM needs no tag. -/
def Obligations.ImmediateResults : Prop :=
  ∀ p ∈ Claims.immediate, ∀ (s : State) (e : Fin 8) (h : Hdr) (f : FmtI), goes s e p.opc h f.fields = true →
    intact (s.readG e f.a.toNat) = true →
    ∃ t, exec (p.ins e h f) s = .next t ∧
      t.gOf e f.d.toNat = (if f.d = 0 then (0, 0) else newTW (p.val (s.readG e f.a.toNat).1 f.imm)) ∧
      keepsButG e [f.d.toNat] s t

/-- R63: MAC, DIV and DIVU; R64: MOVI and INS. The quotient goes to G[D] and the remainder to G[C]; where the two are one register the
spec names no value, and the instruction still completes (log entry 2). -/
def Obligations.OtherArithmeticResults : Prop :=
  ∀ (s : State) (e : Fin 8) (h : Hdr) (f : FmtR) (g : FmtI),
    (goes s e 0x17 h f.fields = true → intact (s.readG e f.d.toNat) = true → intact (s.readG e f.a.toNat) = true →
      intact (s.readG e f.b.toNat) = true →
      ∃ t, exec (.mac e h f) s = .next t ∧
        t.gOf e f.d.toNat = (if f.d = 0 then (0, 0)
          else newTW ((s.readG e f.d.toNat).1 + (s.readG e f.a.toNat).1 * (s.readG e f.b.toNat).1)) ∧
        keepsButG e [f.d.toNat] s t) ∧
    (goes s e 0x1E h f.fields = true → intact (s.readG e f.a.toNat) = true → intact (s.readG e f.b.toNat) = true →
      ∃ t, exec (.div e h f) s = .next t ∧ keepsButG e [f.d.toNat, f.c.toNat] s t ∧
        (f.d ≠ f.c →
          t.gOf e f.d.toNat = (if f.d = 0 then (0, 0) else newTW (if (s.readG e f.b.toNat).1 = 0 then 0
            else BitVec.ofInt 32 ((s.readG e f.a.toNat).1.toInt.tdiv (s.readG e f.b.toNat).1.toInt))) ∧
          t.gOf e f.c.toNat = (if f.c = 0 then (0, 0) else newTW (if (s.readG e f.b.toNat).1 = 0 then (s.readG e f.a.toNat).1
            else BitVec.ofInt 32 ((s.readG e f.a.toNat).1.toInt.tmod (s.readG e f.b.toNat).1.toInt))))) ∧
    (goes s e 0x1F h f.fields = true → intact (s.readG e f.a.toNat) = true → intact (s.readG e f.b.toNat) = true →
      ∃ t, exec (.divu e h f) s = .next t ∧ keepsButG e [f.d.toNat, f.c.toNat] s t ∧
        (f.d ≠ f.c →
          t.gOf e f.d.toNat = (if f.d = 0 then (0, 0) else newTW (if (s.readG e f.b.toNat).1 = 0 then 0
            else (s.readG e f.a.toNat).1 / (s.readG e f.b.toNat).1)) ∧
          t.gOf e f.c.toNat = (if f.c = 0 then (0, 0) else newTW (if (s.readG e f.b.toNat).1 = 0 then (s.readG e f.a.toNat).1
            else (s.readG e f.a.toNat).1 % (s.readG e f.b.toNat).1)))) ∧
    (goes s e 0x22 h g.fields = true →
      ∃ t, exec (.movi e h g) s = .next t ∧ t.gOf e g.d.toNat = (if g.d = 0 then (0, 0) else newTW g.imm) ∧
        keepsButG e [g.d.toNat] s t) ∧
    (goes s e 0x2D h g.fields = true → intact (s.readG e g.d.toNat) = true → intact (s.readG e g.a.toNat) = true →
      ∃ t, exec (.ins e h g) s = .next t ∧ keepsButG e [g.d.toNat] s t ∧
        (g.d ≠ 0 → ∃ w, t.gOf e g.d.toNat = newTW w ∧ ∀ k < 32, w.getLsbD k =
          if g.imm.toNat % 32 ≤ k ∧ k ≤ g.imm.toNat % 32 + g.imm.toNat / 256 % 32
          then (s.readG e g.a.toNat).1.getLsbD (k - g.imm.toNat % 32) else (s.readG e g.d.toNat).1.getLsbD k))

/-- R66: CMP and CMPI write P[D] by the condition and the way MOD names; PAND, POR and PXOR combine P[A] with P[B], inverted first when
MOD[0] is 1. P0 keeps reading 1. R67: SEL, MFS, PTOG, MOVG and MOVV. R58, R59: under rule P the tag of SEL, MOVG, MOVV and MOV is that of the operand
the result is taken from, whether or not it is the tag of its value. -/
def Obligations.PredicateAndMoveResults : Prop :=
  (∀ (s : State) (e : Fin 8) (h : Hdr) (f : FmtR) (g : FmtI),
     (goes s e 0x40 h f.fields = true → intact (s.readG e f.a.toNat) = true → intact (s.readG e f.b.toNat) = true →
       ∃ t, exec (.cmp e h f) s = .next t ∧ keepsButP e [f.d.toNat] s t ∧
         t.pOf e f.d.toNat = (decide (f.d = 0) || combined f.mod.toNat (s.readP e f.d.toNat)
           (holds (f.mod.toNat % 8) (s.readG e f.a.toNat).1 (s.readG e f.b.toNat).1))) ∧
     (goes s e 0x2B h g.fields = true → intact (s.readG e g.a.toNat) = true →
       ∃ t, exec (.cmpi e h g) s = .next t ∧ keepsButP e [g.d.toNat] s t ∧
         t.pOf e g.d.toNat = (decide (g.d = 0) || combined g.mod.toNat (s.readP e g.d.toNat)
           (holds (g.mod.toNat % 8) (s.readG e g.a.toNat).1 g.imm))) ∧
     (goes s e 0x41 h f.fields = true → ∃ t, exec (.pand e h f) s = .next t ∧ keepsButP e [f.d.toNat] s t ∧
         t.pOf e f.d.toNat = (decide (f.d = 0) || (s.readP e f.a.toNat && (s.readP e f.b.toNat ^^ f.mod.getLsbD 0)))) ∧
     (goes s e 0x42 h f.fields = true → ∃ t, exec (.por e h f) s = .next t ∧ keepsButP e [f.d.toNat] s t ∧
         t.pOf e f.d.toNat = (decide (f.d = 0) || (s.readP e f.a.toNat || (s.readP e f.b.toNat ^^ f.mod.getLsbD 0)))) ∧
     (goes s e 0x43 h f.fields = true → ∃ t, exec (.pxor e h f) s = .next t ∧ keepsButP e [f.d.toNat] s t ∧
         t.pOf e f.d.toNat = (decide (f.d = 0) || (s.readP e f.a.toNat ^^ (s.readP e f.b.toNat ^^ f.mod.getLsbD 0))))) ∧
  (∀ (s : State) (e : Fin 8) (h : Hdr) (f : FmtR),
     (goes s e 0x51 h f.fields = true → inTags (s.readG e f.a.toNat) → inTags (s.readG e f.b.toNat) →
       ∃ t, exec (.sel e h f) s = .next t ∧ keepsButG e [f.d.toNat] s t ∧
         t.gOf e f.d.toNat = (if f.d = 0 then (0, 0)
           else if s.readP e f.c.toNat = true then s.readG e f.a.toNat else s.readG e f.b.toNat)) ∧
     (goes s e 0x52 h f.fields = true →
       ∃ t, exec (.mfs e h f) s = .next t ∧ keepsButG e [f.d.toNat] s t ∧
         t.gOf e f.d.toNat = (if f.d = 0 then (0, 0) else newTW
           (if f.mod.toNat = 0 then BitVec.ofNat 32 s.frame.toNat else if f.mod.toNat = 1 then BitVec.ofNat 32 (s.frame.toNat / 2 ^ 32)
            else if f.mod.toNat = 2 then (s.en e).slice
            else BitVec.ofNat 32 ((s.en e).budget - (issuePoint s e 0x52 h f.fields).cyc)))) ∧
     (goes s e 0x55 h f.fields = true →
       ∃ t, exec (.ptog e h f) s = .next t ∧ keepsButG e [f.d.toNat] s t ∧
         t.gOf e f.d.toNat = (if f.d = 0 then (0, 0) else newTW (if s.readP e f.a.toNat = true then 1 else 0))) ∧
     (goes s e 0x50 h f.fields = true → inTags (s.readG e f.a.toNat) →
       ∃ t, exec (.mov e h f) s = .next t ∧ keepsButG e [f.d.toNat] s t ∧
         t.gOf e f.d.toNat = (if f.d = 0 then (0, 0) else s.readG e f.a.toNat)) ∧
     (goes s e 0x54 h f.fields = true → inTags (s.readLane e f.a.toNat f.mod.toNat) →
       ∃ t, exec (.movg e h f) s = .next t ∧ keepsButG e [f.d.toNat] s t ∧
         t.gOf e f.d.toNat = (if f.d = 0 then (0, 0) else s.readLane e f.a.toNat f.mod.toNat)) ∧
     (goes s e 0x53 h f.fields = true → inTags (s.readG e f.a.toNat) →
       ∃ t, exec (.movv e h f) s = .next t ∧ keepsButV e f.d.toNat [f.mod.toNat] s t ∧
         t.laneOf e f.d.toNat f.mod.toNat = s.readG e f.a.toNat))

/-- R72: the lane-wise instructions write the lanes that MASK selects, each with its own tag; a lane not selected keeps its value and tag.
R72: VMAC, VSPL and VSEL on the selected lanes; VSUM over all lanes and VCMP over the selected ones into G[D]. -/
def Obligations.AllVectorResults : Prop :=
  ((∀ p ∈ twoVector, ∀ (s : State) (e : Fin 8) (h : Hdr) (f : FmtR), goes s e p.opc h f.fields = true →
     lanesIntact s e f.a.toNat f.mask → lanesIntact s e f.b.toNat f.mask →
     ∃ t, exec (p.ins e h f) s = .next t ∧ keepsButV e f.d.toNat (selected f.mask) s t ∧
       ∀ n < 8, f.mask.getLsbD n = true →
         t.laneOf e f.d.toNat n = newTW (p.val (s.readLane e f.a.toNat n).1 (s.readLane e f.b.toNat n).1)) ∧
   (∀ p ∈ oneVector, ∀ (s : State) (e : Fin 8) (h : Hdr) (f : FmtR), goes s e p.opc h f.fields = true →
     lanesIntact s e f.a.toNat f.mask →
     ∃ t, exec (p.ins e h f) s = .next t ∧ keepsButV e f.d.toNat (selected f.mask) s t ∧
       ∀ n < 8, f.mask.getLsbD n = true →
         t.laneOf e f.d.toNat n = newTW (p.val (s.readLane e f.a.toNat n).1 (BitVec.ofNat 32 f.mod.toNat)))) ∧
  (∀ (s : State) (e : Fin 8) (h : Hdr) (f : FmtR),
     (goes s e 0x84 h f.fields = true → lanesIntact s e f.d.toNat f.mask → lanesIntact s e f.a.toNat f.mask →
       lanesIntact s e f.b.toNat f.mask →
       ∃ t, exec (.vmac e h f) s = .next t ∧ keepsButV e f.d.toNat (selected f.mask) s t ∧
         ∀ n < 8, f.mask.getLsbD n = true → t.laneOf e f.d.toNat n =
           newTW ((s.readLane e f.d.toNat n).1 + (s.readLane e f.a.toNat n).1 * (s.readLane e f.b.toNat n).1)) ∧
     (goes s e 0x87 h f.fields = true → intact (s.readG e f.a.toNat) = true →
       ∃ t, exec (.vspl e h f) s = .next t ∧ keepsButV e f.d.toNat (selected f.mask) s t ∧
         ∀ n < 8, f.mask.getLsbD n = true → t.laneOf e f.d.toNat n = s.readG e f.a.toNat) ∧
     (goes s e 0x98 h f.fields = true → intact (s.readG e f.c.toNat) = true → lanesIntact s e f.a.toNat f.mask →
       lanesIntact s e f.b.toNat f.mask →
       ∃ t, exec (.vsel e h f) s = .next t ∧ keepsButV e f.d.toNat (selected f.mask) s t ∧
         ∀ n < 8, f.mask.getLsbD n = true → t.laneOf e f.d.toNat n =
           if (s.readG e f.c.toNat).1.getLsbD n then s.readLane e f.a.toNat n else s.readLane e f.b.toNat n) ∧
     (goes s e 0x88 h f.fields = true → lanesIntact s e f.a.toNat 0xFF →
       ∃ t, exec (.vsum e h f) s = .next t ∧ keepsButG e [f.d.toNat] s t ∧
         t.gOf e f.d.toNat = (if f.d = 0 then (0, 0) else newTW (BitVec.ofNat 32
           ((List.range 8).map fun n => (s.readLane e f.a.toNat n).1.toNat).sum))) ∧
     (goes s e 0x97 h f.fields = true → lanesIntact s e f.a.toNat f.mask → lanesIntact s e f.b.toNat f.mask →
       ∃ t, exec (.vcmp e h f) s = .next t ∧ keepsButG e [f.d.toNat] s t ∧
         (f.d ≠ 0 → ∃ w, t.gOf e f.d.toNat = newTW w ∧ ∀ n < 32, w.getLsbD n =
           (f.mask.getLsbD n && holds f.mod.toNat (s.readLane e f.a.toNat n).1 (s.readLane e f.b.toNat n).1))))

/-- R47, R48, R59, R68, R71: the loads. The access is aligned and inside its region; a word comes from DMEM and FMEM with its tag, which
lies below 251, and from BLOCK with a new one when no earlier BLOCK store of the engine is on its way; otherwise the load waits behind
those stores and its register stays until it is performed. R47, R48, R50, R68: the stores. ST
and STV write the words at the computed offset with their tags and no other byte; a BLOCK store joins the stores on their way, behind the
earlier ones. -/
def Obligations.LoadAndStoreResults : Prop :=
  (∀ (s : State) (e : Fin 8) (h : Hdr) (f : FmtM) (o : Nat),
     intact (s.readG e f.a.toNat) = true → intact (s.readG e f.b.toNat) = true →
     o = regionOffset (s.readG e f.a.toNat).1 (s.readG e f.b.toNat).1 f.shift.toNat f.offset →
     (goes s e 0x60 h f.fields = true → accessOk f.space.toNat o false = true → f.space.toNat < 2 →
       (memWord s e f.space.toNat o).2.toNat < 251 →
       ∃ t, exec (.ld e h f) s = .next t ∧ keepsButG e [f.d.toNat] s t ∧
         t.gOf e f.d.toNat = (if f.d = 0 then (0, 0) else memWord s e f.space.toNat o)) ∧
     (goes s e 0x60 h f.fields = true → accessOk f.space.toNat o false = true → f.space.toNat = 2 → (s.en e).stores = [] →
       ∃ t, exec (.ld e h f) s = .next t ∧ keepsButG e [f.d.toNat] s t ∧
         t.gOf e f.d.toNat = (if f.d = 0 then (0, 0) else newTW
           (((atIssue s e 0x60 h f.fields).readyIn (issuePoint s e 0x60 h f.fields) (loadLatency (atIssue s e 0x60 h f.fields) 2 false)
             (Use.key .gw f.d.toNat)).spend.view o))) ∧
     (goes s e 0x60 h f.fields = true → accessOk f.space.toNat o false = true → f.space.toNat = 2 → (s.en e).stores ≠ [] → f.d ≠ 0 →
       ∃ t, exec (.ld e h f) s = .next t ∧ keepsButG e [] s t ∧
         (t.en e).loads = (s.en e).loads.filter (fun l => decide (l.d ≠ f.d.toNat)) ++
           [⟨f.d.toNat, o, (s.en e).stores.length, (issuePoint s e 0x60 h f.fields).cyc⟩]) ∧
     (goes s e 0x62 h f.fields = true → accessOk f.space.toNat o true = true →
       (∀ n < 8, (memWord s e f.space.toNat (o + 4 * n)).2.toNat < 251) →
       ∃ t, exec (.ldv e h f) s = .next t ∧ keepsButV e f.d.toNat [0, 1, 2, 3, 4, 5, 6, 7] s t ∧
         ∀ n < 8, t.laneOf e f.d.toNat n = memWord s e f.space.toNat (o + 4 * n))) ∧
  (∀ (s : State) (e : Fin 8) (h : Hdr) (f : FmtM) (o : Nat),
     intact (s.readG e f.a.toNat) = true → intact (s.readG e f.b.toNat) = true →
     o = regionOffset (s.readG e f.a.toNat).1 (s.readG e f.b.toNat).1 f.shift.toNat f.offset →
     (goes s e 0x61 h f.fields = true → intact (s.readG e f.d.toNat) = true → accessOk f.space.toNat o false = true → f.space.toNat < 2 →
       ∃ t, exec (.st e h f) s = .next t ∧ memWord t e f.space.toNat o = s.readG e f.d.toNat ∧
         keepsButBytes e f.space.toNat o 4 s t) ∧
     (goes s e 0x61 h f.fields = true → intact (s.readG e f.d.toNat) = true → accessOk f.space.toNat o false = true → f.space.toNat = 2 →
       ∃ t, exec (.st e h f) s = .next t ∧ onlyEngine e s t ∧
         (t.en e).stores = (s.en e).stores ++ [⟨o, (s.readG e f.d.toNat).1, (s.readG e f.d.toNat).2, (s.en e).task, none⟩] ∧
         (t.en e).rf = (s.en e).rf ∧ (t.en e).dmem = (s.en e).dmem ∧ (t.en e).dmemTag = (s.en e).dmemTag) ∧
     (goes s e 0x63 h f.fields = true → lanesIntact s e f.d.toNat 0xFF → accessOk f.space.toNat o true = true →
       ∃ t, exec (.stv e h f) s = .next t ∧ (∀ n < 8, memWord t e f.space.toNat (o + 4 * n) = s.readLane e f.d.toNat n) ∧
         keepsButBytes e f.space.toNat o 32 s t))

/-- R69 to R71: LUT gives the entry numbered by the operand, held to the table; LUTI gives the first entry at or below X0, the last at or
beyond its end, and between two entries their linear interpolation, rounded down (that the difference x − x0 is exact is log entry 64, that each word read must lie in DMEM log entry 63). Every
word read from the table carries its own tag. -/
def Obligations.TableResults : Prop :=
  ∀ (s : State) (e : Fin 8) (h : Hdr) (f : FmtI) (n sh : Nat) (x : Int) (y : Nat → Word),
    intact (s.readG e f.a.toNat) = true → x = (s.readG e f.a.toNat).1.toInt → f.imm.toNat % 4 = 0 →
    (goes s e 0x70 h f.fields = true → 1 ≤ n → n ≤ 256 → f.imm.toNat + 4 + 4 * n ≤ 0x20000 →
      memWord s e 0 f.imm.toNat = newTW (BitVec.ofNat 32 n) →
      (∀ k < n, memWord s e 0 (f.imm.toNat + 4 + 4 * k) = newTW (y k)) →
      ∃ t, exec (.lut e h f) s = .next t ∧ keepsButG e [f.d.toNat] s t ∧
        t.gOf e f.d.toNat = (if f.d = 0 then (0, 0) else newTW (y (max 0 (min x (n - 1))).toNat))) ∧
    (∀ x0 : Word, goes s e 0x71 h f.fields = true → 2 ≤ n → n ≤ 257 → sh ≤ 24 → f.imm.toNat + 8 + 4 * n ≤ 0x20000 →
      memWord s e 0 f.imm.toNat = newTW (BitVec.ofNat 32 (n + sh * 2 ^ 16)) → memWord s e 0 (f.imm.toNat + 4) = newTW x0 →
      (∀ k < n, memWord s e 0 (f.imm.toNat + 8 + 4 * k) = newTW (y k)) →
      ∃ t, exec (.luti e h f) s = .next t ∧ keepsButG e [f.d.toNat] s t ∧
        (f.d ≠ 0 →
          (x ≤ x0.toInt → t.gOf e f.d.toNat = newTW (y 0)) ∧
          (∀ k : Nat, x = x0.toInt + k → (n - 1) * 2 ^ sh ≤ k → t.gOf e f.d.toNat = newTW (y (n - 1))) ∧
          (∀ k r : Nat, x = x0.toInt + (k * 2 ^ sh + r : Nat) → r < 2 ^ sh → 0 < k * 2 ^ sh + r → k + 1 < n → t.gOf e f.d.toNat =
            newTW (BitVec.ofInt 32 ((y k).toInt + ((y (k + 1)).toInt - (y k).toInt) * r / 2 ^ sh)))))

/-- R43, R73, R74: where an engine stands after an instruction has issued. In slot 0 of a bundle and everywhere but at the end of a loop
body it is the next index; at the end of the innermost body it is the body's start while passes are left, and one pass fewer is left. After the
last pass the loop is over, and the engine goes on behind the body, or with the next pass of the loop around it where that one ends there too. -/
def Obligations.IssueAdvances : Prop :=
  ∀ (s : State) (e : Fin 8) (opc : Nat) (h : Hdr) (f : Fields), issuesNow s e opc h f = true →
    (((s.en e).old = none → h.pair = true →
      ((atIssue s e opc h f).en e).pc = (s.en e).pc + 1 ∧ ((atIssue s e opc h f).en e).loops = (s.en e).loops) ∧
    (((s.en e).old.isSome = true ∨ h.pair = false) →
      ((s.en e).loops = [] → ((atIssue s e opc h f).en e).pc = (s.en e).pc + 1) ∧
      (∀ l ls, (s.en e).loops = l :: ls → l.depth = (s.en e).ret.length → l.stop = (s.en e).pc → 1 < l.left →
        ((atIssue s e opc h f).en e).pc = l.start ∧ ((atIssue s e opc h f).en e).loops = { l with left := l.left - 1 } :: ls) ∧
      (∀ l ls, (s.en e).loops = l :: ls → l.depth = (s.en e).ret.length → l.stop = (s.en e).pc → l.left ≤ 1 →
        ((∀ k ks, ls = k :: ks → k.depth ≠ (s.en e).ret.length ∨ k.stop ≠ (s.en e).pc) →
          ((atIssue s e opc h f).en e).pc = (s.en e).pc + 1 ∧ ((atIssue s e opc h f).en e).loops = ls) ∧
        (∀ k ks, ls = k :: ks → k.depth = (s.en e).ret.length → k.stop = (s.en e).pc → 1 < k.left →
          ((atIssue s e opc h f).en e).pc = k.start ∧ ((atIssue s e opc h f).en e).loops = { k with left := k.left - 1 } :: ks)) ∧
      (∀ l ls, (s.en e).loops = l :: ls → (l.depth ≠ (s.en e).ret.length ∨ l.stop ≠ (s.en e).pc) →
        ((atIssue s e opc h f).en e).pc = (s.en e).pc + 1 ∧ ((atIssue s e opc h f).en e).loops = l :: ls)))

/-- R62, R73, R75: the control instructions. BR goes on at its target when its predicate holds and otherwise at the next index; CALL pushes
the next index when its predicate holds, and otherwise goes on at it and pushes nothing; RET pops it; LOOP enters its body for min(a, n) passes or skips it; JT enters its table at min(a, n); END ends the
slice and shows its cycles, that of END among them (log entry 22). -/
def Obligations.ControlResults : Prop :=
  ∀ (s : State) (e : Fin 8) (h : Hdr) (f : FmtC),
    (goes s e 0x00 h f.fields = true → exec (.nop e h f) s = .next (atIssue s e 0x00 h f.fields)) ∧
    (issuesNow s e 0x01 h f.fields = true →
      ∃ t, exec (.br e h f) s = .next t ∧ onlyEngine e s t ∧ (t.en e).rf = (s.en e).rf ∧ (t.en e).ret = (s.en e).ret ∧
        (t.en e).pc = (if predTrue s e h = true then f.target.toNat else ((atIssue s e 0x01 h f.fields).en e).pc) ∧
        (issuePoint s e 0x01 h f.fields).cyc + 3 ≤ (t.en e).cyc) ∧
    (goes s e 0x02 h f.fields = true → (s.en e).ret.length < 8 →
      ∃ t, exec (.call e h f) s = .next t ∧ onlyEngine e s t ∧ (t.en e).rf = (s.en e).rf ∧ (t.en e).pc = f.target.toNat ∧
        (t.en e).ret = ((s.en e).pc + 1) :: (s.en e).ret ∧ (t.en e).loops = (s.en e).loops) ∧
    (issuesNow s e 0x02 h f.fields = true → predTrue s e h = false →
      ∃ t, exec (.call e h f) s = .next t ∧ onlyEngine e s t ∧ (t.en e).rf = (s.en e).rf ∧ (t.en e).ret = (s.en e).ret ∧
        (t.en e).pc = ((atIssue s e 0x02 h f.fields).en e).pc ∧ (t.en e).loops = ((atIssue s e 0x02 h f.fields).en e).loops ∧
        (issuePoint s e 0x02 h f.fields).cyc + 3 ≤ (t.en e).cyc) ∧
    (∀ r rs, issuesNow s e 0x03 h f.fields = true → (s.en e).ret = (r + 1) :: rs →
      (∀ l ∈ (s.en e).loops, l.depth = rs.length → l.stop ≠ r) →
      ∃ t, exec (.ret e h f) s = .next t ∧ onlyEngine e s t ∧ (t.en e).rf = (s.en e).rf ∧ (t.en e).pc = r + 1 ∧ (t.en e).ret = rs) ∧
    (∀ n : Nat, issuesNow s e 0x04 h f.fields = true → intact (s.readG e f.a.toNat) = true →
      n = (if f.a = 0 then f.bound.toNat else min (s.readG e f.a.toNat).1.toNat f.bound.toNat) →
      (0 < n → (s.en e).loops.length < 4 →
        ∃ t, exec (.loop e h f) s = .next t ∧ onlyEngine e s t ∧ (t.en e).rf = (s.en e).rf ∧ (t.en e).pc = (s.en e).pc + 1 ∧
          (t.en e).loops = ⟨(s.en e).pc + 1, f.aux.toNat, n, (s.en e).ret.length⟩ :: (s.en e).loops) ∧
      (n = 0 → (∀ l ∈ (s.en e).loops, l.depth = (s.en e).ret.length → l.stop ≠ f.aux.toNat) →
        ∃ t, exec (.loop e h f) s = .next t ∧ onlyEngine e s t ∧ (t.en e).rf = (s.en e).rf ∧ (t.en e).pc = f.aux.toNat + 1 ∧
          (t.en e).loops = (s.en e).loops)) ∧
    (issuesNow s e 0x05 h f.fields = true → intact (s.readG e f.a.toNat) = true →
      ∃ t, exec (.jt e h f) s = .next t ∧ onlyEngine e s t ∧ (t.en e).rf = (s.en e).rf ∧
        (t.en e).pc = (s.en e).pc + 1 + min (s.readG e f.a.toNat).1.toNat f.bound.toNat) ∧
    (goes s e 0x06 h f.fields = true →
      ∃ t, exec (.end_ e h f) s = .next t ∧ (t.en e).state = .idle ∧ (t.en e).slice = 0 ∧ (t.en e).budget = 0 ∧
        t.rf (Reg.BE_CYC e) 0 20 = min ((issuePoint s e 0x06 h f.fields).cyc + 1) (2 ^ 20 - 1) ∧
        (∀ a, a ≠ Reg.BE_CYC e → t.rd a = s.rd a) ∧ (∀ k, k ≠ e.val → t.en k = s.en k))

/-- R77, R84: TIME, INREC, TOKEN, FENCE, CHK, FAULT and BKPT. -/
def Obligations.FrameAndSystemResults : Prop :=
  ∀ (s : State) (e : Fin 8) (h : Hdr) (f : FmtX),
    (goes s e 0xB0 h f.fields = true →
      ∃ t, exec (.time e h f) s = .next t ∧ keepsButG e [f.d.toNat] s t ∧
        (f.d ≠ 0 → ∃ v : Nat, t.gOf e f.d.toNat = newTW (BitVec.ofNat 32 v) ∧ v < s.period ∧
          v ≤ (s.en e).startEdge + 2 * (issuePoint s e 0xB0 h f.fields).cyc + 2 ∧
          (v = s.period - 1 ∨ (s.en e).startEdge + 2 * (issuePoint s e 0xB0 h f.fields).cyc ≤ v + 2))) ∧
    (goes s e 0xB1 h f.fields = true →
      ∃ t, exec (.inrec e h f) s = .next t ∧ keepsButG e [f.d.toNat] s t ∧
        t.gOf e f.d.toNat = (if f.d = 0 then (0, 0) else newTW (BitVec.ofNat 32 (recordAddr s.frame.toNat)))) ∧
    (goes s e 0xB2 h f.fields = true → intact (s.readG e f.a.toNat) = true →
      ∃ t, exec (.token e h f) s = .next t ∧ onlyEngine e s t ∧ (t.en e).rf = (s.en e).rf ∧
        (t.en e).stores = (s.en e).stores ++
          [⟨Reg.LSW_WDTOK, (s.readG e f.a.toNat).1, (s.readG e f.a.toNat).2, (s.en e).task, some (f.imm.setWidth 12)⟩]) ∧
    (goes s e 0xB3 h f.fields = true → (s.en e).stores = [] → exec (.fence e h f) s = .next (atIssue s e 0xB3 h f.fields)) ∧
    (goes s e 0xB3 h f.fields = true → (s.en e).stores ≠ [] →
      ∃ t, exec (.fence e h f) s = .next t ∧ (t.en e).wait = .fence ∧ onlyEngine e s t ∧ (t.en e).rf = (s.en e).rf) ∧
    (goes s e 0xE0 h f.fields = true → intact (s.readG e f.a.toNat) = true →
      exec (.chk e h f) s = .next (atIssue s e 0xE0 h f.fields)) ∧
    (goes s e 0xE1 h f.fields = true →
      exec (.fault e h f) s = .next ((atIssue s e 0xE1 h f.fields).raise (f.imm.toNat % 16)
        (BitVec.ofNat 32 (e.val * 2 ^ 16 + (s.en e).pc % 2 ^ 15)))) ∧
    (goes s e 0xE2 h f.fields = true → s.flag Reg.PEG_STAT 9 = true →
      ∃ t, exec (.bkpt e h f) s = .next t ∧ t.sys.mode = .freeze) ∧
    (goes s e 0xE2 h f.fields = true → s.flag Reg.PEG_STAT 9 = false →
      ∃ t, exec (.bkpt e h f) s = .next t ∧ t.flag Reg.PEG_STAT 3 = true)

/-- R78, R80, R81, R144, R159, R160: the Scribe instructions. SPOSE flags a pose whose instant lies outside its range or is not after the
last one, and puts any other at the head of the poses that Scribe holds. SQRY is not started, with ticket 0, where it takes the frame's
outlets above 256, names an outlet above 255 or an address that is not one; any other query is held with a ticket of its own and its bound.
SWAIT gives 0 for a ticket that names no query of this frame and for one whose query is lost or past its bound, 1 for a complete query, and
otherwise waits (with a false predicate log entry 55). SMARK of an outlet that takes its marks elsewhere is discarded, and one that follows the outlet's last mark enters marking. Which
ticket a query gets is open (log entry 2); bit 0 of the edge word alone is the edge (log entry 65), and one flag is set where several cases of
R144 or R161 apply (log entry 97).
-/
def Obligations.ScribeResults : Prop :=
  ∀ (s u : State) (e : Fin 8) (h : Hdr) (f : FmtX),
    (∀ z : Int, goes s e 0xC0 h f.fields = true → lanesIntact s e f.a.toNat 0xFF → u = atIssue s e 0xC0 h f.fields →
      z = (s.readLane e f.a.toNat 7).1.toInt →
      (z < -16000000 ∨ 0 < z → exec (.spose e h f) s = .next (u.setFlag Reg.SCR_STAT 1 true)) ∧
      (-16000000 ≤ z → z ≤ 0 → (∃ p ps, s.scr.poses = p :: ps ∧ s.base + z ≤ p.at_) →
        exec (.spose e h f) s = .next (u.setFlag Reg.SCR_STAT 2 true)) ∧
      (-16000000 ≤ z → z ≤ 0 → (∀ p ps, s.scr.poses = p :: ps → p.at_ < s.base + z) →
        ∃ t, exec (.spose e h f) s = .next t ∧ keepsRegs e [] [] s t ∧
          t.scr.poses = ((⟨s.base + z, s.frame, (s.readLane e f.a.toNat 0).1.toInt, (s.readLane e f.a.toNat 1).1.toInt,
            (s.readLane e f.a.toNat 2).1.toInt, (s.readLane e f.a.toNat 3).1.toInt, (s.readLane e f.a.toNat 4).1.toInt,
            (s.readLane e f.a.toNat 5).1.toInt, (s.readLane e f.a.toNat 6).1.toInt⟩ : Pose) :: s.scr.poses).take 4096 ∧
          (s.scr.marks = [] → t = { u with scr := { u.scr with poses := t.scr.poses } }))) ∧
    (∀ a n o : Nat, goes s e 0xC1 h f.fields = true → intact (s.readG e f.a.toNat) = true → intact (s.readG e f.b.toNat) = true →
      a = (s.readG e f.a.toNat).1.toNat → n = f.imm.toNat % 512 → o = (s.readG e f.b.toNat).1.toNat % 2 ^ 29 →
      (256 < s.rf Reg.SCR_STAT 16 9 + n ∨ 256 < a + n ∨ o % 16 ≠ 0 ∨ 0x400000 < o + 16 * n →
        ∃ t, exec (.sqry e h f) s = .next t ∧ keepsRegs e [f.d.toNat] [] s t ∧ t.gOf e f.d.toNat = (0, 0) ∧ t.scr = s.scr ∧
          t.rf Reg.SCR_CNT 16 16 = min (s.rf Reg.SCR_CNT 16 16 + 1) 65535 ∧
          (o % 16 ≠ 0 ∨ 0x400000 < o + 16 * n → t.flag Reg.SCR_STAT 4 = true)) ∧
      (s.rf Reg.SCR_STAT 16 9 + n ≤ 256 → a + n ≤ 256 → o % 16 = 0 → o + 16 * n ≤ 0x400000 →
        ∃ (t : State) (q : Query), exec (.sqry e h f) s = .next t ∧ keepsRegs e [f.d.toNat] [] s t ∧
          t.gOf e f.d.toNat = (if f.d = 0 then (0, 0) else newTW q.ticket) ∧ t.scr.started = q.ticket :: s.scr.started ∧
          (s.scr.started.length ≤ 256 → q.ticket ≠ 0 ∧ q.ticket ∉ s.scr.started) ∧ t.scr.queries = s.scr.queries ++ [q] ∧
          q.frame = s.frame ∧ q.count = n ∧ q.addr = o ∧ q.outlets.map (·.num) = (List.range n).map (a + ·) ∧
          q.bound = (atIssue s e 0xC1 h f.fields).now + 2 * (600 + 60 * n) ∧ t.rf Reg.SCR_STAT 16 9 = s.rf Reg.SCR_STAT 16 9 + n)) ∧
    (∀ k : Word, goes s e 0xC2 h f.fields = true → intact (s.readG e f.a.toNat) = true → k = (s.readG e f.a.toNat).1 →
      (k = 0 ∨ k ∉ s.scr.started →
        ∃ t, exec (.swait e h f) s = .next t ∧ keepsButP e [f.d.toNat] s t ∧ t.pOf e f.d.toNat = decide (f.d = 0)) ∧
      (k ≠ 0 → k ∈ s.scr.started → k ∈ s.scr.done →
        ∃ t, exec (.swait e h f) s = .next t ∧ keepsButP e [f.d.toNat] s t ∧ t.pOf e f.d.toNat = true) ∧
      (k ≠ 0 → k ∈ s.scr.started → k ∉ s.scr.done →
        (∀ q ∈ s.scr.queries, q.ticket = k → q.frame ≠ s.frame) ∨ SMap.get 0 s.scr.bounds k.toNat < (atIssue s e 0xC2 h f.fields).now →
        ∃ t, exec (.swait e h f) s = .next t ∧ keepsButP e [f.d.toNat] s t ∧ t.pOf e f.d.toNat = decide (f.d = 0)) ∧
      (k ≠ 0 → k ∈ s.scr.started → k ∉ s.scr.done → (∃ q ∈ s.scr.queries, q.ticket = k ∧ q.frame = s.frame) →
        (atIssue s e 0xC2 h f.fields).now ≤ SMap.get 0 s.scr.bounds k.toNat →
        ∃ t, exec (.swait e h f) s = .next t ∧ onlyEngine e s t ∧ (t.en e).rf = (s.en e).rf ∧ (t.en e).wait = .query f.d.toNat k)) ∧
    (∀ (k : Nat) (on : Bool) (at_ : Int), goes s e 0xC3 h f.fields = true → lanesIntact s e f.a.toNat 0x1F →
      u = atIssue s e 0xC3 h f.fields → k = (s.readLane e f.a.toNat 0).1.toNat → on = (s.readLane e f.a.toNat 1).1.getLsbD 0 →
      at_ = s.base + (((s.readLane e f.a.toNat 3).1.setWidth 16 ++ (s.readLane e f.a.toNat 2).1 : BitVec 48) - s.frame).toInt * s.period
        + ((s.readLane e f.a.toNat 4).1.toNat + ((if markSrc s k = 0 then delayInUse s k on else 0) + addOn s k on) * 10000 : Nat) →
      (256 ≤ k → exec (.smark e h f) s = .next u) ∧
      (k < 256 → 2 ≤ markSrc s k → exec (.smark e h f) s = .next ((u.setFlag Reg.SCR_STAT 10 true).count Reg.SCR_CNT 0 16 1)) ∧
      (k < 256 → markSrc s k < 2 → markingOn s = true → s.scr.accepted < 512 → (s.marking k).delivering ≠ on →
        (∀ p, s.scr.poses.getLast? = some p → p.at_ ≤ at_) → (∀ l, lastMarked (s.marking k) = some l → l ≤ at_) →
        ∃ t, exec (.smark e h f) s = .next t ∧ keepsRegs e [] [] s t ∧ t.scr.accepted = s.scr.accepted + 1 ∧
          (t.marking k).delivering = on ∧ (∀ j, j ≠ k → t.marking j = s.marking j) ∧
          (s.scr.poses = [] → (t.marking k).ahead = (s.marking k).ahead ++ [⟨on, at_⟩] ∧ t.regs = s.regs)))

/-- R82, R118, R119, R121, R125: the transaction instructions of the task that runs the slice (log entry 37): granted, again (log entry 91), in place of
a lower engine's BEGIN of the same CORE cycle (log entry 10), or BUSY; the commit of its own open
slot begins the check that answers it, once the engine's stores have arrived (log entry 36), and any other is refused with NO_TXN, NOT_OWNER or LATE; its
own open slot rolls back with ROLLED. R83, R395 to R397: JPUT appends an entry with the next SEQ, whose low word it gives, and refuses one
where the next slot holds an open entry or the type is the device's own (which SEQ is next and which entries are open is log entry 20); JSYNC gives 1 for an entry that is durable, and
otherwise waits. -/
def Obligations.TransactionAndJournalInstructions : Prop :=
  (∀ (s : State) (e : Fin 8) (h : Hdr) (f : FmtX) (me : Holder), me = .engines (s.en e).task → s.clocked = true → s.sys.mode ≠ .boot →
     (goes s e 0xD0 h f.fields = true →
       (s.txn.state = .free →
         ∃ t, exec (.tbegin e h f) s = .next t ∧ t.txn = { Txn.reset with
             state := .opened, holder := me, beganAt := (atIssue s e 0xD0 h f.fields).now / 2, begins := [⟨2 + e, me, some (e.val, f.d.toNat)⟩] } ∧
           resultOnly s t 0 ∧
           keepsRegs e [] [f.d.toNat] s t ∧ t.pOf e f.d.toNat = true ∧
           { t with regs := s.regs, txn := s.txn, eng := s.eng } = { s with edge := t.edge }) ∧
       (s.txn.state = .opened ∨ s.txn.state = .checking → s.txn.holder = me →
         ∃ t, exec (.tbegin e h f) s = .next t ∧ { t.txn with begins := s.txn.begins } = s.txn ∧ resultOnly s t 0 ∧ keepsRegs e [] [f.d.toNat] s t ∧
           t.pOf e f.d.toNat = true) ∧
       (s.txn.state ≠ .free → s.txn.state = .pending ∨ s.txn.holder ≠ me →
         (∀ r, openRank (atIssue s e 0xD0 h f.fields) = some r → r ≤ 2 + e) →
         ∃ t, exec (.tbegin e h f) s = .next t ∧ { t.txn with begins := s.txn.begins } = s.txn ∧ t.rf Reg.TXN_STAT 8 8 = 1 ∧
           keepsRegs e [] [f.d.toNat] s t ∧ t.pOf e f.d.toNat = decide (f.d = 0)) ∧
       (∀ r, s.txn.holder ≠ me → openRank (atIssue s e 0xD0 h f.fields) = some r → 2 + e.val < r →
         ∃ t, exec (.tbegin e h f) s = .next t ∧ t.txn.state = .opened ∧ t.txn.holder = me ∧ t.txn.shadow = [] ∧
           t.rf Reg.TXN_STAT 8 8 = 1 ∧ t.pOf e f.d.toNat = true)) ∧
     (goes s e 0xD1 h f.fields = true → (s.en e).stores = [] →
       (s.txn.state = .opened → s.txn.holder = me →
         ∃ t, exec (.tcommit e h f) s = .next t ∧ keepsRegs e [] [] s t ∧ (t.en e).wait = .commit f.d.toNat ∧ t.regs = s.regs ∧
           t.txn = { s.txn with state := .checking, waiter := some e.val,
                                applyAt := (s.frame.toNat + (if s.closed then 2 else 1)) % 2 ^ 48 }) ∧
       (∀ st : Nat, st = (if s.txn.state = .free then 3 else if s.txn.holder ≠ me then 2 else 10) →
         s.txn.state ≠ .opened ∨ s.txn.holder ≠ me →
         ∃ t, exec (.tcommit e h f) s = .next t ∧ t.txn = s.txn ∧ t.rf Reg.TXN_STAT 8 8 = st ∧ keepsRegs e [f.d.toNat] [] s t ∧
           t.gOf e f.d.toNat = (if f.d = 0 then (0, 0) else newTW (BitVec.ofNat 32 st)))) ∧
     (goes s e 0xD1 h f.fields = true → (s.en e).stores ≠ [] →
       ∃ t, exec (.tcommit e h f) s = .next t ∧ onlyEngine e s t ∧ (t.en e).rf = (s.en e).rf ∧ (t.en e).wait = .commitDue f.d.toNat) ∧
     (goes s e 0xD2 h f.fields = true →
       (s.txn.state = .opened → s.txn.holder = me →
         ∃ t, exec (.troll e h f) s = .next t ∧ t.txn = Txn.reset ∧ t.rf Reg.TXN_STAT 8 8 = 9 ∧ keepsRegs e [] [] s t) ∧
       (s.txn.state ≠ .opened ∨ s.txn.holder ≠ me →
         ∃ t, exec (.troll e h f) s = .next t ∧ t.txn = s.txn ∧ keepsRegs e [] [] s t ∧
           t.rf Reg.TXN_STAT 8 8 = if s.txn.state = .free then 3 else if s.txn.holder ≠ me then 2 else 10))) ∧
  (∀ (s : State) (e : Fin 8) (h : Hdr) (f : FmtX),
     (∀ ty n : Nat, goes s e 0xD3 h f.fields = true → ty = f.imm.toNat % 2 ^ 16 → n = f.imm.toNat / 2 ^ 16 % 16 →
       (∀ k < n, k < 8 → intact (s.readLane e f.a.toNat k) = true) →
       (ty < 0xFF00 ∨ ty = 0xFFFF → jrnFull s = false →
         ∃ t, exec (.jput e h f) s = .next t ∧ t.jrn.head = s.jrn.head + 1 ∧
           t.jrn.opened = (if ty < 0xFF00 then s.jrn.opened ++ [s.jrn.head] else s.jrn.opened) ∧
           t.jrn.writing = s.jrn.writing ++ [(s.jrn.head, jrnWords s.jrn.head ty n s.frame.toNat
             ((List.range n).map fun k => (s.readLane e f.a.toNat k).1))] ∧ t.jrn.ring = s.jrn.ring ∧
           keepsRegs e [f.d.toNat] [f.b.toNat] s t ∧
           t.gOf e f.d.toNat = (if f.d = 0 then (0, 0) else newTW (BitVec.ofNat 32 s.jrn.head)) ∧ t.pOf e f.b.toNat = true) ∧
       (ty < 0xFF00 ∨ ty = 0xFFFF → jrnFull s = true →
         ∃ t, exec (.jput e h f) s = .next t ∧ t.jrn = s.jrn ∧ t.flag Reg.JRN_STAT 1 = true ∧ keepsRegs e [f.d.toNat] [f.b.toNat] s t ∧
           t.pOf e f.b.toNat = decide (f.b = 0)) ∧
       (0xFF00 ≤ ty → ty ≠ 0xFFFF →
         ∃ t, exec (.jput e h f) s = .next t ∧ t.jrn = s.jrn ∧ t.regs = s.regs ∧ keepsRegs e [f.d.toNat] [f.b.toNat] s t ∧
           t.pOf e f.b.toNat = decide (f.b = 0))) ∧
     (goes s e 0xD4 h f.fields = true → intact (s.readG e f.a.toNat) = true →
       (jsyncDone s (s.readG e f.a.toNat).1 = true →
         ∃ t, exec (.jsync e h f) s = .next t ∧ keepsButP e [f.d.toNat] s t ∧ t.pOf e f.d.toNat = true) ∧
       (jsyncDone s (s.readG e f.a.toNat).1 = false →
         ∃ t, exec (.jsync e h f) s = .next t ∧ onlyEngine e s t ∧ (t.en e).rf = (s.en e).rf ∧
           (t.en e).wait = .journal f.d.toNat (s.readG e f.a.toNat).1
             (jsyncBound (atIssue s e 0xD4 h f.fields) (issuePoint s e 0xD4 h f.fields)))))

/-- R61, R62: what an instruction does not do. With its predicate false it writes no register; with an operand whose tag is not that of its
value (rules Z and K) it writes no register either, and the mismatch is counted in BE_ERR. R54, R78, R88: a bundle that is illegal, a Scribe
instruction outside the Scribe task, and one that the budget does not cover abandon the slice: the engine is IDLE with CAUSE 2, 6 and 1, and
ABANDON_CNT advances. R49: a double-bit error in the instruction's word abandons it with CAUSE 4, and a single-bit error is corrected and
counted in IMEM_CORR. -/
def Obligations.SuppressedAndAbandoned : Prop :=
  ((∀ p ∈ twoOperand ++ oneOperand, ∀ (s : State) (e : Fin 8) (h : Hdr) (f : FmtR), issuesNow s e p.opc h f.fields = true →
     predTrue s e h = false → exec (p.ins e h f) s = .next (atIssue s e p.opc h f.fields)) ∧
   (∀ (s : State) (e : Fin 8) (h : Hdr) (f : FmtR), goes s e 0x30 h f.fields = true → valueBad (s.readG e f.a.toNat) = true →
     s.clocked = true → s.sys.mode ≠ .boot → s.flag (Reg.FLT_SRC (32 + e)) 3 = false →
     ∃ t, exec (.and e h f) s = .next t ∧ (t.en e).rf = (s.en e).rf ∧
       t.rf (Reg.BE_ERR e) 0 8 = min (s.rf (Reg.BE_ERR e) 0 8 + 1) 255 ∧
       t.rd (Reg.FLT_SDET (32 + e)) = BitVec.ofNat 32 (e.val * 2 ^ 16 + (s.en e).pc % 2 ^ 15))) ∧
  ((∀ (s : State) (e : Fin 8) (h : Hdr) (f : FmtR) (g : FmtX), (s.en e).state = .run → (s.en e).wait = .none → (s.en e).old = none →
     (s.en e).loads = [] → (s.en e).imemErr = [] → s.clocked = true → s.txn.state = .free → s.sys.mode ≠ .boot → s.flag (Reg.FLT_SRC (48 + e)) 3 = false →
     ((f.zero ≠ 0 → ∃ t, exec (.add e h f) s = .next t ∧ (t.en e).state = .idle ∧ t.rf (Reg.BE_STAT e) 8 8 = 2 ∧
         t.rf (Reg.BE_ERR e) 8 8 = min (s.rf (Reg.BE_ERR e) 8 8 + 1) 255 ∧ (t.en e).rf = (s.en e).rf) ∧
     (∀ r, Isa.row? 0xC0 = some r → legalHere s (s.en e) r h g.fields = true → (s.en e).scribe = false →
       ∃ t, exec (.spose e h g) s = .next t ∧ (t.en e).state = .idle ∧ t.rf (Reg.BE_STAT e) 8 8 = 6 ∧ t.scr = s.scr) ∧
     (∀ r, Isa.row? 0x10 = some r → legalHere s (s.en e) r h f.fields = true → (s.en e).budget ≤ (s.en e).issueAt r h f.fields →
       ∃ t, exec (.add e h f) s = .next t ∧ (t.en e).state = .idle ∧ t.rf (Reg.BE_STAT e) 8 8 = 1 ∧ (t.en e).rf = (s.en e).rf))) ∧
   (∀ (s : State) (e : Fin 8) (h : Hdr) (f : FmtR),
     ((s.en e).state = .run → (s.en e).wait = .none → (s.en e).old = none → s.clocked = true → s.txn.state = .free → s.sys.mode ≠ .boot →
       s.flag (Reg.FLT_SRC (48 + e)) 3 = false → 2 ≤ SMap.get 0 (s.en e).imemErr (s.en e).pc →
       ∃ t, exec (.add e h f) s = .next t ∧ (t.en e).state = .idle ∧ t.rf (Reg.BE_STAT e) 8 8 = 4 ∧
         t.rf (Reg.BE_ERR e) 8 8 = min (s.rf (Reg.BE_ERR e) 8 8 + 1) 255 ∧ (t.en e).rf = (s.en e).rf) ∧
     ((s.en e).old = none → h.pair = false → SMap.get 0 (s.en e).imemErr (s.en e).pc = 1 →
       goes (s.setEn e { s.en e with imemErr := [] }) e 0x10 h f.fields = true →
       intact (s.readG e f.a.toNat) = true → intact (s.readG e f.b.toNat) = true →
       ∃ t u, exec (.add e h f) s = .next t ∧ exec (.add e h f) (s.setEn e { s.en e with imemErr := [] }) = .next u ∧
         (t.en e).rf = (u.en e).rf ∧ (t.en e).pc = (u.en e).pc ∧ t.rf (Reg.BE_ERR e) 16 8 = min (s.rf (Reg.BE_ERR e) 16 8 + 1) 255)))

/-! ### The block and its commands -/

/-- The host's posted word (a, v) is at the head of the queue of posted words, the clocks run, and it is no write that must come as a host
command (R356, R448). -/
abbrev Sys2Proof.Claims.front (s : State) (a : Nat) (v : Word) (rest : List (Nat × Word)) : Prop :=
  s.clocked = true ∧ s.hp.posted = (a, v) :: rest ∧ needsHostCmd s a v = false

/-- The state in which the head of the queue of posted words reaches its block at the EDGE offset `t` (R356, R23). -/
def Sys2Proof.Claims.popped (s : State) (t : Nat) (rest : List (Nat × Word)) : State :=
  { s with edge := (s.at t).edge, hp := { s.hp with posted := rest } }

/-- Every step of the block runs the command at the front of its queue on the state with the queue's rest; a block whose queue is empty
idles (the model's choice, log entry 40); and no word of the opcode table spells a command, so a placed word changes nothing. -/
def Obligations.StepTakesTheFront : Prop :=
  (∀ (s : State) (c : Instr) (cs : List Instr), s.pending = c :: cs → step s = exec c { s with pending := cs }) ∧
  (∀ s : State, s.pending = [] → step s = .next s) ∧
  (∀ (s : State) (n w : Nat), decodeTableWord n w = none ∧ s.withFetchWord n w = s)

/-- Every command, in every state, answers a next state in which the queue is as it was, the part is the same, and the registers and
memories are in canonical form if they were (log entries 5 and 40; R3 fixes the part); the writes of the present CORE cycle are the engines'
and the host's, of rank 8 at most (R50, log entry 10). -/
def Obligations.EveryCommandAnswers : Prop :=
  ∀ (c : Instr) (s : State), ∃ u, exec c s = .next u ∧ u.pending = s.pending ∧ u.sys.variant = s.sys.variant ∧
    (s.canonical = true → u.canonical = true) ∧ ((∀ x ∈ s.sys.arrived, x.rank ≤ 8) → ∀ x ∈ u.sys.arrived, x.rank ≤ 8)

/-- The invariant of the block: the register file, frame memory with its tags, DRAM and the program banks are in canonical form (log entry 5), so
that equal machines are equal data. Every step from every state keeps it, and no step ends in a fault or a refusal. -/
def Obligations.EveryStepKeepsTheCanonicalForm : Prop :=
  ∀ s : State, s.canonical = true → ∃ u, step s = .next u ∧ u.canonical = true ∧ u.pending = s.pending.tail ∧ u.sys.variant = s.sys.variant

/-- What stands at State.reset: every register holds its reset value of the register tables (R8), but PEG_CERTLEN, whose factory value is a
choice of the model, as are the straps beside it (log entries 32, 31); frame memory, its tags, DRAM and the program banks list nothing; no command and no posted word waits;
and the form is canonical. That unwritten memory reads 0 and hidden state starts empty are log entries 5 and 11. -/
def Obligations.ResetLeaves : Prop :=
  (∀ a, a ≠ Reg.PEG_CERTLEN → State.reset.rd a = Reg.resetOf a) ∧ State.reset.fmem = [] ∧ State.reset.fmemTag = [] ∧ State.reset.dram = [] ∧
  State.reset.prog = [] ∧ State.reset.pending = [] ∧ State.reset.hp.posted = [] ∧ State.reset.canonical = true ∧
  State.reset.rf Reg.FLT_RCFG 0 8 = 8 ∧ State.reset.rf Reg.FLT_RCFG 8 16 = 60

/-! ### Faults (R407 to R419) -/

/-- The report begins a raise: the source is not reserved and, where it is a level source, it was not asserted (R407). -/
abbrev Sys2Proof.Claims.reports (s : State) (src : Nat) : Prop :=
  (Flt.resetSev? src).isSome = true ∧ (levelSource src = true → src ∉ s.flt.asserted)

/-- R409: at each raise of a source, enabled or not, COUNT advances and saturates at 255, STICKY is set, and the detail is in FLT_SDET. A
source of level kind is asserted from then on. Where ERST of the source cuts off the slice of the engine that the detail names, that
engine's fault is raised as well, with no CAUSE (R90, R520). STICKY stays set when the condition ends, and a host's write of 1 to it clears
it. -/
def Obligations.RaiseLatchesItsSource : Prop :=
  (∀ (s : State) (t : Nat) (src : Fin 512) (det val : Word) (tag : Byte) (addr : Word), collectorOn s = true → reports s src →
    ∃ u, exec (.faultRaise t src true det val tag addr) s = .next u ∧
      u.flag (Reg.FLT_SST src) 0 = true ∧
      ((∀ e, erstCuts s src det = some e → src.val ≠ 48 + e) →
        u.rf (Reg.FLT_SST src) 8 8 = min 255 (s.rf (Reg.FLT_SST src) 8 8 + 1) ∧ u.rd (Reg.FLT_SDET src) = det) ∧
      (∀ e, erstCuts s src det = some e → u.flag (Reg.FLT_SST (48 + e)) 0 = true ∧ u.rd (Reg.FLT_SDET (48 + e)) = engineFault e 0 ∧
        u.rf (Reg.FLT_SST (48 + e)) 8 8 = min 255 (s.rf (Reg.FLT_SST (48 + e)) 8 8 + (if src.val = 48 + e then 2 else 1))) ∧
      (levelSource src = true → src.val ∈ u.flt.asserted ∧ u.flag (Reg.FLT_SST src) 1 = true)) ∧
  (∀ (s : State) (t : Nat) (src : Fin 512) (det val : Word) (tag : Byte) (addr : Word), (Flt.resetSev? src).isSome = true → levelSource src = true →
    ∃ u, exec (.faultRaise t src false det val tag addr) s = .next u ∧ u.flag (Reg.FLT_SST src) 0 = s.flag (Reg.FLT_SST src) 0 ∧
      src.val ∉ u.flt.asserted) ∧
  (∀ (s : State) (t : Nat) (src : Fin 512) (v : Word) (rest : List (Nat × Word)), front s (Reg.FLT_SST src) v rest →
    ∃ u, exec (.registerWrite t) s = .next u ∧ u.flag (Reg.FLT_SST src) 0 = (s.flag (Reg.FLT_SST src) 0 && !bit v 0) ∧
      u.rf (Reg.FLT_SST src) 8 8 = s.rf (Reg.FLT_SST src) 8 8)

/-- A raise of a disabled source does what R409 says and nothing else, where no armed injection is of it (R419, log entry 41); the end of a level
source's condition clears only its assertion, and STICKY stays (R407, R409). -/
def Obligations.DisabledRaiseAndRelease : Prop :=
  (∀ (s : State) (t : Nat) (src : Fin 512) (det val : Word) (tag : Byte) (addr : Word), collectorOn s = true → (Flt.resetSev? src).isSome = true →
    levelSource src = false → srcEnabled s src = false → s.flt.inj.map (·.src) ≠ some src.val →
    ∃ u, exec (.faultRaise t src true det val tag addr) s = .next u ∧ (∀ a, a ≠ Reg.FLT_SST src → a ≠ Reg.FLT_SDET src → u.rd a = s.rd a) ∧
      { u with regs := s.regs } = { s with edge := (s.at t).edge }) ∧
  (∀ (s : State) (t : Nat) (src : Fin 512) (det val : Word) (tag : Byte) (addr : Word), (Flt.resetSev? src).isSome = true → levelSource src = true →
    ∃ u, exec (.faultRaise t src false det val tag addr) s = .next u ∧ src.val ∉ u.flt.asserted ∧ u.flag (Reg.FLT_SST src) 1 = false ∧
      u.flag (Reg.FLT_SST src) 0 = s.flag (Reg.FLT_SST src) 0 ∧ (∀ a, a ≠ Reg.FLT_SST src → u.rd a = s.rd a) ∧
      { u with regs := s.regs, flt := s.flt } = { s with edge := (s.at t).edge })

/-- R410, R411: the first raise of an enabled source after VALID was cleared is captured with the source, its severity, its detail, its frame
number and its EDGE offset; while VALID is 1 the capture stays, but for a raise of the same CORE cycle that R411 takes before it, and so where
the engine fault that ERST brings (R520) has the lower number. The end of a condition leaves the capture with the source's STICKY and count. -/
def Obligations.FirstRaiseIsCaptured : Prop :=
  (∀ (s : State) (t : Nat) (src : Fin 512) (det val : Word) (tag : Byte) (addr : Word), collectorOn s = true → reports s src →
    srcEnabled s src = true →
    ∃ u, exec (.faultRaise t src true det val tag addr) s = .next u ∧ u.flag Reg.FLT_FIRST 31 = true ∧
      (s.flag Reg.FLT_FIRST 31 = false ∨ beforeFirst (s.at t) src false = true →
        (∀ e, erstCuts s src det = some e → srcEnabled s (48 + e) = true → src.val ≤ 48 + e) → u.rf Reg.FLT_FIRST 16 9 = src ∧ u.rf Reg.FLT_FIRST 28 2 = srcSev s src ∧ u.flag Reg.FLT_FIRST 30 = false ∧
        u.rd Reg.FLT_FIRSTDET = det ∧ u.rd Reg.FLT_FIRSTFRM = BitVec.ofNat 32 s.frame.toNat ∧
        u.rd Reg.FLT_FIRSTOFS = BitVec.ofNat 32 (s.at t).edge) ∧
      (∀ e, erstCuts s src det = some e → srcEnabled s (48 + e) = true → 48 + e < src.val →
        s.flag Reg.FLT_FIRST 31 = false ∨ beforeFirst (s.at t) (48 + e) false = true → u.rf Reg.FLT_FIRST 16 9 = 48 + e) ∧
      (s.flag Reg.FLT_FIRST 31 = true → beforeFirst (s.at t) src false = false →
        (∀ e, erstCuts s src det = some e → beforeFirst (s.at t) (48 + e) false = false) → ∀ a ∈ [Reg.FLT_FIRST, Reg.FLT_FIRSTDET, Reg.FLT_FIRSTFRM, Reg.FLT_FIRSTOFS], u.rd a = s.rd a)) ∧
  (∀ (s : State) (t : Nat) (src : Fin 512) (det val : Word) (tag : Byte) (addr : Word),
    ∃ u, exec (.faultRaise t src false det val tag addr) s = .next u ∧ u.rf (Reg.FLT_SST src) 8 8 = s.rf (Reg.FLT_SST src) 8 8 ∧
      u.flag (Reg.FLT_SST src) 0 = s.flag (Reg.FLT_SST src) 0 ∧
      ∀ a ∈ [Reg.FLT_FIRST, Reg.FLT_FIRSTDET, Reg.FLT_FIRSTFRM, Reg.FLT_FIRSTOFS], u.rd a = s.rd a)

/-- The severity of the engine fault that a raise brings with it by ERST, 0 where there is none or its source is disabled (R90, R520). -/
def Sys2Proof.Claims.erstSev (s : State) (src : Nat) (det : Word) : Nat :=
  match erstCuts s src det with
  | some e => if srcEnabled s (48 + e) then srcSev s (48 + e) else 0
  | none => 0

/-- R412, R413: a raise of an enabled source of severity DEGRADE or higher starts the reaction of that severity, or keeps a higher one in
force; HALT is latched; FAULT in HP_ISTAT is set from the severity of FSEV up. R520, R90: a source with ERST resets the engine that its
detail names, whatever its severity: the engine is in REHASH with its registers and DMEM clear; one that is OFF stays OFF (log entry 12). The
order of what one raise does is log entry 41. -/
def Obligations.RaiseBeginsItsReaction : Prop :=
  (∀ (s : State) (t : Nat) (src : Fin 512) (det val : Word) (tag : Byte) (addr : Word), collectorOn s = true → reports s src →
    srcEnabled s src = true → 1 ≤ srcSev s src →
    ∃ u, exec (.faultRaise t src true det val tag addr) s = .next u ∧
      u.flt.reaction = max (max s.flt.reaction (srcSev s src)) (erstSev s src det) ∧ (u.flt.halt = true ↔ s.flt.halt = true ∨ u.flt.reaction = 3) ∧ src.val ∈ u.flt.raised ∧ u.tru.suspect = true ∧
      (s.rf Reg.HP_IEN 8 2 ≤ srcSev s src → u.flag Reg.HP_ISTAT 4 = true) ∧ u.frame = s.frame ∧ u.sys.mode = s.sys.mode) ∧
  (∀ (s : State) (t : Nat) (src : Fin 512) (det val : Word) (tag : Byte) (addr : Word) (e : Nat), collectorOn s = true → reports s src →
    srcEnabled s src = true → s.flag (Reg.FLT_SRC src) 3 = true → detailEngine src det = some e →
    ∃ u, exec (.faultRaise t src true det val tag addr) s = .next u ∧ (∀ k, k ≠ e → u.en k = s.en k) ∧
      ((s.en e).state = .off → u.en e = s.en e) ∧
      ((s.en e).state ≠ .off → (u.en e).state = .rehash ∧ (u.en e).rf = RegFile.zero ∧ (u.en e).ret = [] ∧ (u.en e).loops = [] ∧
        (u.en e).dmem = [] ∧ (u.en e).dmemTag = [] ∧ (u.en e).imem = (s.en e).imem ∧ (u.en e).stores = (s.en e).stores))

/-- The collector with its reaction ended; the forces stand until the boundary of R416. -/
def Sys2Proof.Claims.ended (s : State) (byClear : Bool) : Flt :=
  { s.flt with reaction := 0, raised := [], ending := s.flt.ending ++ [(s.flt.reaction, byClear)] }

/-- R414, R415, R417: when the quiet period of FLT_QUIET has run out and every source raised has AUTO = 1, a DEGRADE reaction ends; a SAFE
reaction ends and COUNT advances, but for the end that would bring COUNT to RLIMIT: there HALT is latched with ESCAL. While HALT is latched,
a source holds the reaction, or one of them lacks AUTO, or the period has not run out, nothing ends. R415, R417: a keyed CLEAR ends the
reaction unless HALT is latched or a source holds it; a keyed RCLR sets COUNT to 0 while no reaction is in force; a write without the key is
ignored; and RDECAY minutes without a reaction lower COUNT by one (from when they count is log entry 86, the order of the bits of one write log entry 41).
Nothing else changes. -/
def Obligations.ReactionsEndAndAreCounted : Prop :=
  (∀ (s : State) (t : Nat), collectorOn s = true → s.flt.reaction ≠ 0 →
     (s.flt.halt = true ∨ heldBySource s = true ∨ endsByItself s = false ∨ s.flt.quiet < s.rf Reg.FLT_QUIET 0 13 * 100 →
       exec (.quietPeriodExpiry t) s = .next { s with edge := (s.at t).edge }) ∧
     (s.flt.halt = false → heldBySource s = false → endsByItself s = true → s.rf Reg.FLT_QUIET 0 13 * 100 ≤ s.flt.quiet →
       (s.flt.reaction = 1 → exec (.quietPeriodExpiry t) s = .next { s with edge := (s.at t).edge, flt := ended s false }) ∧
       (2 ≤ s.flt.reaction → s.rf Reg.FLT_RCFG 0 8 = 0 ∨ s.rf Reg.FLT_RCNT 0 8 + 1 < s.rf Reg.FLT_RCFG 0 8 →
         ∃ u, exec (.quietPeriodExpiry t) s = .next u ∧ u.rf Reg.FLT_RCNT 0 8 = min 255 (s.rf Reg.FLT_RCNT 0 8 + 1) ∧
           (∀ a, a ≠ Reg.FLT_RCNT → u.rd a = s.rd a) ∧
           { u with regs := s.regs } = { s with edge := (s.at t).edge, flt := ended s false }) ∧
       (2 ≤ s.flt.reaction → s.rf Reg.FLT_RCFG 0 8 ≠ 0 → s.rf Reg.FLT_RCFG 0 8 ≤ s.rf Reg.FLT_RCNT 0 8 + 1 →
         ∃ u, exec (.quietPeriodExpiry t) s = .next u ∧ u.flt.reaction = 3 ∧ u.flt.halt = true ∧ u.flt.raised = s.flt.raised ∧
           u.flag Reg.FLT_STAT 3 = true ∧ u.rf Reg.FLT_RCNT 0 8 = s.rf Reg.FLT_RCNT 0 8))) ∧
  ((∀ (s : State) (t : Nat) (v : Word) (rest : List (Nat × Word)), front s Reg.FLT_CTRL v rest → collectorOn s = true →
     (bit v 0 = true → bit v 1 = false → fld v 8 8 = 0xA5 → exec (.clear t) s = .next
       (if s.flt.reaction = 0 ∨ s.flt.halt = true ∨ heldBySource s = true then popped s t rest
        else { popped s t rest with flt := ended s true })) ∧
     (bit v 1 = true → bit v 0 = false → fld v 8 8 = 0xA5 → exec (.rclr t) s = .next
       (if s.flt.reaction = 0 then (popped s t rest).setFld Reg.FLT_RCNT 0 8 0 else popped s t rest)) ∧
     (fld v 8 8 ≠ 0xA5 → (bit v 0 = true → exec (.clear t) s = .next (popped s t rest)) ∧
       (bit v 1 = true → exec (.rclr t) s = .next (popped s t rest)))) ∧
   (∀ s : State, collectorOn s = true → s.flt.reaction = 0 → s.rf Reg.FLT_RCFG 8 16 ≠ 0 →
     s.rf Reg.FLT_RCFG 8 16 * 600000 ≤ s.flt.calm →
     exec .recoveryDecay s = .next ({ s with flt := { s.flt with calm := 0 } }.setFld Reg.FLT_RCNT 0 8 (s.rf Reg.FLT_RCNT 0 8 - 1))))

/-- R418, R419: GO arms an injection of SRC with the detail of FLT_INJDET, or is refused with REFUSED for the reasons of the rule. In the first
frame that begins after that, it fires at OFS and raises its source with the mark INJ. A real raise of its source, of a disabled one too (log
entry 41), cancels an armed injection, and so does a SAFE or HALT reaction: one that a raise begins, and one that is in force at GO; any other
raise leaves it armed. -/
def Obligations.FaultInjection : Prop :=
  (∀ (s : State) (t : Nat) (v : Word) (rest : List (Nat × Word)), front s Reg.FLT_INJ v rest → bit v 31 = true →
    ((s.flag Reg.FLT_CFG 0 = false ∨ Flt.resetSev? (fld v 20 9) = none ∨ srcEnabled s (fld v 20 9) = false ∨ s.period ≤ fld v 0 20 ∨
        s.flt.inj ≠ none ∨ s.sys.mode = .boot) →
      exec (.injectionArm t) s = .next ((popped s t rest).setFlag Reg.FLT_INJST 2 true)) ∧
    (s.flag Reg.FLT_CFG 0 = true → (Flt.resetSev? (fld v 20 9)).isSome = true → srcEnabled s (fld v 20 9) = true → fld v 0 20 < s.period →
        s.flt.inj = none → s.sys.mode ≠ .boot → 2 ≤ s.flt.reaction →
      ∃ u, exec (.injectionArm t) s = .next u ∧ u.flt.inj = none ∧ u.rf Reg.FLT_INJST 0 2 = 3) ∧
    (s.flag Reg.FLT_CFG 0 = true → (Flt.resetSev? (fld v 20 9)).isSome = true → srcEnabled s (fld v 20 9) = true → fld v 0 20 < s.period →
        s.flt.inj = none → s.sys.mode ≠ .boot → s.flt.reaction < 2 →
      ∃ u, exec (.injectionArm t) s = .next u ∧ u.flt.inj = some ⟨fld v 20 9, fld v 0 20, s.rd Reg.FLT_INJDET, false⟩ ∧
        u.rf Reg.FLT_INJST 0 2 = 1 ∧ (∀ a, a ≠ Reg.FLT_INJST → u.rd a = s.rd a) ∧
        { u with regs := s.regs, flt := s.flt } = popped s t rest)) ∧
  (∀ (s : State) (t : Nat) (src : Fin 512) (det val : Word) (tag : Byte) (addr : Word) (i : Inject), collectorOn s = true → reports s src →
    s.flt.inj = some i →
    ∃ u, exec (.faultRaise t src true det val tag addr) s = .next u ∧
      (i.src = src.val ∨ srcEnabled s src = true ∧ 2 ≤ max s.flt.reaction (srcSev s src) → u.flt.inj = none ∧ u.rf Reg.FLT_INJST 0 2 = 3) ∧
      (i.src ≠ src.val → srcEnabled s src = false → u.flt.inj = some i ∧ u.rd Reg.FLT_INJST = s.rd Reg.FLT_INJST) ∧
      (i.src ≠ src.val → erstCuts s src det = none → max s.flt.reaction (srcSev s src) < 2 →
        u.flt.inj = some i ∧ u.rd Reg.FLT_INJST = s.rd Reg.FLT_INJST)) ∧
  (∀ (s : State) (i : Inject), s.flt.inj = some i → i.ready = true → collectorOn s = true → i.src < 512 →
    ∃ u, exec .injectionFire s = .next u ∧ u.flt.inj = none ∧ u.rf Reg.FLT_INJST 0 2 = 2 ∧
      u.flag (Reg.FLT_SST i.src) 0 = true ∧
      ((∀ e, erstCuts s i.src i.det = some e → i.src ≠ 48 + e) →
        u.rf (Reg.FLT_SST i.src) 8 8 = min 255 (s.rf (Reg.FLT_SST i.src) 8 8 + 1) ∧ u.rd (Reg.FLT_SDET i.src) = i.det) ∧
      (srcEnabled s i.src = true → s.flag Reg.FLT_FIRST 31 = false → u.flag Reg.FLT_FIRST 30 = true ∧ u.rf Reg.FLT_FIRST 16 9 = i.src) ∧
      (srcEnabled s i.src = true → u.flt.reaction = max (max s.flt.reaction (srcSev s i.src)) (erstSev s i.src i.det)))

/-! ### The frame (R17, R19, R462 to R464) -/

/-- R463's list: the mode that its first line that applies gives. -/
def Sys2Proof.Claims.firstLine (s : State) : Mode :=
  if s.sys.reqBoot.isSome then .boot
  else if s.sys.reqSill.isSome ∨ s.sys.keyOff = true then .sill
  else if s.flag Reg.TRU_STAT 9 = true then .safe
  else if 2 ≤ s.flt.reaction ∧ (target s = 2 ∨ target s = 3) then .safe
  else if (s.flt.reaction = 1 ∨ s.flag Reg.SCHED_STAT 0 = true) ∧ (target s = 2 ∨ target s = 3) then .limp
  else Mode.ofCode (target s)

/-- R462, R463: the decision at the output cutoff is the first line of the list that applies, outside BOOT; a decision for BOOT is a
system reset at the boundary. -/
def Obligations.CutoffDecidesTheMode : Prop :=
  (∀ (s : State) (temps : List (BitVec 16)) (v1 v2 hold : BitVec 16), s.clocked = true → s.sys.mode ≠ .boot →
    ∃ u, exec (.outputCutoff temps v1 v2 hold) s = .next u ∧ comingMode u = firstLine s ∧ u.sys.mode = s.sys.mode) ∧
  (∀ (s : State) (x : FrameSample), s.clocked = true → s.sys.mode ≠ .boot → comingMode s = .boot →
    ∃ u, exec (.frameBoundary x) s = .next u ∧ u.sys.mode = .boot ∧ u.rd Reg.SYS_RSTCAUSE = 4)

/-- The one word that the staged bank holds for a switch channel (R21). -/
abbrev Sys2Proof.Claims.staged (s : State) (c : Nat) (v : Word) : Prop :=
  s.stNext.filter (fun x => decide (x.1 < 0x040000) && decide ((x.1 - 0x031004) / 0x10 = c)) = [(Reg.CH_CMD c, v)]

/-- The boundary leads from one of the modes in which frames run to another of them (R462). -/
abbrev Sys2Proof.Claims.runsOn (s : State) : Prop :=
  s.clocked = true ∧ s.sys.mode ∈ [Mode.idle, .run, .limp, .safe, .service] ∧ comingMode s ∈ [Mode.idle, .run, .limp, .safe, .service]

/-- R17, R19, R462: at the boundary the frame number advances by one, or becomes the lead's where the device joins it, the EDGE offset is 0,
the outputs are open again, and the mode is the one decided at the cutoff, in BOOT the one that its end has chosen. R19, R124: an accepted
commit whose boundary this is takes effect: every TX register takes the word of the shadow bank in its TX fields, but for the GNSS registers of
the NGK-9612-NA (R3), TXN_APPLY takes the frame number, and the slot is free. R19, R21, R28, R226: then the staged bank enters: a staged word of
a switch channel without an offset is the channel's command, one with an offset waits for it, and one beyond the frame period is flagged; a
staged PWM duty enters its shadow; where the device holds its outputs, no staged word enters (that the bank is dropped is the model's choice,
log entry 92). R19, R170, R232, R385: the record of the frame that begins goes on from what was recorded for it, and takes the currents and the
inputs of the frame start. -/
def Obligations.FrameBoundaryAdvances : Prop :=
  (∀ (s : State) (x : FrameSample), s.clocked = true →
    ∃ u, exec (.frameBoundary x) s = .next u ∧ u.frame = s.tru.joinAt.getD (s.frame + 1) ∧ u.edge = 0 ∧ u.closed = false ∧
      (s.sys.mode ≠ .boot → u.sys.mode = comingMode s) ∧
      (s.sys.mode = .boot → u.sys.mode = (s.sys.decided.map (·.1)).getD (s.sys.bootDone.getD .boot)) ∧
      (s.sys.mode ≠ .boot → s.txn.state = .pending → s.txn.applyAt = (s.frame + 1).toNat → u.txn = Txn.reset)) ∧
  (∀ (s : State) (x : FrameSample), runsOn s →
    ∃ u, exec (.frameBoundary x) s = .next u ∧
      (s.txn.state = .pending → s.txn.applyAt = (s.frame + 1).toNat → (s.txn.shadow.map (·.1)).Nodup →
        u.rd Reg.TXN_APPLY_LO = BitVec.ofNat 32 u.frame.toNat ∧ u.rd Reg.TXN_APPLY_HI = BitVec.ofNat 32 (u.frame.toNat / 2 ^ 32) ∧
        ∀ y ∈ s.txn.shadow, ∀ r, Reg.row? y.1 = some r →
          u.rd y.1 &&& r.tx = (if s.sys.variant = 1 ∧ 0x070000 ≤ y.1 ∧ y.1 < 0x080000 then s.rd y.1 else y.2) &&& r.tx) ∧
      u.stNext = s.stAfter ∧ u.stAfter = [] ∧ u.tru.hold = false ∧
      (∀ (c : Fin 108) (v : Word), s.tru.hold = false → staged s c v →
        (u.period ≤ fld v 0 20 → u.rd (Reg.CH_CMD c) = s.rd (Reg.CH_CMD c) ∧ u.flag (Reg.CH_STAT c) 14 = true) ∧
        (fld v 0 20 = 0 → 0 < u.period → u.rd (Reg.CH_CMD c) = v ∧ (u.lch c).wait = none) ∧
        (0 < fld v 0 20 → fld v 0 20 < u.period → u.rd (Reg.CH_CMD c) = s.rd (Reg.CH_CMD c) ∧ (u.lch c).wait = some v)) ∧
      (∀ (c : Fin 192) (v : Word), s.tru.hold = false →
        s.stNext.filter (fun y => decide (0x040000 ≤ y.1) && decide (y.1 < 0x050000) && decide ((y.1 - 0x041000) / 0x20 = c.val)) =
          [(Reg.PWM_DUTY c, v)] →
        (u.flag (Reg.PWM_UCTRL (c / 8)) 1 = false → (u.pch c).shDuty = v) ∧
        (u.flag (Reg.PWM_UCTRL (c / 8)) 1 = true → u.flag (Reg.PWM_CHSTAT c) 3 = true)) ∧
      (s.tru.hold = true → s.tru.takeArm = false → ∀ c : Fin 108, u.rd (Reg.CH_CMD c) = s.rd (Reg.CH_CMD c) ∧ (u.lch c).wait = (s.lch c).wait) ∧
      (∃ l, u.inrec.cur = s.inrec.next ++ l) ∧ RecItem.mk .din [s.lsw.din.toNat] ∈ u.inrec.cur ∧
      ∀ c : Fin 108, RecItem.mk .current [c.val, u.rf (Reg.CH_MEAS c) 16 16, u.rf (Reg.CH_MEAS c) 0 16] ∈ u.inrec.cur)

/-- What the scheduler decides for the coming frame (R101, R104, R114): the tasks that are due by their rate and phase, or owed, of a kind that
the coming mode admits and of no class that is shed. -/
abbrev Sys2Proof.Claims.eligible (s : State) (k : Task) : Prop :=
  k ∈ tasks s ∧ (k.num ∈ s.sched.owed ∨ k.rate ≠ 0 ∧ (s.frame + 1).toNat % k.rate = k.phase) ∧ kindOk k.kind (comingMode s) = true ∧
    isShed s k.cls = false

/-- R19, R499, R504: at the output cutoff, 6,000 ns before the boundary, the staged outputs of the frame close, and the points, the feed
voltages and the HOLD voltage of that instant show in their registers; a point that is not updated keeps its reading (R500). R24 to R28, R114:
at the exchange deadline, 1,000 ns before the boundary, a device alone has no agreement; one of a pair has it where the twin's exchange is
complete, and else the coming boundary is late and counts so; the record that the coming frame computes on stands in frame memory (its layout is
open, log entry 7); and the slices of the coming frame are what placement gives for the admitted tasks: the eligible ones without those whose
class this decision sheds, and none in BOOT and SILL. A record without a command of the host changes no transaction and no request. R358, R362,
R364, R367: at the flip, 100 ns after the boundary, the image shows what was captured at the boundary, but for the words that fail their check,
which keep what the image showed of them before (for a word of the live class log entry 84); every page that was copied in the frame before is
renewed with the next SEQ, every other page is stale, and so is one whose copy failed its check; FLIP of HP_ISTAT is set. -/
def Obligations.CutoffDeadlineAndFlip : Prop :=
  (∀ (s : State) (temps : List (Option (BitVec 16))) (v1 v2 hold : BitVec 16), s.clocked = true → s.edge + 6000 ≤ s.period →
     ∃ u, exec (.outputCutoff temps v1 v2 hold) s = .next u ∧ u.edge = s.period - 6000 ∧ u.closed = true ∧ u.stNext = s.stNext ∧
       u.rd Reg.PWR_VBAT = v2 ++ v1 ∧ u.rd Reg.PWR_HOLD = hold.setWidth 32 ∧ u.frame = s.frame ∧ u.txn = s.txn ∧ u.flt = s.flt ∧
       (∀ p : Fin 128, pointAbsent s p = false →
         (∀ x, temps.getD p none = some x → u.rf (Reg.TMP_PT (p / 2)) (16 * (p.val % 2)) 16 = x.toNat) ∧
         (temps.getD p none = none → u.rf (Reg.TMP_PT (p / 2)) (16 * (p.val % 2)) 16 = s.rf (Reg.TMP_PT (p / 2)) (16 * (p.val % 2)) 16))) ∧
  (∀ s : State, s.clocked = true → s.edge + 1000 ≤ s.period →
     ∃ u, exec .exchangeDeadline s = .next u ∧ u.edge = s.period - 1000 ∧ u.tru.passed = true ∧ u.frame = s.frame ∧ u.closed = s.closed ∧
       u.sys.mode = s.sys.mode ∧ u.fmem = (s.placeRecord (agreedItems u)).fmem ∧
       u.fmemTag = (s.placeRecord (agreedItems u)).fmemTag ∧
       ((∀ i ∈ agreedItems u, i.kind ≠ .txnWrite ∧ i.kind ≠ .modeRequest) →
         u.txn = s.txn ∧ u.sys.reqBoot = s.sys.reqBoot ∧ u.sys.reqSill = s.sys.reqSill ∧ target u = target s) ∧
       (s.solo = true → s.tru.probation = 0 → u.tru.agreedNext = false) ∧
       (s.solo = false → trussRuns s = true →
         (∀ x, twinExchange s = some x → u.tru.agreedNext = true ∧ u.tru.twinRec = x.items ∧ u.tru.lateRun = 0 ∧
           (s.flag Reg.SYS_FRMSTAT 0 = false ∨ x.unagreed = true → inProbation s = false →
             u.flag Reg.SYS_FRMSTAT 3 = true ∧ u.tru.hold = !s.isLead)) ∧
         (twinExchange s = none → u.tru.agreedNext = false ∧ u.flag Reg.SYS_FRMSTAT 2 = true ∧ u.flag Reg.SYS_FRMSTAT 3 = true ∧
           u.rf Reg.SYS_FRMSTAT 8 8 = min 255 (s.rf Reg.SYS_FRMSTAT 8 8 + 1))) ∧
       (comingMode s = .boot ∨ comingMode s = .sill → u.sched.planned = []) ∧
       (comingMode s ∈ [Mode.idle, .run, .limp, .safe, .service] → ∃ l : List Task, l.Sublist (tasks s) ∧
         u.sched.planned = (placeAll (fun k => s.rf (Reg.TASK_CFG k) 24 3) (imageBudgets s) (nextPeriod s) l).slices ∧
         (∀ k ∈ l, eligible s k ∧ k.cls ∉ u.sched.justShed) ∧ ∀ k, eligible s k → k.cls ∉ u.sched.justShed → k ∈ l)) ∧
  (∀ (s : State) (bad : List (Nat × Word × Byte)), s.clocked = true → s.edge ≤ 100 →
     ∃ u, exec (.snapshotFlip bad) s = .next u ∧ u.edge = 100 ∧ u.flag Reg.HP_ISTAT 0 = true ∧ u.hp.copyNow = [] ∧ u.hp.rcDone = [] ∧
       u.frame = s.frame ∧ u.capt = s.capt ∧
       (∀ x ∈ bad, isSnap x.1 = true → (Reg.row? x.1).isSome = true → x.2.2 ≠ tagOf x.2.1 →
         Regs.get u.image x.1 = Regs.get s.image x.1 ∧ u.flag Reg.HP_STAT 5 = true) ∧
       (∀ x ∈ bad, isSnap x.1 = false → isIdentity x.1 = false → (Reg.row? x.1).isSome = true → x.2.2 ≠ tagOf x.2.1 → s.sys.variant ≠ 1 →
         u.view x.1 = s.view x.1 → u.imageOf x.1 = Regs.get s.hp.seen x.1) ∧
       (∀ a, (∀ x ∈ bad, x.1 = a → x.2.2 = tagOf x.2.1) → Regs.get u.image a = Regs.get s.capt a) ∧
       (∀ p : Fin 64, (∀ c ∈ s.hp.copyNow, c.1 ≠ p.val) → (u.page p).stale = true ∧ (u.page p).seq = (s.page p).seq ∧
         (u.page p).data = (s.page p).data) ∧
       (∀ (p : Fin 64) (c : Nat × PageCopy), (s.hp.copyNow.filter (fun y => decide (y.1 = p.val))).getLast? = some c →
         (c.2.bad = none → (u.page p).seq = (s.page p).seq + 1 ∧ (u.page p).stale = false ∧ (u.page p).data = c.2.data ∧
           (u.page p).frame = c.2.frame) ∧
         (c.2.bad ≠ none → (u.page p).seq = (s.page p).seq ∧ (u.page p).stale = true ∧ (u.page p).dowel = true ∧
           (u.page p).data = (s.page p).data)))

/-! ### The scheduler and the slices (R44, R45, R87 to R92, R96 to R108) -/

/-- R44, R106, R107: in a placement, the slices of one engine never overlap, every slice ends within the bound of its task, and the slices of a
task start after those of the task it depends on, 8 cycles later where that one runs on another engine. -/
def Obligations.PlacedSlicesNeverOverlap : Prop :=
  ∀ (engineOf : Nat → Nat) (budgets : List Nat) (period : Nat) (l : List Task),
    (placeAll engineOf budgets period l).slices.Pairwise (fun p q => p.engine = q.engine → p.stop ≤ q.start) ∧
    (∀ p ∈ (placeAll engineOf budgets period l).slices,
      p.start < p.stop ∧ ∃ t ∈ l, p.task = t.num ∧ p.engine = t.engine ∧ p.stop ≤ slotBound period t.cutoff) ∧
    ((l.map (·.num)).Nodup → ∀ p ∈ (placeAll engineOf budgets period l).slices, ∀ q ∈ (placeAll engineOf budgets period l).slices, ∀ t ∈ l,
      p.task = t.num → t.dep ≠ 255 → q.task = t.dep → q.stop + (if engineOf t.dep = t.engine then 0 else 8) ≤ p.start)

/-- R45, R87: at the start of a slice the registers and the stacks of the engine are 0, its entry and budget are those of the slice, its first
bundle issues 4 cycles later, and the status registers name the task and the frame. Other engines stay as they are. -/
def Obligations.SliceStarts : Prop :=
  ∀ (s : State) (e : Fin 8) (p : Placed) (im : Image), nextSlice s e = some p → s.sched.image = some im → (s.en e).state = .idle →
    s.clocked = true → p.task < 128 →
    ∃ u, exec (.sliceStart e) s = .next u ∧ (u.en e).state = .run ∧ (u.en e).rf = RegFile.zero ∧ (u.en e).ret = [] ∧ (u.en e).loops = [] ∧
      (u.en e).pc = sliceEntry (im.slices.getD p.slice (0, 0)) ∧ (u.en e).budget = sliceBudget (im.slices.getD p.slice (0, 0)) ∧
      (u.en e).startEdge = 2 * p.start + 8 ∧ (u.en e).dmem = (s.en e).dmem ∧ (u.en e).imem = (s.en e).imem ∧
      u.rf (Reg.BE_STAT e) 16 8 = p.task ∧ u.rf (Reg.TASK_STAT p.task) 0 16 = s.frame.toNat % 2 ^ 16 ∧
      (∀ k : Fin 8, k ≠ e → u.en k = s.en k) ∧ (∀ a, a ≠ Reg.BE_STAT e → a ≠ Reg.TASK_STAT p.task → u.rd a = s.rd a) ∧
      { u with edge := s.edge, regs := s.regs, eng := s.eng, sched := s.sched } = s

/-- R88, R89: an engine whose budget reaches 0 before END is abandoned with CAUSE 1: it is IDLE, BE_STAT and ABANDON_CNT show it, and its
registers stay. -/
def Obligations.BudgetExhausts : Prop :=
  ∀ (s : State) (e : Fin 8), (s.en e).state = .run → s.clocked = true → s.txn.state = .free → s.flag (Reg.FLT_SRC (48 + e)) 3 = false →
    ∃ u, exec (.budgetExhausted e) s = .next u ∧ (u.en e).state = .idle ∧ u.rf (Reg.BE_STAT e) 8 8 = 1 ∧ u.flag (Reg.BE_STAT e) 3 = true ∧
      u.rf (Reg.BE_ERR e) 8 8 = min (s.rf (Reg.BE_ERR e) 8 8 + 1) 255 ∧ (u.en e).rf = (s.en e).rf ∧ (∀ k : Fin 8, k ≠ e → u.en k = s.en k)

/-- R90, R92, R97: a keyed BE_RST resets each engine of RST that is not OFF (log entry 12): its registers are 0, its DMEM is 0 with tag 0, its instruction
memory stays, and it is in REHASH; a slice that it ran is abandoned, counted and raised as an engine fault (log entry 90); a write without the key changes
no engine. A hash that agrees has the DMEM section written again, and the engine waits for the boundary, where no word has an error that
cannot be corrected (log entry 57); one that differs, or that cannot be formed because of an uncorrectable word, leaves it OFF with CAUSE 7.
R99, R116: VERIFY starts the check of the bank it names, unless one runs or the mode is BOOT; the check's end records its answer and clears
BUSY. RESTART of SCHED_CTRL clears the clean-frame count of recovery. -/
def Obligations.EngineResetsAndProgramChecks : Prop :=
  ((∀ (s : State) (t : Nat) (v : Word) (rest : List (Nat × Word)), front s Reg.BE_RST v rest →
     (fld v 8 8 = 0xA5 → ∃ u, exec (.beRst t) s = .next u ∧ ∀ e : Fin 8,
       (bit v e = true → (s.en e).state ≠ .off →
         u.en e = { Eng.reset with imem := (s.en e).imem, imemErr := (s.en e).imemErr, stores := (s.en e).stores, state := .rehash,
                                   after := (u.en e).after, unitBad := (s.en e).unitBad }) ∧
       (bit v e = true → (s.en e).inSlice = true → u.flag (Reg.BE_STAT e) 3 = true ∧
         u.rf (Reg.BE_ERR e) 8 8 = min (s.rf (Reg.BE_ERR e) 8 8 + 1) 255 ∧
         (collectorOn s = true → u.flag (Reg.FLT_SST (48 + e)) 0 = true ∧ u.rd (Reg.FLT_SDET (48 + e)) = engineFault e 0)) ∧
       (bit v e = false ∨ (s.en e).state = .off → u.en e = s.en e)) ∧
     (fld v 8 8 ≠ 0xA5 → exec (.beRst t) s = .next (popped s t rest))) ∧
   (∀ (s : State) (e : Fin 8) (im : Image), (s.en e).state = .rehash → (s.en e).rehashed = false → s.clocked = true → s.sched.image = some im →
     ((s.en e).imemErr = [] → sha256 (insnBytes ((List.range im.ninsn).map (fun k => SMap.get 0 (s.en e).imem k))) = s.peg.isecHash →
       exec (.rehashComplete e) s = .next (s.setEn e { (s.en e).loadDmem im.dmem with rehashed := true })) ∧
     (sha256 (insnBytes ((List.range im.ninsn).map (fun k => SMap.get 0 (s.en e).imem k))) ≠ s.peg.isecHash ∨
         (∃ q ∈ (s.en e).imemErr, q.1 < im.ninsn ∧ 2 ≤ q.2) →
       ∃ u, exec (.rehashComplete e) s = .next u ∧ u.en e = { s.en e with state := .off } ∧ u.rf (Reg.BE_STAT e) 8 8 = 7))) ∧
  ((∀ (s : State) (t : Nat) (v : Word) (rest : List (Nat × Word)), front s Reg.PROG_BANK v rest → (fld v 16 2 = 1 ∨ fld v 16 2 = 2) →
     s.solo = true →
     ∃ u, exec (.verify t) s = .next u ∧
       (s.sched.verify = none → s.sys.mode ≠ .boot →
         u.sched = { s.sched with verify := some (fld v 16 2 - 1, checkBank s (fld v 16 2 - 1)) } ∧ u.flag Reg.PROG_STAT 24 = true) ∧
       (s.sched.verify ≠ none ∨ s.sys.mode = .boot → u.sched = s.sched ∧ u.rd Reg.PROG_STAT = s.rd Reg.PROG_STAT)) ∧
   (∀ (s : State) (b : Nat) (r : Reject), s.sched.verify = some (b, r) → b < 2 → s.clocked = true →
     ∃ u, exec .verifyComplete s = .next u ∧ u.sched = { s.sched with verify := none } ∧ u.rf Reg.PROG_STAT (8 * b) 8 = r.code % 256 ∧
       u.flag Reg.PROG_STAT 24 = false ∧ (r.code ≠ 0 → u.rf Reg.PROG_STAT 16 8 = r.slice % 256) ∧
       (r.code ≠ 0 → r.proven < 2 ^ 20 → u.rf Reg.PROG_PROOF 0 20 = r.proven) ∧
       (∀ a, a ≠ Reg.PROG_STAT → a ≠ Reg.PROG_PROOF → u.rd a = s.rd a)) ∧
   (∀ (s : State) (t : Nat) (v : Word) (rest : List (Nat × Word)), front s Reg.SCHED_CTRL v rest → bit v 0 = true →
     exec (.schedCtrlRestart t) s = .next { popped s t rest with sched := { s.sched with recover := 0 } }))

/-! ### Transactions (R118 to R128) -/

/-- R118, R119, R130: a BEGIN of the host opens the free slot for its token with an empty shadow bank, and its own open slot stays as it is; a
BEGIN while another holds it, or while its commit is pending, gives BUSY and leaves it, but for one that an engine's BEGIN of the
same CORE cycle opened, which the host then holds; TOKEN 0 gives RANGE, and in BOOT it gives MODE.
R121, R125, R23: a COMMIT of the owner closes the open slot for its check, and the boundary at which it would apply follows from the
arrival; a ROLLBACK of the owner empties it with ROLLED; either of another token gives NOT_OWNER and leaves the slot, on a free slot NO_TXN,
and after the commit of the same token LATE. R386: in a pair a command, or a write of a TX register, goes into the lead's record with its token,
and on the follower it is discarded with STRAY; from the agreed record it reaches the slot as a command of the twin. -/
def Obligations.TransactionCommands : Prop :=
  (∀ (s : State) (t : Nat) (v : Word) (rest : List (Nat × Word)), front s Reg.TXN_CTRL v rest → fld v 16 2 = 1 → s.solo = true →
     (s.sys.mode ≠ .boot → fld v 0 16 ≠ 0 → s.txn.state = .free →
       ∃ u, exec (.begin t) s = .next u ∧ u.txn = { Txn.reset with
           state := .opened, holder := .host (fld v 0 16), beganAt := (s.at t).now / 2, begins := [⟨1, .host (fld v 0 16), none⟩] } ∧
         resultOnly s u 0 ∧
         { u with regs := s.regs, txn := s.txn } = popped s t rest) ∧
     (s.sys.mode ≠ .boot → fld v 0 16 ≠ 0 → s.txn.state = .opened ∨ s.txn.state = .checking → s.txn.holder = .host (fld v 0 16) →
       ∃ u, exec (.begin t) s = .next u ∧ { u.txn with begins := s.txn.begins } = s.txn ∧ resultOnly s u 0) ∧
     (s.sys.mode ≠ .boot → fld v 0 16 ≠ 0 → s.txn.state ≠ .free → s.txn.state = .pending ∨ s.txn.holder ≠ .host (fld v 0 16) →
       ((∀ r, openRank (s.at t) = some r → r ≤ 1) →
         ∃ u, exec (.begin t) s = .next u ∧ { u.txn with begins := s.txn.begins } = s.txn ∧ u.rf Reg.TXN_STAT 8 8 = 1) ∧
       (∀ r, openRank (s.at t) = some r → 1 < r →
         ∃ u, exec (.begin t) s = .next u ∧ u.txn.state = .opened ∧ u.txn.holder = .host (fld v 0 16) ∧ u.txn.shadow = [] ∧
           u.rf Reg.TXN_STAT 8 8 = 1)) ∧
     (s.sys.mode ≠ .boot → fld v 0 16 = 0 → ∃ u, exec (.begin t) s = .next u ∧ { u.txn with begins := s.txn.begins } = s.txn ∧ u.rf Reg.TXN_STAT 8 8 = 6) ∧
     (s.sys.mode = .boot → ∃ u, exec (.begin t) s = .next u ∧ { u.txn with begins := s.txn.begins } = s.txn ∧ u.rf Reg.TXN_STAT 8 8 = 5)) ∧
  (∀ (s : State) (t : Nat) (v : Word) (rest : List (Nat × Word)), front s Reg.TXN_CTRL v rest → s.solo = true → s.sys.mode ≠ .boot →
     (fld v 16 2 = 2 → s.txn.state = .opened → s.txn.holder = .host (fld v 0 16) →
       exec (.commit t) s = .next { popped s t rest with txn := { s.txn with state := .checking, waiter := none, applyAt := (s.frame.toNat + (if s.closed then 2 else 1)) % 2 ^ 48 } }) ∧
     (fld v 16 2 = 3 → s.txn.state = .opened → s.txn.holder = .host (fld v 0 16) →
       ∃ u, exec (.rollback t) s = .next u ∧ u.txn = Txn.reset ∧ u.rf Reg.TXN_STAT 8 8 = 9) ∧
     (s.txn.state = .checking ∨ s.txn.state = .pending → s.txn.holder = .host (fld v 0 16) →
       (fld v 16 2 = 2 → ∃ u, exec (.commit t) s = .next u ∧ u.txn = s.txn ∧ u.rf Reg.TXN_STAT 8 8 = 10) ∧
       (fld v 16 2 = 3 → ∃ u, exec (.rollback t) s = .next u ∧ u.txn = s.txn ∧ u.rf Reg.TXN_STAT 8 8 = 10)) ∧
     (s.txn.state ≠ .free → s.txn.holder ≠ .host (fld v 0 16) →
       (fld v 16 2 = 2 → ∃ u, exec (.commit t) s = .next u ∧ u.txn = s.txn ∧ u.rf Reg.TXN_STAT 8 8 = 2) ∧
       (fld v 16 2 = 3 → ∃ u, exec (.rollback t) s = .next u ∧ u.txn = s.txn ∧ u.rf Reg.TXN_STAT 8 8 = 2)) ∧
     (s.txn.state = .free →
       (fld v 16 2 = 2 → ∃ u, exec (.commit t) s = .next u ∧ u.txn = s.txn ∧ u.rf Reg.TXN_STAT 8 8 = 3) ∧
       (fld v 16 2 = 3 → ∃ u, exec (.rollback t) s = .next u ∧ u.txn = s.txn ∧ u.rf Reg.TXN_STAT 8 8 = 3))) ∧
  (∀ (s : State) (t : Nat) (v : Word) (rest : List (Nat × Word)), front s Reg.TXN_CTRL v rest → s.solo = false →
     ∀ p ∈ [(1, Instr.begin t), (2, .commit t), (3, .rollback t)], fld v 16 2 = p.1 →
       (s.isLead = true → exec p.2 s = .next ((popped s t rest).recordCut ⟨.txnWrite, [Reg.TXN_CTRL, v.toNat, 0]⟩)) ∧
       (s.isLead = false → exec p.2 s = .next ((popped s t rest).setFlag Reg.TXN_STAT 5 true))) ∧
  (∀ (s : State) (v : Word), s.clocked = true → s.edge + 1000 ≤ s.period → s.solo = true → s.tru.probation = 0 →
     s.sys.mode ∈ [Mode.idle, .run, .limp, .safe, .service] → s.inrec.cur = [⟨.txnWrite, [Reg.TXN_CTRL, v.toNat, 0]⟩] →
     (fld v 16 2 = 1 → fld v 0 16 ≠ 0 → s.txn.state = .free → ∃ u, exec .exchangeDeadline s = .next u ∧ u.txn.state = .opened ∧
       u.txn.holder = .twin (fld v 0 16) ∧ u.txn.shadow = [] ∧ u.rf Reg.TXN_STAT 8 8 = 0) ∧
     (s.txn.state = .opened → s.txn.holder = .twin (fld v 0 16) →
       (fld v 16 2 = 2 → ∃ u, exec .exchangeDeadline s = .next u ∧ u.txn.state = .checking ∧ u.txn.shadow = s.txn.shadow ∧
         u.txn.applyAt = (s.frame.toNat + (if s.closed then 2 else 1)) % 2 ^ 48) ∧
       (fld v 16 2 = 3 → ∃ u, exec .exchangeDeadline s = .next u ∧ u.txn = Txn.reset ∧ u.rf Reg.TXN_STAT 8 8 = 9)) ∧
     (∀ k, s.txn.state ≠ .free → s.txn.holder = .twin k → k ≠ fld v 0 16 → fld v 16 2 = 2 ∨ fld v 16 2 = 3 →
       ∃ u, exec .exchangeDeadline s = .next u ∧ u.txn = s.txn ∧ u.rf Reg.TXN_STAT 8 8 = 2)) ∧
  (∀ (s : State) (a : Nat) (v : Word) (r : RegRow), s.clocked = true → s.edge + 1000 ≤ s.period → s.solo = true → s.tru.probation = 0 →
     s.inrec.cur = [⟨.txnWrite, [a, v.toNat, 0]⟩] → Reg.row? a = some r → r.tx ≠ 0 → r.rw = 0 → r.w1c = 0 → r.wo = 0 →
     (∀ k, s.txn.state = .opened → s.txn.holder = .twin k → s.txn.shadow.length < 4096 →
       ∃ u, exec .exchangeDeadline s = .next u ∧ u.txn = { s.txn with shadow := SMap.insert s.txn.shadow a (v &&& r.tx), idle := 0 }) ∧
     (s.txn.state ≠ .opened → ∃ u, exec .exchangeDeadline s = .next u ∧ u.txn = s.txn ∧ u.flag Reg.TXN_STAT 5 = true))

/-- A commit that is being checked is refused as a whole with the status, and the slot is free (R121, R122). -/
abbrev Sys2Proof.Claims.refusedWith (s : State) (t status : Nat) : Prop :=
  ∃ u, exec (.commitCheckComplete t) s = .next u ∧ u.txn = Txn.reset ∧ u.rf Reg.TXN_STAT 8 8 = status

/-- The transaction overflows one of the hardware tables of R123, in its order; `v` is the device as the commit would configure it. -/
def Sys2Proof.Claims.overflows (s v : State) : Prop :=
  4096 < s.txn.shadow.length + s.txn.beyond.length ∨
  (writesIn s 0x012400 0x012C00 = true ∧ ∃ i j : Fin 128, i ≠ j ∧ (v.flag (Reg.TASK_CFG i) 31 && v.flag (Reg.TASK_CFG i) 27) = true ∧
    (v.flag (Reg.TASK_CFG j) 31 && v.flag (Reg.TASK_CFG j) 27) = true) ∨
  (writesIn s 0x024000 0x028000 = true ∧ ∃ k, 256 ≤ k ∧ k < 512 ∧ v.flag (Reg.OUT_CFG k) 31 = true) ∨
  (writesIn s 0x074000 0x078000 = true ∧ ∃ k, (if s.sys.variant = 1 then 0 else 288) ≤ k ∧ k < 512 ∧ v.flag (Reg.GCH_SIG k) 31 = true) ∨
  (∃ n : Fin 4, writesIn s (0x081000 + 0x4000 * n) (0x083000 + 0x4000 * n) = true ∧ ∃ k, 256 ≤ k ∧ k < 512 ∧
    v.flag (Reg.FLT_CTL n k) 31 = true) ∨
  (∃ n q : Fin 4, 256 < v.rf (Reg.BUS_QCFG n q) 0 10) ∨ (∃ n : Fin 4, 64 < v.rf (Reg.BUS_TXNUM n) 0 7) ∨
  (writesIn s 0x0A9000 0x0AB000 = true ∧ ∃ k, 1024 ≤ k ∧ k < 2048 ∧ v.flag (Reg.REC_CODE k) 31 = true) ∨
  (s.sys.variant = 2 ∧ ∃ c ∈ txnChannels s v, 48 ≤ c ∧ c < 96 ∨ 102 ≤ c)

/-- Ranges that the rules of the blocks give, each with the word whose write puts it at stake: the frame period (R40) and the pages (R368); the
task table (R104, R105); two outlets on one switch channel (R142); the profiles (R229, R230); the axes (R256, R259); the message areas (R324) and the
reference offset (R349); the quiet period (R414) and the sources (R408); the recorder's freeze time (R427). -/
def Sys2Proof.Claims.outOfRange (s v : State) : Prop :=
  (∃ w, (Reg.SYS_FRMCFG, w) ∈ s.txn.shadow ∧ 5 < v.rf Reg.SYS_FRMCFG 0 3) ∨
  (∃ (i : Fin 64) (w : Word), ((Reg.HP_PSRC i, w) ∈ s.txn.shadow ∨ (Reg.HP_PCFG i, w) ∈ s.txn.shadow) ∧ v.flag (Reg.HP_PCFG i) 31 = true ∧
    (v.rf (Reg.HP_PCFG i) 0 8 = 0 ∨ 252 < v.rf (Reg.HP_PCFG i) 0 8 ∨ (v.rd (Reg.HP_PSRC i)).toNat % 32 ≠ 0 ∨
      (v.rd (Reg.HP_PSRC i)).toNat < 0x20000000 ∨ 0x20400000 < (v.rd (Reg.HP_PSRC i)).toNat + 4 * v.rf (Reg.HP_PCFG i) 0 8)) ∨
  (∃ (k : Fin 128) (w : Word), (Reg.TASK_TIME k, w) ∈ s.txn.shadow ∧ (v.rf (Reg.TASK_TIME k) 18 2 = 3 ∨ v.rf (Reg.TASK_TIME k) 8 8 = 0 ∨
    v.rf (Reg.TASK_TIME k) 8 8 ≤ v.rf (Reg.TASK_TIME k) 0 8)) ∨
  (writesIn s 0x012400 0x012C00 = true ∧ ∃ k : Fin 128, v.flag (Reg.TASK_CFG k) 31 = true ∧ v.rf (Reg.TASK_CFG k) 8 8 ≠ 0xFF ∧
    (v.rf (Reg.TASK_CFG k) 8 8 = k.val ∨ 128 ≤ v.rf (Reg.TASK_CFG k) 8 8 ∨ v.flag (Reg.TASK_CFG (v.rf (Reg.TASK_CFG k) 8 8)) 31 = false)) ∨
  (writesIn s 0x012400 0x012C00 = true ∧ ∃ (k : Fin 128) (i : Image), v.sched.image = some i ∧ v.flag (Reg.TASK_CFG k) 31 = true ∧
    i.slices.length ≤ v.rf (Reg.TASK_CFG k) 0 8 + v.rf (Reg.TASK_TIME k) 16 2) ∨
  (writesIn s 0x024000 0x028000 = true ∧ ∃ j k : Fin 256, j ≠ k ∧ v.flag (Reg.OUT_CFG j) 31 = true ∧ v.flag (Reg.OUT_CFG k) 31 = true ∧
    v.rf (Reg.OUT_CFG j) 28 3 = v.rf (Reg.OUT_CFG k) 28 3 ∧ (v.rf (Reg.OUT_CFG j) 28 3 = 1 ∨ v.rf (Reg.OUT_CFG j) 28 3 = 2) ∧
    v.rf (Reg.OUT_CFG j) 18 8 = v.rf (Reg.OUT_CFG k) 18 8) ∨
  (∃ (p : Fin 8) (w : Word), (Reg.PRF_WIN p, w) ∈ s.txn.shadow ∧ v.rf (Reg.PRF_WIN p) 16 16 < v.rf (Reg.PRF_WIN p) 0 16) ∨
  (∃ (a : Fin 16) (w : Word), (Reg.AX_CFG a, w) ∈ s.txn.shadow ∧ (3 < v.rf (Reg.AX_CFG a) 28 3 ∨ v.rf (Reg.AX_CFG a) 8 8 ≤ v.rf (Reg.AX_CFG a) 0 8)) ∨
  (writesIn s 0x080000 0x090000 = true ∧ ∃ m n : Fin 4, m ≠ n ∧ (v.rd (Reg.BUS_MBASE m)).toNat = (v.rd (Reg.BUS_MBASE n)).toNat ∧
    0 < v.rf (Reg.BUS_TXNUM m) 0 7 ∧ 0 < v.rf (Reg.BUS_TXNUM n) 0 7) ∨
  (∃ (n : Fin 4) (w : Word), (Reg.BUS_REFT n, w) ∈ s.txn.shadow ∧ v.period ≤ v.rf (Reg.BUS_REFT n) 0 20) ∨
  (∃ w, (Reg.FLT_QUIET, w) ∈ s.txn.shadow ∧ (v.rf Reg.FLT_QUIET 0 13 = 0 ∨ 6000 < v.rf Reg.FLT_QUIET 0 13)) ∨
  (∃ (k : Fin 512) (w : Word), (Reg.FLT_SRC k, w) ∈ s.txn.shadow ∧ v.flag (Reg.FLT_SRC k) 31 = true ∧ Flt.resetSev? k = none) ∨
  (∃ w, (Reg.REC_CFG, w) ∈ s.txn.shadow ∧ v.rf Reg.REC_CFG 8 8 = 0)

/-- The mode rules: the frame period and FLT_CFG outside IDLE and SERVICE (R18, R418), the map in use (R140), and the structure of an enabled
controller (R326). -/
def Sys2Proof.Claims.wrongMode (s v : State) : Prop :=
  (s.sys.mode ≠ .idle ∧ s.sys.mode ≠ .service ∧ (s.rd Reg.SYS_FRMCFG ≠ v.rd Reg.SYS_FRMCFG ∨ ∃ w, (Reg.FLT_CFG, w) ∈ s.txn.shadow)) ∨
  (s.sys.mode ∈ [Mode.run, .limp, .safe] ∧ s.flag (Reg.MAP_GEOM (s.rf Reg.SCR_CTRL 9 1)) 31 = true ∧ ∃ i < 10,
    s.rd (Reg.MAP_GEOM (s.rf Reg.SCR_CTRL 9 1) + 4 * i) ≠ v.rd (Reg.MAP_GEOM (s.rf Reg.SCR_CTRL 9 1) + 4 * i)) ∨
  (∃ n : Fin 4, (s.flag (Reg.BUS_CFG n) 0 = true ∨ v.flag (Reg.BUS_CFG n) 0 = true) ∧
    ∃ a ∈ [Reg.BUS_NBT n, Reg.BUS_DBT n, Reg.BUS_MBASE n, Reg.BUS_TXNUM n, Reg.BUS_QCFG n 0, Reg.BUS_QCFG n 1, Reg.BUS_QCFG n 2, Reg.BUS_QCFG n 3],
      s.rd a ≠ v.rd a)

/-- R120, R124: a host's write of a TX register while the host holds the open slot goes to the shadow bank and not to the register; without
an open slot of the host it sets STRAY and changes nothing else of a register all of whose bits are TX or read-only. In a pair it goes into the
lead's record, and is STRAY on the follower (R386). R121, R122, R127: the
end of a check accepts the commit, which is PENDING until its boundary, or refuses it as a whole with its status and leaves the slot free, by
the first of these that applies: a host command whose digest is not the bank's is AUTH (R451), an overflow of a table of R123 LIMIT, a field out
of its range RANGE, a change that the mode forbids MODE, and a task table whose CRIT tasks do not fit together SCHED; that a commit is judged so
where the period alone changes, and that the first four rules of R105 are RANGE, are log entries 73 and 72. A
transaction without a TX write for 10,000 advances of the operating time is rolled back with TIMEOUT; that time advances by one, and
saturates, and with it the key-off timer (R473), the quiet period, which a source that holds the reaction stops (R414), the interval of the
recovery decay (R417; that a reaction starts it anew is the model's reading, log entry 86), and the age of a recorder freeze (R427). -/
def Obligations.ShadowWritesAndCommitCheck : Prop :=
  (∀ (s : State) (t a : Nat) (v : Word) (rest : List (Nat × Word)) (r : RegRow), front s a v rest → s.solo = true → Reg.row? a = some r →
     r.tx ≠ 0 → r.rw = 0 → r.w1c = 0 → r.wo = 0 →
     (∀ x ∈ s.sys.arrived, x.rank ≤ 8) →
     ∃ u, exec (.txRegisterWrite t) s = .next u ∧
       (∀ k, s.txn.state = .opened → s.txn.holder = .host k → s.txn.shadow.length < 4096 →
         { u with sys := { u.sys with arrived := s.sys.arrived, arrivedAt := s.sys.arrivedAt } } =
           { popped s t rest with txn := { s.txn with shadow := SMap.insert s.txn.shadow a (v &&& r.tx), idle := 0 } }) ∧
       (s.txn.state ≠ .opened ∨ (∀ k, s.txn.holder ≠ .host k) →
         { u with sys := { u.sys with arrived := s.sys.arrived, arrivedAt := s.sys.arrivedAt } } =
           (popped s t rest).setFlag Reg.TXN_STAT 5 true)) ∧
  (∀ (s : State) (t a : Nat) (v : Word) (rest : List (Nat × Word)) (r : RegRow), front s a v rest → s.solo = false → Reg.row? a = some r →
     r.tx ≠ 0 → r.rw = 0 → r.w1c = 0 → r.wo = 0 →
     ∃ u, exec (.txRegisterWrite t) s = .next u ∧ u.txn = s.txn ∧
       (s.isLead = true → s.closed = false → u.inrec.next = s.inrec.next ++ [⟨.txnWrite, [a, (v &&& r.tx).toNat, 0]⟩] ∧ u.regs = s.regs) ∧
       (s.isLead = true → s.closed = true → u.inrec.after = s.inrec.after ++ [⟨.txnWrite, [a, (v &&& r.tx).toNat, 0]⟩] ∧ u.regs = s.regs) ∧
       (s.isLead = false → u.inrec = s.inrec ∧ u.regs = (s.setFlag Reg.TXN_STAT 5 true).regs)) ∧
  (∀ (s : State) (t : Nat), s.txn.state = .checking → s.clocked = true →
     (s.txn.digOk = false → refusedWith s t 11) ∧
     (s.txn.digOk = true → overflows s s.merged → refusedWith s t 4) ∧
     (s.txn.digOk = true → ¬ overflows s s.merged → outOfRange s s.merged → refusedWith s t 6) ∧
     (s.txn.digOk = true → ¬ overflows s s.merged → rangeCheck s s.merged = true → wrongMode s s.merged → refusedWith s t 5) ∧
     (s.txn.digOk = true → ¬ overflows s s.merged → rangeCheck s s.merged = true → modeCheck s s.merged = true →
       writesIn s 0x012400 0x012C00 = true → s.sched.image.isSome = true →
       (∃ k ∈ tasks s.merged, k.cls = 0 ∧ (placeAll (fun n => s.merged.rf (Reg.TASK_CFG n) 24 3) (imageBudgets s) s.merged.period
         ((tasks s.merged).filter (fun x => decide (x.cls = 0)))).has k.num = false) → refusedWith s t 7) ∧
     (s.txn.digOk = true → ¬ overflows s s.merged → rangeCheck s s.merged = true → modeCheck s s.merged = true →
       writesIn s 0x012400 0x012C00 = false → s.rd Reg.SYS_FRMCFG = s.merged.rd Reg.SYS_FRMCFG →
       ∃ u, exec (.commitCheckComplete t) s = .next u ∧ u.txn = { s.txn with state := .pending } ∧ u.rf Reg.TXN_STAT 8 8 = 0)) ∧
  ((∀ (s : State) (t : Nat), s.txn.state = .checking → s.clocked = true →
     (commitVerdict { s with edge := (s.at t).edge } = none →
       ∃ u, exec (.commitCheckComplete t) s = .next u ∧ u.txn = { s.txn with state := .pending } ∧ u.rf Reg.TXN_STAT 8 8 = 0 ∧
         (s.txn.waiter = none → resultOnly s u 0)) ∧
     (∀ v, commitVerdict { s with edge := (s.at t).edge } = some v →
       ∃ u, exec (.commitCheckComplete t) s = .next u ∧ u.txn = Txn.reset ∧ u.rf Reg.TXN_STAT 8 8 = v.st.code ∧
         u.rf Reg.TXN_STAT 16 8 = (if v.st = .limit then v.table % 256 else s.rf Reg.TXN_STAT 16 8))) ∧
   (∀ s : State, s.txn.state = .opened → 10000 ≤ s.txn.idle → s.clocked = true →
     ∃ u, exec .transactionTimeout s = .next u ∧ u.txn = Txn.reset ∧ u.rf Reg.TXN_STAT 8 8 = 8) ∧
   (∀ s : State, s.clocked = true →
     exec .operatingTimeAdvance s = .next
       { s with
         sys := { s.sys with optime := min (2 ^ 44 - 1) (s.sys.optime + 1), koRun := s.sys.koRun + 1 }
         txn := { s.txn with idle := if s.txn.state = .opened then s.txn.idle + 1 else s.txn.idle }
         flt := { s.flt with quiet := if heldBySource s then s.flt.quiet else s.flt.quiet + 1,
                             calm := if s.flt.reaction = 0 then s.flt.calm + 1 else 0 }
         rcd := { s.rcd with frozen := s.rcd.frozen + 1 } }))

/-! ### What engines wait for (R50, R77, R78, R83) -/

/-- R78, R155, R157: a query that completes has its results in frame memory and lets the engines that wait for its ticket go on with 1, or
with 0 where its bound has passed; one that is not complete at its bound is lost, and they go on with 0. R83: a JSYNC whose entry is not
durable within its 8,000 cycles returns 0. R50, R77: the oldest store of an engine leaves its list, and the last one ends a FENCE and lets a TCOMMIT go to
its block; a load of the engine that waited for it alone reads its word then, and one that waits for more goes on waiting. A store of a staged PWM word that carries its value's tag enters the staged bank, where of the writes of one CORE cycle the one
of the highest rank remains (log entry 10; that TCOMMIT waits is log entry 36); one with another tag is not taken (R36, R50). -/
def Obligations.WaitsEnd : Prop :=
  (∀ (s : State) (t : Nat) (q : Query) (k : Word), s.clocked = true → queryOf s k = some q →
    (∃ u, exec (.scribeQueryComplete t k) s = .next u ∧ u.scr.queries = dropQuery s.scr.queries k ∧
      u.fmem = ((s.at t).storeResults q 0 q.outlets).fmem ∧ u.fmemTag = ((s.at t).storeResults q 0 q.outlets).fmemTag ∧
      (q.frame ≠ s.frame → u.eng = s.eng ∧ u.scr.done = s.scr.done) ∧
      (q.frame = s.frame → k ∈ u.scr.done ∧ ∀ (e : Fin 8) (p : Nat), (s.en e).wait = .query p k → p ≠ 0 → p < 8 →
        (u.en e).wait = .none ∧ u.pOf e p = decide ((s.at t).now ≤ SMap.get 0 s.scr.bounds k.toNat))) ∧
    (q.bound ≤ (s.at t).now →
      ∃ u, exec (.scribeQueryTimeout t k) s = .next u ∧ u.scr.queries = dropQuery s.scr.queries k ∧ u.fmem = s.fmem ∧
        (q.frame ≠ s.frame → u.eng = s.eng) ∧
        (q.frame = s.frame → ∀ (e : Fin 8) (p : Nat), (s.en e).wait = .query p k → p ≠ 0 → p < 8 →
          (u.en e).wait = .none ∧ u.pOf e p = false))) ∧
  (∀ (s : State) (t : Nat) (e : Fin 8) (p : Nat) (q : Word) (bound : Nat), s.clocked = true → (s.en e).wait = .journal p q bound → p < 8 →
    bound ≤ (s.at t).now →
    ∃ u, exec (.jsyncTimeout t e) s = .next u ∧ (u.en e).wait = .none ∧ u.pOf e p = decide (p = 0) ∧ keepsRegs e [] [p] s u ∧ u.jrn = s.jrn ∧
      u.regs = s.regs) ∧
  (∀ (s : State) (t : Nat) (e : Fin 8) (ph : BusPhase) (ago : Nat) (x : BlockStore) (xs : List BlockStore), s.clocked = true →
    (s.en e).stores = x :: xs →
    (∃ u, exec (.blockStoreArrival t e ph ago) s = .next u) ∧
    (∀ (c : Fin 192), x.addr = Reg.PWM_DUTY c → x.token = none →
      ∃ u, exec (.blockStoreArrival t e ph ago) s = .next u ∧ (u.en e).stores = xs ∧
        (xs = [] → (s.en e).wait = .fence → (u.en e).wait = .none) ∧
        (∀ d, xs = [] → (s.en e).wait = .commitDue d → s.txn.state = .opened → s.txn.holder = .engines (s.en e).task →
          (u.en e).wait = .commit d ∧ u.txn.state = .checking) ∧
        (x.tag = tagOf x.val → s.closed = false →
          (∀ y ∈ arrivedNow (s.at t), y.addr = x.addr → y.rank ≤ e.val) → u.stNext = SMap.insert s.stNext x.addr x.val) ∧
        (∀ y, x.tag = tagOf x.val → s.closed = false →
          (arrivedNow (s.at t)).filter (fun y => decide (y.addr = x.addr) && decide (e.val < y.rank)) = [y] →
          u.stNext = SMap.insert (SMap.insert s.stNext x.addr x.val) x.addr y.val) ∧
        (x.tag ≠ tagOf x.val → u.stNext = s.stNext ∧ u.stAfter = s.stAfter) ∧
        (∀ l, (s.en e).loads = [l] → (s.en e).wait = .none → 0 < l.d → l.d < 32 →
          (l.ahead ≤ 1 → (u.en e).loads = [] ∧ u.gOf e l.d = newTW (u.view l.addr)) ∧
          (1 < l.ahead → (u.en e).loads = [{ l with ahead := l.ahead - 1 }] ∧ (u.en e).rf = (s.en e).rf))))

/-! ### Gauge and the sensor converter (R165 to R169, R181 to R195) -/

/-- Trigger `k` is for one converter alone, which is enabled and stands empty, and the first input of its list is not off. -/
abbrev Sys2Proof.Claims.startsOn (s : State) (k i : Nat) (b : Bool) : Prop :=
  adcRuns s = true ∧ s.rf (Reg.ADC_TRGSRC k) 24 2 = (if b then 2 else 1) ∧ s.flag Reg.ADC_CTRL (if b then 1 else 0) = true ∧
  s.rf (Reg.ADC_TRGLIST k) 0 4 = i ∧ (s.adcU b).cur = none ∧ (s.adcU b).fs = [] ∧ (s.adcU b).pend = [] ∧ (s.adcU b).refDue = false ∧
  s.rf (Reg.ADC_INCFG (adcInput b i)) 0 2 ≠ 3

/-- The first input of a trigger's list is being converted on its converter, and BUSY shows it. -/
abbrev Sys2Proof.Claims.converts (u : State) (i : Nat) (b : Bool) : Prop :=
  (u.adcU b).cur.map (·.input) = some (adcInput b i) ∧ u.flag Reg.ADC_STAT (if b then 1 else 0) = true

/-- An event of trigger `k` is one of the DIV-th (R184). -/
abbrev Sys2Proof.Claims.divEvent (s : State) (k : Nat) : Prop := s.rf (Reg.ADC_TRGLIST k) 16 8 ≤ SMap.get 0 s.adc.divs k + 1

/-- R166, R167, R169: a search whose samples hold its dip or bump is over, and its measurement is carried in the next input record; one
whose samples do not is a miss: the confidence of its edge falls by CMISS and the miss is counted (the end of the last interval is log entry 8). R184, R186: a trigger whose event has
come, the bit of a software trigger, and the compare match that a trigger selects (at once, log entry 42) each start the first conversion of the trigger's list on
an empty converter: the input is being converted and BUSY shows it; where four lists wait already the trigger is lost and counted; an event
before the DIV-th fires nothing, and neither does one that no trigger selects. R182, R183, R185, R188 to R190: a completed conversion puts
the mean of its samples, rounded to nearest (a tie is open, log entry 2), into RAW and its share of the full scale into VALUE within the bound of
its range (log entry 13), advances SEQ, and its result enters an input record; R192: with WIN = 1 a result below LOW or above HIGH carries that in
STAT, and WDEB + 1 of them running after one inside set ADC_STAT.WIN, advance WINCNT and raise the window fault, once until a result lies inside
again; R188, R191: at a frame boundary each enabled converter with REFCHK owes its reference check, and the frame-start triggers have their
event; a reference outside 164 codes of 32,768 sets the converter's flag; an over-current opens the
shunt of an input in the 4 to 20 mA range, and a write of 1 reconnects it (log entry 79). -/
def Obligations.SearchesTriggersAndConversions : Prop :=
  (∀ (s : State) (t : Nat) (c : Fin 108) (samples : List (BitVec 16)) (g : GSearch), s.clocked = true →
     s.gauge.searches.find? (fun x => decide (x.ch = c.val)) = some g →
     (∀ m, runSearch s g.onEdge (samples.map BitVec.toNat) = some m →
       ∃ u, exec (.gaugeMeasurement t c samples) s = .next u ∧ u.gauge.searches = s.gauge.searches.filter (fun x => decide (x.ch ≠ c.val)) ∧
         RecItem.mk .gauge [c.val, b2n g.onEdge, m] ∈ u.inrec.next ∧ u.inrec.cur = s.inrec.cur ∧ u.regs = s.regs) ∧
     (runSearch s g.onEdge (samples.map BitVec.toNat) = none → 19901 ≤ samples.length →
       ∃ u, exec (.gaugeMiss t c samples) s = .next u ∧ u.gauge.searches = s.gauge.searches.filter (fun x => decide (x.ch ≠ c.val)) ∧
         u.rf (if g.onEdge then Reg.GAU_ON c else Reg.GAU_OFF c) 24 8
           = s.rf (if g.onEdge then Reg.GAU_ON c else Reg.GAU_OFF c) 24 8 - s.rf Reg.GAU_CFG0 24 8 ∧
         u.rf (Reg.GAU_CNT c) 16 8 = min 255 (s.rf (Reg.GAU_CNT c) 16 8 + 1))) ∧
  ((∀ (s : State) (t : Nat) (k : Fin 16), adcRuns s = true → ((s.at t).now, k.val) ∈ s.adc.due →
     ∃ u, exec (.adcTrigger t k) s = .next u ∧ ((s.at t).now, k.val) ∉ u.adc.due ∧
       (∀ i b, startsOn s k i b → (∀ j < k.val, ((s.at t).now, j) ∉ s.adc.due) → s.adc.due.Nodup → converts u i b) ∧
       (adcFull s false = true → s.rf (Reg.ADC_TRGSRC k) 24 2 = 1 → s.flag Reg.ADC_CTRL 0 = true →
         (∀ j < k.val, ((s.at t).now, j) ∉ s.adc.due) → s.adc.due.Nodup →
         u.flag Reg.ADC_STAT 4 = true ∧ u.adc.a = s.adc.a ∧ u.rf Reg.ADC_CNT 0 16 = min 65535 (s.rf Reg.ADC_CNT 0 16 + 1))) ∧
   (∀ (s : State) (t : Nat) (k : Fin 16) (v : Word) (rest : List (Nat × Word)), front s Reg.ADC_SWTRG v rest → adcRuns s = true →
     ((adcTriggers s 3 (fun _ => true)).filter (fun n => bit v n) = [] → exec (.adcSwtrg t) s = .next (popped s t rest)) ∧
     ((adcTriggers s 3 (fun _ => true)).filter (fun n => bit v n) = [k.val] →
       (∀ i b, startsOn s k i b → divEvent s k → ∃ u, exec (.adcSwtrg t) s = .next u ∧ converts u i b) ∧
       (¬ divEvent s k → ∃ u, exec (.adcSwtrg t) s = .next u ∧ { u with adc := s.adc } = popped s t rest ∧
         SMap.get 0 u.adc.divs k = SMap.get 0 s.adc.divs k + 1 ∧ u.adc.a = s.adc.a ∧ u.adc.b = s.adc.b))) ∧
   (∀ (s : State) (t : Nat) (k : Fin 16) (c : Fin 192) (x : Bool), adcRuns s = true → compareNow (s.at t) c x = true →
     (adcTriggers s 1 (fun sel => decide (sel % 512 = c.val + (if x then 256 else 0))) = [] →
       exec (.compareMatch t c x) s = .next { s with edge := (s.at t).edge }) ∧
     (adcTriggers s 1 (fun sel => decide (sel % 512 = c.val + (if x then 256 else 0))) = [k.val] →
       (∀ i b, startsOn s k i b → divEvent s k → ∃ u, exec (.compareMatch t c x) s = .next u ∧ converts u i b) ∧
       (¬ divEvent s k → ∃ u, exec (.compareMatch t c x) s = .next u ∧ SMap.get 0 u.adc.divs k = SMap.get 0 s.adc.divs k + 1 ∧
         u.adc.a = s.adc.a ∧ u.adc.b = s.adc.b)))) ∧
  ((∀ (s : State) (t : Nat) (b : Bool) (codes : List (BitVec 16)) (c : AdcConv), adcRuns s = true → (s.adcU b).cur = some c → c.input < 32 →
     codes.length = 2 ^ fld c.cfg 4 2 →
     ∃ (u : State) (m : Nat), exec (.adcConversionComplete t b codes) s = .next u ∧ m < 65536 ∧
       2 * m * codes.length ≤ 2 * (codes.map BitVec.toNat).sum + codes.length ∧
       2 * (codes.map BitVec.toNat).sum ≤ 2 * m * codes.length + codes.length ∧
       u.rd (Reg.ADC_RES_RAW c.input) = BitVec.ofNat 32 m ∧
       (u.rd (Reg.ADC_RES_VALUE c.input)).toInt ≤ m * adcFullScale (fld c.cfg 0 2) / 65536 + adcErrorBound (fld c.cfg 0 2) ∧
       m * adcFullScale (fld c.cfg 0 2) / 65536 ≤ (u.rd (Reg.ADC_RES_VALUE c.input)).toInt + adcErrorBound (fld c.cfg 0 2) ∧
       u.rf (Reg.ADC_RES_STAT c.input) 16 16 = (s.rf (Reg.ADC_RES_STAT c.input) 16 16 + 1) % 2 ^ 16 ∧
       u.flag (Reg.ADC_RES_STAT c.input) 2 = (bit c.cfg 6 && decide (m < fld c.win 0 16)) ∧
       u.flag (Reg.ADC_RES_STAT c.input) 3 = (bit c.cfg 6 && decide (fld c.win 16 16 < m)) ∧
       (bit c.cfg 6 = true → fld c.win 0 16 ≤ m → m ≤ fld c.win 16 16 →
         SMap.get false u.adc.winArm c.input = true ∧ SMap.get 0 u.adc.winRun c.input = 0 ∧ u.flag Reg.ADC_STAT 6 = s.flag Reg.ADC_STAT 6) ∧
       (bit c.cfg 6 = true → m < fld c.win 0 16 ∨ fld c.win 16 16 < m →
         (SMap.get false s.adc.winArm c.input = true → fld c.cfg 8 4 ≤ SMap.get 0 s.adc.winRun c.input →
           u.flag Reg.ADC_STAT 6 = true ∧ u.rf Reg.ADC_CNT 16 16 = min 65535 (s.rf Reg.ADC_CNT 16 16 + 1) ∧
           SMap.get false u.adc.winArm c.input = false ∧ (collectorOn s = true → u.rd (Reg.FLT_SDET 73) = BitVec.ofNat 32 c.input)) ∧
         (SMap.get false s.adc.winArm c.input = false ∨ SMap.get 0 s.adc.winRun c.input < fld c.cfg 8 4 →
           u.flag Reg.ADC_STAT 6 = s.flag Reg.ADC_STAT 6 ∧ SMap.get false u.adc.winArm c.input = SMap.get false s.adc.winArm c.input)) ∧
       (c.frameStart = true → u.inrec.cur = s.inrec.cur ++ [⟨.adc, [c.input, (u.rd (Reg.ADC_RES_VALUE c.input)).toNat,
         (u.rd (Reg.ADC_RES_STAMP c.input)).toNat, (u.rd (Reg.ADC_RES_STAT c.input)).toNat, m]⟩]) ∧
       (c.frameStart = false → u.inrec.cur = s.inrec.cur ∧ RecItem.mk .adc [c.input, (u.rd (Reg.ADC_RES_VALUE c.input)).toNat,
         (u.rd (Reg.ADC_RES_STAMP c.input)).toNat, (u.rd (Reg.ADC_RES_STAT c.input)).toNat, m] ∈
           (if s.closed then u.inrec.after else u.inrec.next))) ∧
   (∀ (s : State) (t : Nat) (b : Bool) (code : BitVec 16), adcRuns s = true → (s.adcU b).refDue = true → (s.adcU b).cur = none →
     (s.adcU b).fs = [] →
     ∃ u, exec (.adcReferenceCheck t b code) s = .next u ∧ (u.adcU b).refDue = false ∧
       ((u.adcU b).refBad = true ↔ code.toNat < 32604 ∨ 32932 < code.toNat) ∧
       (code.toNat < 32604 ∨ 32932 < code.toNat → u.flag Reg.ADC_STAT (if b then 3 else 2) = true)) ∧
   (∀ (s : State) (t : Nat) (i : Fin 32), adcRuns s = true → s.rf (Reg.ADC_INCFG i) 0 2 = 2 → s.flag Reg.ADC_SHUNT i = false →
     ∃ u, exec (.adcShuntOpen t i) s = .next u ∧ u.flag Reg.ADC_SHUNT i = true ∧ (∀ j : Fin 32, j ≠ i → u.flag Reg.ADC_SHUNT j = s.flag Reg.ADC_SHUNT j) ∧
       u.rd (Reg.FLT_SDET 72) = BitVec.ofNat 32 i.val) ∧
   (∀ (s : State) (t : Nat) (v : Word) (rest : List (Nat × Word)), front s Reg.ADC_SHUNT v rest → adcRuns s = true →
     ∃ u, exec (.adcShunt t) s = .next u ∧ { u with regs := s.regs, adc := s.adc } = popped s t rest ∧ (∀ a, a ≠ Reg.ADC_SHUNT → u.rd a = s.rd a) ∧
       ∀ i : Fin 32, u.flag Reg.ADC_SHUNT i = (s.flag Reg.ADC_SHUNT i && !(bit v i && decide (s.rf (Reg.ADC_INCFG i) 0 2 = 2))) ∧
         u.adc.tripped.getLsbD i = (s.adc.tripped.getLsbD i && !bit v i)) ∧
   (∀ (s : State) (x : FrameSample), runsOn s → s.txn.state ≠ .pending →
     ∃ u, exec (.frameBoundary x) s = .next u ∧ (adcRuns u = true →
       (∀ b, (u.adcU b).refDue = (s.flag Reg.ADC_CTRL (if b then 1 else 0) && s.flag Reg.ADC_CTRL 2)) ∧
       ∀ k : Fin 16, k.val ∈ adcTriggers s 0 (fun _ => true) → divEvent s k → (u.now, k.val) ∈ u.adc.due)))

/-! ### PWM units (R197 to R222) -/

/-- R199, R200, R203, R210: at a period boundary the counter of a running channel is 0 and new values of period and duty are in force, none
while the channel is forced; the active interval of an unpaired MODE 0 channel, neither part of it below MINPW, is its first D ns; at an
edge of the carrier the level changes there, and in a pair a wait begins (R212, R214); a channel that joins a pair as its odd channel follows the
even one from there on (R211). R207 to R209: at the unit's sync event the counters
of the channels that follow it take PHASE, or 0 where PHASE is not below the period; a unit that waits for it starts; and it is the source
of the next unit's in the chain. An edge on SYNCIN is the source event of the unit that selects it. At the end of its wait the second gate
of a pair may turn on, and DT_TOUT says that an adaptive wait reached its limit. R216, R218, R219: a fault pin forces every unit that
selects it and is not blanked, and asserts its source; its end releases the source and no force; the force is cleared by a write while no
source of it is active; while VIO_G is out of range the lands read low and no edge of theirs is seen (R517). Enabling a unit starts its counters, or has them wait for the sync event; disabling it stops them. That a
time-driven command acts at its own instant alone is the model's choice (log entry 78). -/
def Obligations.CarriersAndPwmUnits : Prop :=
  ((∀ (s : State) (t : Nat) (c : Fin 192), pwmRuns s = true → periodOver (s.at t) c = true →
     (c.val % 2 = 0 ∨ 64 ≤ c.val ∨ s.flag (Reg.PWM_CHCFG c) 19 = false) →
     ∃ u, exec (.periodBoundary t c) s = .next u ∧ (u.pch c).began = (s.at t).now ∧ (u.pch c).running = true ∧
       (u.pch c).cfg = s.rd (Reg.PWM_CHCFG c) ∧ (u.pch c).per = (u.rd (Reg.PWM_PER c)).toNat ∧
       (pwmForced s c = true → u.rd (Reg.PWM_PER c) = s.rd (Reg.PWM_PER c) ∧ u.rd (Reg.PWM_DUTY c) = s.rd (Reg.PWM_DUTY c)) ∧
       (pwmForced s c = false → (u.pch c).held = false ∧
         u.rd (Reg.PWM_CMPA c) = (if (s.pch c).newA then (s.pch c).shA else s.rd (Reg.PWM_CMPA c)) ∧
         u.rd (Reg.PWM_CMPB c) = (if (s.pch c).newB then (s.pch c).shB else s.rd (Reg.PWM_CMPB c)) ∧
         (s.flag (Reg.PWM_CHCFG c) 21 = false ∨ (s.pch c).newPer = (s.pch c).newDuty →
           u.rd (Reg.PWM_PER c) = (if (s.pch c).newPer then (s.pch c).shPer else s.rd (Reg.PWM_PER c)) ∧
           u.rd (Reg.PWM_DUTY c) = (if (s.pch c).newDuty then (s.pch c).shDuty else s.rd (Reg.PWM_DUTY c)))) ∧
       (64 ≤ c.val → s.rf (Reg.PWM_CHCFG c) 26 3 = 0 → s.flag (Reg.PWM_CHCFG c) 22 = false →
         s.rf (Reg.PWM_UTIME (c / 8)) 0 12 ≤ (u.rd (Reg.PWM_DUTY c)).toNat →
         (u.rd (Reg.PWM_DUTY c)).toNat + s.rf (Reg.PWM_UTIME (c / 8)) 0 12 ≤ (u.rd (Reg.PWM_PER c)).toNat →
         (u.pch c).onFrom = 0 ∧ (u.pch c).onTo = (u.rd (Reg.PWM_DUTY c)).toNat ∧
           (u.pch c).level = decide (0 < (u.rd (Reg.PWM_DUTY c)).toNat))) ∧
   (∀ (s : State) (t : Nat) (c : Fin 192), pwmRuns s = true → periodOver (s.at t) c = true → c.val % 2 = 1 → c.val < 64 →
     s.flag (Reg.PWM_CHCFG c) 19 = true →
     ∃ u, exec (.periodBoundary t c) s = .next u ∧ (u.pch c).cfg = s.rd (Reg.PWM_CHCFG c) ∧ pairOdd u c = true ∧
       (u.pch (c.val - 1)).began = (s.pch (c.val - 1)).began ∧
       ∀ a, a ∈ [Reg.PWM_CHSTAT c, Reg.PWM_UCNT (c / 8)] → u.rd a = s.rd a) ∧
   (∀ (s : State) (t : Nat) (c : Fin 192), pwmRuns s = true → (s.pch c).running = true → pairOdd s c = false →
     ((s.pch c).refresh ≠ 2 → (s.pch c).level = false → (s.pch c).onFrom < (s.pch c).onTo → pwmCounter (s.at t) c = (s.pch c).onFrom →
       ∃ u, exec (.dutyEdge t c) s = .next u ∧
         u.pch c = { s.pch c with level := true, dead := (s.pch c).dead || pairEven s c,
                                  phaseAt := if pairEven s c then (s.at t).now else (s.pch c).phaseAt }) ∧
     ((s.pch c).refresh ≠ 2 → (s.pch c).level = true → (s.pch c).onTo < (s.pch c).per → pwmCounter (s.at t) c = (s.pch c).onTo →
       ∃ u, exec (.dutyEdge t c) s = .next u ∧
         u.pch c = { s.pch c with level := false, dead := (s.pch c).dead || pairEven s c,
                                  phaseAt := if pairEven s c then (s.at t).now else (s.pch c).phaseAt }) ∧
     ((s.pch c).refresh = 2 → (s.at t).now = (s.pch c).phaseAt + s.rf (Reg.PWM_UTIME (c / 8)) 13 11 →
       ∃ u, exec (.dutyEdge t c) s = .next u ∧ u.pch c = { s.pch c with refresh := 3, dead := true, phaseAt := (s.at t).now })) ∧
   (∀ (s : State) (t : Nat) (k : Fin 24), pwmRuns s = true → syncDue (s.at t) k = true →
     ∃ u, exec (.syncEvent t k) s = .next u ∧ syncsOf u k = (syncsOf s k).eraseP (fun x => decide (x.1 ≤ (s.at t).now) && decide ((s.at t).now ≤ x.2)) ∧
       (k.val ≠ 7 → k.val < 23 → s.rf (Reg.PWM_USYNC (k + 1)) 24 2 = 3 → syncsOf u (k + 1) = syncsOf s (k + 1) ++
         [((s.at t).now + s.rf (Reg.PWM_USYNC (k + 1)) 0 24, (s.at t).now + s.rf (Reg.PWM_USYNC (k + 1)) 0 24)]) ∧
       (SMap.get false s.pwm.waiting k.val = true → SMap.get false u.pwm.waiting k.val = false ∧
         ∀ j < 8, (u.pch (8 * k.val + j)).running = true) ∧
       (SMap.get false s.pwm.waiting k.val = false → s.flag (Reg.PWM_UCTRL k) 0 = true →
         ∀ j < 8, syncs s (8 * k.val + j) = true → pairOdd s (8 * k.val + j) = false →
           (j % 2 = 0 ∨ 64 ≤ 8 * k.val + j ∨ (s.pch (8 * k.val + j)).cfg = s.rd (Reg.PWM_CHCFG (8 * k.val + j))) →
           (u.pch (8 * k.val + j)).began = (s.at t).now - (syncLoad s (8 * k.val + j) : Int) ∧
           (syncLoad s (8 * k.val + j) ≠ 0 → ((u.pch (8 * k.val + j)).level = true ↔
             (s.pch (8 * k.val + j)).onFrom ≤ syncLoad s (8 * k.val + j) ∧ syncLoad s (8 * k.val + j) < (s.pch (8 * k.val + j)).onTo)))) ∧
   (∀ (s : State) (t : Nat) (i : Fin 2), pwmRuns s = true → s.sys.viogFloat = false →
     (s.rf (Reg.PWM_USYNC (8 * i.val)) 24 2 = 2 → ∃ u, exec (.syncinEdge t i) s = .next u ∧
       syncsOf u (8 * i.val) = syncsOf s (8 * i.val) ++ [((s.at t).now + 20 + s.rf (Reg.PWM_USYNC (8 * i.val)) 0 24,
                                                         (s.at t).now + 24 + s.rf (Reg.PWM_USYNC (8 * i.val)) 0 24)] ∧
       (∀ k, k ≠ 8 * i.val → syncsOf u k = syncsOf s k) ∧ { u with pwm := s.pwm } = { s with edge := (s.at t).edge }) ∧
     (s.rf (Reg.PWM_USYNC (8 * i.val)) 24 2 ≠ 2 → exec (.syncinEdge t i) s = .next s)) ∧
   (∀ (s : State) (t : Nat) (i : Fin 2), s.sys.viogFloat = true → exec (.syncinEdge t i) s = .next s) ∧
   (∀ (s : State) (t : Nat) (c : Fin 64) (tout : Bool), pwmRuns s = true → pairEven s c = true → (s.pch c).dead = true →
     deadUntil (s.at t) c tout ≤ (s.at t).now →
     ∃ u, exec (.deadTimeWaitEnd ⟨t, c⟩ tout) s = .next u ∧
       u.pch c = { s.pch c with dead := false, phaseAt := (s.at t).now, refresh := if (s.pch c).refresh = 1 then 2 else 0 } ∧
       (s.flag (Reg.PWM_CHCFG c) 18 = true →
         tout = true ∨ (s.at t).now = (s.pch c).phaseAt + s.rf (Reg.PWM_DT c) 16 11 → u.flag (Reg.PWM_CHSTAT c) 4 = true))) ∧
  ((∀ (s : State) (t : Nat) (n : Fin 16), s.sys.mode ≠ .sill →
     s.sys.viogFloat = false →
     ∃ u, exec (.faultPin t n) s = .next u ∧ u.flag Reg.PWM_FLTLVL n = true ∧ 16 + n.val ∈ u.flt.asserted ∧
       ∀ k : Fin 24, s.flag (Reg.PWM_UFLT k) n = true → s.flag (Reg.PWM_UFLT k) 24 = false → u.flag (Reg.PWM_UFSTAT k) 0 = true) ∧
   (∀ (s : State) (t : Nat) (n : Fin 16), s.sys.viogFloat = true → exec (.faultPin t n) s = .next s ∧ exec (.faultPinRelease n) s = .next s) ∧
   (∀ (s : State) (n : Fin 16), s.sys.viogFloat = false → ∃ u, exec (.faultPinRelease n) s = .next u ∧ u.flag Reg.PWM_FLTLVL n = false ∧ 16 + n.val ∉ u.flt.asserted ∧
     (∀ a, a ≠ Reg.PWM_FLTLVL → a ≠ Reg.FLT_SST (16 + n) → u.rd a = s.rd a) ∧ { u with regs := s.regs, flt := s.flt } = s) ∧
   (∀ (s : State) (t : Nat) (k : Fin 24) (v : Word) (rest : List (Nat × Word)), front s (Reg.PWM_UFSTAT k) v rest → bit v 0 = true →
     ∃ u, exec (.flatchClear t) s = .next u ∧ (unitSource s k = true → u.flag (Reg.PWM_UFSTAT k) 0 = s.flag (Reg.PWM_UFSTAT k) 0) ∧
       (unitSource s k = false → u.flag (Reg.PWM_UFSTAT k) 0 = false)) ∧
   (∀ (s : State) (t : Nat) (k : Fin 24) (v : Word) (rest : List (Nat × Word)), front s (Reg.PWM_UCTRL k) v rest → pwmRuns s = true →
     (bit v 0 = true → s.flag (Reg.PWM_UCTRL k) 0 = false →
       ∃ u, exec (.unitEnable t) s = .next u ∧ u.flag (Reg.PWM_UCTRL k) 0 = true ∧
         (s.rf (Reg.PWM_USYNC k) 24 2 = 0 → ∀ j < 8, (u.pch (8 * k.val + j)).running = true) ∧
         (s.rf (Reg.PWM_USYNC k) 24 2 ≠ 0 → SMap.get false u.pwm.waiting k.val = true)) ∧
     (bit v 0 = false →
       ∃ u, exec (.unitDisable t) s = .next u ∧ u.flag (Reg.PWM_UCTRL k) 0 = false ∧
         ∀ j < 8, (u.pch (8 * k.val + j)).running = false ∧ (u.pch (8 * k.val + j)).level = false)))

/-! ### Load switches (R225 to R248) -/

/-- R225: the input of a channel: its command, with the PWM channel or the DIN pin that it names. -/
def Sys2Proof.Claims.inputOf (s : State) (c : Nat) : Bool :=
  s.flag (Reg.CH_CMD c) 31 &&
    (if s.rf (Reg.CH_CFG c) 28 2 = 0 then true
     else if s.rf (Reg.CH_CFG c) 28 2 = 1 then pwmOut s (pwmOfSwitch c)
     else if s.rf (Reg.CH_CFG c) 28 2 = 2 then s.lsw.din.getLsbD (s.rf (Reg.CH_CFG c) 16 4) else false)

/-- R248's list: off or on by the first line that applies. A declared power-fail opens the isolators (R496). -/
def Sys2Proof.Claims.onOrOff (s : State) (c b : Nat) : Bool :=
  let fs := s.flag (Reg.FS b) (if c < 96 then c % 12 else (c - 96) % 3)
  if s.flag (Reg.BSTAT b) 0 = false ∨ (s.bank b).supply = .ov ∨ (s.bank b).supply = .uv ∨
      s.sys.variant = 2 ∧ (48 ≤ c ∧ c < 96 ∨ 102 ≤ c) ∨ s.sys.powerFail = true then false
  else if s.flag (Reg.CH_STAT c) 3 = true ∨ s.flag (Reg.CH_STAT c) 4 = true ∨ (s.lch c).retryDue = true ∨ s.flag (Reg.CH_STAT c) 5 = true ∨
      (s.lch c).unlocking = true then false
  else if s.sys.mode = .freeze then fs
  else if s.sys.mode = .service ∨ s.sys.mode = .boot ∨ s.sys.mode = .sill then false
  else if s.sys.mode = .safe ∨ 2 ≤ s.reactSev ∧ s.flag (Reg.BCFG b) 1 = true then fs
  else if (s.bank b).expired = true then fs
  else if c ∈ s.lsw.shed then fs
  else inputOf s c

/-- The channel shows its input and stands in the state that the first line of R248 that applies gives it. -/
def Sys2Proof.Claims.follows (s : State) (c : Nat) : Prop :=
  s.flag (Reg.CH_STAT c) 0 = inputOf s c ∧ s.flag (Reg.CH_STAT c) 1 = onOrOff s c (if c < 96 then c / 12 else 8 + (c - 96) / 3)

/-- R225, R226, R15, R232: a command takes effect at its offset and the channel follows its input; so do the channels that a DIN pin drives;
a block of commands that fails its check is counted, and its commands are discarded: a staged one, a waiting one, and one that entered at
the last boundary (log entry 68); one that passes changes nothing more; the frame values stand in CH_MEAS and BCUR. R234, R236 to R239: an
open load raises OL, with OLMODE 2 at the fifth reading above the threshold in even frames running, and STB in odd ones; a channel at its
limit for LIMT is switched off with OCOFF and waits for its retry, or locks at RMAX; a thermal shutdown latches and holds the channel off
until it has cooled; a retry timer's end counts a retry made with the input on; RTYCNT returns to 0 after a stable time; the inrush time
ends; and a write of 1 clears LOCK and RTYCNT but not during a latch. The two runs of OLMODE 2, the flag of OLMODE 1 and the LOCK of a channel with
its retry due are log entry 47; that a timer does nothing before its end is log entry 78. -/
def Obligations.ChannelsFollowAndProtect : Prop :=
  ((∀ (s : State) (c : Fin 108) (w : Word), (s.lch c).wait = some w → s.clocked = true →
     ∃ u, exec (.channelCommandEffect c) s = .next u ∧ u.rd (Reg.CH_CMD c) = w &&& 0x800FFFFF#32 ∧ (u.lch c).wait = none ∧ follows u c) ∧
   (∀ (s : State) (t : Nat) (n : Fin 16) (level : Bool), s.sys.mode ≠ .sill →
     ∃ u, exec (.dinEdge t n level) s = .next u ∧ u.lsw.din.getLsbD n = level ∧ (∀ m : Fin 16, m ≠ n → u.lsw.din.getLsbD m = s.lsw.din.getLsbD m) ∧
       ∀ c : Fin 108, s.rf (Reg.CH_CFG c) 28 2 = 2 → s.rf (Reg.CH_CFG c) 16 4 = n → follows u c) ∧
   (∀ (s : State) (t : Nat) (die : Fin 3) (chs : List (Fin 108)), s.clocked = true →
     exec (.dieLinkBlock t die chs true) s = .next s ∧
     ∃ u, exec (.dieLinkBlock t die chs false) s = .next u ∧ u.rf Reg.LSW_CNT 16 16 = min 65535 (s.rf Reg.LSW_CNT 16 16 + 1) ∧
       ∀ c ∈ chs, (if c.val < 48 then 0 else if c.val < 96 then 1 else 2) = die.val →
         (s.closed = true → Reg.CH_CMD c ∉ u.stNext.map (·.1) ∧ u.rd (Reg.CH_CMD c) = s.rd (Reg.CH_CMD c) ∧ (u.lch c).wait = (s.lch c).wait) ∧
         (s.closed = false → s.lsw.entered.find? (fun x => decide (x.1 = c.val)) = none →
           (u.lch c).wait = none ∧ u.rd (Reg.CH_CMD c) = s.rd (Reg.CH_CMD c)) ∧
         (∀ x, s.closed = false → (s.lch c).wait = none → s.lsw.entered.find? (fun x => decide (x.1 = c.val)) = some x →
           u.rd (Reg.CH_CMD c) = x.2 ∧ (srcEnabled s (200 + die) = false → follows u c))) ∧
   (∀ (s : State) (chs : List ChSample) (banks : List (BitVec 16)), s.clocked = true →
     ∃ u, exec (.frameValueSample chs banks) s = .next u ∧
       (∀ c : Fin 108, chAbsent s c = false → u.rd (Reg.CH_MEAS c) = (chs.getD c ChSample.zero).i ++ (chs.getD c ChSample.zero).v) ∧
       (∀ b : Fin 12, u.rf (Reg.BCUR b) 16 16 = (banks.getD b 0).toNat ∧ u.rf (Reg.BCUR b) 0 16 = bankSum u b / 10 % 2 ^ 16))) ∧
  ((∀ (s : State) (t : Nat) (c : Fin 108), offTested { s with edge := (s.at t).edge } c = true → olMode s c = 1 → (s.lch c).olRun = 0 →
     ∃ u, exec (.offStateDetection t c true) s = .next u ∧ u.flag (Reg.CH_STAT c) 8 = true) ∧
   (∀ (s : State) (t : Nat) (c : Fin 108) (above : Bool), offTested { s with edge := (s.at t).edge } c = true → olMode s c = 2 →
     (s.frame.toNat % 2 = 0 → (above = true ∧ (s.lch c).olRun = 4 →
         ∃ u, exec (.offStateDetection t c above) s = .next u ∧ u.flag (Reg.CH_STAT c) 8 = true) ∧
       (¬ (above = true ∧ (s.lch c).olRun = 4) → exec (.offStateDetection t c above) s = .next
         ((s.at t).setLch c { s.lch c with olRun := if above then min 6 ((s.lch c).olRun + 1) else 0 }))) ∧
     (s.frame.toNat % 2 = 1 → (above = true ∧ (s.lch c).stbRun = 4 →
         ∃ u, exec (.offStateDetection t c above) s = .next u ∧ u.flag (Reg.CH_STAT c) 9 = true) ∧
       (¬ (above = true ∧ (s.lch c).stbRun = 4) → exec (.offStateDetection t c above) s = .next
         ((s.at t).setLch c { s.lch c with stbRun := if above then min 6 ((s.lch c).stbRun + 1) else 0 })))) ∧
   (∀ (s : State) (t : Nat) (c : Fin 108), s.flag (Reg.CH_STAT c) 1 = true → (s.lch c).inrush = false → s.flag (Reg.CH_STAT c) 3 = false →
     (srcEnabled s (80 + bankOf c) = true → srcSev s (80 + bankOf c) < 2) →
     ∃ u, exec (.currentLimitTimeout t c) s = .next u ∧ u.flag (Reg.CH_STAT c) 12 = true ∧ u.flag (Reg.CH_STAT c) 1 = false ∧
       (s.rf (Reg.CH_STAT c) 16 4 < fld (s.lch c).rty 28 4 → u.flag (Reg.CH_STAT c) 4 = true) ∧
       (fld (s.lch c).rty 28 4 ≤ s.rf (Reg.CH_STAT c) 16 4 → u.flag (Reg.CH_STAT c) 5 = true)) ∧
   (∀ (s : State) (t : Nat) (c : Fin 108), s.sys.mode ≠ .sill → chAbsent s c = false → s.flag (Reg.CH_STAT c) 3 = false →
     ∃ u, exec (.thermalShutdown t c) s = .next u ∧ u.flag (Reg.CH_STAT c) 3 = true ∧ u.flag (Reg.CH_STAT c) 13 = true ∧
       u.flag (Reg.CH_STAT c) 1 = false) ∧
   (∀ (s : State) (t : Nat) (c : Fin 108), s.flag (Reg.CH_STAT c) 3 = true →
     ∃ u, exec (.tlatchRelease t c) s = .next u ∧ u.flag (Reg.CH_STAT c) 3 = false ∧ ((s.lch c).retryDue = false → follows u c) ∧
       ((s.lch c).retryDue = true → u.flag (Reg.CH_STAT c) 4 = true ∨ u.flag (Reg.CH_STAT c) 5 = true)) ∧
   (∀ (s : State) (t : Nat) (c : Fin 108), s.flag (Reg.CH_STAT c) 4 = true → s.flag (Reg.CH_STAT c) 3 = false → s.clocked = true →
     ((s.at t).now < (s.lch c).retryAt + fld (s.lch c).rty 16 10 * 1000000 → exec (.retryTimerExpiry t c) s = .next s) ∧
     ((s.lch c).retryAt + fld (s.lch c).rty 16 10 * 1000000 ≤ (s.at t).now → ∃ u, exec (.retryTimerExpiry t c) s = .next u ∧ u.flag (Reg.CH_STAT c) 4 = false ∧ follows u c ∧
       u.rf (Reg.CH_STAT c) 16 4 = (if inputOf s c then min 15 (s.rf (Reg.CH_STAT c) 16 4 + 1) else s.rf (Reg.CH_STAT c) 16 4))) ∧
   (∀ (s : State) (t : Nat) (c : Fin 108), s.clocked = true →
     (s.flag (Reg.CH_STAT c) 1 = true → (s.lch c).onAt + fld (s.lch c).rty 0 16 * 10000000 ≤ (s.at t).now →
       exec (.stableOnExpiry ⟨t, c⟩) s = .next ((s.at t).setFld (Reg.CH_STAT c) 16 4 0)) ∧
     ((s.at t).now < (s.lch c).onAt + fld (s.lch c).rty 0 16 * 10000000 → exec (.stableOnExpiry ⟨t, c⟩) s = .next s) ∧
     ((s.lch c).onAt + fld (s.lch c).inr 24 8 * 1000000 ≤ (s.at t).now →
       exec (.inrushEnd ⟨t, c⟩) s = .next ((s.at t).setLch c { s.lch c with inrush := false, boost := false })) ∧
     ((s.at t).now < (s.lch c).onAt + fld (s.lch c).inr 24 8 * 1000000 → exec (.inrushEnd ⟨t, c⟩) s = .next s)) ∧
   (∀ (s : State) (t : Nat) (c : Fin 108) (v : Word) (rest : List (Nat × Word)), front s (Reg.CH_STAT c) v rest → bit v 5 = true →
     ∃ u, exec (.lockClear t) s = .next u ∧
       (s.flag (Reg.CH_STAT c) 3 = true → u.flag (Reg.CH_STAT c) 5 = s.flag (Reg.CH_STAT c) 5) ∧
       (s.flag (Reg.CH_STAT c) 3 = false → s.flag (Reg.CH_STAT c) 5 = true →
         u.flag (Reg.CH_STAT c) 5 = false ∧ u.rf (Reg.CH_STAT c) 16 4 = 0 ∧ (u.lch c).unlocking = true)))

/-- R240 to R246: a bank's isolator that has closed or opened shows in ISOST, and its channels follow or are off; a drop that disagrees sets
ISOFLT, once for each run; a change of the supply shows in the bank's flags, and a bank in over- or under-voltage has its channels off; a
token of the watchdog counts for the banks of its mask; and a write of 1 clears WDEXP only when the last boundary had a valid token. At a
boundary a bank's watchdog takes the tokens that reached it: a wrong one sets BADTOK, a right one clears MISS, and without one MISS advances and
the bank expires at WINM1 + 1, with WDEXP and its fault raised. -/
def Obligations.BanksFollowTheirSupply : Prop :=
  (∀ (s : State) (t : Nat) (b : Fin 12),
    ((s.bank b).isoCmd = true → s.flag (Reg.BSTAT b) 0 = false →
      ∃ u, exec (.isolatorCloseComplete t b) s = .next u ∧ u.flag (Reg.BSTAT b) 0 = true ∧ ∀ c : Fin 108, bankOf c = b → follows u c) ∧
    ((s.bank b).isoCmd = false → s.flag (Reg.BSTAT b) 0 = true →
      ∃ u, exec (.isolatorOpenComplete t b) s = .next u ∧ u.flag (Reg.BSTAT b) 0 = false ∧
        ∀ c : Fin 108, bankOf c = b → u.flag (Reg.CH_STAT c) 1 = false)) ∧
  (∀ (s : State) (t : Nat) (b : Fin 12), (s.bank b).isoBad = true → ∃ u, exec (.isolatorFault t b false) s = .next u ∧
    (u.bank b).isoBad = false ∧ u.regs = s.regs) ∧
  (∀ (s : State) (t : Nat) (b : Fin 12), diagOn s = true → (s.bank b).isoBad = false →
    ∃ u, exec (.isolatorFault t b true) s = .next u ∧ u.flag (Reg.BSTAT b) 7 = true ∧ (u.bank b).isoBad = true) ∧
  (∀ (s : State) (t : Nat) (b : Fin 12) (st : BankSupply),
    ∃ u, exec (.bankSupplyStateChange t b st) s = .next u ∧ (u.bank b).supply = st ∧ u.flag (Reg.BSTAT b) 1 = decide (st = .crank) ∧
      (st = .ov → u.flag (Reg.BSTAT b) 5 = true) ∧ (st = .uv → u.flag (Reg.BSTAT b) 4 = true) ∧
      ∀ c : Fin 108, bankOf c = b → follows u c ∧ (st = .ov ∨ st = .uv → u.flag (Reg.CH_STAT c) 1 = false)) ∧
  (∀ (s : State) (t : Nat) (v : Word) (rest : List (Nat × Word)), front s Reg.LSW_WDTOK v rest →
    ∃ u, exec (.lswWdtok t) s = .next u ∧ u.regs = s.regs ∧ ∀ b : Fin 12,
      (s.flag Reg.LSW_WDMASK b = true → s.closed = false → (u.bank b).tokNext = (s.bank b).tokNext ++ [v]) ∧
      (s.flag Reg.LSW_WDMASK b = true → s.closed = true → (u.bank b).tokAfter = (s.bank b).tokAfter ++ [v]) ∧
      (s.flag Reg.LSW_WDMASK b = false → u.bank b = s.bank b)) ∧
  (∀ (s : State) (t : Nat) (b : Fin 12) (v : Word) (rest : List (Nat × Word)), front s (Reg.BSTAT b) v rest → bit v 2 = true →
    ∃ u, exec (.wdexpClear t) s = .next u ∧ u.flag (Reg.BSTAT b) 2 = (s.flag (Reg.BSTAT b) 2 && !(s.bank b).lastValid)) ∧
  (∀ (s : State) (x : FrameSample) (b : Fin 12), runsOn s → comingMode s ≠ .service → s.txn.state ≠ .pending → s.flag (Reg.BCFG b) 8 = true →
    (s.bank b).fresh = false →
    ∃ u, exec (.frameBoundary x) s = .next u ∧ (u.bank b).tokNext = (s.bank b).tokAfter ∧ (u.bank b).tokAfter = [] ∧
      (u.flag (Reg.BSTAT b) 6 = true ↔ s.flag (Reg.BSTAT b) 6 = true ∨
        ∃ v ∈ (s.bank b).tokNext, v ≠ s.rd Reg.LSW_WDSEED ^^^ BitVec.ofNat 32 u.frame.toNat) ∧
      (s.rd Reg.LSW_WDSEED ^^^ BitVec.ofNat 32 u.frame.toNat ∈ (s.bank b).tokNext → u.rf (Reg.BSTAT b) 8 7 = 0 ∧ (u.bank b).lastValid = true ∧
        u.flag (Reg.BSTAT b) 2 = s.flag (Reg.BSTAT b) 2) ∧
      (s.rd Reg.LSW_WDSEED ^^^ BitVec.ofNat 32 u.frame.toNat ∉ (s.bank b).tokNext →
        u.rf (Reg.BSTAT b) 8 7 = min 64 (s.rf (Reg.BSTAT b) 8 7 + 1) ∧ (u.bank b).lastValid = false ∧
        ((s.bank b).expired = false → s.rf (Reg.BCFG b) 16 6 ≤ min 64 (s.rf (Reg.BSTAT b) 8 7 + 1) - 1 →
          u.flag (Reg.BSTAT b) 2 = true ∧ (u.bank b).expired = true ∧ u.rd (Reg.FLT_SDET (188 + b)) = BitVec.ofNat 32 (u.rf (Reg.BSTAT b) 8 7)) ∧
        ((s.bank b).expired = false → min 64 (s.rf (Reg.BSTAT b) 8 7 + 1) ≤ s.rf (Reg.BCFG b) 16 6 →
          u.flag (Reg.BSTAT b) 2 = s.flag (Reg.BSTAT b) 2 ∧ (u.bank b).expired = false)))

/-! ### Motion and feedback (R256 to R285) -/

/-- R264, R266, R268, R270, R271, R273: a stream axis that has repeated for SETTO decelerates; a stall is shown and stops an axis that asks
for it; the current reference falls 100 ms after standstill; a pulse, 2 × STEPW after the one before at the earliest and 200 ns after DIR took
its level, takes one of the owed steps, and STEP_OVF tells that the spacing delayed it (how DIR leads is log entry 98); an accepted edge of the chosen input is the reference edge, which latches the
interpolated position with its instant and may make it the zero (a move is then planned anew, log entry 99); a controlled stop leaves no target, and an immediate one freezes the
position with velocity 0. R258, R264, R267: at a servo boundary a stream axis adds the increment that was staged, held to VMAX, or repeats the
last one with SETP_LATE, and a staged preset sets the position at standstill and is rejected while the axis moves. -/
def Obligations.AxesStopStepAndLatch : Prop :=
  (∀ (s : State) (a : Fin 16), s.rf (Reg.AX_CFG a) 28 3 = 3 → (s.axs a).inc.isSome = true → s.rf (Reg.AX_CFG a) 16 4 ≤ (s.axs a).repeats →
    ∃ u, exec (.setpointTimeout a) s = .next u ∧ u.flag (Reg.AX_STAT a) 10 = true ∧
      u.rf (Reg.AX_STAT a) 0 3 = (if axisStill s a then 1 else 5) ∧
      u.axs a = { s.axs a with inc := none, repeats := 0, plan := none, stopping := !axisStill s a } ∧
      (∀ b, b ≠ a.val → u.axs b = s.axs b) ∧ ∀ k, k ≠ Reg.AX_STAT a → u.rd k = s.rd k) ∧
  (∀ (s : State) (t : Nat) (a : Fin 8), s.flag (Reg.AX_STALL a) 31 = true → 0 < (s.axs a).stallRun →
    s.rf (Reg.AX_STALL a) 16 8 ≤ (s.axs a).stallRun →
    ∃ u, exec (.stallDetected t a) s = .next u ∧ u.flag (Reg.AX_STAT a) 11 = true ∧ u.flag (Reg.AX_STAT a) 14 = false ∧
      (s.flag (Reg.AX_STALL a) 30 = true → u.rd (Reg.AX_VEL a) = 0)) ∧
  (∀ (s : State) (t : Nat) (a : Fin 8), axisStill s a = true → s.rf (Reg.PT_CFG a) 28 2 = 1 → (s.axs a).restAt + 100000000 ≤ (s.at t).now →
    exec (.holdCurrentSwitch ⟨t, a⟩) s = .next ((s.at t).setAxs a { s.axs a with holdCur := true })) ∧
  (∀ (s : State) (t : Nat) (a : Fin 16), 8 ≤ a.val → s.flag (Reg.AX_CFG a) 25 = false → axisOn s a = true → stepsOwed (s.at t) a ≠ 0 →
    nextStepAt s a ≤ (s.at t).now →
    ((s.axs a).dir ≠ decide (0 < stepsOwed (s.at t) a) →
      exec (.stepPulse t a) s = .next ((s.at t).setAxs a { s.axs a with dir := decide (0 < stepsOwed (s.at t) a), dirAt := (s.at t).now })) ∧
    ((s.axs a).dir = decide (0 < stepsOwed (s.at t) a) → (s.at t).now < (s.axs a).dirAt + 200 → exec (.stepPulse t a) s = .next s) ∧
    ((s.axs a).dir = decide (0 < stepsOwed (s.at t) a) → (s.axs a).dirAt + 200 ≤ (s.at t).now →
    ∃ u, exec (.stepPulse t a) s = .next u ∧ (u.axs a).steps = (s.axs a).steps + 1 ∧ (u.axs a).lastStep = some (s.at t).now ∧
      (u.axs a).dir = (s.axs a).dir ∧ (stepsOwed u a).natAbs + 1 = (stepsOwed (s.at t) a).natAbs ∧
      u.flag (Reg.AX_STAT a) 5 = (s.flag (Reg.AX_STAT a) 5 || decide (crossingAt (s.at t) a < nextStepAt s a)) ∧
      ∀ k, k ≠ Reg.AX_STAT a → u.rd k = s.rd k)) ∧
  (∀ (s : State) (t : Nat) (a : Fin 16) (n : Fin 16) (level : Bool), s.sys.mode ≠ .sill → s.flag (Reg.AX_REF a) 31 = true →
    s.rf (Reg.AX_REF a) 19 2 = 0 → s.rf (Reg.AX_REF a) 0 5 = n.val → s.flag (Reg.AX_REF a) 28 ≠ level → s.lsw.din.getLsbD n ≠ level →
    s.flag (Reg.AX_STAT a) 6 = false → (s.axs a).refAt = none →
    ∃ u, exec (.dinEdge t n level) s = .next u ∧ (u.axs a).refAt = some (s.at t).now) ∧
  (∀ (s : State) (t : Nat) (a : Fin 16), s.flag (Reg.AX_REF a) 31 = true → s.flag (Reg.AX_STAT a) 6 = false → axisRuns s = true →
    (s.axs a).refAt = some (s.at t).now →
    ∃ u, exec (.referenceLatch t a) s = .next u ∧ u.rd (Reg.AX_LATCH_LO a) = BitVec.ofNat 32 (interpolated (s.at t) a) ∧
      u.rd (Reg.AX_LATCH_HI a) = BitVec.ofNat 32 (interpolated (s.at t) a / 2 ^ 32) ∧ u.rd (Reg.AX_LSTAMP a) = (s.at t).instant.stamp ∧
      u.flag (Reg.AX_STAT a) 6 = true ∧ (u.axs a).refAt = none ∧
      (s.rf (Reg.AX_REF a) 29 2 = 0 → interpolated u a = interpolated (s.at t) a) ∧
      (s.rf (Reg.AX_REF a) 29 2 ≠ 0 → interpolated u a = 0 ∧ u.flag (Reg.AX_STAT a) 14 = true)) ∧
  (∀ (s : State) (t : Nat) (a : Fin 16) (v : Word) (rest : List (Nat × Word)), front s (Reg.AX_CMD a) v rest →
    (fld v 0 2 = 1 → ∃ u, exec (.stopControlled t) s = .next u ∧ (u.axs a).target = none ∧ (u.axs a).waiting = none ∧
      (u.axs a).stopping = !axisStill s a ∧
      u.rf (Reg.AX_STAT a) 0 3 = (if s.rf (Reg.AX_STAT a) 0 3 = 0 then 0 else if axisStill s a then 1 else 5) ∧
      ∀ k, k ≠ Reg.AX_STAT a → u.rd k = s.rd k) ∧
    (fld v 0 2 = 2 → ∃ u, exec (.stopImmediate t) s = .next u ∧ (u.axs a).target = none ∧ (u.axs a).waiting = none ∧
      axPos u a = interpolated (s.at t) a ∧ u.rd (Reg.AX_VEL a) = 0 ∧ axisStill u a = true ∧
      u.rf (Reg.AX_STAT a) 0 3 = (if s.rf (Reg.AX_STAT a) 0 3 = 0 then 0 else 1))) ∧
  (∀ (s : State) (x : FrameSample) (a : Fin 16) (bank : List (Nat × Word)), s.clocked = true → s.sys.mode = .run → comingMode s = .run →
    s.txn.state ≠ .pending → s.solo = true → s.tru.takeArm = false → s.tru.isoCommit = none → s.tru.joinAt = none → s.tru.hold = false →
    s.flt.waiting = [] → s.sched.justShed = [] → s.flag (Reg.AX_CFG a) 31 = true → s.rf (Reg.AX_CFG a) 28 3 = 3 → 0 < s.rf (Reg.AX_CFG a) 8 8 →
    (s.frame + 1).toNat % s.rf (Reg.AX_CFG a) 8 8 = s.rf (Reg.AX_CFG a) 0 8 → (s.axs a).stopping = false → (s.axs a).newPset = none →
    (s.axs a).newLim = none → (s.axs a).newInc = none →
    s.stNext.filter (fun y => decide (0x050000 ≤ y.1) && decide ((y.1 - 0x050000) / 0x80 = a.val)) = bank →
    ∃ u, exec (.frameBoundary x) s = .next u ∧
      (∀ w, bank = [(Reg.AX_SETP a, w)] → u.rd (Reg.AX_SETP a) = w ∧ (u.axs a).inc = some w ∧ (u.axs a).repeats = 0 ∧
        (w.toInt.natAbs ≤ incBound s a → axPos u a = wrap48 (axPos s a + w.toInt)) ∧
        (incBound s a < w.toInt.natAbs → u.flag (Reg.AX_STAT a) 8 = true ∧
          axPos u a = wrap48 (axPos s a + (if 0 < w.toInt then incBound s a else - incBound s a)))) ∧
      (∀ w, bank = [] → (s.axs a).inc = some w → (u.axs a).inc = some w ∧ (u.axs a).repeats = (s.axs a).repeats + 1 ∧
        u.flag (Reg.AX_STAT a) 9 = true) ∧
      (∀ lo hi, bank = [(Reg.AX_PSET_LO a, lo), (Reg.AX_PSET_HI a, hi)] → (s.axs a).inc = none → (s.axs a).plan = none →
        (axisStill s a = true → axPos u a = hi.toNat % 2 ^ 16 * 2 ^ 32 + lo.toNat ∧ u.flag (Reg.AX_STAT a) 14 = true) ∧
        (axisStill s a = false → u.flag (Reg.AX_STAT a) 7 = true)))

/-- R270, R271, R274, R216: a port condition sets its flags and ACTIVE, forces the port's PWM unit and asserts the port fault, and its end
releases the source; a coil sample shows its currents and supply, the current controller's duties of a coil's two half-bridges are
complementary over PPER (log entry 6), and a coil above its limit in two samples running is a port condition. R275 to R279: a level that FILT + 1
samples have, and that comes after as many sample times, is accepted, and no other; an edge in MODE 4 counts up or down by one and takes its instant; a simultaneous change of A and B counts
nothing and is counted as an error; an index edge latches the count and, by its mode, clears, checks or corrects it; a period without an edge for twice
its length or for 4.29 s reads 0 (the edges kept are log entry 45, its instant log entry 78); at the end of a gate its frequency is (N - 1) × 10^12 over the time between its first and last edge. R281, R282: a sin/cos sample shows its values and its
amplitude (one beyond the sixteen bits is high, and what the register shows of it is open, log entry 2), and in its window the position moves by the turn of the angle; ADEB + 1 samples out of window hold it and set the fault. -/
def Obligations.PortsAndFeedback : Prop :=
  ((∀ (s : State) (t : Nat) (p : Fin 8) (flags : BitVec 8), s.sys.mode ≠ .sill → flags ≠ 0 → s.rf (Reg.PT_CFG p) 28 2 ≠ 0 →
     ∃ u, exec (.portFault t p flags) s = .next u ∧ u.rd (Reg.PT_STAT p) = s.rd (Reg.PT_STAT p) ||| flags.setWidth 32 ||| 0x100#32 ∧
       u.flag (Reg.PWM_UFSTAT p) 0 = true ∧ 216 + p.val ∈ u.flt.asserted) ∧
   (∀ (s : State) (p : Fin 8), ∃ u, exec (.portConditionEnd p) s = .next u ∧ u.flag (Reg.PT_STAT p) 8 = false ∧ 216 + p.val ∉ u.flt.asserted) ∧
   (∀ (s : State) (t : Nat) (p : Fin 8) (ia ib vm : BitVec 16), s.rf (Reg.PT_CFG p) 28 2 = 1 → s.flag (Reg.PT_CFG p) 31 = true → pwmRuns s = true →
     ∃ u, exec (.coilCurrentSample t p ia ib vm) s = .next u ∧ u.rd (Reg.PT_I p) = ib ++ ia ∧ u.rd (Reg.PT_MEAS p) = vm ++ 0#16 ∧
       (s.flag (Reg.PWM_UCTRL p) 1 = true → ∀ k : Fin 2, s.flag (Reg.PWM_CHCFG (8 * p.val + 4 * k.val)) 22 = false →
         s.flag (Reg.PWM_CHCFG (8 * p.val + 4 * k.val + 2)) 22 = false →
         (u.pch (8 * p.val + 4 * k.val)).shDuty.toNat + (u.pch (8 * p.val + 4 * k.val + 2)).shDuty.toNat = s.rf (Reg.PT_CFG p) 0 20 ∧
           (u.pch (8 * p.val + 4 * k.val)).shPer.toNat = s.rf (Reg.PT_CFG p) 0 20 ∧
           (u.pch (8 * p.val + 4 * k.val)).newDuty = true ∧ (u.pch (8 * p.val + 4 * k.val + 2)).newDuty = true) ∧
       (s.rf (Reg.PT_PROT p) 24 8 * 100 < ia.toInt.natAbs → (s.prt p).ocA = true → u.flag (Reg.PT_STAT p) 5 = true ∧ u.flag (Reg.PT_STAT p) 8 = true) ∧
       (s.rf (Reg.PT_PROT p) 24 8 * 100 < ib.toInt.natAbs → (s.prt p).ocB = true → u.flag (Reg.PT_STAT p) 6 = true ∧ u.flag (Reg.PT_STAT p) 8 = true))) ∧
  ((∀ (s : State) (t m : Nat) (n : Fin 24) (a b z : Bool), fbRuns s = true → s.flag (Reg.FB_CFG n) 31 = true → m ≤ s.rf (Reg.FB_CFG n) 20 4 →
     ∃ u, exec (.feedbackEdge ⟨t, m⟩ n a b z) s = .next u ∧ u.fbk n = s.fbk n ∧ ∀ k, u.rd k = s.rd k) ∧
   (∀ (s : State) (t m : Nat) (n : Fin 24) (a b z : Bool), s.rf (Reg.FB_CFG n) 20 4 < m → fbRuns s = true → s.flag (Reg.FB_CFG n) 31 = true → s.rf (Reg.FB_CFG n) 28 3 = 4 →
     a ≠ s.flag (Reg.FB_STAT n) 8 →
     ((∀ t0, (s.fbk n).edgeA = some t0 → t0 + (s.rf (Reg.FB_CFG n) 20 4 + 1) * 4 * 2 ^ s.rf (Reg.FB_CFG n) 17 3 ≤ (s.at t).now) →
       (b = s.flag (Reg.FB_STAT n) 9 →
         ∃ u, exec (.feedbackEdge ⟨t, m⟩ n a b z) s = .next u ∧
           u.rd (Reg.FB_COUNT n) = (if (a != b) != s.flag (Reg.FB_CFG n) 27 then s.rd (Reg.FB_COUNT n) + 1 else s.rd (Reg.FB_COUNT n) - 1) ∧
           u.rd (Reg.FB_STAMP n) = (s.at t).instant.stamp ∧ u.flag (Reg.FB_STAT n) 8 = a ∧ (u.fbk n).edgeA = some (s.at t).now) ∧
       (b ≠ s.flag (Reg.FB_STAT n) 9 →
         (∀ t0, (s.fbk n).edgeB = some t0 → t0 + (s.rf (Reg.FB_CFG n) 20 4 + 1) * 4 * 2 ^ s.rf (Reg.FB_CFG n) 17 3 ≤ (s.at t).now) →
         ∃ u, exec (.feedbackEdge ⟨t, m⟩ n a b z) s = .next u ∧ u.rd (Reg.FB_COUNT n) = s.rd (Reg.FB_COUNT n) ∧ u.flag (Reg.FB_STAT n) 2 = true ∧
           u.rf (Reg.FB_CNT n) 0 16 = min 65535 (s.rf (Reg.FB_CNT n) 0 16 + 1))) ∧
     (∀ t0, (s.fbk n).edgeA = some t0 → (s.at t).now < t0 + (s.rf (Reg.FB_CFG n) 20 4 + 1) * 4 * 2 ^ s.rf (Reg.FB_CFG n) 17 3 →
       b = s.flag (Reg.FB_STAT n) 9 → z = s.flag (Reg.FB_STAT n) 10 →
       ∃ u, exec (.feedbackEdge ⟨t, m⟩ n a b z) s = .next u ∧ u.fbk n = s.fbk n ∧ ∀ k, u.rd k = s.rd k)) ∧
   (∀ (s : State) (t : Nat) (n : Fin 24), (s.fbk n).indexDue = false → exec (.indexPulse t n) s = .next s) ∧
   (∀ (s : State) (t : Nat) (n : Fin 24), fbRuns s = true → s.flag (Reg.FB_CFG n) 31 = true → s.rf (Reg.FB_CFG n) 25 2 ≠ 0 →
     (s.fbk n).indexDue = true →
     ∃ u, exec (.indexPulse t n) s = .next u ∧ u.rd (Reg.FB_ILATCH n) = s.rd (Reg.FB_COUNT n) ∧ u.flag (Reg.FB_STAT n) 0 = true ∧
       (s.rf (Reg.FB_CFG n) 25 2 = 3 → u.rd (Reg.FB_COUNT n) = 0) ∧
       (s.rf (Reg.FB_CFG n) 25 2 = 1 → u.rd (Reg.FB_COUNT n) = s.rd (Reg.FB_COUNT n)) ∧
       (∀ p, s.rf (Reg.FB_CFG n) 25 2 ≠ 3 → (s.fbk n).index = some p →
         (s.rf (Reg.FB_CFG n) 25 2 = 2 →
           u.rd (Reg.FB_COUNT n) = if (s.fbk n).up then p + s.rd (Reg.FB_IDX n) else p - s.rd (Reg.FB_IDX n)) ∧
         ((if (s.fbk n).up then p + s.rd (Reg.FB_IDX n) else p - s.rd (Reg.FB_IDX n)) ≠ s.rd (Reg.FB_COUNT n) →
           u.flag (Reg.FB_STAT n) 1 = true ∧ u.rf (Reg.FB_CNT n) 16 16 = min 65535 (s.rf (Reg.FB_CNT n) 16 16 + 1)))) ∧
   (∀ (s : State) (t : Nat) (n : Fin 24), fbRuns s = true → s.flag (Reg.FB_CFG n) 31 = true →
     (s.rf (Reg.FB_CFG n) 28 3 = 6 →
       (staleAt (s.fbk n) ≤ (s.at t).now → ∃ u, exec (.periodStale ⟨t, n⟩) s = .next u ∧ u.rd (Reg.FB_PERIOD n) = 0 ∧
         u.flag (Reg.FB_STAT n) 3 = true ∧ ∀ k, k ≠ Reg.FB_PERIOD n → k ≠ Reg.FB_STAT n → u.rd k = s.rd k) ∧
       (∀ e0 e1 es, (s.fbk n).edges = e0 :: e1 :: es → staleAt (s.fbk n) = e0 + min (2 * (e0 - e1)) 4290000000) ∧
       ((s.at t).now < staleAt (s.fbk n) → exec (.periodStale ⟨t, n⟩) s = .next s)) ∧
     (s.rf (Reg.FB_CFG n) 28 3 = 7 → (s.frame - (s.fbk n).gateFrom).toNat < s.rf (Reg.FB_CFG n) 0 8 →
       exec (.frequencyGateEnd n) s = .next s) ∧
     (s.rf (Reg.FB_CFG n) 28 3 = 7 → s.rf (Reg.FB_CFG n) 0 8 ≤ (s.frame - (s.fbk n).gateFrom).toNat → ∃ u, exec (.frequencyGateEnd n) s = .next u ∧ (∀ k, k ≠ Reg.FB_FREQ n → u.rd k = s.rd k) ∧
       ((s.fbk n).gateN < 2 → u.rd (Reg.FB_FREQ n) = 0) ∧
       (2 ≤ (s.fbk n).gateN → (s.fbk n).gateFirst < (s.fbk n).gateLast →
         u.rd (Reg.FB_FREQ n) = BitVec.ofNat 32 (((s.fbk n).gateN - 1) * 10 ^ 12 / ((s.fbk n).gateLast - (s.fbk n).gateFirst))))) ∧
   (∀ (s : State) (t : Nat) (p : Fin 8), fbRuns s = true →
     (∀ (sin cos : BitVec 16) (q : Nat), s.flag (Reg.SC_CFG p) 31 = true → ((sin.toInt * sin.toInt + cos.toInt * cos.toInt) / 32768).toNat = q →
       ∃ u, exec (.sincosSample t p sin cos) s = .next u ∧ u.rd (Reg.SC_VAL p) = cos ++ sin ∧
         (q < 65536 → u.rd (Reg.SC_AMP p) = BitVec.ofNat 32 q) ∧ (u.flag (Reg.SC_STAT p) 0 = true ↔ q < s.rf (Reg.SC_WIN p) 0 16) ∧
           (u.flag (Reg.SC_STAT p) 1 = true ↔ s.rf (Reg.SC_WIN p) 16 16 < q) ∧
           (s.rf (Reg.SC_WIN p) 0 16 ≤ q → q ≤ s.rf (Reg.SC_WIN p) 16 16 → (u.scp p).run = 0 ∧ (u.scp p).out = false ∧
             u.rd (Reg.SC_POS p) = s.rd (Reg.SC_POS p) + BitVec.ofInt 32 ((if s.flag (Reg.SC_CFG p) 0 then -1 else 1) *
               signed 16 (((u.scp p).angle + 65536 - (s.scp p).angle) % 65536))) ∧
           (q < s.rf (Reg.SC_WIN p) 0 16 ∨ s.rf (Reg.SC_WIN p) 16 16 < q → s.rf (Reg.SC_CFG p) 16 4 ≤ (s.scp p).run →
             u.rd (Reg.SC_POS p) = s.rd (Reg.SC_POS p))) ∧
     ((s.scp p).out = false → s.rf (Reg.SC_CFG p) 16 4 + 1 ≤ (s.scp p).run →
       ∃ u, exec (.sincosAmplitudeFault t p) s = .next u ∧ u.flag (Reg.SC_STAT p) 2 = true ∧ u.flag (Reg.SC_STAT p) 3 = true ∧
         u.rf (Reg.SC_CNT p) 0 16 = min 65535 (s.rf (Reg.SC_CNT p) 0 16 + 1) ∧ (u.scp p).out = true)))

/-! ### GNSS and the inertial unit (R288 to R313) -/

/-- R289, R294, R295, R300, R302, R303: the states of a channel follow search, lock, loss and time-outs, each at its instant and not before it
(the instant from which REACQT and a low C/N0 count is log entry 101); a signal outside the search window is not found, one that is found but
not locked leaves the last tracked Doppler and code phase (R295); a slip is kept for the next epoch; symbols enter the channel's ring with the
stamp of the first one; a burst's start and end let the channels that wait go on
and have the others wait; and a port's bias is switched off by a short, applied again, and shown open, once for each run. -/
def Obligations.GnssChannelsFollowTheirSignals : Prop :=
  (∀ (s : State) (t : Nat) (n : Fin 288), gnssOn s = true →
    (∀ (dop : BitVec 32) (code : Nat),
      (inSearch (s.at t) n dop.toInt code = true → ∃ u, exec (.signalFound ⟨t, n, dop, code⟩) s = .next u ∧ gState u n = 2 ∧
        u.gch n = { s.gch n with back := gState s n, enteredAt := (s.at t).now, foundDop := dop.toInt, foundCode := code,
                                 foundAt := (s.at t).now }) ∧
      (gState s n = 1 → 1000 * (s.gch n).win < (dop.toInt - 1000 * (s.gch n).centre).natAbs → exec (.signalFound ⟨t, n, dop, code⟩) s = .next s) ∧
      (gState s n = 4 → 500000 < (dop.toInt - (s.gch n).dop).natAbs → exec (.signalFound ⟨t, n, dop, code⟩) s = .next s)) ∧
    (gState s n = 2 → (∀ (count : BitVec 32) (carr : BitVec 64), (s.at t).now ≤ (s.gch n).enteredAt + 200000000 →
        ∃ u, exec (.codeCarrierLock t ⟨n, count, carr⟩) s = .next u ∧ gState u n = 3 ∧
        u.gch n = { s.gch n with found := true, slip := true, sync := false, lowSince := none, count0 := count, carr0 := carr,
                                 dop := (s.gch n).foundDop, code := (s.gch n).foundCode, codeAt := (s.gch n).foundAt } ∧
        u.rd (Reg.GNS_RING n 0) = 0) ∧
      ((s.gch n).back = 1 ∨ (s.gch n).back = 4 → (s.gch n).enteredAt + 200000000 ≤ (s.at t).now →
        ∃ u, exec (.pullinTimeout ⟨t, n⟩) s = .next u ∧ gState u n = (s.gch n).back ∧ (u.gch n).dop = (s.gch n).dop ∧
          (u.gch n).code = (s.gch n).code ∧ (u.gch n).codeAt = (s.gch n).codeAt) ∧
      ((s.at t).now < (s.gch n).enteredAt + 200000000 → exec (.pullinTimeout ⟨t, n⟩) s = .next s)) ∧
    (gState s n = 3 →
      (∀ low, (s.gch n).lowSince = some low → low + 500000000 ≤ (s.at t).now → ∃ u, exec (.signalLoss ⟨t, n⟩) s = .next u ∧
        gState u n = 4 ∧ u.rf Reg.GNS_CNT 0 16 = min 65535 (s.rf Reg.GNS_CNT 0 16 + 1)) ∧
      ((s.gch n).lowSince = none → exec (.signalLoss ⟨t, n⟩) s = .next s) ∧
      exec (.carrierLockLoss n) s = .next (s.setGch n { s.gch n with slip := true }) ∧
      exec (.secondaryCodeSync n) s = .next (s.setGch n { s.gch n with sync := true }) ∧
      ((s.gch n).sync = true → ∀ (back : Nat) (w : BitVec 32), ∃ u, exec (.symbolWord t n back w) s = .next u ∧
        u.rd (Reg.GNS_RING n 0) = BitVec.ofNat 32 ((s.rf (Reg.GNS_RING n 0) 0 16 + 1) % 65536) ∧
        u.rd (Reg.GNS_RING n (1 + 2 * (s.rf (Reg.GNS_RING n 0) 0 16 % 7))) = ((s.at t).ago back).stamp ∧
        u.rd (Reg.GNS_RING n (2 + 2 * (s.rf (Reg.GNS_RING n 0) 0 16 % 7))) = w)) ∧
    (gState s n = 4 →
      ((s.gch n).enteredAt + s.rf (Reg.GCH_TRK n) 16 8 * 1000000000 ≤ (s.at t).now →
        ∃ u, exec (.reacqTimeout ⟨t, n⟩) s = .next u ∧ gState u n = if s.flag (Reg.GCH_TRK n) 31 then 1 else 5) ∧
      ((s.at t).now < (s.gch n).enteredAt + s.rf (Reg.GCH_TRK n) 16 8 * 1000000000 → exec (.reacqTimeout ⟨t, n⟩) s = .next s))) ∧
  (∀ s : State,
    (burstMode s = true → s.flag Reg.GNS_STAT 1 = false → inBurst (s.burstEdge true) = true →
      ∃ u, exec .burstStart s = .next u ∧ u.flag Reg.GNS_STAT 1 = true ∧
      ∀ n : Fin 288, gState s n = 6 → gState u n = (if (s.gch n).found then 4 else 1) ∧ (u.gch n).slip = true) ∧
    (gnssOn s = true → s.flag Reg.GNS_STAT 1 = true → inBurst (s.burstEdge false) = false →
      ∃ u, exec .burstEnd s = .next u ∧ u.flag Reg.GNS_STAT 1 = false ∧
      ∀ n : Fin 288, gState u n = if gState s n = 0 then 0 else 6)) ∧
  (∀ (s : State) (t : Nat) (a : Fin 3), gnssPart s = true →
    (s.flag (Reg.ANT_STAT a) 2 = true →
      (∃ u, exec (.antennaBiasShort t a) s = .next u ∧ u.flag (Reg.ANT_STAT a) 2 = false ∧ u.flag (Reg.ANT_STAT a) 1 = true) ∧
      (SMap.get false s.gns.openDone a.val = false → ∃ u, exec (.antennaOpen t a true) s = .next u ∧ u.flag (Reg.ANT_STAT a) 0 = true ∧
        SMap.get false u.gns.openDone a.val = true) ∧
      (SMap.get false s.gns.openDone a.val = true → exec (.antennaOpen t a true) s = .next s)) ∧
    (∃ u, exec (.antennaOpen t a false) s = .next u ∧ SMap.get false u.gns.openDone a.val = false ∧ { u with gns := s.gns } = s) ∧
    (s.rf (Reg.ANT_CFG a) 0 2 ≠ 0 → exec (.biasRetry a) s = .next (s.setFlag (Reg.ANT_STAT a) 2 true)))

/-- R305 to R309: a frequency write adds up to its bounds and shows a clipped one; a phase write is a step in FREE, a slew of its size in
the other states, and is shown and discarded beyond a second, and its arrival leads to LOCKED or SLEW; a step waits for the period boundary
and is applied 1 µs after it; a set second is receiver time, and one at a forbidden time or out of its range (the latter log entry 15) is
refused; a finished slew is LOCKED, HOLDTO without a phase write is HOLDOVER, an uncertainty above its limit is asserted and below it
released; and TPULSE counts the period boundaries, none in FREE. -/
def Obligations.ReceiverTimeIsSteered : Prop :=
  (∀ (s : State) (t : Nat) (v : Word) (rest : List (Nat × Word)), gnssOn s = true →
    (front s Reg.GNS_STEER_FR v rest → ∃ u, exec (.gnsSteerFr t) s = .next u ∧
      u.rd Reg.GNS_FREQ = BitVec.ofInt 32 (max (-50000000) (min 50000000 ((s.rd Reg.GNS_FREQ).toInt + v.toInt))) ∧
      (50000000 < ((s.rd Reg.GNS_FREQ).toInt + v.toInt).natAbs → u.flag Reg.GNS_TSTAT 5 = true)) ∧
    (front s Reg.GNS_STEER_PH v rest → bit v 31 = false →
      ∃ u, exec (.gnsSteerPh t) s = .next u ∧ u.gns.phAt = some (s.at t).now ∧ (tState u = if u.gns.resid = 0 then 1 else 3) ∧
        (tState s ≠ 0 → (signed 31 v.toNat).natAbs ≤ 1000000000 → u.gns.resid = signed 31 v.toNat * 10 ^ 12 ∧ u.flag Reg.GNS_TSTAT 3 = false ∧
          u.gns.rt = (s.at t).rtSync.gns.rt) ∧
        (tState s = 0 → (signed 31 v.toNat).natAbs ≤ 1000000000 → u.gns.resid = 0 ∧ u.gns.stepped = true ∧
          (u.gns.rt : Int) = ((s.at t).rtSync.gns.rt + signed 31 v.toNat * 10 ^ 12) % (65536 * 604800 * 10 ^ 21)) ∧
        (1000000000 < (signed 31 v.toNat).natAbs → u.flag Reg.GNS_TSTAT 5 = true ∧ u.gns.rt = (s.at t).rtSync.gns.rt ∧
          u.gns.resid = (s.at t).rtSync.gns.resid)) ∧
    (front s Reg.GNS_STEER_PH v rest → bit v 31 = true → s.flag Reg.GNS_CTRL 2 = true → tState s ≠ 0 →
      ∃ u, exec (.gnsSteerStep t) s = .next u ∧
        ((signed 31 v.toNat).natAbs < halfPeriod s → u.gns.step = signed 31 v.toNat ∧ u.flag Reg.GNS_TSTAT 3 = true ∧
          u.gns.stepDue = nextBoundary (s.at t).rtSync + 1000 ∧ tState u = 1) ∧
        (halfPeriod s ≤ (signed 31 v.toNat).natAbs → u.flag Reg.GNS_TSTAT 5 = true ∧ u.gns.step = s.gns.step)) ∧
    (front s Reg.GNS_TSET_S v rest → ∃ u, exec (.gnsTsetS t) s = .next u ∧
      (fld v 0 20 < 604800 → tState s = 0 ∨ s.flag Reg.GNS_CTRL 2 = true →
        u.gns.rt = (s.rf Reg.GNS_TSET_WK 0 16 * 604800 + fld v 0 20) * 10 ^ 21) ∧
      (604800 ≤ fld v 0 20 ∨ tState s ≠ 0 ∧ s.flag Reg.GNS_CTRL 2 = false → u.flag Reg.GNS_TSTAT 4 = true ∧ u.gns = s.gns))) ∧
  (∀ (s : State) (t : Nat), gnssOn s = true →
    (s.flag Reg.GNS_TSTAT 3 = true → rtUpTo s.gns.stepDue ((s.at t).rtSync.gns.rt / 10 ^ 12 + 2) = true →
      ∃ u, exec (.pendingStepApply t) s = .next u ∧ u.gns.step = 0 ∧ u.gns.stepped = true ∧ u.flag Reg.GNS_TSTAT 3 = false ∧
        (u.gns.rt : Int) = ((s.at t).rtSync.gns.rt + s.gns.step * 10 ^ 12) % (65536 * 604800 * 10 ^ 21)) ∧
    (tState s = 3 → s.gns.resid.natAbs ≤ s.rf Reg.GNS_TCFG 16 8 * ((s.at t).now - s.gns.at_) * 1000 →
      ∃ u, exec (.slewComplete t) s = .next u ∧ u.gns.resid = 0 ∧ tState u = 1) ∧
    (∀ p, tState s = 1 ∨ tState s = 3 → s.gns.phAt = some p → p + s.rf Reg.GNS_TCFG 24 8 * 1000000000 ≤ (s.at t).now →
      ∃ u, exec (.holdtoExpiry t) s = .next u ∧ tState u = 2) ∧
    (∃ u, exec (.uncOver t) s = .next u ∧
      (uncOver (s.at t).rtSync = true → u.flag Reg.GNS_TSTAT 6 = true ∧ 262 ∈ u.flt.asserted) ∧
      (uncOver (s.at t).rtSync = false → 262 ∉ u.flt.asserted)) ∧
    (∀ m, s.flag Reg.GNS_TPCFG 31 = true → tState s ≠ 0 → rtMultiple (s.at t).rtSync (2 * halfPeriod s) = m →
      rtNear (s.at t).rtSync (2 * halfPeriod s) 5 = true → (∀ l, s.gns.lastPulse = some l → rtUpTo m l = false) →
      (s.gns.lastPulse = none → rtPassed s m = false) →
      ∃ u, exec (.tpulse t) s = .next u ∧ u.rd Reg.GNS_TPCNT = s.rd Reg.GNS_TPCNT + 1 ∧ u.gns.lastPulse = some m ∧
        u.gns.pulseAt = some (s.at t).now) ∧
    (tState s = 0 → exec (.tpulse t) s = .next s))

/-- R297, R298, R301, R312, R313: an epoch that receiver time reaches latches its record with the next SEQ, and its completion, 2,000 ns +
80 ns × NREC later, shows every word of it and carries it in an input record, also where the next epoch has come before. R19, R312: at the
frame start the settled bit, the temperature and the saturations of the sample are latched, and the record of the frame carries the values and
the status; values that are held stay. A self-test runs from its START until it completes, and a
failed one or a missing sample is shown and holds the latched values, which are released when samples resume. -/
def Obligations.EpochsAndInertialUnit : Prop :=
  (∀ (s : State) (t : Nat) (ms : List GMeas) (cn0 : List (BitVec 16)), gnssEn s = true → (burstMode s = true → s.flag Reg.GNS_STAT 1 = true) →
    rtNear (s.at t).rtSync (epochNs s) 2 = true → (∀ l, s.gns.lastEpoch = some l → rtUpTo (rtMultiple (s.at t).rtSync (epochNs s)) l = false) →
    rtPassed s (rtMultiple (s.at t).rtSync (epochNs s)) = false →
    ∃ u, exec (.epoch t ms cn0) s = .next u ∧ u.gns.seq = s.gns.seq + 1 ∧ u.gns.stepped = false ∧
      u.gns.lastEpoch = some (rtMultiple (s.at t).rtSync (epochNs s)) ∧
      (∃ ws, u.gns.latched = s.gns.latched.filter (fun x => decide ((s.at t).now ≤ x.1)) ++ [((s.at t).now + 2000 + 80 * nrec s, ws)] ∧
        ws.length = 8 + 8 * nrec s ∧ ws.getD 0 0 = s.gns.seq + 1 ∧ ws.getD 3 0 = BitVec.ofNat 32 (s.at t).edge)) ∧
  (∀ (s : State) (t : Nat) (ws : List Word), gnssOn s = true → ((s.at t).now, ws) ∈ s.gns.latched → (s.gns.latched.map (·.1)).Nodup →
    ∃ u, exec (.epochRecordComplete t) s = .next u ∧ u.gns.latched = s.gns.latched.erase ((s.at t).now, ws) ∧
      (∀ k < ws.length, u.rd (Reg.GNS_EPOCH 0 + 4 * k) = ws.getD k 0) ∧
      RecItem.mk .epoch (ws.map (·.toNat)) ∈ (if s.closed then u.inrec.after else u.inrec.next)) ∧
  (∀ (s : State) (x : FrameSample), runsOn s →
    ∃ u, exec (.frameBoundary x) s = .next u ∧
      RecItem.mk .imu ((List.range 12).map (fun i => (u.rd (Reg.IMU_VAL i)).toNat) ++ [(u.rd Reg.IMU_STAT).toNat]) ∈ u.inrec.cur ∧
      (s.flag Reg.IMU_CFG 31 = true → s.imu.held = false → s.txn.state ≠ .pending →
        u.flag Reg.IMU_STAT 0 = x.imu.settled ∧ u.rf Reg.IMU_STAT 16 16 = x.imu.temp.toNat ∧
        (x.imu.satg = true → u.flag Reg.IMU_STAT 1 = true) ∧ (x.imu.sata = true → u.flag Reg.IMU_STAT 2 = true)) ∧
      (s.imu.held = true → ∀ i < 12, u.rd (Reg.IMU_VAL i) = s.rd (Reg.IMU_VAL i))) ∧
  (∀ (s : State) (t : Nat), s.clocked = true →
    (s.flag Reg.IMU_STAT 5 = true → exec (.imuSelfTestComplete t true) s = .next ((s.at t).setFlag Reg.IMU_STAT 5 false) ∧
      ∃ u, exec (.imuSelfTestComplete t false) s = .next u ∧ u.flag Reg.IMU_STAT 5 = false ∧ u.flag Reg.IMU_STAT 4 = true ∧ u.imu.held = true) ∧
    (s.flag Reg.IMU_CFG 31 = true → ∃ u, exec (.imuFault t) s = .next u ∧ u.flag Reg.IMU_STAT 3 = true ∧ u.imu.held = true)) ∧
  (∀ s : State, exec .imuSamplesResume s = .next { s with imu := { s.imu with held := false } }) ∧
  (∀ (s : State) (t : Nat) (v : Word) (rest : List (Nat × Word)), front s Reg.IMU_TEST v rest → bit v 0 = true →
    (s.sys.mode = .idle ∨ s.sys.mode = .safe ∨ s.sys.mode = .service → exec (.imuTest t) s = .next ((popped s t rest).setFlag Reg.IMU_STAT 5 true)) ∧
    (s.sys.mode = .run ∨ s.sys.mode = .limp → exec (.imuTest t) s = .next (popped s t rest)))

/-! ### The message buses (R320 to R349) -/

/-- R329, R331, R332, R334, R338: a request of a free entry is refused with BADHDR or for a failed tag, or makes it pending, or timed for
its instant, with the header words and the data its area holds; a timed entry becomes pending at its instant and not before it. A cancel of an entry that
waits gives CANCELED; one of an entry in arbitration is held; one whose arbitration is won is shown as too late and goes on. An
acknowledgement of a queue frees its oldest entries, and one of more than software owns is refused. RESTART starts bus-off recovery. -/
def Obligations.BusRequestsCancelsAndAcknowledgements : Prop :=
  (∀ (s : State) (t k : Nat) (n : Fin 4) (rest : List (Nat × Word)), k < 64 → k < s.rf (Reg.BUS_TXNUM n) 0 7 → busMode s = true →
    s.flag (Reg.BUS_CFG n) 0 = true → (s.txEnt n k).stage = .none →
    front s (if k < 32 then Reg.BUS_TXREQ_LO n else Reg.BUS_TXREQ_HI n) (BitVec.ofNat 32 (2 ^ (k % 32))) rest →
    (badHeader s n (Mem.ld s.fmem (txEntryAt s n k)) (Mem.ld s.fmem (txEntryAt s n k + 4)) = true →
      ∃ u, exec (.busTxreq t) s = .next u ∧ u.rf (Reg.BUS_TXST n k) 0 3 = 6 ∧ u.flag (Reg.BUS_TXST n k) 3 = true ∧ (u.txEnt n k).stage = .none) ∧
    (∀ x, badHeader s n (Mem.ld s.fmem (txEntryAt s n k)) (Mem.ld s.fmem (txEntryAt s n k + 4)) = false → badTag s (txEntryAt s n k) 20 = some x →
      ∃ u, exec (.busTxreq t) s = .next u ∧ u.rf (Reg.BUS_TXST n k) 0 3 = 6 ∧ u.flag (Reg.BUS_TXST n k) 4 = true ∧ (u.txEnt n k).stage = .none) ∧
    (badHeader s n (Mem.ld s.fmem (txEntryAt s n k)) (Mem.ld s.fmem (txEntryAt s n k + 4)) = false → badTag s (txEntryAt s n k) 20 = none →
      ∃ u, exec (.busTxreq t) s = .next u ∧ u.rf (Reg.BUS_TXST n k) 0 3 = 1 ∧
        (u.txEnt n k).stage = (if bit (Mem.ld s.fmem (txEntryAt s n k + 4)) 12 ∧
          0 < untilStamp (s.at t) (Mem.ld s.fmem (txEntryAt s n k + 8)) then .timed else .pending) ∧
        (u.txEnt n k).hdr = Mem.words s.fmem (txEntryAt s n k) 4 ∧
        (u.txEnt n k).data = Mem.bytes s.fmem (txEntryAt s n k + 16) (fld (Mem.ld s.fmem (txEntryAt s n k + 4)) 0 8))) ∧
  (∀ (s : State) (t : Nat) (n : Fin 4) (k : Fin 64), busMode s = true → (s.txEnt n k).stage = .timed →
    (untilStamp (s.at t) ((s.txEnt n k).hdr.getD 2 0) ≤ 0 →
      ∃ u, exec (.txatReached t n k) s = .next u ∧ u.regs = s.regs ∧ u.fmem = s.fmem ∧
        u.txEnt n k = { s.txEnt n k with
                        stage := .pending
                        since := (s.at t).now - (untilStamp (s.at t) ((s.txEnt n k).hdr.getD 2 0)).natAbs
                        fresh := (u.txEnt n k).fresh }) ∧
    (0 < untilStamp (s.at t) ((s.txEnt n k).hdr.getD 2 0) → exec (.txatReached t n k) s = .next s)) ∧
  (∀ (s : State) (t k ago : Nat) (n : Fin 4) (rest : List (Nat × Word)), k < 64 →
    front s (if k < 32 then Reg.BUS_TXCAN_LO n else Reg.BUS_TXCAN_HI n) (BitVec.ofNat 32 (2 ^ (k % 32))) rest →
    ((s.txEnt n k).stage = .pending ∨ (s.txEnt n k).stage = .timed →
      ∃ u, exec (.busTxcan t .idle ago) s = .next u ∧ u.txEnt n k = TxEnt.reset ∧ u.rf (Reg.BUS_TXST n k) 0 3 = 4) ∧
    (busOffer (popped s t rest) n ago = some (.entry k) →
      (∃ u, exec (.busTxcan t .arbitrating ago) s = .next u ∧ (u.txEnt n k).stage = .onBus ∧ (u.txEnt n k).cancel = true ∧
        u.rf (Reg.BUS_TXST n k) 0 3 = 2) ∧
      ∃ u, exec (.busTxcan t .won ago) s = .next u ∧ (u.txEnt n k).stage = .onBus ∧ u.flag (Reg.BUS_TXST n k) 6 = true)) ∧
  (∀ (s : State) (t : Nat) (n q : Fin 4) (v : Word) (rest : List (Nat × Word)), front s (Reg.BUS_QACK n q) v rest →
    (fld v 0 10 ≤ SMap.get 0 (s.bctl n).owned q → 0 < s.rf (Reg.BUS_QCFG n q) 0 10 →
      ∃ u, exec (.busQack t) s = .next u ∧ SMap.get 0 (u.bctl n).owned q = SMap.get 0 (s.bctl n).owned q - fld v 0 10 ∧
        u.rf (Reg.BUS_QST n q) 0 10 = (s.rf (Reg.BUS_QST n q) 0 10 + fld v 0 10) % s.rf (Reg.BUS_QCFG n q) 0 10 ∧ u.fmem = s.fmem) ∧
    (SMap.get 0 (s.bctl n).owned q < fld v 0 10 →
      exec (.busQack t) s = .next ((popped s t rest).setFlag (Reg.BUS_STAT n) 10 true))) ∧
  (∀ (s : State) (t : Nat) (n : Fin 4) (v : Word) (rest : List (Nat × Word)), front s (Reg.BUS_CMD n) v rest → bit v 0 = true →
    (s.rf (Reg.BUS_STAT n) 0 2 = 2 → exec (.busCmdRestart t) s = .next ((popped s t rest).setFlag (Reg.BUS_STAT n) 3 true)) ∧
    (s.rf (Reg.BUS_STAT n) 0 2 ≠ 2 → exec (.busCmdRestart t) s = .next (popped s t rest)))

/-- R332, R334 to R336, R338, R321, R341, R342: the entry offered at an arbitration is DONE when its frame is valid, and counted, its cancel
refused; after an error it is pending again, or FAILED with ONESHOT, and the transmit error counter rises by 8, to error-passive at 128 and
bus-off above 255; after a lost arbitration it is pending again or its held cancel takes effect. How errors and lost arbitrations count is log entry 16. The reference message that went out shows
its cycle count and instant, and MASTER for a time master and for one that has taken over. Recovery clears both counters; a held dominant
level is released and shown. At REFOFS a controller with a reference role requests its message; a request that comes while an earlier one
still waits is held beside it (log entry 103); a potential master that missed two cycles takes over; it withdraws its request when another's
reference message won. The registers that decide are those in force at the start of the frame (R326, kept as log entry 83 says). What a potential master does is log
entry 44, and that a request comes at its instant log entry 78. -/
def Obligations.BusTransmissionAndErrors : Prop :=
  (∀ (s : State) (t ago k : Nat) (n : Fin 4), k < 64 → busTalks ((s.at t).busWas n ago) n = true →
    busOffer ((s.at t).busWas n ago) n ago = some (.entry k) →
    (∃ u, exec (.transmissionComplete t n ago) s = .next u ∧ u.txEnt n k = TxEnt.reset ∧ u.rf (Reg.BUS_TXST n k) 0 3 = 3 ∧
      ((s.txEnt n k).cancel = true → u.flag (Reg.BUS_TXST n k) 6 = true) ∧
      (bit ((s.txEnt n k).hdr.getD 1 0) 9 = false → (u.bctl n).sent = some (txFrame s n k)) ∧
      u.rf (Reg.BUS_CNT n) 0 16 = min 65535 (s.rf (Reg.BUS_CNT n) 0 16 + 1) ∧ busTec u n = busTec s n - 1 ∧ busRec u n = busRec s n ∧
      (s.rf (Reg.BUS_STAT n) 0 2 < 2 → busRec s n < 128 → busTec s n ≤ 128 →
        u.rf (Reg.BUS_STAT n) 0 2 = if (s.bctl n).closing then 3 else 0)) ∧
    (∀ (lec : Fin 8) (dom : Bool) (place : TxPlace), s.rf (Reg.BUS_STAT n) 0 2 = 0 →
      ∃ u, exec (.transmissionError t n ago lec dom false place) s = .next u ∧ u.rf (Reg.BUS_ERR n) 16 3 = lec ∧
        busTec u n = min 255 (busTec s n + 8) ∧
        ((s.txEnt n k).cancel = false →
          (bit ((s.txEnt n k).hdr.getD 1 0) 10 = false → ((s.at t).busWas n ago).flag (Reg.BUS_CFG n) 6 = false →
            (u.txEnt n k).stage = .pending ∧ u.rf (Reg.BUS_TXST n k) 0 3 = 1) ∧
          (bit ((s.txEnt n k).hdr.getD 1 0) 10 = true ∨ ((s.at t).busWas n ago).flag (Reg.BUS_CFG n) 6 = true →
            u.txEnt n k = TxEnt.reset ∧ u.rf (Reg.BUS_TXST n k) 0 3 = 5 ∧ u.flag (Reg.BUS_TXST n k) 5 = decide (lec.val = 3))) ∧
        ((s.txEnt n k).cancel = true → place = .arbitration → (s.txEnt n k).won = false →
          u.txEnt n k = TxEnt.reset ∧ u.rf (Reg.BUS_TXST n k) 0 3 = 4) ∧
        ((s.txEnt n k).cancel = true → place ≠ .arbitration → u.flag (Reg.BUS_TXST n k) 6 = true) ∧
        (busRec s n < 128 → (s.bctl n).closing = false →
          u.rf (Reg.BUS_STAT n) 0 2 = if 255 < busTec s n + 8 then 2 else if 128 ≤ busTec s n + 8 then 1 else 0)) ∧
    (∀ (ide : Bool) (id : BitVec 29), ∃ u, exec (.arbitrationLost t n ago ide id) s = .next u ∧
      ((s.txEnt n k).cancel = false → (u.txEnt n k).stage = .pending ∧ u.rf (Reg.BUS_TXST n k) 0 3 = 1) ∧
      ((s.txEnt n k).cancel = true → u.txEnt n k = TxEnt.reset ∧ u.rf (Reg.BUS_TXST n k) 0 3 = 4))) ∧
  (∀ (s : State) (t ago : Nat) (n : Fin 4), busTalks ((s.at t).busWas n ago) n = true → busOffer ((s.at t).busWas n ago) n ago = some .reference →
    (∃ u, exec (.transmissionComplete t n ago) s = .next u ∧
      (u.bctl n).refReq = ((s.bctl n).refAgain.any fun x => decide ((s.at t).now - ago < x)) ∧
      (u.bctl n).refCount = ((s.bctl n).refCount + 1) % 64 ∧ u.rf (Reg.BUS_REFST n) 0 6 = (s.bctl n).refCount % 64 ∧
      u.flag (Reg.BUS_REFST n) 6 = true ∧
      u.flag (Reg.BUS_REFST n) 7 = (decide (((s.at t).busWas n ago).rf (Reg.BUS_REF n) 30 2 = 1) || s.flag (Reg.BUS_REFST n) 7) ∧
      u.rd (Reg.BUS_REFSTAMP n) = ((s.at t).ago ago).stamp ∧ (u.bctl n).sent = some (refFrame ((s.at t).busWas n ago) n ago)) ∧
    ∀ (ide : Bool) (id : BitVec 29), ((s.at t).busWas n ago).rf (Reg.BUS_REF n) 30 2 = 2 → isRefId ((s.at t).busWas n ago) n ide id.toNat = true →
      ∃ u, exec (.arbitrationLost t n ago ide id) s = .next u ∧
        (u.bctl n).refReq = ((s.bctl n).refAgain.any fun x => decide ((s.at t).now - ago < x)) ∧ u.flag (Reg.BUS_REFST n) 7 = false) ∧
  (∀ (s : State) (n : Fin 4), busMode s = true → s.rf (Reg.BUS_STAT n) 0 2 = 2 → s.flag (Reg.BUS_STAT n) 3 = true →
    ∃ u, exec (.busOffRecovery n) s = .next u ∧ u.rf (Reg.BUS_ERR n) 0 16 = 0 ∧ u.rf (Reg.BUS_STAT n) 0 2 = 0 ∧
      u.flag (Reg.BUS_STAT n) 3 = false ∧ (u.bctl n).off = false ∧ ∀ a, a ≠ Reg.BUS_ERR n → a ≠ Reg.BUS_STAT n → u.rd a = s.rd a) ∧
  (∀ (s : State) (t : Nat) (n : Fin 4), busMode s = true → s.flag (Reg.BUS_CFG n) 0 = true →
    ∃ u, exec (.dominantTimeout t n) s = .next u ∧ u.flag (Reg.BUS_STAT n) 12 = true ∧ (srcEnabled s (264 + n) = false → u.bus = s.bus)) ∧
  (∀ (s : State) (n : Fin 4), busRuns s n = true → 1 ≤ s.rf (Reg.BUS_REF n) 30 2 →
    (0 < s.rf (Reg.BUS_REFT n) 20 12 → s.frame.toNat % s.rf (Reg.BUS_REFT n) 20 12 = 0 →
      ∃ u, exec (.referenceMessage n) s = .next u ∧ (u.bctl n).refReq = true ∧ (u.bctl n).refSeen = some false ∧
        ((s.bctl n).refReq = false → (u.bctl n).refSince = (s.at (s.rf (Reg.BUS_REFT n) 0 20)).now) ∧
        ((s.bctl n).refReq = true → (u.bctl n).refSince = (s.bctl n).refSince ∧
          (u.bctl n).refAgain = (s.bctl n).refAgain.or (some (s.at (s.rf (Reg.BUS_REFT n) 0 20)).now)) ∧
        (u.bctl n).missed = (if (s.bctl n).refSeen = some false then min 3 ((s.bctl n).missed + 1) else 0) ∧ u.regs = s.regs) ∧
    (s.rf (Reg.BUS_REF n) 30 2 = 2 → 2 ≤ (s.bctl n).missed →
      ∃ u, exec (.referenceMissing n) s = .next u ∧ (u.bctl n).refReq = true ∧ u.flag (Reg.BUS_REFST n) 7 = true))

/-- R326 to R329, R337, R338, R343, R344: the filters in force at its start of frame decide on a valid frame. One that the first matching
filter sends to a queue, or the default route where none matches, stands in the queue's next entry with its header words, and the queue's
counts advance; with a full queue it is discarded and counted; a filter that asks for authentication stores only a frame that authenticates,
whose freshness value is taken, and counts the others (log entry 44); the filters are kept as log entry 83 says; a frame that nothing accepts leaves the queues and the memory as they are; and a
paired follower's equal pending entry is done. A received reference message, a classical data frame of 8 bytes with its identifier (the frame's
kind and length are log entry 103), shows its cycle count and instant, ends the count of missed cycles, and has a potential master withdraw.
A receive error advances the receive error counter (log entry 16), a valid frame lowers it, and a controller that a commit has disabled goes offline as the
frame in progress ends, also in an error (R346). -/
def Obligations.BusFramesReceived : Prop :=
  (∀ (s was : State) (t ago : Nat) (n : Fin 4) (f : CanFrame), (s.at t).busWas n ago = was → busRuns was n = true →
    s.flag (Reg.BUS_CFG n) 7 = false →
    (∀ (j : Nat) (q : Fin 4), firstFilter was n f = some j → was.rf (Reg.FLT_CTL n j) 24 3 = q.val + 1 → was.flag (Reg.FLT_CTL n j) 27 = false →
      (SMap.get 0 (s.bctl n).owned q < s.rf (Reg.BUS_QCFG n q) 0 10 →
        ∃ u, exec (.frameReceived t n f ago) s = .next u ∧ SMap.get 0 (u.bctl n).owned q = SMap.get 0 (s.bctl n).owned q + 1 ∧
          u.rf (Reg.BUS_QST n q) 16 10 = (s.rf (Reg.BUS_QST n q) 16 10 + 1) % s.rf (Reg.BUS_QCFG n q) 0 10 ∧
          Mem.ld u.fmem (queueEntryAt s n q (s.rf (Reg.BUS_QST n q) 16 10)) = f.word0 ∧
          Mem.ld u.fmem (queueEntryAt s n q (s.rf (Reg.BUS_QST n q) 16 10) + 8) = ((s.at t).ago ago).stamp ∧
          Mem.ld u.fmem (queueEntryAt s n q (s.rf (Reg.BUS_QST n q) 16 10) + 12) =
            BitVec.ofNat 32 ((SMap.get 0 (s.bctl n).stored q + 1) % 65536) ∧
          (busRec s n ≤ 127 → busRec u n = busRec s n - 1 ∧ busTec u n = busTec s n)) ∧
      (s.rf (Reg.BUS_QCFG n q) 0 10 ≤ SMap.get 0 (s.bctl n).owned q →
        ∃ u, exec (.frameReceived t n f ago) s = .next u ∧ u.flag (Reg.BUS_STAT n) (6 + q) = true ∧ u.fmem = s.fmem ∧
          SMap.get 0 (u.bctl n).owned q = SMap.get 0 (s.bctl n).owned q ∧ u.rf (Reg.BUS_CNT n) 16 8 = min 255 (s.rf (Reg.BUS_CNT n) 16 8 + 1))) ∧
    (∀ (q : Fin 4), firstFilter was n f = none → was.rf (Reg.BUS_CFG n) 9 3 = q.val + 1 →
      SMap.get 0 (s.bctl n).owned q < s.rf (Reg.BUS_QCFG n q) 0 10 →
      ∃ u, exec (.frameReceived t n f ago) s = .next u ∧ SMap.get 0 (u.bctl n).owned q = SMap.get 0 (s.bctl n).owned q + 1 ∧
        bit (Mem.ld u.fmem (queueEntryAt s n q (s.rf (Reg.BUS_QST n q) 16 10) + 4)) 11 = true) ∧
    (∀ (j slot : Nat) (q : Fin 4), firstFilter was n f = some j → was.rf (Reg.FLT_CTL n j) 24 3 = q.val + 1 → was.flag (Reg.FLT_CTL n j) 27 = true →
      was.rf (Reg.FLT_CTL n j) 16 6 = slot →
      (∀ cand, authCheck s (was.rd (Reg.BUS_AUTH n)).toNat slot f = some cand → SMap.get 0 (s.bctl n).owned q < s.rf (Reg.BUS_QCFG n q) 0 10 →
        ∃ u, exec (.frameReceived t n f ago) s = .next u ∧ SMap.get 0 u.bus.rxFresh slot = cand ∧
          SMap.get 0 (u.bctl n).owned q = SMap.get 0 (s.bctl n).owned q + 1) ∧
      (authCheck s (was.rd (Reg.BUS_AUTH n)).toNat slot f = none →
        ∃ u, exec (.frameReceived t n f ago) s = .next u ∧ u.flag (Reg.BUS_STAT n) 11 = true ∧ u.fmem = s.fmem ∧ u.bus.rxFresh = s.bus.rxFresh ∧
          u.rf (Reg.BUS_CNT n) 24 8 = min 255 (s.rf (Reg.BUS_CNT n) 24 8 + 1))) ∧
    (firstFilter was n f = none → was.rf (Reg.BUS_CFG n) 9 3 = 0 →
      ∃ u, exec (.frameReceived t n f ago) s = .next u ∧ u.fmem = s.fmem ∧ u.bus.rxFresh = s.bus.rxFresh ∧
        (u.bctl n).owned = (s.bctl n).owned ∧ (u.bctl n).stored = (s.bctl n).stored ∧ (u.bctl n).rx = (s.bctl n).rx) ∧
    (isReference was n f = true →
      ∃ u, exec (.frameReceived t n f ago) s = .next u ∧ u.rf (Reg.BUS_REFST n) 0 6 = (f.data.headD 0).toNat % 64 ∧
        u.flag (Reg.BUS_REFST n) 6 = true ∧ u.rd (Reg.BUS_REFSTAMP n) = ((s.at t).ago ago).stamp ∧ (u.bctl n).missed = 0 ∧
        (was.rf (Reg.BUS_REF n) 30 2 ≠ 1 → u.flag (Reg.BUS_REFST n) 7 = false ∧ (u.bctl n).refReq = false) ∧
        (was.rf (Reg.BUS_REF n) 30 2 = 1 → u.flag (Reg.BUS_REFST n) 7 = s.flag (Reg.BUS_REFST n) 7))) ∧
  (∀ (s : State) (t ago : Nat) (n : Fin 4) (f : CanFrame) (k : Nat) (e : TxEnt), busRuns ((s.at t).busWas n ago) n = true →
    s.flag (Reg.BUS_CFG n) 7 = true → s.follower = true → (k, e) ∈ (s.bctl n).tx → k < 64 → sameFrame e f = true →
    ∃ u, exec (.frameReceived t n f ago) s = .next u ∧ u.txEnt n k = TxEnt.reset ∧ u.rf (Reg.BUS_TXST n k) 0 3 = 3) ∧
  (∀ (s : State) (t : Nat) (n : Fin 4) (lec : Fin 8) (eight : Bool), busRuns s n = true →
    ∃ u, exec (.receiveError t n lec eight) s = .next u ∧ u.rf (Reg.BUS_ERR n) 16 3 = lec ∧
      busRec u n = min 255 (busRec s n + (if eight then 8 else 1)) ∧ busTec u n = busTec s n ∧
      (busTec s n < 128 → busRec s n < 120 → u.rf (Reg.BUS_STAT n) 0 2 = if (s.bctl n).closing then 3 else 0)) ∧
  (∀ (s : State) (t : Nat) (n : Fin 4) (lec : Fin 8) (eight : Bool), busMode s = true → (s.bctl n).closing = true →
    ∃ u, exec (.receiveError t n lec eight) s = .next u ∧ u.rf (Reg.BUS_ERR n) 16 3 = lec ∧
      busRec u n = min 255 (busRec s n + (if eight then 8 else 1)) ∧ u.rf (Reg.BUS_STAT n) 0 2 = 3 ∧ (u.bctl n).closing = false)

/-! ### The host port (R350 to R379) -/

/-- R354 to R356, R7, R361, R379, R448: a low half is held and a high half of the same word posts it; the other word's half is discarded and
shown; in FREEZE a half is discarded. With VIO_H out of range the port carries no access (R493, R517, log entry 56). A posted word reaches its register by the access codes; one without a register sets NOADR; a protected
write made directly while HAUTH is 1 changes only what shows it. -/
def Obligations.HostWordsArePostedAndArrive : Prop :=
  (∀ (s : State) (t : Nat) (a : BitVec 24) (v : BitVec 16), s.clocked = true → s.sys.viohFloat = false → a.toNat < 0x100000 →
    (s.hp.held = none ∨ (∃ x, s.hp.held = some (wordAddr a, x)) →
      exec (.lowHalfWrite t a v) s = .next ((s.at t).hold (some (wordAddr a, v)))) ∧
    (∀ b x, s.hp.held = some (b, x) → b ≠ wordAddr a →
      (∃ u, exec (.lowHalfWrite t a v) s = .next u ∧ u.hp.held = some (wordAddr a, v) ∧ u.hp.posted = s.hp.posted ∧ u.flag Reg.HP_STAT 2 = true) ∧
      (∃ u, exec (.highHalfWrite t a v) s = .next u ∧ u.hp.held = none ∧ u.hp.posted = s.hp.posted ∧ u.flag Reg.HP_STAT 2 = true)) ∧
    (∀ x, s.hp.held = some (wordAddr a, x) → s.hp.posted.length < 64 → exec (.highHalfWrite t a v) s = .next
      { s.at t with hp := { s.hp with held := none, posted := s.hp.posted ++ [(wordAddr a, v ++ x)] } }) ∧
    (∀ x, s.hp.held = some (wordAddr a, x) → 64 ≤ s.hp.posted.length →
      ∃ u, exec (.highHalfWrite t a v) s = .next u ∧ u.hp.posted = s.hp.posted ∧ u.flag Reg.HP_STAT 1 = true)) ∧
  (∀ (s : State) (t : Nat) (a : BitVec 24) (v : BitVec 16), s.sys.mode = .freeze → s.sys.powerFail = false → s.sys.viohFloat = false →
    a.toNat < 0x100000 →
    exec (.lowHalfWrite t a v) s = .next (s.setFlag Reg.HP_STAT 6 true) ∧ exec (.highHalfWrite t a v) s = .next (s.setFlag Reg.HP_STAT 6 true)) ∧
  (∀ (s : State) (t : Nat) (a : BitVec 24) (v : BitVec 16), s.clocked = true → s.sys.viohFloat = true →
    exec (.lowHalfWrite t a v) s = .next (s.at t) ∧ exec (.highHalfWrite t a v) s = .next (s.at t) ∧ exec (.lowHalfRead a) s = .next s ∧
    exec (.highHalfRead a) s = .next s) ∧
  (∀ (s : State) (t a : Nat) (v : Word) (rest : List (Nat × Word)), front s a v rest →
    (∀ r, Reg.row? a = some r → (∀ x ∈ s.sys.arrived, x.rank ≤ 8) →
      a ∈ [Reg.HP_IEN, Reg.HP_ISTAT, Reg.HP_SADR, Reg.HP_SLEN, Reg.SIL_CFG, Reg.SIL_WTIMER, Reg.FLT_INJDET, Reg.REC_RDSTART, Reg.REC_SWDETAIL,
           Reg.PEG_HC_ADDR, Reg.BUS_WAKE, Reg.ADC_STAT] →
      ∃ u, exec (.registerWrite t) s = .next u ∧
        { u with sys := { u.sys with arrived := s.sys.arrived, arrivedAt := s.sys.arrivedAt } } =
          (popped s t rest).wr a (plainWord r (s.rd a) v)) ∧
    (Reg.row? a = none → isCancel a = false → exec (.registerWrite t) s = .next (((popped s t rest).setFlag Reg.HP_STAT 4 true).irq 6))) ∧
  (∀ (s : State) (t : Nat) (v : Word) (rest : List (Nat × Word)), s.clocked = true → hauth s = true →
    s.hp.posted = (Reg.FLT_CTRL, v) :: rest →
    ∃ u, exec (.registerWrite t) s = .next u ∧ u.flag Reg.PEG_STAT 2 = true ∧ u.hp.posted = rest ∧ (srcEnabled s 323 = false → u.flt = s.flt ∧
      ∀ a, a ≠ Reg.PEG_STAT → a ≠ Reg.FLT_SST 323 → a ≠ Reg.FLT_SDET 323 → u.rd a = s.rd a))

/-- R354, R357, R360, R366: a low half reads the image and latches the high half of the same word, which the high half's read returns; a
high half that is not latched reads the image and is shown. The snapshot flip, in every mode with clocks and whatever the state, gives the
image what was captured and sets FLIP (R358, R362). Reading a half with RC fields clears them; reading header word 1 marks the page
as read. -/
def Obligations.HostReadsReturnTheImage : Prop :=
  (∀ (s : State) (a : BitVec 24), portOn s = true → s.sys.mode ≠ .freeze → a.toNat < 0x100000 → wordAddr a ≠ Reg.HP_SSTAT → wordAddr a ≠ Reg.HP_SPOS →
    (∃ u, exec (.lowHalfRead a) s = .next u ∧ u.hp.hd = (hostWord s (wordAddr a)).setWidth 16 ∧
      u.hp.latch = some (wordAddr a, (hostWord s (wordAddr a)).extractLsb' 16 16)) ∧
    (∀ x, s.hp.latch = some (wordAddr a, x) → ∃ u, exec (.highHalfRead a) s = .next u ∧ u.hp.hd = x ∧ u.hp.latch = s.hp.latch) ∧
    ((∀ x, s.hp.latch ≠ some (wordAddr a, x)) → ∃ u, exec (.highHalfRead a) s = .next u ∧
      u.hp.hd = (hostWord s (wordAddr a)).extractLsb' 16 16 ∧ u.flag Reg.HP_STAT 3 = true)) ∧
  (∀ (s : State) (a : BitVec 24) (n : Fin 4), s.clocked = true → s.sys.viohFloat = false → wordAddr a = Reg.BUS_CNT n →
    (∀ x ∈ s.hp.stuck, x.1 ≠ Reg.BUS_CNT n) →
    ∃ u, exec (.rcRead a false) s = .next u ∧ exec (.lowHalfRead a) s = .next u ∧ u.hp.hd = (s.rd (Reg.BUS_CNT n)).setWidth 16 ∧
      u.rf (Reg.BUS_CNT n) 0 16 = 0 ∧ u.rf (Reg.BUS_CNT n) 16 16 = s.rf (Reg.BUS_CNT n) 16 16 ∧ ∀ b, b ≠ Reg.BUS_CNT n → u.rd b = s.rd b) ∧
  (∀ (s : State) (p : Fin 64), portOn s = true → s.sys.mode ≠ .freeze →
    ∃ u, exec (.pageHeaderRead p) s = .next u ∧ u.hp.hd = (pageWord s p 1).setWidth 16 ∧ (u.page p).read = true ∧ (u.page p).seq = (s.page p).seq) ∧
  (∀ (s : State) (bad : List (Nat × Word × Byte)), s.clocked = true →
    ∃ u, exec (.snapshotFlip bad) s = .next u ∧ u.flag Reg.HP_ISTAT 0 = true ∧ u.edge = (s.at 100).edge ∧ u.frame = s.frame ∧ u.capt = s.capt ∧
      ∀ a, (∀ x ∈ bad, x.1 = a → x.2.2 = tagOf x.2.1) → Regs.get u.image a = Regs.get s.capt a)

/-- R364, R369 to R372, R427: a publish copies an enabled page's words as they stand when its bit arrives, and the copy's completion puts it before the flip it belongs to (log entry
50). GO
starts a stream or is refused with the first error of its table (which comes first is log entry 50); STOP ends one with ERR 5. A read in the streaming window takes the next
half of the buffer; a write of a second half puts the word into its memory, and the last one ends the stream; either without a stream is
shown. -/
def Obligations.PublishesAndStreams : Prop :=
  (∀ (s : State) (t p : Nat) (rest : List (Nat × Word)), p < 64 →
    front s (if p < 32 then Reg.HP_PUB_LO else Reg.HP_PUB_HI) (BitVec.ofNat 32 (2 ^ (p % 32))) rest →
    s.flag (Reg.HP_PCFG p) 31 = true → s.sys.mode ≠ .boot →
    ∃ u, exec (.publish t) s = .next u ∧ u.hp.copying = s.hp.copying ++ [(p, ⟨s.frame.toNat,
      badCopyWord s (s.rf (Reg.HP_PSRC p) 0 22) (s.rf (Reg.HP_PCFG p) 0 8),
      Mem.words s.fmem (s.rf (Reg.HP_PSRC p) 0 22) (s.rf (Reg.HP_PCFG p) 0 8)⟩)]) ∧
  (∀ (s : State) (t : Nat) (p : Fin 64) (c : PageCopy) (rest : List (Nat × PageCopy)), s.clocked = true → s.hp.copying = (p.val, c) :: rest →
    ∃ u, exec (.pageCopyComplete t p) s = .next u ∧ u.hp.copying = rest ∧
      (s.closed = false → u.hp.copyNext = s.hp.copyNext ++ [(p.val, { c with frame := s.frame.toNat })]) ∧
      (s.closed = true → u.hp.copyAfter = s.hp.copyAfter ++ [(p.val, { c with frame := s.frame.toNat })])) ∧
  (∀ (s : State) (t : Nat) (v : Word) (rest : List (Nat × Word)), front s Reg.HP_SCTL v rest →
    (bit v 0 = true →
      (goError s (fld v 4 3) (bit v 1) (s.rd Reg.HP_SADR).toNat (s.rd Reg.HP_SLEN).toNat = 0 →
        (fld v 4 3 ≠ 4 → ∃ u, exec (.streamGo t) s = .next u ∧ u.flag Reg.HP_SSTAT 0 = true ∧ u.rf Reg.HP_SSTAT 8 3 = 0 ∧ u.rd Reg.HP_SPOS = 0 ∧
          u.hp.stream = some ⟨true, fld v 4 3, bit v 1, (s.rd Reg.HP_SADR).toNat, (s.rd Reg.HP_SLEN).toNat, 0, none, [], 256⟩) ∧
        (fld v 4 3 = 4 → ∃ u x, exec (.streamGo t) s = .next u ∧ u.hp.stream = some x ∧ x.space = 4 ∧ x.write = false ∧
          u.rd Reg.REC_RDPOS = readFrom s ∧ u.rd Reg.HP_SPOS = 0)) ∧
      (goError s (fld v 4 3) (bit v 1) (s.rd Reg.HP_SADR).toNat (s.rd Reg.HP_SLEN).toNat ≠ 0 →
        ∃ u, exec (.streamGo t) s = .next u ∧ (streamBusy s = false → u.hp.stream = s.hp.stream) ∧ streamBusy u = false ∧
          u.flag Reg.HP_ISTAT 3 = true ∧
          u.rf Reg.HP_SSTAT 8 3 = goError s (fld v 4 3) (bit v 1) (s.rd Reg.HP_SADR).toNat (s.rd Reg.HP_SLEN).toNat)) ∧
    (∀ x, bit v 8 = true → bit v 0 = false → s.hp.stream = some x → x.busy = true →
      ∃ u, exec (.streamStop t) s = .next u ∧ streamBusy u = false ∧ u.rf Reg.HP_SSTAT 8 3 = 5 ∧ u.flag Reg.HP_SSTAT 0 = false)) ∧
  (∀ s : State, portOn s = true →
    (s.hp.stream = none → ∃ u, exec .streamRead s = .next u ∧ u.hp.hd = 0 ∧ u.flag Reg.HP_SSTAT 3 = true) ∧
    (∀ x h r, s.sys.mode ≠ .freeze → s.hp.stream = some x → x.write = false → x.buf = h :: r →
      ∃ u, exec .streamRead s = .next u ∧ u.hp.hd = h.1 ∧ u.rf Reg.HP_SPOS 0 28 = (s.rf Reg.HP_SPOS 0 28 + 2) % 2 ^ 28)) ∧
  (∀ (s : State) (v : BitVec 16), portOn s = true → s.sys.mode ≠ .freeze →
    (s.hp.stream = none → exec (.streamWrite v) s = .next (s.setFlag Reg.HP_SSTAT 4 true)) ∧
    (∀ x, s.hp.stream = some x → x.busy = true → x.write = true → 0 < x.room →
      (x.half = none → ∃ u y, exec (.streamWrite v) s = .next u ∧ u.hp.stream = some y ∧ y.half = some v ∧ y.pos = x.pos ∧ u.regs = s.regs ∧
        u.fmem = s.fmem) ∧
      (∀ lo, x.half = some lo → x.space = 0 → ∃ u y, exec (.streamWrite v) s = .next u ∧ u.fmem = Mem.stWords s.fmem x.pos [v ++ lo] ∧
        u.hp.stream = some y ∧ u.rf Reg.HP_SPOS 0 28 = (s.rf Reg.HP_SPOS 0 28 + 4) % 2 ^ 28 ∧
        (4 < x.left → y.busy = true ∧ y.pos = x.pos + 4 ∧ y.left = x.left - 4 ∧ y.half = none) ∧
        (x.left ≤ 4 → y.busy = false ∧ u.flag Reg.HP_SSTAT 2 = true ∧ u.flag Reg.HP_ISTAT 3 = true))))

/-! ### The pair and hot replacement (R381 to R393) -/

/-- R24, R382 to R384: a block of the exchange that passes its CRC before the deadline is kept by its number, one that fails is counted and
asked for again, and one after the deadline is discarded. The loss of the link is shown, ends a replacement in progress, and has the lead
drive KILL and the healthy follower take over (log entries 51 and 87); a killed device stays killed (R390). A skew above 500 ns is flagged. The exchange deadline
passes in every mode with clocks, whatever the state (R24; what it decides is in CutoffDeadlineAndFlip). A link that comes up for the first
time has the two devices pair at the next boundary; equal sides do not join. In BOOT the link trains once the image has passed (R404, log
entry 87). -/
def Obligations.TrussLinkAndExchange : Prop :=
  (∀ (s : State) (t n : Nat) (c : TrussContent), trussRuns s = true → s.flag Reg.TRU_STAT 6 = true → killed s = false →
    (∃ u, exec (.trussBlockReceived t n false c) s = .next u ∧ u.tru.asked = insertNat n s.tru.asked ∧ u.tru.blocks = s.tru.blocks ∧
      u.rf Reg.TRU_CNT 0 16 = min 65535 (s.rf Reg.TRU_CNT 0 16 + 1)) ∧
    (s.tru.passed = false → exec (.trussBlockReceived t n true c) s =
      .next { s.at t with tru := { s.tru with blocks := SMap.insert s.tru.blocks n c } }) ∧
    (s.tru.passed = true → exec (.trussBlockReceived t n true c) s = .next (s.at t))) ∧
  (∀ (s : State) (t : Nat), s.sys.mode ≠ .sill → s.sys.mode ≠ .freeze → s.flag Reg.TRU_STAT 6 = true →
    ∃ u, exec (.linkLoss t) s = .next u ∧ u.flag Reg.TRU_STAT 6 = false ∧ u.flag Reg.TRU_STAT 11 = true ∧ u.rf Reg.TRU_SCARF 8 3 = 0 ∧
      u.tru.joiner = none ∧ u.tru.blocks = [] ∧ (s.solo = true → u.tru.takeDet = s.tru.takeDet) ∧
      (s.solo = false → s.isLead = true → u.tru.takeDet = true ∧ u.tru.killOut = (s.flag Reg.TRU_CFG 1 && !killed s)) ∧
      (s.solo = false → s.isLead = false → u.tru.takeDet = (s.tru.takeDet || !s.flag Reg.TRU_STAT 7))) ∧
  (∀ s : State, s.clocked = true →
    ∃ u, exec .exchangeDeadline s = .next u ∧ u.tru.passed = true ∧ u.edge = (s.at (s.period - 1000)).edge ∧ u.frame = s.frame ∧
      u.closed = s.closed ∧ u.capt = s.capt) ∧
  (∀ (s : State) (t : Nat), s.sys.mode ≠ .sill → s.sys.mode ≠ .freeze → s.flag Reg.TRU_STAT 6 = true → s.solo = true → killed s = true →
    ∃ u, exec (.linkLoss t) s = .next u ∧ u.rf Reg.TRU_STAT 0 3 = s.rf Reg.TRU_STAT 0 3 ∧ killed u = true) ∧
  (∀ (s : State) (t : Nat) (j : Joiner), s.sys.mode = .boot → s.sys.powerFail = false → s.sys.bootDone.isSome = true →
    s.sched.image.isSome = true → killed s = false → s.solo = true →
    ∃ u, exec (.trussLinkUp t j) s = .next u ∧ u.flag Reg.TRU_STAT 6 = true ∧ u.tru.joiner = some j ∧ u.sys.mode = .boot) ∧
  (∀ (s : State) (t : Nat) (skew : BitVec 16), s.follower = true → trussRuns s = true →
    ∃ u, exec (.skewFault t skew) s = .next u ∧ u.rf Reg.TRU_SKEW 0 16 = skew.toNat ∧
      u.flag Reg.TRU_STAT 13 = (s.flag Reg.TRU_STAT 13 || decide (500 < skew.toInt.natAbs))) ∧
  (∀ (s : State) (t : Nat) (j : Joiner), trussRuns s = true → killed s = false → s.solo = true →
    (∃ u, exec (.trussLinkUp t j) s = .next u ∧ u.flag Reg.TRU_STAT 6 = true ∧ u.tru.joiner = some j) ∧
    (j.side ≠ s.sys.tside → j.leads = true → ∃ u, exec (.trussLinkUp t j) s = .next u ∧ u.rf Reg.TRU_STAT 0 3 = 2 ∧ u.tru.joinAt = s.tru.joinAt) ∧
    (j.side = s.sys.tside → ∃ u, exec (.trussLinkUp t j) s = .next u ∧ u.flag Reg.TRU_STAT 6 = true ∧ u.rf Reg.TRU_STAT 16 4 = 1 ∧
      u.tru.joinAt = s.tru.joinAt) ∧
    (j.side ≠ s.sys.tside → j.leads = false → s.tru.pairedOnce = false → s.isLead = false →
      ∃ u, exec (.trussLinkUp t j) s = .next u ∧ u.flag Reg.TRU_STAT 6 = true ∧ u.rf Reg.TRU_STAT 0 3 = 2 ∧
        u.tru.joinAt = some (if s.sys.tside then j.frame else s.frame + 1)))

/-- R389 to R393: an asserted KILL input opens every isolator, leaves the device alone, killed (log entry 87) and not driving KILL; its invalid state is
idle and shown; a keyed TRU_KILL drives the output or releases it. Scarf starts on a lead that is alone with a joining device ready, or
names why not (log entry 51); each phase gives way to the next, on the replacement with what it copied: a TX register of phase 1 by a transaction of the
twin owner (its token and that it has applied when the phase ends are log entry 104); and the lead's commit of ISO after probation is phase 6,
on the replacement a commit of the twin owner, without which the phase stays (log entry 104). A device that KILL reaches after the deadline
decided that it holds its outputs still holds them (R388). -/
def Obligations.KillAndScarf : Prop :=
  (∀ (s : State) (t : Nat), s.sys.mode ≠ .sill →
    (∃ u, exec (.killInput t true) s = .next u ∧ u.flag Reg.TRU_STAT 7 = true ∧ u.flag Reg.TRU_STAT 9 = true ∧ u.rf Reg.TRU_STAT 0 3 = 5 ∧
      u.solo = true ∧ u.isLead = false ∧ u.tru.killOut = false ∧ u.tru.hold = s.tru.hold ∧ ∀ b < 12, (u.bank b).isoCmd = false) ∧
    exec (.killInput t false) s = .next ((if s.clocked then s.at t else s).setFlag Reg.TRU_STAT 7 false) ∧
    (∃ u, exec (.killLineFault t) s = .next u ∧ u.flag Reg.TRU_STAT 12 = true ∧ u.flag Reg.TRU_STAT 7 = false ∧
      u.tru.killOut = s.tru.killOut ∧ (srcEnabled s 291 = false → u.tru = s.tru))) ∧
  (∀ (s : State) (t : Nat) (v : Word) (rest : List (Nat × Word)), front s Reg.TRU_KILL v rest →
    (bit v 0 = true → exec (.truKillAssert t) s = .next (if fld v 8 8 = 0xA5 then
      { popped s t rest with tru := { s.tru with killOut := s.flag Reg.TRU_CFG 1 && !killed s } } else popped s t rest)) ∧
    (bit v 0 = false → exec (.truKillRelease t) s = .next (if fld v 8 8 = 0xA5 then
      { popped s t rest with tru := { s.tru with killOut := false } } else popped s t rest))) ∧
  (∀ (s : State) (t : Nat) (v : Word) (rest : List (Nat × Word)) (j : Joiner), front s Reg.TRU_SCARF v rest → bit v 0 = true → trussRuns s = true →
    s.solo = true → s.isLead = true → s.flag Reg.TRU_STAT 6 = true → scarfPhase s = 0 → s.tru.joiner = some j → j.ready = true →
    ∃ u, exec (.scarfGo t) s = .next u ∧ u.rf Reg.TRU_STAT 16 4 = joinError s j ∧ scarfPhase u = if joinError s j = 0 then 1 else 0) ∧
  (∀ (s : State) (t : Nat) (frame : BitVec 48), trussRuns s = true → s.solo = true → s.flag Reg.TRU_STAT 6 = true → killed s = false → scarfPhase s < 5 →
    (∀ items, s.isLead = true → 1 ≤ scarfPhase s → ∃ u, exec (.scarfPhaseComplete t frame items) s = .next u ∧ scarfPhase u = scarfPhase s + 1 ∧
      u.tru.probation = if scarfPhase s = 4 then s.rf Reg.TRU_CFG 16 16 + 1 else s.tru.probation) ∧
    (∀ j items, s.isLead = false → s.tru.joiner = some j → j.leads = true →
      ∃ u, exec (.scarfPhaseComplete t frame items) s = .next u ∧ scarfPhase u = max 1 (scarfPhase s) + 1) ∧
    (∀ j ofs ws, s.isLead = false → s.tru.joiner = some j → j.leads = true →
      ∃ u, exec (.scarfPhaseComplete t frame [.fmem ofs ws]) s = .next u ∧ scarfPhase u = max 1 (scarfPhase s) + 1 ∧
        u.fmem = Mem.stWords s.fmem ofs ws ∧ u.fmemTag = Mem.tagWords s.fmemTag ofs ws ∧
        u.tru.joinAt = if scarfPhase s = 4 then some frame else s.tru.joinAt) ∧
    (∀ j a v r, s.isLead = false → s.tru.joiner = some j → j.leads = true → Reg.row? a = some r → s.txn.state = .free →
      (∀ b : Fin 12, a ≠ Reg.BCFG b) → (s.sys.variant = 1 → ¬ (0x070000 ≤ a ∧ a < 0x080000)) →
      ∃ u, exec (.scarfPhaseComplete t frame [.reg a v]) s = .next u ∧ scarfPhase u = max 1 (scarfPhase s) + 1 ∧
        (twinPending ((s.at t).twinCommit [(a, v)]) = true → u.rd a &&& r.tx = v &&& r.tx ∧ u.txn.state = .free) ∧
        (twinPending ((s.at t).twinCommit [(a, v)]) = false → u.rd a &&& r.tx = s.rd a &&& r.tx))) ∧
  (∀ (s : State) (t : Nat) (iso : BitVec 12), scarfPhase s = 5 → s.tru.probation = 1 → trussRuns s = true →
    (s.isLead = true → ∃ u, exec (.probationEnd t iso) s = .next u ∧ scarfPhase u = 6 ∧ u.tru.isoCommit = some s.closed) ∧
    (s.isLead = false → ∃ u, exec (.probationEnd t iso) s = .next u ∧
      (scarfPhase u = 6 ∧ u.tru.isoCommit = some s.closed ∧ u.txn.state = .pending ∧ u.txn.holder = scarfOwner ∨
       scarfPhase u = 5 ∧ u.tru.isoCommit = s.tru.isoCommit)))

/-! ### The journal and the recorder (R395 to R401, R420 to R428) -/

/-- R396, R397, R399 to R401: the oldest entry being written stands in its slot of the ring, and its confirmation goes to the twin; the
twin's confirmation confirms an equal entry and flags a different one, also one that came before the entry (which entries are open is log entry 20); the oldest mark of the buffer
becomes an entry of the ring, unless the next slot holds an open one (its data are log entry 20); replay places the open entries in FMEM,
JRN_RLEN at a time, and NEXT those after them that have not been completed meanwhile (R398). A failing entry right after the newest valid one
is torn and discarded; one that valid entries follow sets CORRUPT and stays. -/
def Obligations.JournalWritesConfirmsAndReplays : Prop :=
  (∀ (s : State) (t q : Nat) (ws : List Word) (rest : List (Nat × List Word)), journalOn s = true → s.sys.powerFail = false →
    s.jrn.writing = (q, ws) :: rest →
    ∃ u, exec (.journalWriteComplete t) s = .next u ∧ u.jrn.writing = rest ∧ SMap.get [] u.jrn.ring (q % 65536) = ws ∧
      u.jrn.told = (if trussRuns s && s.flag Reg.TRU_STAT 6 && !s.solo then s.jrn.told ++ [(q, ws.getD 15 0)] else s.jrn.told) ∧
      u.jrn.opened = (match completes s.jrn.head ws with
        | some x => s.jrn.opened.filter (fun y => decide (y ≠ x))
        | none => s.jrn.opened)) ∧
  (∀ (s : State) (t : Nat) (q : BitVec 64) (crc : Word), trussRuns s = true → s.solo = false → s.jrn.writing = [] → inRing s q.toNat = true →
    ((SMap.get [] s.jrn.ring (q.toNat % 65536)).getD 15 0 = crc → ∃ u, exec (.journalConfirmation t q crc) s = .next u ∧
      (SMap.get JLive.none u.jrn.live q.toNat).confirmed = true ∧ u.jrn.ring = s.jrn.ring ∧
      ((∀ e : Fin 8, (s.en e).wait = .none) → u.regs = s.regs ∧ u.eng = s.eng)) ∧
    ((SMap.get [] s.jrn.ring (q.toNat % 65536)).getD 15 0 ≠ crc →
      ∃ u, exec (.journalConfirmation t q crc) s = .next u ∧ (SMap.get JLive.none u.jrn.live q.toNat).diverged = true ∧
        u.flag Reg.JRN_STAT 2 = true)) ∧
  (∀ (s : State) (m : JMark) (ms : List JMark), journalOn s = true → s.sys.powerFail = false → s.jrn.marks = m :: ms →
    (jrnFull s = true → exec .markDrain s = .next s) ∧
    (jrnFull s = false → ∃ u, exec .markDrain s = .next u ∧ u.jrn.marks = ms ∧ u.jrn.head = s.jrn.head + 1 ∧
      SMap.get [] u.jrn.ring (s.jrn.head % 65536) = jrnWords s.jrn.head 0xFFFE 2 m.frame
        [BitVec.ofNat 32 (m.ctl + m.entry * 2 ^ 8 + b2n m.retx * 2 ^ 16), m.jseq] ∧
      ∀ crc, (SMap.get JLive.none s.jrn.live s.jrn.head).early = some crc →
        ((SMap.get [] u.jrn.ring (s.jrn.head % 65536)).getD 15 0 = crc → (SMap.get JLive.none u.jrn.live s.jrn.head).confirmed = true) ∧
        ((SMap.get [] u.jrn.ring (s.jrn.head % 65536)).getD 15 0 ≠ crc →
          (SMap.get JLive.none u.jrn.live s.jrn.head).diverged = true ∧ u.flag Reg.JRN_STAT 2 = true))) ∧
  (∀ (s : State) (t : Nat) (v : Word) (rest : List (Nat × Word)), front s Reg.JRN_RCTL v rest →
    (bit v 0 = true → bit v 1 = false → s.jrn.marks = [] → s.jrn.writing = [] → (∀ x ∈ s.jrn.ring, entryOk x.2 = true) →
      ∃ u, exec (.replay t) s = .next u ∧ u.jrn.opened = openOf s.jrn.head (validEntries s.jrn.ring) ∧
        u.jrn.replay = (openOf s.jrn.head (validEntries s.jrn.ring)).drop (s.rd Reg.JRN_RLEN).toNat ∧
        u.rd Reg.JRN_RCNT = BitVec.ofNat 32 (min (s.rd Reg.JRN_RLEN).toNat (openOf s.jrn.head (validEntries s.jrn.ring)).length) ∧
        u.jrn.ring = s.jrn.ring) ∧
    (∀ k q : Nat, bit v 0 = true → bit v 1 = false → s.jrn.marks = [] → s.jrn.writing = [] → (s.jrn.ring.map (·.1)).Nodup →
      (∀ x ∈ s.jrn.ring, x.1 < 65536) → ringHead s.jrn.ring = q → k ∈ s.jrn.ring.map (·.1) →
      entryOk (SMap.get [] s.jrn.ring k) = false → validEntries s.jrn.ring ≠ [] →
      ((∃ i < 65536, k = (q + i) % 65536 ∧ ∀ j ≤ i, (q + j) % 65536 ∈ s.jrn.ring.map (·.1) ∧
          entryOk (SMap.get [] s.jrn.ring ((q + j) % 65536)) = false) →
        ∃ u, exec (.replay t) s = .next u ∧ u.flag Reg.JRN_STAT 3 = true ∧ SMap.get [] u.jrn.ring k = []) ∧
      ((∃ i < 65536, k = (q + i) % 65536 ∧ ∃ j < i, ¬ ((q + j) % 65536 ∈ s.jrn.ring.map (·.1) ∧
          entryOk (SMap.get [] s.jrn.ring ((q + j) % 65536)) = false)) →
        ∃ u, exec (.replay t) s = .next u ∧ u.flag Reg.JRN_STAT 4 = true ∧ SMap.get [] u.jrn.ring k = SMap.get [] s.jrn.ring k)) ∧
    (bit v 0 = false → bit v 1 = true → ∃ u due, exec (.next t) s = .next u ∧
      due = s.jrn.replay.filter (fun q => s.jrn.opened.contains q) ∧ u.jrn.replay = due.drop (s.rd Reg.JRN_RLEN).toNat ∧
      u.rd Reg.JRN_RCNT = BitVec.ofNat 32 (min (s.rd Reg.JRN_RLEN).toNat due.length) ∧
      u.flag Reg.JRN_STAT 6 = decide ((s.rd Reg.JRN_RLEN).toNat < due.length) ∧
      u.fmem = Mem.stWords s.fmem (s.rf Reg.JRN_RBASE 0 22)
        ((due.take (s.rd Reg.JRN_RLEN).toNat).flatMap (fun q => SMap.get [] s.jrn.ring (q % 65536)))))

/-- R420, R422 to R427: the record at the head of the queue is written to a free slot with the next RSEQ and the chain hash, or dropped
where every slot holds a higher severity; a checkpoint that the public-key engine serves, and no other (R455), adds the two records of its
signature over its chain hash by the identity key (R433; the number drawn for it is log entry 4), and the next one is served at once; a pending
suppressed count is written as a summary, and goes ahead of the next record of its code; a software record needs its code and its words' tags; and a freeze point is taken, and released by its bit or by its time-out. -/
def Obligations.RecorderWritesItsRecords : Prop :=
  (∀ (s : State) (q : QRec) (qs : List QRec), recorderOn s = true → s.rcd.queue = q :: qs → s.rcd.overdue = [] → s.rcd.lost = 0 →
    (s.rcd.slots.length < 262144 → ∃ u, exec .recordWriteComplete s = .next u ∧ u.rd Reg.REC_HEAD = s.rd Reg.REC_HEAD + 1 ∧
      SMap.get [] u.rcd.slots s.rcd.slots.length =
        recWords q (s.rd Reg.REC_HEAD) (if q.code = 516 then wordsOf s.rcd.hashPrev else q.payload) s.rcd.hash ∧
      u.rcd.hash = sha256 (s.rcd.hash ++ bytesOfWords (SMap.get [] u.rcd.slots s.rcd.slots.length)) ∧ u.rcd.hashPrev = s.rcd.hash) ∧
    (s.rcd.slots.length < 262144 → q.sev < 2 → q.code ≠ 515 → q.code ≠ 516 → s.rf Reg.REC_CFG 16 16 = 0 →
      ∃ u, exec .recordWriteComplete s = .next u ∧ u.rcd.queue = qs ∧ u.rd Reg.REC_HEAD = s.rd Reg.REC_HEAD + 1 ∧
        SMap.get [] u.rcd.slots s.rcd.slots.length = recWords q (s.rd Reg.REC_HEAD) q.payload s.rcd.hash ∧
        u.rcd.hash = sha256 (s.rcd.hash ++ bytesOfWords (recWords q (s.rd Reg.REC_HEAD) q.payload s.rcd.hash)) ∧ u.rcd.hashPrev = s.rcd.hash) ∧
    (262144 ≤ s.rcd.slots.length → (∀ x ∈ s.rcd.slots, q.sev < slotSev x.2) →
      ∃ u, exec .recordWriteComplete s = .next u ∧ u.rcd = { s.rcd with queue := qs } ∧ u.flag Reg.REC_STAT 5 = true ∧
        u.rf Reg.REC_CNT 16 16 = min 65535 (s.rf Reg.REC_CNT 16 16 + 1))) ∧
  (∀ (s : State) (t : Nat) (k : BitVec 256) (w : SigWait) (ws : List SigWait), recorderOn s = true → s.rcd.sigs = w :: ws →
    (s.peg.serving = some .checkpoint → s.rcd.queue.length + s.rcd.overdue.length + 2 ≤ 64 →
      ∃ u a b, exec (.checkpointSigned t k) s = .next u ∧ u.rcd.sigs = ws ∧ u.rcd.queue = s.rcd.queue ++ [a, b] ∧ a.code = 517 ∧ b.code = 518 ∧
        a.detail = w.rseq ∧ b.detail = w.rseq ∧ a.payload = wordsBE (ecdsaSign w.hash k).1 ∧ b.payload = wordsBE (ecdsaSign w.hash k).2 ∧
        u.flag Reg.REC_STAT 1 = (!ws.isEmpty && s.flag Reg.REC_STAT 1) ∧ (ws ≠ [] → u.peg.serving = some .checkpoint)) ∧
    (s.peg.serving ≠ some .checkpoint → exec (.checkpointSigned t k) s = .next s)) ∧
  (∀ (s : State) (k : Fin 1024), recorderOn s = true → (SMap.get Bucket.none s.rcd.buckets k).run = true →
    0 < (SMap.get Bucket.none s.rcd.buckets k).count → (SMap.get Bucket.none s.rcd.buckets k).summed + 10000 ≤ s.sys.optime →
    s.rcd.queue.length + s.rcd.overdue.length < 64 →
    ∃ u a, exec (.summaryDue k) s = .next u ∧ u.rcd.queue = s.rcd.queue ++ [a] ∧ a.code = 514 ∧ a.detail = BitVec.ofNat 32 k ∧
      (SMap.get Bucket.none u.rcd.buckets k).count = 0 ∧ u.regs = s.regs) ∧
  (∀ (s : State) (t : Nat) (v : Word) (rest : List (Nat × Word)), front s Reg.REC_SWCODE v rest →
    (fld v 0 10 < 768 → exec (.recSwcode t) s = .next ((popped s t rest).setFlag Reg.REC_STAT 8 true)) ∧
    (768 ≤ fld v 0 10 → (∀ i < 8, SMap.get 0 s.rcd.swTag i = tagOf (s.rd (Reg.REC_SWDATA i))) → recLimited s (fld v 0 10) = false →
      ((SMap.get Bucket.none s.rcd.buckets (fld v 0 10)).run = false → s.rcd.queue.length + s.rcd.overdue.length < 64 →
        ∃ u a, exec (.recSwcode t) s = .next u ∧ u.rcd.queue = s.rcd.queue ++ [a] ∧ a.code = fld v 0 10 ∧ a.sev = fld v 12 2 ∧
          a.detail = s.rd Reg.REC_SWDETAIL ∧ a.payload = (List.range 8).map (fun i => s.rd (Reg.REC_SWDATA i)) ∧ u.regs = s.regs) ∧
      ((SMap.get Bucket.none s.rcd.buckets (fld v 0 10)).run = true → 0 < (SMap.get Bucket.none s.rcd.buckets (fld v 0 10)).count →
        s.rcd.queue.length + s.rcd.overdue.length + 2 ≤ 64 →
        ∃ u b a, exec (.recSwcode t) s = .next u ∧ u.rcd.queue = s.rcd.queue ++ [b, a] ∧ b.code = 514 ∧ b.detail = BitVec.ofNat 32 (fld v 0 10) ∧
          a.code = fld v 0 10 ∧ (SMap.get Bucket.none u.rcd.buckets (fld v 0 10)).run = false ∧
          (SMap.get Bucket.none u.rcd.buckets (fld v 0 10)).count = 0))) ∧
  (∀ (s : State) (t : Nat) (v : Word) (rest : List (Nat × Word)), front s Reg.REC_CTL v rest →
    (bit v 0 = true → bit v 1 = false →
      (s.rf Reg.REC_CFG 0 1 = 0 → exec (.recFreeze t) s = .next ((({ popped s t rest with rcd := { s.rcd with frozen := 0 } }).wr Reg.REC_FRZSEQ
        (s.rd Reg.REC_HEAD)).setFlag Reg.REC_STAT 0 true)) ∧
      (s.rf Reg.REC_CFG 0 1 = 1 → exec (.recFreeze t) s = .next (popped s t rest))) ∧
    (bit v 0 = false → bit v 1 = true → exec (.recRelease t) s = .next ((popped s t rest).setFlag Reg.REC_STAT 0 false))) ∧
  (∀ s : State, recorderOn s = true → s.rf Reg.REC_CFG 8 8 * 10000 ≤ s.rcd.frozen →
    exec .freezeTimeout s = .next (s.setFlag Reg.REC_STAT 0 false))

/-! ### The trust anchor (R433 to R461) -/

/-- The key command that the window holds (R440). -/
def Sys2Proof.Claims.window (s : State) : KeyCmd := keyCmdOf (regBytes s Reg.PEG_KCMD 64)

/-- A host's GO of the key command of the window, whose OP is `op`, is at the head of the posted words while none runs (R441, R442). -/
abbrev Sys2Proof.Claims.keyGoes (s : State) (v : Word) (rest : List (Nat × Word)) (op : Nat) : Prop :=
  front s Reg.PEG_KCTL v rest ∧ bit v 0 = true ∧ s.peg.running = none ∧ keyOp s = op ∧ (window s).op = op

/-- R441 to R445, R454, R455: a key command that fails a check changes nothing but that it runs, and asks for the public-key engine where its
checks come to a signature, being served at once where nothing goes before it; one that passes takes effect: a key is enrolled
or revoked, a message key or the host key, where the wrapped key unwraps, is loaded and its counters start again, a rollback counter is
raised, the ownership is released, a grant begins, or the policy is kept, to be in force when the command ends. That these effects come with GO is
log entry 85; the algorithms are those of log entry 4. -/
def Obligations.KeyCommandsTakeEffect : Prop :=
  (∀ (s : State) (t : Nat) (stored : Bool) (v : Word) (rest : List (Nat × Word)), keyResult s (window s) stored ≠ 0 →
    ∀ p ∈ [(1, Instr.keyEnrol t stored), (2, .keyRevoke t stored), (3, .loadMessageKey t stored), (4, .loadHostKey t stored),
           (5, .raiseRollback t stored), (6, .releaseOwnership t stored), (7, .grant t stored), (8, .setPolicy t stored)],
      keyGoes s v rest p.1 → ∃ job, exec p.2 s = .next (({ popped s t rest with
        peg := { s.peg with running := some (keyResult s (window s) stored, p.1, (window s).slot)
                            keyWaits := decide (6 ≤ keyResult s (window s) stored) && !isClaim s (window s)
                            serving := job } }).setFld Reg.PEG_KSTAT 8 2 1) ∧
        (s.peg.serving.isSome = true → job = s.peg.serving) ∧
        (s.peg.serving = none → s.rcd.sigs = [] → s.sched.verify = none → 6 ≤ keyResult s (window s) stored → isClaim s (window s) = false →
          job = some .key)) ∧
  (∀ (s : State) (t : Nat) (stored : Bool) (v : Word) (rest : List (Nat × Word)), keyResult s (window s) stored = 0 →
    (keyGoes s v rest 1 → ∃ u, exec (.keyEnrol t stored) s = .next u ∧ ownerKey u (window s).slot = (window s).key ∧
      u.peg.running = some (0, 1, (window s).slot)) ∧
    (keyGoes s v rest 2 → ∃ u, exec (.keyRevoke t stored) s = .next u ∧ ownerKey u (window s).slot = [] ∧
      u.peg.running = some (0, 2, (window s).slot)) ∧
    (keyGoes s v rest 5 → ∃ u, exec (.raiseRollback t stored) s = .next u ∧ u.rd (Reg.PEG_ROLL (window s).slot) = (window s).param) ∧
    (keyGoes s v rest 6 → ∃ u, exec (.releaseOwnership t stored) s = .next u ∧ (∀ k < 4, ownerKey u k = []) ∧
      (∀ k < 64, SMap.get [] u.bus.keys k = []) ∧ u.peg.hostKey = [] ∧ owned u = false ∧ hauth u = false ∧ autoroll u = false ∧
      u.rf Reg.PEG_GRANT 0 2 = 0 ∧ ∀ k < 4, u.rd (Reg.PEG_ROLL k) = s.rd (Reg.PEG_ROLL k)) ∧
    (keyGoes s v rest 7 → ∃ u, exec (.grant t stored) s = .next u ∧ u.peg.granted = true ∧ u.rf Reg.PEG_GRANT 0 2 = fld (window s).param 0 2 ∧
      u.rf Reg.PEG_STAT 9 2 = fld (window s).param 0 2 ∧
      u.peg.grantEnd = if fld (window s).param 8 24 = 0 then none else some (s.sys.optime + fld (window s).param 8 24 * 10000)) ∧
    (keyGoes s v rest 8 → ∃ u, exec (.setPolicy t stored) s = .next u ∧ u.peg.policy = some (bit (window s).param 0, bit (window s).param 1) ∧
      u.peg.running = some (0, 8, (window s).slot) ∧ hauth u = hauth s ∧ autoroll u = autoroll s)) ∧
  (∀ (s : State) (t : Nat) (stored : Bool) (v : Word) (rest : List (Nat × Word)),
    keyResult s (window s) stored = 0 ∨ keyResult s (window s) stored = 8 →
    (keyGoes s v rest 3 → ∃ u, exec (.loadMessageKey t stored) s = .next u ∧
      u.peg.running = some (keyResult s (window s) stored, 3, (window s).slot) ∧ (loadedKey s (window s) = none → u.bus = s.bus) ∧
      ∀ key, loadedKey s (window s) = some key → SMap.get [] u.bus.keys (window s).slot = key ∧
        SMap.get 0 u.bus.txFresh (window s).slot = 0 ∧ SMap.get 0 u.bus.rxFresh (window s).slot = 0) ∧
    (keyGoes s v rest 4 → ∃ u, exec (.loadHostKey t stored) s = .next u ∧
      u.peg.running = some (keyResult s (window s) stored, 4, (window s).slot) ∧
      (loadedKey s (window s) = none → u.peg.hostKey = s.peg.hostKey ∧ u.rd Reg.PEG_HCTR_LO = s.rd Reg.PEG_HCTR_LO ∧
        u.rd Reg.PEG_HCTR_HI = s.rd Reg.PEG_HCTR_HI) ∧
      ∀ key, loadedKey s (window s) = some key → u.peg.hostKey = key ∧ u.rd Reg.PEG_HCTR_LO = 0 ∧ u.rd Reg.PEG_HCTR_HI = 0))

/-- R442, R446, R450, R451, R454, R455: the running key command, when the public-key engine has served it or where it needs none, ends with its
RESULT and a new nonce, eight free words (log entry 2), and a kept policy is in force (log entry 85); a grant, be it one with no bits, ends by its duration or by REVOKE (when is log entry 52); an
attestation report is built and, when it is complete, stands in PEG_AREP with its signature by the identity key over the SHA-256 of its bytes
(the number drawn for it is log entry 4); and a host command that passes its checks advances the counter and delivers its write, protected or
not, while one that fails delivers nothing, and one that comes while another executes (for how long is log entry 17) reads BUSY. -/
def Obligations.PegAnswersAndDelivers : Prop :=
  (∀ (s : State) (r op slot : Nat), s.peg.running = some (r, op, slot) → s.sys.mode ≠ .freeze →
    (s.peg.keyWaits = true → s.peg.serving = some .key) →
    ∃ u, exec .keyCommandComplete s = .next u ∧ u.peg.running = none ∧ u.rf Reg.PEG_KSTAT 0 8 = r % 256 ∧ u.rf Reg.PEG_KSTAT 8 2 = 2 ∧
      (∀ p, s.peg.policy = some p → u.peg.policy = none ∧ hauth u = p.1 ∧ autoroll u = p.2) ∧
      (s.peg.policy = none → hauth u = hauth s ∧ autoroll u = autoroll s) ∧
      (srcEnabled s 322 = false → ∀ i < 8, u.rd (Reg.PEG_NONCE i) = BitVec.ofNat 32 (Config.freeNat (s.free + i)))) ∧
  (∀ s : State, (s.peg.keyWaits = true → s.peg.serving ≠ some .key → exec .keyCommandComplete s = .next s)) ∧
  (∀ s : State, s.peg.granted = true →
    (∀ e, s.peg.grantEnd = some e → e ≤ s.sys.optime → s.sys.mode ≠ .freeze → ∃ u, exec .grantExpiry s = .next u ∧ u.rf Reg.PEG_GRANT 0 2 = 0 ∧
      debugGranted u = false ∧ frzReadGranted u = false ∧ u.peg.grantEnd = none ∧ u.peg.granted = false ∧
      (srcEnabled s 326 = true → s.sys.mode ≠ .sill → s.sys.mode ≠ .boot → u.rd (Reg.FLT_SDET 326) = 0)) ∧
    (∀ (t : Nat) (v : Word) (rest : List (Nat × Word)), front s Reg.PEG_GRANT v rest → bit v 8 = true →
      ∃ u, exec (.revoke t) s = .next u ∧ u.rf Reg.PEG_GRANT 0 2 = 0 ∧ debugGranted u = false ∧ frzReadGranted u = false ∧
        u.peg.granted = false)) ∧
  (∀ (s : State) (t : Nat) (v : Word) (rest : List (Nat × Word)), front s Reg.PEG_ACTL v rest → bit v 0 = true → s.flag Reg.PEG_ASTAT 0 = false →
    s.sys.mode ≠ .boot →
    (s.flag Reg.PEG_STAT 5 = true → exec (.attestation t) s = .next ((popped s t rest).setFlag Reg.PEG_ASTAT 2 true)) ∧
    (s.flag Reg.PEG_STAT 5 = false → ∃ u, exec (.attestation t) s = .next u ∧ u.peg.report = some (reportWords s (configCrc s)) ∧
      u.flag Reg.PEG_ASTAT 0 = true ∧
      (s.peg.serving.isSome = true → u.peg.serving = s.peg.serving) ∧
      (s.peg.serving = none → s.rcd.sigs = [] → s.sched.verify = none → s.peg.keyWaits = false → u.peg.serving = some .report))) ∧
  (∀ (s : State) (t : Nat) (k : BitVec 256) (ws : List Word), s.peg.report = some ws → s.sys.mode ≠ .freeze →
    (s.peg.serving ≠ some .report → exec (.reportComplete t k) s = .next s) ∧
    (s.peg.serving = some .report →
      ∃ u sg, exec (.reportComplete t k) s = .next u ∧ sg = ecdsaSign (sha256 (bytesOfWords ws)) k ∧ u.peg.report = none ∧
        u.flag Reg.PEG_ASTAT 0 = false ∧ u.flag Reg.PEG_ASTAT 1 = true ∧ (∀ i < ws.length, u.rd (Reg.PEG_AREP i) = ws.getD i 0) ∧
        ∀ i < 8, u.rd (Reg.PEG_AREP (ws.length + i)) = (wordsBE sg.1).getD i 0 ∧
          u.rd (Reg.PEG_AREP (ws.length + 8 + i)) = (wordsBE sg.2).getD i 0)) ∧
  (∀ (s : State) (t ago : Nat) (ph : BusPhase) (v : Word) (rest : List (Nat × Word)), front s Reg.PEG_HC_TAG_HI v rest → s.sys.mode ≠ .boot →
    (s.at t).now < s.peg.hcUntil →
    ∃ u, exec (.hostCommand t ph ago) s = .next u ∧ u = { popped s t rest with peg := { s.peg with hcBusy := true } } ∧
      fld (u.view Reg.PEG_HC_STAT) 0 3 = 6) ∧
  (∀ (s : State) (t ago : Nat) (ph : BusPhase) (v : Word) (rest : List (Nat × Word)), front s Reg.PEG_HC_TAG_HI v rest → s.sys.mode ≠ .boot →
    s.peg.hcUntil ≤ (s.at t).now →
    (hostCmdResult s v ≠ 1 → ∃ u, exec (.hostCommand t ph ago) s = .next u ∧
      u.rf Reg.PEG_HC_STAT 0 3 = hostCmdResult s v ∧ u.rd Reg.PEG_HCTR_LO = s.rd Reg.PEG_HCTR_LO ∧ u.rd Reg.PEG_HCTR_HI = s.rd Reg.PEG_HCTR_HI ∧
      (srcEnabled s 323 = false → u.tru = s.tru ∧ u.txn = s.txn)) ∧
    (hostCmdResult s v = 1 → s.rf Reg.PEG_HC_ADDR 0 24 = Reg.TRU_KILL → fld (s.rd Reg.PEG_HC_DATA) 8 8 = 0xA5 →
      ∃ u, exec (.hostCommand t ph ago) s = .next u ∧ u.rf Reg.PEG_HC_STAT 0 3 = 1 ∧ u.rd Reg.PEG_HCTR_LO = s.rd Reg.PEG_HC_CTR_LO ∧
        u.rd Reg.PEG_HCTR_HI = s.rd Reg.PEG_HC_CTR_HI ∧ u.rf Reg.PEG_HC_STAT 16 16 = min 65535 (s.rf Reg.PEG_HC_STAT 16 16 + 1) ∧
        u.tru.killOut = (bit (s.rd Reg.PEG_HC_DATA) 0 && s.flag Reg.TRU_CFG 1 && !killed s)))

/-! ### Modes, resets and start-up (R462 to R488) -/

/-- The host of a device that is alone requests the mode of a code, with the key (R467). -/
abbrev Sys2Proof.Claims.requests (s : State) (v : Word) (rest : List (Nat × Word)) (req : Nat) : Prop :=
  front s Reg.SYS_MODEREQ v rest ∧ fld v 8 8 = 0xA5 ∧ fld v 0 3 = req ∧ s.solo = true

/-- R467, R468: with its key, an accepted request for IDLE, RUN or SERVICE is TARGET, one for BOOT or SILL is kept for the next cutoff; a
refused one is shown with its owner and changes nothing else of the mode controller; any other key does nothing. Which request is accepted
in which mode, and what the pair makes of a host's request; what a request does to a pending one is log entry 52. -/
def Obligations.ModeRequests : Prop :=
  (∀ (s : State) (t : Nat) (v : Word) (rest : List (Nat × Word)), ∀ p ∈ [(2, Instr.requestIdle t), (3, .requestRun t), (7, .requestService t)],
    requests s v rest p.1 → requestOk s p.1 = true →
    ∃ u, exec p.2 s = .next u ∧ target u = p.1 ∧ u.sys.reqBoot = none ∧ u.sys.reqSill = none ∧ u.sys.mode = s.sys.mode ∧
      u.sys.reqBy = (if target s = p.1 then s.sys.reqBy else 1) ∧ ∀ a, a ≠ Reg.SYS_MODE → u.rd a = s.rd a) ∧
  (∀ (s : State) (t : Nat) (v : Word) (rest : List (Nat × Word)),
    (requests s v rest 1 → requestOk s 1 = true → exec (.requestBoot t) s =
      .next { popped s t rest with sys := { s.sys with reqBoot := some 1, reqSill := none } }) ∧
    (requests s v rest 0 → requestOk s 0 = true → exec (.requestSill t) s =
      .next { popped s t rest with sys := { s.sys with reqBoot := none, reqSill := some 1 } })) ∧
  (∀ (s : State) (t : Nat) (v : Word) (rest : List (Nat × Word)),
    ∀ p ∈ [(0, Instr.requestSill t), (1, .requestBoot t), (2, .requestIdle t), (3, .requestRun t), (7, .requestService t)],
    (requests s v rest p.1 → requestOk s p.1 = false →
      ∃ u, exec p.2 s = .next u ∧ u.flag Reg.SYS_MODESTAT 0 = true ∧ u.rf Reg.SYS_MODESTAT 8 3 = p.1 ∧ u.rf Reg.SYS_MODESTAT 16 2 = 1 ∧
        target u = target s ∧ u.sys = s.sys) ∧
    (front s Reg.SYS_MODEREQ v rest → fld v 0 3 = p.1 → s.solo = true → fld v 8 8 ≠ 0xA5 → exec p.2 s = .next (popped s t rest)) ∧
    (front s Reg.SYS_MODEREQ v rest → fld v 0 3 = p.1 → s.solo = false → s.isLead = true → exec p.2 s =
      .next ((popped s t rest).recordCut ⟨.modeRequest, [v.toNat]⟩)) ∧
    (front s Reg.SYS_MODEREQ v rest → fld v 0 3 = p.1 → s.follower = true → fld v 8 8 = 0xA5 →
      ∃ u, exec p.2 s = .next u ∧ u.flag Reg.SYS_MODESTAT 0 = true ∧ target u = target s ∧ u.sys = s.sys)) ∧
  (∀ s : State, s.clocked = true →
    (requestOk s 0 = true ↔ s.sys.mode ∈ [.idle, .safe, .service]) ∧
    (requestOk s 1 = true ↔ s.sys.mode ∈ [.idle, .run, .limp, .safe, .service]) ∧
    (target s ≠ 2 → (requestOk s 2 = true ↔ s.sys.mode ∈ [.run, .limp, .service])) ∧
    (target s ≠ 3 → (requestOk s 3 = true ↔ s.sys.mode ∈ [.idle, .limp] ∧ s.flt.reaction < 2 ∧ killed s = false)) ∧
    (target s ≠ 7 → (requestOk s 7 = true ↔ s.sys.mode = .idle)) ∧
    (∀ m ∈ [2, 3, 7], target s = m → (requestOk s m = true ↔ s.sys.mode ≠ .boot)))

/-- R475 to R477: a keyed SYS_RST starts a system reset of cause 3, and a CORE, EDGE or MEM PLL that unlocks one of cause 5: the device is
in BOOT, the frame number and the place in the frame go on, the blocks and the memories are at their reset values, but for the level sources
whose condition stays and which are raised anew (log entry 88), and what R476 keeps stays: what stands in MRAM and in the Sill domain, KILLED,
the period, RLIMIT, FLT_RCNT, FLT_FIRST and its words, the counts, the grant and the recorder queue, which is still to be written; so do the bits
that show measured levels (log entry 35). Which level sources a reset cannot end is log entry 41. -/
def Obligations.SystemResetKeepsWhatItMust : Prop :=
  ∀ (s : State) (t : Nat), s.clocked = true → s.canonical = true →
    ∀ p ∈ [(3, Instr.sysRst t), (5, .pllUnlock t .core), (5, .pllUnlock t .edge), (5, .pllUnlock t .mem)],
    (p.1 = 3 → ∃ v rest, front s Reg.SYS_RST v rest ∧ fld v 8 8 = 0xA5 ∧ bit v 0 = true) →
    ∃ u, exec p.2 s = .next u ∧ u.sys.mode = .boot ∧ u.rd Reg.SYS_RSTCAUSE = BitVec.ofNat 32 p.1 ∧ u.frame = s.frame ∧ u.edge = (s.at t).edge ∧
      u.rf Reg.PEG_STAT 9 2 = s.rf Reg.PEG_STAT 9 2 ∧ u.peg.grantEnd = s.peg.grantEnd ∧ (∀ n < 12, (u.bank n).isoCmd = false) ∧
      (∀ n < 108, u.flag (Reg.CH_STAT n) 3 = s.flag (Reg.CH_STAT n) 3) ∧ u.scr = Scribe.reset ∧
      u.fmem = [] ∧ u.fmemTag = [] ∧ u.dram = [] ∧ u.eng = [] ∧ u.txn = Txn.reset ∧
      (s.flt.asserted = [] → assertedAfter (s.at t) .system = [] → u.flt = Flt.reset ∧
        (∀ a ∈ [Reg.FLT_FIRST, Reg.FLT_FIRSTDET, Reg.FLT_FIRSTFRM, Reg.FLT_FIRSTOFS, Reg.FLT_RCNT], u.rd a = s.rd a) ∧
        u.rd Reg.FLT_STAT = Reg.resetOf Reg.FLT_STAT ∧ u.rf Reg.FLT_RCFG 0 8 = s.rf Reg.FLT_RCFG 0 8 ∧
        ∃ l, u.rcd.queue = s.rcd.queue ++ l ∧ l.length ≤ 2) ∧
      (∀ q ∈ s.rcd.queue, q ∈ u.rcd.queue) ∧ killed u = killed s ∧ u.rf Reg.PWR_STAT 0 7 = s.rf Reg.PWR_STAT 0 7 ∧
      u.flag Reg.SIL_STAT 0 = s.sys.ignDeb ∧ u.flag Reg.CLK_STAT 2 = s.sys.refPresent ∧ u.peg.granted = s.peg.granted ∧ u.hp.posted = [] ∧ u.prog = s.prog ∧
      u.jrn.ring = s.jrn.ring ∧ u.rcd.slots = s.rcd.slots ∧ u.rcd.hash = s.rcd.hash ∧ u.peg.owner = s.peg.owner ∧ u.peg.hostKey = s.peg.hostKey ∧
      u.bus.keys = s.bus.keys ∧ u.sys.optime = s.sys.optime ∧
      (∀ a ∈ [Reg.SIL_PCYC, Reg.SIL_CFG, Reg.SIL_WTIMER, Reg.BUS_WAKE, Reg.SYS_FRMCFG, Reg.PEG_CFG, Reg.REC_HEAD, Reg.REC_OLDEST,
              Reg.PEG_GRANT], u.rd a = s.rd a) ∧
      (∀ a ∈ [Reg.HP_IEN, Reg.TXN_STAT, Reg.CLK_CFG], u.rd a = Reg.resetOf a)

/-- R465, R470 to R474, R477, R460: at the boundary of SILL the slices, the slot, the posted words and the trust anchor's work end and the
isolators open; entry to SILL is complete with the save made and the memories lost; the Sill save keeps the operating time and
the power-cycle count (when these are saved and counted is log entry 52); a power-on reset restores them, counts the cycle, and watches an active IGN (log entry 31), which the end of its debounce turns into
BOOT, while an inactive one leads to SILL with its save; each wake source resets the device with its code, and SIL_STAT.IGN shows the debounced
level again; the key-off timer starts, stops and runs out; and BOOT ends in IDLE with an image and an owner, else in SERVICE, which stays until a
request; a key slot is lost only when both of its copies fail (R436). -/
def Obligations.SillWakeAndBoot : Prop :=
  (∀ (s : State) (x : FrameSample), s.clocked = true → s.sys.mode ∈ [Mode.idle, .run, .limp, .safe, .service] → comingMode s = .sill →
    ∃ u, exec (.frameBoundary x) s = .next u ∧ u.sys.mode = .sill ∧ u.sys.sillDone = false ∧ u.rf Reg.SYS_MODE 0 3 = 0 ∧ u.eng = [] ∧
      u.txn = Txn.reset ∧ u.hp.posted = [] ∧ u.peg.running = none ∧ u.peg.report = none ∧ u.peg.granted = false ∧
      ∀ b < 12, (u.bank b).isoCmd = false) ∧
  (∀ (s : State) (x : FrameSample), s.sys.mode = .boot → s.sys.powerFail = false →
    (s.sys.decided.map (·.1)).getD (s.sys.bootDone.getD .boot) = .service →
    ∃ u, exec (.frameBoundary x) s = .next u ∧ u.sys.mode = .service ∧ target u = 7) ∧
  (∀ s : State, s.sys.mode = .sill → s.sys.sillDone = false → s.sys.powerFail = false → s.sys.wakeLatched = none →
    ∃ u, exec .sillEntryComplete s = .next u ∧ u.sys.mode = .sill ∧ u.sys.sillDone = true ∧ u.sys.saved = true ∧
      u.sys.savedOptime = s.sys.optime ∧ u.fmem = [] ∧ u.dram = [] ∧ u.prog = s.prog ∧ u.rcd.queue = [] ∧ u.rcd.lostPower = 0) ∧
  (∀ s : State, s.clocked = true → s.sys.savedOptime + 100000 ≤ s.sys.optime → exec .sillSave s =
    .next { s with sys := { s.sys with savedOptime := s.sys.optime, savedPcyc := (s.rd Reg.SIL_PCYC).toNat } }) ∧
  (∀ (s : State) (ign hs ts : Bool), s.sys.savedPcyc < 2 ^ 24 →
    ∃ u, exec (.powerOnReset ign hs ts) s = .next u ∧ u.sys.mode = .sill ∧ u.sys.watch = ign ∧ u.sys.hsync = hs ∧ u.sys.tside = ts ∧ u.frame = 0 ∧
      u.fmem = [] ∧ u.prog = s.prog ∧ u.rd Reg.SIL_PCYC = BitVec.ofNat 32 (min 16777215 (s.sys.savedPcyc + 1)) ∧
      u.sys.optime = (if s.sys.saved then s.sys.savedOptime else min (2 ^ 44 - 1) (s.sys.savedOptime + 100000)) ∧
      u.flag Reg.PWR_STAT 12 = s.sys.powerFail ∧ (s.jrn.marks ≠ [] → u.flag Reg.JRN_STAT 5 = true) ∧
      (ign = false → u.sys.saved = true ∧ u.sys.savedPcyc = (u.rd Reg.SIL_PCYC).toNat ∧ u.sys.savedOptime = u.sys.optime)) ∧
  (∀ s : State, s.sys.powerFail = false →
    (s.sys.watch = true → s.sys.ign = true → ∃ u, exec .ignDebounceExpiry s = .next u ∧ u.sys.mode = .boot ∧ u.sys.watch = false ∧
      u.flag Reg.SIL_STAT 0 = true ∧ u.rd Reg.SYS_RSTCAUSE = 1) ∧
    (s.sys.watch = true → ∃ u, exec (.ignChange false) s = .next u ∧ u.sys.watch = false ∧ u.sys.mode = s.sys.mode ∧ u.sys.saved = true ∧
      u.sys.savedPcyc = (s.rd Reg.SIL_PCYC).toNat ∧ u.sys.savedOptime = s.sys.optime) ∧
    (s.sys.watch = false → s.sys.mode ≠ .sill →
      exec .ignDebounceExpiry s = .next ({ s with sys := { s.sys with ignDeb := s.sys.ign } }.setFlag Reg.SIL_STAT 0 s.sys.ign) ∧
      ∀ active, active ≠ s.sys.ign → ∃ u, exec (.ignChange active) s = .next u ∧ u.sys.ign = active ∧
        u.flag Reg.SIL_STAT 1 = (!active && decide (0 < s.rf Reg.SIL_CFG 16 16))) ∧
    (s.sys.watch = false → s.sys.mode = .sill → s.sys.sillDone = true →
      ∀ p ∈ [(1, Instr.ignDebounceExpiry), (2, .wakeUpPattern), (3, .wakeTimerExpiry)],
      (p.1 = 1 → s.sys.ign = true ∧ s.sys.ignSeenLow = true ∧ s.flag Reg.SIL_CFG 0 = true) → (p.1 = 2 → s.flag Reg.BUS_WAKE 0 = true) →
      (p.1 = 3 → s.flag Reg.SIL_CFG 2 = true ∧ 0 < s.rf Reg.SIL_WTIMER 0 24) →
      ∃ u, exec p.2 s = .next u ∧ u.sys.mode = .boot ∧ u.rd Reg.SYS_RSTCAUSE = 2 ∧ u.rf Reg.SIL_STAT 4 3 = p.1 ∧
        u.flag Reg.SIL_STAT 0 = (decide (p.1 = 1) || s.sys.ignDeb))) ∧
  (∀ (s : State) (t : Nat), s.clocked = true → s.flag Reg.SIL_STAT 1 = true → s.sys.keyOff = false →
    0 < s.rf Reg.SIL_CFG 16 16 → s.rf Reg.SIL_CFG 16 16 * 10000 ≤ s.sys.koRun → ∃ u, exec (.keyOffTimeout t) s = .next u ∧ u.sys = { s.sys with keyOff := true } ∧
      u.flag Reg.SIL_STAT 1 = true) ∧
  (∀ (s : State) (t : Nat), s.sys.mode = .boot → s.sys.bootDone = none → s.sys.powerFail = false →
    (∀ r, ∃ u, exec (.bootComplete t r) s = .next u ∧ u.sys.mode = .boot ∧ u.sys.bootDone.isSome = true ∧
      (r.selfTest ≠ 0 → u.sys.bootDone = some .service ∧ u.flag Reg.PEG_STAT 4 = true) ∧ (r.badSlots ≠ [] → u.flag Reg.PEG_STAT 1 = true) ∧
      (∀ k : Fin 4, ((k.val, false) ∈ r.badCopies ∧ (k.val, true) ∈ r.badCopies → ownerKey u k = []) ∧
        ((k.val, false) ∉ r.badCopies ∨ (k.val, true) ∉ r.badCopies → ownerKey u k = ownerKey s k)) ∧
      (r.dikBad = true → u.flag Reg.PEG_STAT 5 = true)) ∧
    (∃ u, exec (.bootComplete t ⟨0, [], false⟩) s = .next u ∧
      u.sys.bootDone = some (if (s.at t).bootLoad.2 && owned (s.at t).bootLoad.1 then .idle else .service)))

/-! ### FREEZE, clocks and the test port (R478 to R487) -/

/-- R482 to R485, R453, R493, R517: the FREEZE pin, where SYS_CFG enables it and VIO_G is in range (log entry 56), and FRZ_ENTER with the DEBUG grant stop the device in FREEZE with every running
engine halted, and the end of the last source returns it to the mode before, in which the raises that waited are taken (log entry 88). The
test port's instructions load their code and show what the spec says; without the grant the debug instructions act as BYPASS (log entry 54) and are reported,
in FREEZE once it has ended; data are read in FREEZE only; and in SILL, or with VIO_G out of range, the port does nothing. -/
def Obligations.FreezeAndTestPort : Prop :=
  (∀ (s : State) (t : Nat), s.sys.mode ≠ .sill → s.sys.powerFail = false → s.sys.mode ≠ .freeze →
    (s.flag Reg.SYS_CFG 0 = true → s.sys.viogFloat = false → ∃ u, exec (.freezePin t) s = .next u ∧ u.sys.mode = .freeze ∧ u.sys.before = s.sys.mode ∧ u.sys.frzPin = true ∧
      u.rf Reg.SYS_MODE 16 8 = 11 ∧ ∀ e < 8, (s.en e).state = .run → (u.en e).state = .halted) ∧
    (s.flag Reg.SYS_CFG 0 = false ∨ s.sys.viogFloat = true → exec (.freezePin t) s = .next s) ∧
    exec .freezeRelease s = .next { s with sys := { s.sys with frzPin := false } } ∧
    (debugGranted s = true → s.sys.viogFloat = false → ∃ u, exec (.frzEnter t) s = .next u ∧ u.sys.mode = .freeze ∧
      u.sys.before = s.sys.mode ∧ u.sys.frzDbg = true ∧ u.rf Reg.SYS_MODE 16 8 = 13 ∧ u.jtag.ir = 0x20 ∧ u.jtag.acts = .frzEnter)) ∧
  (∀ s : State, s.sys.mode = .freeze → s.sys.powerFail = false → s.sys.viogFloat = false →
    (∀ t, s.flag Reg.SYS_CFG 0 = true → exec (.freezePin t) s = .next { s with sys := { s.sys with frzPin := true } }) ∧
    (∀ t, debugGranted s = true → exec (.frzEnter t) s =
      .next { s with sys := { s.sys with frzDbg := true }, jtag := { s.jtag with ir := 0x20, acts := .frzEnter } }) ∧
    (s.sys.frzPin = true → debugGranted s = true → exec .frzResume s =
      .next { s with sys := { s.sys with frzDbg := false }, jtag := { s.jtag with ir := 0x21, acts := .frzResume } }) ∧
    (s.sys.frzDbg = true → exec .freezeRelease s = .next { s with sys := { s.sys with frzPin := false } }) ∧
    (s.sys.frzDbg = false → ∃ u, exec .freezeRelease s = .next u ∧ u.sys.mode = s.sys.before ∧ u.sys.frzPin = false ∧
      u.rf Reg.SYS_MODE 16 8 = 14 ∧ (s.sys.before ≠ .sill → s.sys.before ≠ .freeze → u.flt.waiting = [])) ∧
    (s.sys.frzPin = false → debugGranted s = true → ∃ u, exec .frzResume s = .next u ∧ u.sys.mode = s.sys.before ∧ u.sys.frzDbg = false ∧
      u.rf Reg.SYS_MODE 16 8 = 14)) ∧
  (∀ (s : State) (captured cells : List Bool), s.sys.mode ≠ .sill → s.sys.viogFloat = false →
    (s.sys.mode = .service ∨ s.sys.mode = .freeze → exec (.extest captured cells) s =
      .next { s with jtag := { s.jtag with ir := 0x00, acts := .extest, captured := captured, cells := cells } }) ∧
    (s.sys.mode ≠ .service → s.sys.mode ≠ .freeze →
      exec (.extest captured cells) s = .next { s with jtag := { s.jtag with ir := 0x00, acts := .bypass, out := 0 } }) ∧
    exec (.samplePreload captured cells) s =
      .next { s with jtag := { s.jtag with ir := 0x02, acts := .samplePreload, captured := captured, cells := cells } }) ∧
  (∀ s : State, s.sys.mode ≠ .sill → s.sys.viogFloat = false →
    exec .bypass s = .next { s with jtag := { s.jtag with ir := 0xFF, acts := .bypass, out := 0 } } ∧
    ∃ u, exec .idcode s = .next u ∧ u.jtag.ir = 0x01 ∧ u.jtag.acts = .idcode ∧ u.jtag.out.toNat % 2 = 1 ∧
      u.jtag.out.toNat / 2 ^ 12 % 2 ^ 16 = if s.sys.variant = 2 then 0x4806 else 0x9612) ∧
  (∀ s : State, exec .testLogicReset s = .next { s with jtag := { s.jtag with ir := 0x01, acts := .idcode } }) ∧
  (∀ (s : State) (t : Nat) (x : BitVec 36) (captured cells : List Bool), s.sys.mode = .sill ∨ s.sys.viogFloat = true →
    ∀ c ∈ [Instr.extest captured cells, .idcode, .samplePreload captured cells, .frzEnter t, .frzResume, .dbgSel x, .dbgRead, .bypass],
      exec c s = .next s) ∧
  (∀ (s : State) (x : BitVec 36), debugGranted s = true → s.sys.mode ≠ .sill → s.sys.viogFloat = false →
    exec (.dbgSel x) s = .next { s with jtag := { s.jtag with ir := 0x22, acts := .dbgSel, sel := x } }) ∧
  (∀ s : State, debugGranted s = true → s.sys.viogFloat = false →
    (s.sys.mode ≠ .freeze → s.sys.mode ≠ .sill → ∃ u, exec .dbgRead s = .next u ∧ u.jtag.ir = 0x23 ∧ u.jtag.out = 0) ∧
    (∀ ofs, s.sys.mode = .freeze → ofs < 0x400000 → ofs % 4 = 0 → s.jtag.sel = BitVec.ofNat 36 (0x20000000 + ofs) →
      ∃ u, exec .dbgRead s = .next u ∧ u.jtag.out = SMap.get 0 s.fmemTag ofs ++ Mem.ld s.fmem ofs ∧
        u.jtag.sel = BitVec.ofNat 36 (0x20000000 + ofs + 4))) ∧
  (∀ (s : State) (t : Nat) (x : BitVec 36), debugGranted s = false → s.sys.mode ≠ .sill → s.sys.viogFloat = false →
    ∀ p ∈ [((0x23 : BitVec 8), Instr.dbgRead), (0x22, .dbgSel x), (0x20, .frzEnter t), (0x21, .frzResume)],
      ∃ u, exec p.2 s = .next u ∧ u.jtag.ir = p.1 ∧ u.jtag.acts = .bypass ∧ u.sys = s.sys ∧ u.flag Reg.PEG_STAT 3 = true ∧
        (s.sys.mode = .freeze → ∃ d, (325, d) ∈ u.flt.waiting))

/-- R480, R481, R486: a lost REFCLK that was in use gives way to the internal oscillator or the backup, counted; one that returns is used
again where REFSEL allows it; an internal oscillator that fails is raised, and gives way to the backup where it was in use; a GNSS or BUS PLL
shows its lock, asserts source 305 while unlocked, and releases it when both are locked, the channels of a relocked GNSS PLL entering REACQ; on
the NGK-9612-NA, which has neither REFCLK nor internal oscillator nor GNSS PLL (R3), their events change nothing; and a Sill oscillator off its
rate is shown. -/
def Obligations.ClocksFollowTheirReferences : Prop :=
  (∀ (s : State) (t : Nat), s.clocked = true → s.sys.variant ≠ 1 →
    (s.sys.refPresent = true → s.rf Reg.CLK_STAT 0 2 ≤ 1 →
      ∃ u, exec (.refclkLoss t) s = .next u ∧ u.flag Reg.CLK_STAT 2 = false ∧
        (∀ n ∈ gListed s, gState s n = 3 → (u.gch n).slip = true) ∧ u.flag Reg.CLK_STAT 4 = true ∧ u.sys.refPresent = false ∧
        u.rf Reg.CLK_STAT 0 2 = (if s.sys.tcxoGood then 2 else 3) ∧ u.rf Reg.CLK_CNT 0 16 = min 65535 (s.rf Reg.CLK_CNT 0 16 + 1)) ∧
    (∀ r25, ∃ u, exec (.refclkReturn t r25) s = .next u ∧ u.flag Reg.CLK_STAT 2 = true ∧ u.sys.refPresent = true ∧ u.sys.ref25 = r25 ∧
      u.rf Reg.CLK_STAT 0 2 = if s.rf Reg.CLK_CFG 0 2 = 0 then (if r25 then 0 else 1) else if s.sys.tcxoGood then 2 else 3) ∧
    (s.sys.tcxoGood = true → s.rf Reg.CLK_STAT 0 2 = 2 → s.sys.refPresent = false ∨ s.rf Reg.CLK_CFG 0 2 ≠ 0 →
      ∃ u, exec (.oscillatorFail t) s = .next u ∧ u.flag Reg.CLK_STAT 3 = true ∧ u.sys.tcxoGood = false ∧ u.rf Reg.CLK_STAT 0 2 = 3 ∧
        u.rf Reg.CLK_CNT 0 16 = min 65535 (s.rf Reg.CLK_CNT 0 16 + 1)) ∧
    (s.sys.tcxoGood = true → ∃ u, exec (.oscillatorFail t) s = .next u ∧ u.flag Reg.CLK_STAT 3 = true ∧ u.sys.tcxoGood = false ∧
      u.flag (Reg.FLT_SST 304) 0 = true ∧
      (s.sys.refPresent = true → s.rf Reg.CLK_CFG 0 2 = 0 → s.rf Reg.CLK_STAT 0 2 = (if s.sys.ref25 then 0 else 1) →
        u.rf Reg.CLK_STAT 0 2 = s.rf Reg.CLK_STAT 0 2 ∧ u.rf Reg.CLK_CNT 0 16 = s.rf Reg.CLK_CNT 0 16)) ∧
    (s.flag Reg.CLK_STAT 7 = true →
      ∃ u, exec (.pllUnlock t .gnss) s = .next u ∧ u.flag Reg.CLK_STAT 7 = false ∧ 305 ∈ u.flt.asserted ∧ u.sys = s.sys) ∧
    (s.flag Reg.CLK_STAT 6 = true →
      ∃ u, exec (.pllUnlock t .bus) s = .next u ∧ u.flag Reg.CLK_STAT 6 = false ∧ 305 ∈ u.flt.asserted ∧ u.sys = s.sys) ∧
    (∀ bus, s.flag Reg.CLK_STAT (if bus then 6 else 7) = false →
      ∃ u, exec (.pllRelock t bus) s = .next u ∧ u.flag Reg.CLK_STAT (if bus then 6 else 7) = true ∧
        (s.flag Reg.CLK_STAT (if bus then 7 else 6) = true → 305 ∉ u.flt.asserted) ∧
        (bus = false → ∀ n : Fin 288, n.val ∈ gListed s → gState s n = 2 ∨ gState s n = 3 → gState u n = 4) ∧
        (s.flag Reg.CLK_STAT (if bus then 7 else 6) = false → u.flt.asserted = s.flt.asserted))) ∧
  (∀ (s : State) (t : Nat), s.clocked = true → s.sys.variant = 1 →
    (∀ c ∈ [Instr.refclkLoss t, .refclkReturn t false, .refclkReturn t true, .oscillatorFail t, .pllUnlock t .gnss, .pllRelock t false],
      exec c s = .next s) ∧
    (s.flag Reg.CLK_STAT 6 = false → ∃ u, exec (.pllRelock t true) s = .next u ∧ u.flag Reg.CLK_STAT 6 = true ∧ 305 ∉ u.flt.asserted)) ∧
  (∀ (s : State) (t : Nat), s.clocked = true →
    ∃ u, exec (.sillOscillatorFault t) s = .next u ∧ u.flag Reg.SIL_STAT 2 = true ∧ u.sys = s.sys)

/-- The valid points of power die `k` (R499 to R501). -/
def Sys2Proof.Claims.validOf (s : State) (k : Nat) : List Nat :=
  (List.range 128).filter fun p => decide (dieOf p = k + 1) && !pointAbsent s p && !s.sys.tpBad.contains p

/-- R491 to R496, R500, R501, R505: a feed's new state, the source of the logic, and the sources a state asserts or releases (when limits are compared
and a point recovers is log entry 53, which point a raise names log entry 105); a declared
power-fail opens every isolator, empties the recorder queue and, with HOLD up, makes the Sill save; HOLD and the VIO rails are shown,
asserted while at fault and released after it, and with VIO_G at fault each fault pin reads as a low pin does and the test logic is reset (R517,
log entry 56); a low HOLD is a fault when it was up and a feed is NORMAL, or 50 ms after the start of BOOT; a failed temperature point is shown,
in FREEZE too (its raise waits there, log entry 88); and the temperature sources are asserted above their thresholds, of a point of the control
die or of the mean of the valid points of a power die, and released when everything that they supervise is 4 °C below them; failed points do not
count where valid ones are there. -/
def Obligations.SuppliesAndTemperatures : Prop :=
  (∀ (s : State) (t : Nat) (second : Bool) (st : FeedState) (v1 v2 : BitVec 16), supervised s = true →
    s.rf Reg.PWR_STAT (2 * b2n second) 2 ≠ st.code →
    ∃ u, exec (.feedStateChange t second st v1 v2) s = .next u ∧ u.rf Reg.PWR_STAT (2 * b2n second) 2 = st.code ∧
      u.rf Reg.PWR_STAT (2 * b2n (!second)) 2 = s.rf Reg.PWR_STAT (2 * b2n (!second)) 2 ∧
      u.rf Reg.PWR_STAT 4 2 = logicSource (u.rf Reg.PWR_STAT 0 2) (u.rf Reg.PWR_STAT 2 2) v1.toNat v2.toNat ∧
      (st = .ov → 298 + b2n second ∈ u.flt.asserted) ∧ (st ≠ .ov → s.rf Reg.PWR_STAT (2 * b2n second) 2 = 3 → 298 + b2n second ∉ u.flt.asserted) ∧
      (st = .crank → s.rf Reg.PWR_STAT (2 * b2n second) 2 ≠ 2 →
        u.rf Reg.PWR_CNT 16 16 = min 65535 (s.rf Reg.PWR_CNT 16 16 + 1)) ∧
      (st = .low → s.rf Reg.PWR_STAT (2 * b2n (!second)) 2 = 2 → u.sys.bothLow = some (s.at t).now)) ∧
  (∀ (s : State) (t : Nat) (drained : Bool), powerFailDue (s.at t) = true →
    ∃ u, exec (.powerFail t drained) s = .next u ∧ u.sys.powerFail = true ∧ u.rcd.queue = [] ∧ u.sys.saved = drained ∧
      (drained = true → u.sys.savedOptime = s.sys.optime) ∧ ∀ b < 12, (u.bank b).isoCmd = false) ∧
  (∀ (s : State) (t : Nat), supervised s = true →
    (∀ v, v.toNat ≤ 3000 → ∃ u, exec (.holdFault t v) s = .next u ∧ u.flag Reg.PWR_STAT 6 = false ∧
      (s.flag Reg.PWR_STAT 6 = true → s.rf Reg.PWR_STAT 0 2 = 0 ∨ s.rf Reg.PWR_STAT 2 2 = 0 →
        u.flag Reg.PWR_STAT 10 = true ∧ 301 ∈ u.flt.asserted) ∧
      (s.flag Reg.PWR_STAT 6 = false → s.sys.bootAt + 50000000 ≤ s.now → u.flag Reg.PWR_STAT 10 = true ∧ 301 ∈ u.flt.asserted) ∧
      (s.flag Reg.PWR_STAT 6 = false → (s.atRun t).now < s.sys.bootAt + 50000000 →
        u.flag Reg.PWR_STAT 10 = s.flag Reg.PWR_STAT 10 ∧ u.flt = s.flt)) ∧
    (∀ v, 3000 < v.toNat → exec (.holdFault t v) s = .next s) ∧
    (∃ u, exec (.holdCharged t) s = .next u ∧ u.flag Reg.PWR_STAT 6 = true ∧ 301 ∉ u.flt.asserted) ∧
    (∀ g v, vioBad v = true → ∃ u, exec (.vioFault t g v) s = .next u ∧ u.flag Reg.PWR_STAT (8 + b2n g) = true ∧
      302 + b2n g ∈ u.flt.asserted ∧ (if g then u.sys.viogFloat else u.sys.viohFloat) = true ∧
      (g = true → u.jtag = Jtag.reset ∧ ∀ n < 16, u.flag Reg.PWM_FLTLVL n = !s.flag Reg.PWM_FLTPOL n)) ∧
    (∀ g, ∃ u, exec (.vioRecovery t g) s = .next u ∧ 302 + b2n g ∉ u.flt.asserted ∧
      (if g then u.sys.viogFloat else u.sys.viohFloat) = false ∧ u.flag Reg.PWR_STAT (8 + b2n g) = s.flag Reg.PWR_STAT (8 + b2n g))) ∧
  (∀ (s : State) (t : Nat) (p : Fin 128) (r : Option (BitVec 16)), s.sys.mode ≠ .sill → s.sys.powerFail = false → pointAbsent s p = false →
    p.val ∉ s.sys.tpBad →
    ((∀ x, r = some x → x.toInt < -440 ∨ 1600 < x.toInt) → ∃ u, exec (.temperaturePointFail t ⟨p, r⟩) s = .next u ∧ p.val ∈ u.sys.tpBad ∧
      u.flag Reg.PWR_STAT 11 = true ∧ (s.sys.mode = .freeze → ∃ d, (315, d) ∈ u.flt.waiting)) ∧
    (∀ x, r = some x → -440 ≤ x.toInt → x.toInt ≤ 1600 → exec (.temperaturePointFail t ⟨p, r⟩) s = .next s)) ∧
  (∀ (s : State) (t : Nat) (x : List (BitVec 16)), s.sys.mode ≠ .sill → s.sys.powerFail = false →
    ((∃ p < 8, p ∉ s.sys.tpBad ∧ (s.rf Reg.PWR_TCFG 0 16 : Int) < (x.getD p 0).toInt) →
      ∃ u, exec (.temperatureWarning t none x) s = .next u ∧ 312 ∈ u.flt.asserted) ∧
    ((∃ p < 8, p ∉ s.sys.tpBad) → (∀ p < 8, p ∉ s.sys.tpBad → (x.getD p 0).toInt ≤ (s.rf Reg.PWR_TCFG 0 16 : Int)) →
      exec (.temperatureWarning t none x) s = .next s) ∧
    (∀ k : Fin 3, validOf s k ≠ [] →
      ((s.rf Reg.PWR_TCFG 0 16 : Int) * (validOf s k).length < ((validOf s k).map fun p => (x.getD p 0).toInt).sum →
        ∃ u, exec (.temperatureWarning t (some k) x) s = .next u ∧ 314 ∈ u.flt.asserted) ∧
      (((validOf s k).map fun p => (x.getD p 0).toInt).sum ≤ (s.rf Reg.PWR_TCFG 0 16 : Int) * (validOf s k).length →
        exec (.temperatureWarning t (some k) x) s = .next s)) ∧
    (s.sys.variant = 2 → exec (.temperatureWarning t (some 1) x) s = .next s) ∧
    ((∃ p < 8, p ∉ s.sys.tpBad ∧ 1200 < (x.getD p 0).toInt) →
      ∃ u, exec (.controlDieOvertemp t x) s = .next u ∧ 313 ∈ u.flt.asserted) ∧
    (∀ k : Fin 2, (∃ p < 8, p ∉ s.sys.tpBad) →
      ((∀ p < 8, p ∉ s.sys.tpBad → (x.getD p 0).toInt + 32 ≤ (if k = 1 then 1200 else (s.rf Reg.PWR_TCFG 0 16 : Int))) →
        ∃ u, exec (.temperatureRelease t ⟨k.castSucc, x⟩) s = .next u ∧ 312 + k.val ∉ u.flt.asserted ∧
          u.flag (Reg.FLT_SST (312 + k.val)) 1 = false) ∧
      ((∃ p < 8, p ∉ s.sys.tpBad ∧ (if k = 1 then 1200 else (s.rf Reg.PWR_TCFG 0 16 : Int)) < (x.getD p 0).toInt + 32) →
        exec (.temperatureRelease t ⟨k.castSucc, x⟩) s = .next s)) ∧
    ((∀ k : Fin 3, (s.sys.variant = 2 ∧ k = 1) ∨ validOf s k ≠ [] ∧
        ((validOf s k).map fun p => (x.getD p 0).toInt).sum ≤ ((s.rf Reg.PWR_TCFG 0 16 : Int) - 32) * (validOf s k).length) →
      ∃ u, exec (.temperatureRelease t ⟨2, x⟩) s = .next u ∧ 314 ∉ u.flt.asserted ∧ u.flag (Reg.FLT_SST 314) 1 = false))
end

