-- ==== Sys2Proof/Laws/SMap.lean ====
section
/-! SUPPORT. Laws of the sparse map: a read after a write, and that every write keeps the canonical form. -/
namespace Sys2Proof.Machine

variable {α : Type}

theorem SMap.get_insert_same (d : α) (m : SMap α) (k : Nat) (v : α) : SMap.get d (SMap.insert m k v) k = v := by
  induction m with
  | nil => simp [SMap.insert, SMap.get]
  | cons x m ih =>
    obtain ⟨a, w⟩ := x
    simp only [SMap.insert]
    split
    · simp [SMap.get]
    · split
      · simp [SMap.get]
      · simp [SMap.get, *]

theorem SMap.get_insert_ne (d : α) (m : SMap α) {k j : Nat} (v : α) (h : j ≠ k) :
    SMap.get d (SMap.insert m k v) j = SMap.get d m j := by
  induction m with
  | nil => simp [SMap.insert, SMap.get, h]
  | cons x m ih =>
    obtain ⟨a, w⟩ := x
    simp only [SMap.insert]
    split
    · simp [SMap.get, h]
    · split
      · subst a; simp [SMap.get, h]
      · simp only [SMap.get, ih]

theorem SMap.get_erase_same (d : α) (m : SMap α) (k : Nat) : SMap.get d (SMap.erase m k) k = d := by
  induction m with
  | nil => rfl
  | cons x m ih =>
    obtain ⟨a, w⟩ := x
    simp only [SMap.erase]
    split
    · exact ih
    · simp [SMap.get, *]

theorem SMap.get_erase_ne (d : α) (m : SMap α) {k j : Nat} (h : j ≠ k) : SMap.get d (SMap.erase m k) j = SMap.get d m j := by
  induction m with
  | nil => rfl
  | cons x m ih =>
    obtain ⟨a, w⟩ := x
    simp only [SMap.erase]
    split
    · subst a; simp [SMap.get, h, ih]
    · simp only [SMap.get, ih]

/-- A read of the key just written gives the value written. -/
@[simp] theorem SMap.get_set_same [DecidableEq α] (d : α) (m : SMap α) (k : Nat) (v : α) : SMap.get d (SMap.set d m k v) k = v := by
  unfold SMap.set
  split
  · subst v; exact SMap.get_erase_same d m k
  · exact SMap.get_insert_same d m k v

/-- A write leaves every other key alone. -/
theorem SMap.get_set_ne [DecidableEq α] (d d' : α) (m : SMap α) {k j : Nat} (v : α) (h : j ≠ k) :
    SMap.get d' (SMap.set d m k v) j = SMap.get d' m j := by
  unfold SMap.set
  split
  · exact SMap.get_erase_ne d' m h
  · exact SMap.get_insert_ne d' m v h

theorem SMap.above_trans {a b : Nat} (h : a < b) : ∀ {m : SMap α}, SMap.above b m → SMap.above a m
  | [], _ => rfl
  | (c, _) :: _, hb => by simp only [SMap.above, decide_eq_true_eq] at *; omega

theorem SMap.above_insert {a k : Nat} (v : α) (h : a < k) : ∀ {m : SMap α}, SMap.above a m → SMap.above a (SMap.insert m k v)
  | [], _ => by simp [SMap.insert, SMap.above, h]
  | (c, w) :: m, hm => by
    simp only [SMap.insert]
    split
    · simp [SMap.above, h]
    · split <;> simp_all [SMap.above]

theorem SMap.erase_of_above {k : Nat} [DecidableEq α] {d : Nat → α} : ∀ {m : SMap α}, SMap.above k m → SMap.wf d m → SMap.erase m k = m
  | [], _, _ => rfl
  | (c, w) :: m, ha, hw => by
    simp only [SMap.above, decide_eq_true_eq] at ha
    simp only [SMap.wf, Bool.and_eq_true] at hw
    have : k ≠ c := by omega
    simp only [SMap.erase, this, if_false, SMap.erase_of_above (SMap.above_trans ha hw.1.1) hw.2]

theorem SMap.above_erase {a k : Nat} [DecidableEq α] {d : Nat → α} : ∀ {m : SMap α}, SMap.above a m → SMap.wf d m → SMap.above a (SMap.erase m k)
  | [], _, _ => rfl
  | (c, w) :: m, ha, hw => by
    simp only [SMap.above, decide_eq_true_eq] at ha
    simp only [SMap.wf, Bool.and_eq_true] at hw
    simp only [SMap.erase]
    split
    · exact SMap.above_erase (SMap.above_trans ha hw.1.1) hw.2
    · simp [SMap.above, ha]

theorem SMap.wf_insert [DecidableEq α] {d : Nat → α} {k : Nat} {v : α} (hv : v ≠ d k) :
    ∀ {m : SMap α}, SMap.wf d m → SMap.wf d (SMap.insert m k v)
  | [], _ => by simp [SMap.insert, SMap.wf, SMap.above, hv]
  | (c, w) :: m, h => by
    simp only [SMap.wf, Bool.and_eq_true, decide_eq_true_eq] at h
    simp only [SMap.insert]
    split
    · simp only [SMap.wf, SMap.above, Bool.and_eq_true, decide_eq_true_eq]; exact ⟨⟨by assumption, hv⟩, h⟩
    · split
      · subst k; simp only [SMap.wf, Bool.and_eq_true, decide_eq_true_eq]; exact ⟨⟨h.1.1, hv⟩, h.2⟩
      · have : c < k := by omega
        simp only [SMap.wf, Bool.and_eq_true, decide_eq_true_eq]
        exact ⟨⟨SMap.above_insert v this h.1.1, h.1.2⟩, SMap.wf_insert hv h.2⟩

theorem SMap.wf_erase [DecidableEq α] {d : Nat → α} {k : Nat} : ∀ {m : SMap α}, SMap.wf d m → SMap.wf d (SMap.erase m k)
  | [], _ => rfl
  | (c, w) :: m, h => by
    simp only [SMap.wf, Bool.and_eq_true, decide_eq_true_eq] at h
    simp only [SMap.erase]
    split
    · exact SMap.wf_erase h.2
    · simp only [SMap.wf, Bool.and_eq_true, decide_eq_true_eq]
      exact ⟨⟨SMap.above_erase h.1.1 h.2, h.1.2⟩, SMap.wf_erase h.2⟩

/-- A write keeps the canonical form. -/
theorem SMap.wf_set [DecidableEq α] {d : Nat → α} {m : SMap α} (k : Nat) (v : α) (h : SMap.wf d m) : SMap.wf d (SMap.set (d k) m k v) := by
  unfold SMap.set
  split
  · exact SMap.wf_erase h
  · exact SMap.wf_insert (by assumption) h

end Sys2Proof.Machine
end

