-- ==== Sys2Proof/Laws/State.lean ====
section
/-! SUPPORT. What the basic updates of State leave alone, field by field, and what a register reads after a write. -/
namespace Sys2Proof.Machine

/-! `wr` changes `regs` only. -/

@[simp] theorem State.wr_pending (s : State) (a : Nat) (v : Word) : (s.wr a v).pending = s.pending := rfl
@[simp] theorem State.wr_frame (s : State) (a : Nat) (v : Word) : (s.wr a v).frame = s.frame := rfl
@[simp] theorem State.wr_edge (s : State) (a : Nat) (v : Word) : (s.wr a v).edge = s.edge := rfl
@[simp] theorem State.wr_closed (s : State) (a : Nat) (v : Word) : (s.wr a v).closed = s.closed := rfl
@[simp] theorem State.wr_base (s : State) (a : Nat) (v : Word) : (s.wr a v).base = s.base := rfl
@[simp] theorem State.wr_free (s : State) (a : Nat) (v : Word) : (s.wr a v).free = s.free := rfl
@[simp] theorem State.wr_stNext (s : State) (a : Nat) (v : Word) : (s.wr a v).stNext = s.stNext := rfl
@[simp] theorem State.wr_stAfter (s : State) (a : Nat) (v : Word) : (s.wr a v).stAfter = s.stAfter := rfl
@[simp] theorem State.wr_image (s : State) (a : Nat) (v : Word) : (s.wr a v).image = s.image := rfl
@[simp] theorem State.wr_capt (s : State) (a : Nat) (v : Word) : (s.wr a v).capt = s.capt := rfl
@[simp] theorem State.wr_inrec (s : State) (a : Nat) (v : Word) : (s.wr a v).inrec = s.inrec := rfl
@[simp] theorem State.wr_fmem (s : State) (a : Nat) (v : Word) : (s.wr a v).fmem = s.fmem := rfl
@[simp] theorem State.wr_fmemTag (s : State) (a : Nat) (v : Word) : (s.wr a v).fmemTag = s.fmemTag := rfl
@[simp] theorem State.wr_dram (s : State) (a : Nat) (v : Word) : (s.wr a v).dram = s.dram := rfl
@[simp] theorem State.wr_dramBad (s : State) (a : Nat) (v : Word) : (s.wr a v).dramBad = s.dramBad := rfl
@[simp] theorem State.wr_mramBad (s : State) (a : Nat) (v : Word) : (s.wr a v).mramBad = s.mramBad := rfl
@[simp] theorem State.wr_sys (s : State) (a : Nat) (v : Word) : (s.wr a v).sys = s.sys := rfl
@[simp] theorem State.wr_jtag (s : State) (a : Nat) (v : Word) : (s.wr a v).jtag = s.jtag := rfl
@[simp] theorem State.wr_eng (s : State) (a : Nat) (v : Word) : (s.wr a v).eng = s.eng := rfl
@[simp] theorem State.wr_txn (s : State) (a : Nat) (v : Word) : (s.wr a v).txn = s.txn := rfl
@[simp] theorem State.wr_sched (s : State) (a : Nat) (v : Word) : (s.wr a v).sched = s.sched := rfl
@[simp] theorem State.wr_prog (s : State) (a : Nat) (v : Word) : (s.wr a v).prog = s.prog := rfl
@[simp] theorem State.wr_mot (s : State) (a : Nat) (v : Word) : (s.wr a v).mot = s.mot := rfl
@[simp] theorem State.wr_pwm (s : State) (a : Nat) (v : Word) : (s.wr a v).pwm = s.pwm := rfl
@[simp] theorem State.wr_lsw (s : State) (a : Nat) (v : Word) : (s.wr a v).lsw = s.lsw := rfl
@[simp] theorem State.wr_gauge (s : State) (a : Nat) (v : Word) : (s.wr a v).gauge = s.gauge := rfl
@[simp] theorem State.wr_scr (s : State) (a : Nat) (v : Word) : (s.wr a v).scr = s.scr := rfl
@[simp] theorem State.wr_flt (s : State) (a : Nat) (v : Word) : (s.wr a v).flt = s.flt := rfl
@[simp] theorem State.wr_rcd (s : State) (a : Nat) (v : Word) : (s.wr a v).rcd = s.rcd := rfl
@[simp] theorem State.wr_adc (s : State) (a : Nat) (v : Word) : (s.wr a v).adc = s.adc := rfl
@[simp] theorem State.wr_gns (s : State) (a : Nat) (v : Word) : (s.wr a v).gns = s.gns := rfl
@[simp] theorem State.wr_imu (s : State) (a : Nat) (v : Word) : (s.wr a v).imu = s.imu := rfl
@[simp] theorem State.wr_bus (s : State) (a : Nat) (v : Word) : (s.wr a v).bus = s.bus := rfl
@[simp] theorem State.wr_hp (s : State) (a : Nat) (v : Word) : (s.wr a v).hp = s.hp := rfl
@[simp] theorem State.wr_tru (s : State) (a : Nat) (v : Word) : (s.wr a v).tru = s.tru := rfl
@[simp] theorem State.wr_jrn (s : State) (a : Nat) (v : Word) : (s.wr a v).jrn = s.jrn := rfl
@[simp] theorem State.wr_peg (s : State) (a : Nat) (v : Word) : (s.wr a v).peg = s.peg := rfl

/-! `setFld` changes `regs` only. -/

@[simp] theorem State.setFld_pending (s : State) (a lo n v : Nat) : (s.setFld a lo n v).pending = s.pending := rfl
@[simp] theorem State.setFld_frame (s : State) (a lo n v : Nat) : (s.setFld a lo n v).frame = s.frame := rfl
@[simp] theorem State.setFld_edge (s : State) (a lo n v : Nat) : (s.setFld a lo n v).edge = s.edge := rfl
@[simp] theorem State.setFld_closed (s : State) (a lo n v : Nat) : (s.setFld a lo n v).closed = s.closed := rfl
@[simp] theorem State.setFld_base (s : State) (a lo n v : Nat) : (s.setFld a lo n v).base = s.base := rfl
@[simp] theorem State.setFld_free (s : State) (a lo n v : Nat) : (s.setFld a lo n v).free = s.free := rfl
@[simp] theorem State.setFld_stNext (s : State) (a lo n v : Nat) : (s.setFld a lo n v).stNext = s.stNext := rfl
@[simp] theorem State.setFld_stAfter (s : State) (a lo n v : Nat) : (s.setFld a lo n v).stAfter = s.stAfter := rfl
@[simp] theorem State.setFld_image (s : State) (a lo n v : Nat) : (s.setFld a lo n v).image = s.image := rfl
@[simp] theorem State.setFld_capt (s : State) (a lo n v : Nat) : (s.setFld a lo n v).capt = s.capt := rfl
@[simp] theorem State.setFld_inrec (s : State) (a lo n v : Nat) : (s.setFld a lo n v).inrec = s.inrec := rfl
@[simp] theorem State.setFld_fmem (s : State) (a lo n v : Nat) : (s.setFld a lo n v).fmem = s.fmem := rfl
@[simp] theorem State.setFld_fmemTag (s : State) (a lo n v : Nat) : (s.setFld a lo n v).fmemTag = s.fmemTag := rfl
@[simp] theorem State.setFld_dram (s : State) (a lo n v : Nat) : (s.setFld a lo n v).dram = s.dram := rfl
@[simp] theorem State.setFld_dramBad (s : State) (a lo n v : Nat) : (s.setFld a lo n v).dramBad = s.dramBad := rfl
@[simp] theorem State.setFld_mramBad (s : State) (a lo n v : Nat) : (s.setFld a lo n v).mramBad = s.mramBad := rfl
@[simp] theorem State.setFld_sys (s : State) (a lo n v : Nat) : (s.setFld a lo n v).sys = s.sys := rfl
@[simp] theorem State.setFld_jtag (s : State) (a lo n v : Nat) : (s.setFld a lo n v).jtag = s.jtag := rfl
@[simp] theorem State.setFld_eng (s : State) (a lo n v : Nat) : (s.setFld a lo n v).eng = s.eng := rfl
@[simp] theorem State.setFld_txn (s : State) (a lo n v : Nat) : (s.setFld a lo n v).txn = s.txn := rfl
@[simp] theorem State.setFld_sched (s : State) (a lo n v : Nat) : (s.setFld a lo n v).sched = s.sched := rfl
@[simp] theorem State.setFld_prog (s : State) (a lo n v : Nat) : (s.setFld a lo n v).prog = s.prog := rfl
@[simp] theorem State.setFld_mot (s : State) (a lo n v : Nat) : (s.setFld a lo n v).mot = s.mot := rfl
@[simp] theorem State.setFld_pwm (s : State) (a lo n v : Nat) : (s.setFld a lo n v).pwm = s.pwm := rfl
@[simp] theorem State.setFld_lsw (s : State) (a lo n v : Nat) : (s.setFld a lo n v).lsw = s.lsw := rfl
@[simp] theorem State.setFld_gauge (s : State) (a lo n v : Nat) : (s.setFld a lo n v).gauge = s.gauge := rfl
@[simp] theorem State.setFld_scr (s : State) (a lo n v : Nat) : (s.setFld a lo n v).scr = s.scr := rfl
@[simp] theorem State.setFld_flt (s : State) (a lo n v : Nat) : (s.setFld a lo n v).flt = s.flt := rfl
@[simp] theorem State.setFld_rcd (s : State) (a lo n v : Nat) : (s.setFld a lo n v).rcd = s.rcd := rfl
@[simp] theorem State.setFld_adc (s : State) (a lo n v : Nat) : (s.setFld a lo n v).adc = s.adc := rfl
@[simp] theorem State.setFld_gns (s : State) (a lo n v : Nat) : (s.setFld a lo n v).gns = s.gns := rfl
@[simp] theorem State.setFld_imu (s : State) (a lo n v : Nat) : (s.setFld a lo n v).imu = s.imu := rfl
@[simp] theorem State.setFld_bus (s : State) (a lo n v : Nat) : (s.setFld a lo n v).bus = s.bus := rfl
@[simp] theorem State.setFld_hp (s : State) (a lo n v : Nat) : (s.setFld a lo n v).hp = s.hp := rfl
@[simp] theorem State.setFld_tru (s : State) (a lo n v : Nat) : (s.setFld a lo n v).tru = s.tru := rfl
@[simp] theorem State.setFld_jrn (s : State) (a lo n v : Nat) : (s.setFld a lo n v).jrn = s.jrn := rfl
@[simp] theorem State.setFld_peg (s : State) (a lo n v : Nat) : (s.setFld a lo n v).peg = s.peg := rfl

/-! `setFlag` changes `regs` only. -/

@[simp] theorem State.setFlag_pending (s : State) (a i : Nat) (b : Bool) : (s.setFlag a i b).pending = s.pending := rfl
@[simp] theorem State.setFlag_frame (s : State) (a i : Nat) (b : Bool) : (s.setFlag a i b).frame = s.frame := rfl
@[simp] theorem State.setFlag_edge (s : State) (a i : Nat) (b : Bool) : (s.setFlag a i b).edge = s.edge := rfl
@[simp] theorem State.setFlag_closed (s : State) (a i : Nat) (b : Bool) : (s.setFlag a i b).closed = s.closed := rfl
@[simp] theorem State.setFlag_base (s : State) (a i : Nat) (b : Bool) : (s.setFlag a i b).base = s.base := rfl
@[simp] theorem State.setFlag_free (s : State) (a i : Nat) (b : Bool) : (s.setFlag a i b).free = s.free := rfl
@[simp] theorem State.setFlag_stNext (s : State) (a i : Nat) (b : Bool) : (s.setFlag a i b).stNext = s.stNext := rfl
@[simp] theorem State.setFlag_stAfter (s : State) (a i : Nat) (b : Bool) : (s.setFlag a i b).stAfter = s.stAfter := rfl
@[simp] theorem State.setFlag_image (s : State) (a i : Nat) (b : Bool) : (s.setFlag a i b).image = s.image := rfl
@[simp] theorem State.setFlag_capt (s : State) (a i : Nat) (b : Bool) : (s.setFlag a i b).capt = s.capt := rfl
@[simp] theorem State.setFlag_inrec (s : State) (a i : Nat) (b : Bool) : (s.setFlag a i b).inrec = s.inrec := rfl
@[simp] theorem State.setFlag_fmem (s : State) (a i : Nat) (b : Bool) : (s.setFlag a i b).fmem = s.fmem := rfl
@[simp] theorem State.setFlag_fmemTag (s : State) (a i : Nat) (b : Bool) : (s.setFlag a i b).fmemTag = s.fmemTag := rfl
@[simp] theorem State.setFlag_dram (s : State) (a i : Nat) (b : Bool) : (s.setFlag a i b).dram = s.dram := rfl
@[simp] theorem State.setFlag_dramBad (s : State) (a i : Nat) (b : Bool) : (s.setFlag a i b).dramBad = s.dramBad := rfl
@[simp] theorem State.setFlag_mramBad (s : State) (a i : Nat) (b : Bool) : (s.setFlag a i b).mramBad = s.mramBad := rfl
@[simp] theorem State.setFlag_sys (s : State) (a i : Nat) (b : Bool) : (s.setFlag a i b).sys = s.sys := rfl
@[simp] theorem State.setFlag_jtag (s : State) (a i : Nat) (b : Bool) : (s.setFlag a i b).jtag = s.jtag := rfl
@[simp] theorem State.setFlag_eng (s : State) (a i : Nat) (b : Bool) : (s.setFlag a i b).eng = s.eng := rfl
@[simp] theorem State.setFlag_txn (s : State) (a i : Nat) (b : Bool) : (s.setFlag a i b).txn = s.txn := rfl
@[simp] theorem State.setFlag_sched (s : State) (a i : Nat) (b : Bool) : (s.setFlag a i b).sched = s.sched := rfl
@[simp] theorem State.setFlag_prog (s : State) (a i : Nat) (b : Bool) : (s.setFlag a i b).prog = s.prog := rfl
@[simp] theorem State.setFlag_mot (s : State) (a i : Nat) (b : Bool) : (s.setFlag a i b).mot = s.mot := rfl
@[simp] theorem State.setFlag_pwm (s : State) (a i : Nat) (b : Bool) : (s.setFlag a i b).pwm = s.pwm := rfl
@[simp] theorem State.setFlag_lsw (s : State) (a i : Nat) (b : Bool) : (s.setFlag a i b).lsw = s.lsw := rfl
@[simp] theorem State.setFlag_gauge (s : State) (a i : Nat) (b : Bool) : (s.setFlag a i b).gauge = s.gauge := rfl
@[simp] theorem State.setFlag_scr (s : State) (a i : Nat) (b : Bool) : (s.setFlag a i b).scr = s.scr := rfl
@[simp] theorem State.setFlag_flt (s : State) (a i : Nat) (b : Bool) : (s.setFlag a i b).flt = s.flt := rfl
@[simp] theorem State.setFlag_rcd (s : State) (a i : Nat) (b : Bool) : (s.setFlag a i b).rcd = s.rcd := rfl
@[simp] theorem State.setFlag_adc (s : State) (a i : Nat) (b : Bool) : (s.setFlag a i b).adc = s.adc := rfl
@[simp] theorem State.setFlag_gns (s : State) (a i : Nat) (b : Bool) : (s.setFlag a i b).gns = s.gns := rfl
@[simp] theorem State.setFlag_imu (s : State) (a i : Nat) (b : Bool) : (s.setFlag a i b).imu = s.imu := rfl
@[simp] theorem State.setFlag_bus (s : State) (a i : Nat) (b : Bool) : (s.setFlag a i b).bus = s.bus := rfl
@[simp] theorem State.setFlag_hp (s : State) (a i : Nat) (b : Bool) : (s.setFlag a i b).hp = s.hp := rfl
@[simp] theorem State.setFlag_tru (s : State) (a i : Nat) (b : Bool) : (s.setFlag a i b).tru = s.tru := rfl
@[simp] theorem State.setFlag_jrn (s : State) (a i : Nat) (b : Bool) : (s.setFlag a i b).jrn = s.jrn := rfl
@[simp] theorem State.setFlag_peg (s : State) (a i : Nat) (b : Bool) : (s.setFlag a i b).peg = s.peg := rfl

/-! `count` changes `regs` only. -/

@[simp] theorem State.count_pending (s : State) (a lo n k : Nat) : (s.count a lo n k).pending = s.pending := rfl
@[simp] theorem State.count_frame (s : State) (a lo n k : Nat) : (s.count a lo n k).frame = s.frame := rfl
@[simp] theorem State.count_edge (s : State) (a lo n k : Nat) : (s.count a lo n k).edge = s.edge := rfl
@[simp] theorem State.count_closed (s : State) (a lo n k : Nat) : (s.count a lo n k).closed = s.closed := rfl
@[simp] theorem State.count_base (s : State) (a lo n k : Nat) : (s.count a lo n k).base = s.base := rfl
@[simp] theorem State.count_free (s : State) (a lo n k : Nat) : (s.count a lo n k).free = s.free := rfl
@[simp] theorem State.count_stNext (s : State) (a lo n k : Nat) : (s.count a lo n k).stNext = s.stNext := rfl
@[simp] theorem State.count_stAfter (s : State) (a lo n k : Nat) : (s.count a lo n k).stAfter = s.stAfter := rfl
@[simp] theorem State.count_image (s : State) (a lo n k : Nat) : (s.count a lo n k).image = s.image := rfl
@[simp] theorem State.count_capt (s : State) (a lo n k : Nat) : (s.count a lo n k).capt = s.capt := rfl
@[simp] theorem State.count_inrec (s : State) (a lo n k : Nat) : (s.count a lo n k).inrec = s.inrec := rfl
@[simp] theorem State.count_fmem (s : State) (a lo n k : Nat) : (s.count a lo n k).fmem = s.fmem := rfl
@[simp] theorem State.count_fmemTag (s : State) (a lo n k : Nat) : (s.count a lo n k).fmemTag = s.fmemTag := rfl
@[simp] theorem State.count_dram (s : State) (a lo n k : Nat) : (s.count a lo n k).dram = s.dram := rfl
@[simp] theorem State.count_dramBad (s : State) (a lo n k : Nat) : (s.count a lo n k).dramBad = s.dramBad := rfl
@[simp] theorem State.count_mramBad (s : State) (a lo n k : Nat) : (s.count a lo n k).mramBad = s.mramBad := rfl
@[simp] theorem State.count_sys (s : State) (a lo n k : Nat) : (s.count a lo n k).sys = s.sys := rfl
@[simp] theorem State.count_jtag (s : State) (a lo n k : Nat) : (s.count a lo n k).jtag = s.jtag := rfl
@[simp] theorem State.count_eng (s : State) (a lo n k : Nat) : (s.count a lo n k).eng = s.eng := rfl
@[simp] theorem State.count_txn (s : State) (a lo n k : Nat) : (s.count a lo n k).txn = s.txn := rfl
@[simp] theorem State.count_sched (s : State) (a lo n k : Nat) : (s.count a lo n k).sched = s.sched := rfl
@[simp] theorem State.count_prog (s : State) (a lo n k : Nat) : (s.count a lo n k).prog = s.prog := rfl
@[simp] theorem State.count_mot (s : State) (a lo n k : Nat) : (s.count a lo n k).mot = s.mot := rfl
@[simp] theorem State.count_pwm (s : State) (a lo n k : Nat) : (s.count a lo n k).pwm = s.pwm := rfl
@[simp] theorem State.count_lsw (s : State) (a lo n k : Nat) : (s.count a lo n k).lsw = s.lsw := rfl
@[simp] theorem State.count_gauge (s : State) (a lo n k : Nat) : (s.count a lo n k).gauge = s.gauge := rfl
@[simp] theorem State.count_scr (s : State) (a lo n k : Nat) : (s.count a lo n k).scr = s.scr := rfl
@[simp] theorem State.count_flt (s : State) (a lo n k : Nat) : (s.count a lo n k).flt = s.flt := rfl
@[simp] theorem State.count_rcd (s : State) (a lo n k : Nat) : (s.count a lo n k).rcd = s.rcd := rfl
@[simp] theorem State.count_adc (s : State) (a lo n k : Nat) : (s.count a lo n k).adc = s.adc := rfl
@[simp] theorem State.count_gns (s : State) (a lo n k : Nat) : (s.count a lo n k).gns = s.gns := rfl
@[simp] theorem State.count_imu (s : State) (a lo n k : Nat) : (s.count a lo n k).imu = s.imu := rfl
@[simp] theorem State.count_bus (s : State) (a lo n k : Nat) : (s.count a lo n k).bus = s.bus := rfl
@[simp] theorem State.count_hp (s : State) (a lo n k : Nat) : (s.count a lo n k).hp = s.hp := rfl
@[simp] theorem State.count_tru (s : State) (a lo n k : Nat) : (s.count a lo n k).tru = s.tru := rfl
@[simp] theorem State.count_jrn (s : State) (a lo n k : Nat) : (s.count a lo n k).jrn = s.jrn := rfl
@[simp] theorem State.count_peg (s : State) (a lo n k : Nat) : (s.count a lo n k).peg = s.peg := rfl

/-! `at` changes `edge` only. -/

@[simp] theorem State.at_pending (s : State) (t : Nat) : (s.at t).pending = s.pending := by unfold State.at; split <;> rfl
@[simp] theorem State.at_frame (s : State) (t : Nat) : (s.at t).frame = s.frame := by unfold State.at; split <;> rfl
@[simp] theorem State.at_closed (s : State) (t : Nat) : (s.at t).closed = s.closed := by unfold State.at; split <;> rfl
@[simp] theorem State.at_base (s : State) (t : Nat) : (s.at t).base = s.base := by unfold State.at; split <;> rfl
@[simp] theorem State.at_free (s : State) (t : Nat) : (s.at t).free = s.free := by unfold State.at; split <;> rfl
@[simp] theorem State.at_regs (s : State) (t : Nat) : (s.at t).regs = s.regs := by unfold State.at; split <;> rfl
@[simp] theorem State.at_stNext (s : State) (t : Nat) : (s.at t).stNext = s.stNext := by unfold State.at; split <;> rfl
@[simp] theorem State.at_stAfter (s : State) (t : Nat) : (s.at t).stAfter = s.stAfter := by unfold State.at; split <;> rfl
@[simp] theorem State.at_image (s : State) (t : Nat) : (s.at t).image = s.image := by unfold State.at; split <;> rfl
@[simp] theorem State.at_capt (s : State) (t : Nat) : (s.at t).capt = s.capt := by unfold State.at; split <;> rfl
@[simp] theorem State.at_inrec (s : State) (t : Nat) : (s.at t).inrec = s.inrec := by unfold State.at; split <;> rfl
@[simp] theorem State.at_fmem (s : State) (t : Nat) : (s.at t).fmem = s.fmem := by unfold State.at; split <;> rfl
@[simp] theorem State.at_fmemTag (s : State) (t : Nat) : (s.at t).fmemTag = s.fmemTag := by unfold State.at; split <;> rfl
@[simp] theorem State.at_dram (s : State) (t : Nat) : (s.at t).dram = s.dram := by unfold State.at; split <;> rfl
@[simp] theorem State.at_dramBad (s : State) (t : Nat) : (s.at t).dramBad = s.dramBad := by unfold State.at; split <;> rfl
@[simp] theorem State.at_mramBad (s : State) (t : Nat) : (s.at t).mramBad = s.mramBad := by unfold State.at; split <;> rfl
@[simp] theorem State.at_sys (s : State) (t : Nat) : (s.at t).sys = s.sys := by unfold State.at; split <;> rfl
@[simp] theorem State.at_jtag (s : State) (t : Nat) : (s.at t).jtag = s.jtag := by unfold State.at; split <;> rfl
@[simp] theorem State.at_eng (s : State) (t : Nat) : (s.at t).eng = s.eng := by unfold State.at; split <;> rfl
@[simp] theorem State.at_txn (s : State) (t : Nat) : (s.at t).txn = s.txn := by unfold State.at; split <;> rfl
@[simp] theorem State.at_sched (s : State) (t : Nat) : (s.at t).sched = s.sched := by unfold State.at; split <;> rfl
@[simp] theorem State.at_prog (s : State) (t : Nat) : (s.at t).prog = s.prog := by unfold State.at; split <;> rfl
@[simp] theorem State.at_mot (s : State) (t : Nat) : (s.at t).mot = s.mot := by unfold State.at; split <;> rfl
@[simp] theorem State.at_pwm (s : State) (t : Nat) : (s.at t).pwm = s.pwm := by unfold State.at; split <;> rfl
@[simp] theorem State.at_lsw (s : State) (t : Nat) : (s.at t).lsw = s.lsw := by unfold State.at; split <;> rfl
@[simp] theorem State.at_gauge (s : State) (t : Nat) : (s.at t).gauge = s.gauge := by unfold State.at; split <;> rfl
@[simp] theorem State.at_scr (s : State) (t : Nat) : (s.at t).scr = s.scr := by unfold State.at; split <;> rfl
@[simp] theorem State.at_flt (s : State) (t : Nat) : (s.at t).flt = s.flt := by unfold State.at; split <;> rfl
@[simp] theorem State.at_rcd (s : State) (t : Nat) : (s.at t).rcd = s.rcd := by unfold State.at; split <;> rfl
@[simp] theorem State.at_adc (s : State) (t : Nat) : (s.at t).adc = s.adc := by unfold State.at; split <;> rfl
@[simp] theorem State.at_gns (s : State) (t : Nat) : (s.at t).gns = s.gns := by unfold State.at; split <;> rfl
@[simp] theorem State.at_imu (s : State) (t : Nat) : (s.at t).imu = s.imu := by unfold State.at; split <;> rfl
@[simp] theorem State.at_bus (s : State) (t : Nat) : (s.at t).bus = s.bus := by unfold State.at; split <;> rfl
@[simp] theorem State.at_hp (s : State) (t : Nat) : (s.at t).hp = s.hp := by unfold State.at; split <;> rfl
@[simp] theorem State.at_tru (s : State) (t : Nat) : (s.at t).tru = s.tru := by unfold State.at; split <;> rfl
@[simp] theorem State.at_jrn (s : State) (t : Nat) : (s.at t).jrn = s.jrn := by unfold State.at; split <;> rfl
@[simp] theorem State.at_peg (s : State) (t : Nat) : (s.at t).peg = s.peg := by unfold State.at; split <;> rfl

/-! `spend` changes `free` only. -/

@[simp] theorem State.spend_pending (s : State)  : (s.spend ).pending = s.pending := rfl
@[simp] theorem State.spend_frame (s : State)  : (s.spend ).frame = s.frame := rfl
@[simp] theorem State.spend_edge (s : State)  : (s.spend ).edge = s.edge := rfl
@[simp] theorem State.spend_closed (s : State)  : (s.spend ).closed = s.closed := rfl
@[simp] theorem State.spend_base (s : State)  : (s.spend ).base = s.base := rfl
@[simp] theorem State.spend_regs (s : State)  : (s.spend ).regs = s.regs := rfl
@[simp] theorem State.spend_stNext (s : State)  : (s.spend ).stNext = s.stNext := rfl
@[simp] theorem State.spend_stAfter (s : State)  : (s.spend ).stAfter = s.stAfter := rfl
@[simp] theorem State.spend_image (s : State)  : (s.spend ).image = s.image := rfl
@[simp] theorem State.spend_capt (s : State)  : (s.spend ).capt = s.capt := rfl
@[simp] theorem State.spend_inrec (s : State)  : (s.spend ).inrec = s.inrec := rfl
@[simp] theorem State.spend_fmem (s : State)  : (s.spend ).fmem = s.fmem := rfl
@[simp] theorem State.spend_fmemTag (s : State)  : (s.spend ).fmemTag = s.fmemTag := rfl
@[simp] theorem State.spend_dram (s : State)  : (s.spend ).dram = s.dram := rfl
@[simp] theorem State.spend_dramBad (s : State)  : (s.spend ).dramBad = s.dramBad := rfl
@[simp] theorem State.spend_mramBad (s : State)  : (s.spend ).mramBad = s.mramBad := rfl
@[simp] theorem State.spend_sys (s : State)  : (s.spend ).sys = s.sys := rfl
@[simp] theorem State.spend_jtag (s : State)  : (s.spend ).jtag = s.jtag := rfl
@[simp] theorem State.spend_eng (s : State)  : (s.spend ).eng = s.eng := rfl
@[simp] theorem State.spend_txn (s : State)  : (s.spend ).txn = s.txn := rfl
@[simp] theorem State.spend_sched (s : State)  : (s.spend ).sched = s.sched := rfl
@[simp] theorem State.spend_prog (s : State)  : (s.spend ).prog = s.prog := rfl
@[simp] theorem State.spend_mot (s : State)  : (s.spend ).mot = s.mot := rfl
@[simp] theorem State.spend_pwm (s : State)  : (s.spend ).pwm = s.pwm := rfl
@[simp] theorem State.spend_lsw (s : State)  : (s.spend ).lsw = s.lsw := rfl
@[simp] theorem State.spend_gauge (s : State)  : (s.spend ).gauge = s.gauge := rfl
@[simp] theorem State.spend_scr (s : State)  : (s.spend ).scr = s.scr := rfl
@[simp] theorem State.spend_flt (s : State)  : (s.spend ).flt = s.flt := rfl
@[simp] theorem State.spend_rcd (s : State)  : (s.spend ).rcd = s.rcd := rfl
@[simp] theorem State.spend_adc (s : State)  : (s.spend ).adc = s.adc := rfl
@[simp] theorem State.spend_gns (s : State)  : (s.spend ).gns = s.gns := rfl
@[simp] theorem State.spend_imu (s : State)  : (s.spend ).imu = s.imu := rfl
@[simp] theorem State.spend_bus (s : State)  : (s.spend ).bus = s.bus := rfl
@[simp] theorem State.spend_hp (s : State)  : (s.spend ).hp = s.hp := rfl
@[simp] theorem State.spend_tru (s : State)  : (s.spend ).tru = s.tru := rfl
@[simp] theorem State.spend_jrn (s : State)  : (s.spend ).jrn = s.jrn := rfl
@[simp] theorem State.spend_peg (s : State)  : (s.spend ).peg = s.peg := rfl

/-! `setEn` changes `eng` only. -/

@[simp] theorem State.setEn_pending (s : State) (e : Nat) (x : Eng) : (s.setEn e x).pending = s.pending := rfl
@[simp] theorem State.setEn_frame (s : State) (e : Nat) (x : Eng) : (s.setEn e x).frame = s.frame := rfl
@[simp] theorem State.setEn_edge (s : State) (e : Nat) (x : Eng) : (s.setEn e x).edge = s.edge := rfl
@[simp] theorem State.setEn_closed (s : State) (e : Nat) (x : Eng) : (s.setEn e x).closed = s.closed := rfl
@[simp] theorem State.setEn_base (s : State) (e : Nat) (x : Eng) : (s.setEn e x).base = s.base := rfl
@[simp] theorem State.setEn_free (s : State) (e : Nat) (x : Eng) : (s.setEn e x).free = s.free := rfl
@[simp] theorem State.setEn_regs (s : State) (e : Nat) (x : Eng) : (s.setEn e x).regs = s.regs := rfl
@[simp] theorem State.setEn_stNext (s : State) (e : Nat) (x : Eng) : (s.setEn e x).stNext = s.stNext := rfl
@[simp] theorem State.setEn_stAfter (s : State) (e : Nat) (x : Eng) : (s.setEn e x).stAfter = s.stAfter := rfl
@[simp] theorem State.setEn_image (s : State) (e : Nat) (x : Eng) : (s.setEn e x).image = s.image := rfl
@[simp] theorem State.setEn_capt (s : State) (e : Nat) (x : Eng) : (s.setEn e x).capt = s.capt := rfl
@[simp] theorem State.setEn_inrec (s : State) (e : Nat) (x : Eng) : (s.setEn e x).inrec = s.inrec := rfl
@[simp] theorem State.setEn_fmem (s : State) (e : Nat) (x : Eng) : (s.setEn e x).fmem = s.fmem := rfl
@[simp] theorem State.setEn_fmemTag (s : State) (e : Nat) (x : Eng) : (s.setEn e x).fmemTag = s.fmemTag := rfl
@[simp] theorem State.setEn_dram (s : State) (e : Nat) (x : Eng) : (s.setEn e x).dram = s.dram := rfl
@[simp] theorem State.setEn_dramBad (s : State) (e : Nat) (x : Eng) : (s.setEn e x).dramBad = s.dramBad := rfl
@[simp] theorem State.setEn_mramBad (s : State) (e : Nat) (x : Eng) : (s.setEn e x).mramBad = s.mramBad := rfl
@[simp] theorem State.setEn_sys (s : State) (e : Nat) (x : Eng) : (s.setEn e x).sys = s.sys := rfl
@[simp] theorem State.setEn_jtag (s : State) (e : Nat) (x : Eng) : (s.setEn e x).jtag = s.jtag := rfl
@[simp] theorem State.setEn_txn (s : State) (e : Nat) (x : Eng) : (s.setEn e x).txn = s.txn := rfl
@[simp] theorem State.setEn_sched (s : State) (e : Nat) (x : Eng) : (s.setEn e x).sched = s.sched := rfl
@[simp] theorem State.setEn_prog (s : State) (e : Nat) (x : Eng) : (s.setEn e x).prog = s.prog := rfl
@[simp] theorem State.setEn_mot (s : State) (e : Nat) (x : Eng) : (s.setEn e x).mot = s.mot := rfl
@[simp] theorem State.setEn_pwm (s : State) (e : Nat) (x : Eng) : (s.setEn e x).pwm = s.pwm := rfl
@[simp] theorem State.setEn_lsw (s : State) (e : Nat) (x : Eng) : (s.setEn e x).lsw = s.lsw := rfl
@[simp] theorem State.setEn_gauge (s : State) (e : Nat) (x : Eng) : (s.setEn e x).gauge = s.gauge := rfl
@[simp] theorem State.setEn_scr (s : State) (e : Nat) (x : Eng) : (s.setEn e x).scr = s.scr := rfl
@[simp] theorem State.setEn_flt (s : State) (e : Nat) (x : Eng) : (s.setEn e x).flt = s.flt := rfl
@[simp] theorem State.setEn_rcd (s : State) (e : Nat) (x : Eng) : (s.setEn e x).rcd = s.rcd := rfl
@[simp] theorem State.setEn_adc (s : State) (e : Nat) (x : Eng) : (s.setEn e x).adc = s.adc := rfl
@[simp] theorem State.setEn_gns (s : State) (e : Nat) (x : Eng) : (s.setEn e x).gns = s.gns := rfl
@[simp] theorem State.setEn_imu (s : State) (e : Nat) (x : Eng) : (s.setEn e x).imu = s.imu := rfl
@[simp] theorem State.setEn_bus (s : State) (e : Nat) (x : Eng) : (s.setEn e x).bus = s.bus := rfl
@[simp] theorem State.setEn_hp (s : State) (e : Nat) (x : Eng) : (s.setEn e x).hp = s.hp := rfl
@[simp] theorem State.setEn_tru (s : State) (e : Nat) (x : Eng) : (s.setEn e x).tru = s.tru := rfl
@[simp] theorem State.setEn_jrn (s : State) (e : Nat) (x : Eng) : (s.setEn e x).jrn = s.jrn := rfl
@[simp] theorem State.setEn_peg (s : State) (e : Nat) (x : Eng) : (s.setEn e x).peg = s.peg := rfl

/-! `updEn` changes `eng` only. -/

@[simp] theorem State.updEn_pending (s : State) (e : Nat) (f : Eng → Eng) : (s.updEn e f).pending = s.pending := rfl
@[simp] theorem State.updEn_frame (s : State) (e : Nat) (f : Eng → Eng) : (s.updEn e f).frame = s.frame := rfl
@[simp] theorem State.updEn_edge (s : State) (e : Nat) (f : Eng → Eng) : (s.updEn e f).edge = s.edge := rfl
@[simp] theorem State.updEn_closed (s : State) (e : Nat) (f : Eng → Eng) : (s.updEn e f).closed = s.closed := rfl
@[simp] theorem State.updEn_base (s : State) (e : Nat) (f : Eng → Eng) : (s.updEn e f).base = s.base := rfl
@[simp] theorem State.updEn_free (s : State) (e : Nat) (f : Eng → Eng) : (s.updEn e f).free = s.free := rfl
@[simp] theorem State.updEn_regs (s : State) (e : Nat) (f : Eng → Eng) : (s.updEn e f).regs = s.regs := rfl
@[simp] theorem State.updEn_stNext (s : State) (e : Nat) (f : Eng → Eng) : (s.updEn e f).stNext = s.stNext := rfl
@[simp] theorem State.updEn_stAfter (s : State) (e : Nat) (f : Eng → Eng) : (s.updEn e f).stAfter = s.stAfter := rfl
@[simp] theorem State.updEn_image (s : State) (e : Nat) (f : Eng → Eng) : (s.updEn e f).image = s.image := rfl
@[simp] theorem State.updEn_capt (s : State) (e : Nat) (f : Eng → Eng) : (s.updEn e f).capt = s.capt := rfl
@[simp] theorem State.updEn_inrec (s : State) (e : Nat) (f : Eng → Eng) : (s.updEn e f).inrec = s.inrec := rfl
@[simp] theorem State.updEn_fmem (s : State) (e : Nat) (f : Eng → Eng) : (s.updEn e f).fmem = s.fmem := rfl
@[simp] theorem State.updEn_fmemTag (s : State) (e : Nat) (f : Eng → Eng) : (s.updEn e f).fmemTag = s.fmemTag := rfl
@[simp] theorem State.updEn_dram (s : State) (e : Nat) (f : Eng → Eng) : (s.updEn e f).dram = s.dram := rfl
@[simp] theorem State.updEn_dramBad (s : State) (e : Nat) (f : Eng → Eng) : (s.updEn e f).dramBad = s.dramBad := rfl
@[simp] theorem State.updEn_mramBad (s : State) (e : Nat) (f : Eng → Eng) : (s.updEn e f).mramBad = s.mramBad := rfl
@[simp] theorem State.updEn_sys (s : State) (e : Nat) (f : Eng → Eng) : (s.updEn e f).sys = s.sys := rfl
@[simp] theorem State.updEn_jtag (s : State) (e : Nat) (f : Eng → Eng) : (s.updEn e f).jtag = s.jtag := rfl
@[simp] theorem State.updEn_txn (s : State) (e : Nat) (f : Eng → Eng) : (s.updEn e f).txn = s.txn := rfl
@[simp] theorem State.updEn_sched (s : State) (e : Nat) (f : Eng → Eng) : (s.updEn e f).sched = s.sched := rfl
@[simp] theorem State.updEn_prog (s : State) (e : Nat) (f : Eng → Eng) : (s.updEn e f).prog = s.prog := rfl
@[simp] theorem State.updEn_mot (s : State) (e : Nat) (f : Eng → Eng) : (s.updEn e f).mot = s.mot := rfl
@[simp] theorem State.updEn_pwm (s : State) (e : Nat) (f : Eng → Eng) : (s.updEn e f).pwm = s.pwm := rfl
@[simp] theorem State.updEn_lsw (s : State) (e : Nat) (f : Eng → Eng) : (s.updEn e f).lsw = s.lsw := rfl
@[simp] theorem State.updEn_gauge (s : State) (e : Nat) (f : Eng → Eng) : (s.updEn e f).gauge = s.gauge := rfl
@[simp] theorem State.updEn_scr (s : State) (e : Nat) (f : Eng → Eng) : (s.updEn e f).scr = s.scr := rfl
@[simp] theorem State.updEn_flt (s : State) (e : Nat) (f : Eng → Eng) : (s.updEn e f).flt = s.flt := rfl
@[simp] theorem State.updEn_rcd (s : State) (e : Nat) (f : Eng → Eng) : (s.updEn e f).rcd = s.rcd := rfl
@[simp] theorem State.updEn_adc (s : State) (e : Nat) (f : Eng → Eng) : (s.updEn e f).adc = s.adc := rfl
@[simp] theorem State.updEn_gns (s : State) (e : Nat) (f : Eng → Eng) : (s.updEn e f).gns = s.gns := rfl
@[simp] theorem State.updEn_imu (s : State) (e : Nat) (f : Eng → Eng) : (s.updEn e f).imu = s.imu := rfl
@[simp] theorem State.updEn_bus (s : State) (e : Nat) (f : Eng → Eng) : (s.updEn e f).bus = s.bus := rfl
@[simp] theorem State.updEn_hp (s : State) (e : Nat) (f : Eng → Eng) : (s.updEn e f).hp = s.hp := rfl
@[simp] theorem State.updEn_tru (s : State) (e : Nat) (f : Eng → Eng) : (s.updEn e f).tru = s.tru := rfl
@[simp] theorem State.updEn_jrn (s : State) (e : Nat) (f : Eng → Eng) : (s.updEn e f).jrn = s.jrn := rfl
@[simp] theorem State.updEn_peg (s : State) (e : Nat) (f : Eng → Eng) : (s.updEn e f).peg = s.peg := rfl

/-! ### Registers -/

theorem Regs.get_set_same (m : SMap Word) (a : Nat) (v : Word) : Regs.get (Regs.set m a v) a = v := SMap.get_set_same _ m a v

theorem Regs.get_set_ne (m : SMap Word) {a b : Nat} (v : Word) (h : b ≠ a) : Regs.get (Regs.set m a v) b = Regs.get m b :=
  SMap.get_set_ne _ _ m v h

/-- A write of a register word keeps the canonical form. -/
theorem Regs.wf_set {m : SMap Word} (a : Nat) (v : Word) (h : SMap.wf Reg.resetOf m) : SMap.wf Reg.resetOf (Regs.set m a v) :=
  SMap.wf_set a v h

@[simp] theorem State.rd_wr_same (s : State) (a : Nat) (v : Word) : (s.wr a v).rd a = v := Regs.get_set_same _ a v

theorem State.rd_wr_ne (s : State) {a b : Nat} (v : Word) (h : b ≠ a) : (s.wr a v).rd b = s.rd b := Regs.get_set_ne _ v h

theorem State.rd_wr (s : State) (a b : Nat) (v : Word) : (s.wr a v).rd b = if b = a then v else s.rd b := by
  split
  · subst b; simp
  · exact s.rd_wr_ne v ‹_›

theorem State.rd_setFld (s : State) (a lo n v b : Nat) : (s.setFld a lo n v).rd b = if b = a then put (s.rd a) lo n v else s.rd b :=
  s.rd_wr a b _

theorem State.rd_setFlag (s : State) (a i : Nat) (x : Bool) (b : Nat) :
    (s.setFlag a i x).rd b = if b = a then put (s.rd a) i 1 (b2n x) else s.rd b := s.rd_wr a b _

theorem State.rd_count (s : State) (a lo n k b : Nat) :
    (s.count a lo n k).rd b = if b = a then put (s.rd a) lo n (satAdd n (s.rf a lo n) k) else s.rd b := s.rd_setFld a lo n _ b

@[simp] theorem State.at_rd (s : State) (t a : Nat) : (s.at t).rd a = s.rd a := by unfold State.at; split <;> rfl
@[simp] theorem State.at_rf (s : State) (t a lo n : Nat) : (s.at t).rf a lo n = s.rf a lo n := by simp [State.rf]
@[simp] theorem State.at_flag (s : State) (t a i : Nat) : (s.at t).flag a i = s.flag a i := by simp [State.flag]
@[simp] theorem State.spend_rd (s : State) (a : Nat) : s.spend.rd a = s.rd a := rfl
@[simp] theorem State.setEn_rd (s : State) (e : Nat) (x : Eng) (a : Nat) : (s.setEn e x).rd a = s.rd a := rfl
@[simp] theorem State.updEn_rd (s : State) (e : Nat) (f : Eng → Eng) (a : Nat) : (s.updEn e f).rd a = s.rd a := rfl

/-! ### Engines -/

@[simp] theorem State.en_setEn_same (s : State) (e : Nat) (x : Eng) : (s.setEn e x).en e = x := SMap.get_set_same _ _ _ _

theorem State.en_setEn_ne (s : State) {e k : Nat} (x : Eng) (h : k ≠ e) : (s.setEn e x).en k = s.en k := SMap.get_set_ne _ _ _ _ h

@[simp] theorem State.en_updEn_same (s : State) (e : Nat) (f : Eng → Eng) : (s.updEn e f).en e = f (s.en e) := s.en_setEn_same e _

theorem State.en_updEn_ne (s : State) {e k : Nat} (f : Eng → Eng) (h : k ≠ e) : (s.updEn e f).en k = s.en k := s.en_setEn_ne _ h

@[simp] theorem State.at_en (s : State) (t e : Nat) : (s.at t).en e = s.en e := by unfold State.at; split <;> rfl
@[simp] theorem State.wr_en (s : State) (a : Nat) (v : Word) (e : Nat) : (s.wr a v).en e = s.en e := rfl
@[simp] theorem State.setFld_en (s : State) (a lo n v e : Nat) : (s.setFld a lo n v).en e = s.en e := rfl
@[simp] theorem State.setFlag_en (s : State) (a i : Nat) (b : Bool) (e : Nat) : (s.setFlag a i b).en e = s.en e := rfl
@[simp] theorem State.spend_en (s : State) (e : Nat) : s.spend.en e = s.en e := rfl

end Sys2Proof.Machine
end

