-- ==== Sys2Proof/Laws/Engine.lean ====
section
/-! SUPPORT. What the issue of an engine instruction and the writes of its results do, each said once (R53 to R61, R522). -/
namespace Sys2Proof.Machine

/-! ### The register file -/

theorem RegFile.gv_setG_same (f : RegFile) {r : Nat} (x : TW) (h : r ≠ 0) : (f.setG r x).gv r = x := by
  simp [RegFile.setG, RegFile.gv, h]

theorem RegFile.gv_setG_ne (f : RegFile) {r k : Nat} (x : TW) (h : k ≠ r) : (f.setG r x).gv k = f.gv k := by
  by_cases hr : r = 0
  · simp [RegFile.setG, hr]
  · simp only [RegFile.setG, hr, if_false, RegFile.gv, SMap.get_set_ne _ _ _ _ h]

@[simp] theorem RegFile.gv_zero (f : RegFile) : f.gv 0 = (0, 0) := rfl
@[simp] theorem RegFile.pv_zero (f : RegFile) : f.pv 0 = true := rfl

@[simp] theorem RegFile.pv_setG (f : RegFile) (r : Nat) (x : TW) (k : Nat) : (f.setG r x).pv k = f.pv k := by
  unfold RegFile.setG; split <;> rfl
@[simp] theorem RegFile.lane_setG (f : RegFile) (r : Nat) (x : TW) (k n : Nat) : (f.setG r x).lane k n = f.lane k n := by
  unfold RegFile.setG; split <;> rfl
@[simp] theorem RegFile.gv_setP (f : RegFile) (r : Nat) (b : Bool) (k : Nat) : (f.setP r b).gv k = f.gv k := by
  unfold RegFile.setP; split <;> rfl
@[simp] theorem RegFile.lane_setP (f : RegFile) (r : Nat) (b : Bool) (k n : Nat) : (f.setP r b).lane k n = f.lane k n := by
  unfold RegFile.setP; split <;> rfl
@[simp] theorem RegFile.gv_setLane (f : RegFile) (r n : Nat) (x : TW) (k : Nat) : (f.setLane r n x).gv k = f.gv k := rfl
@[simp] theorem RegFile.pv_setLane (f : RegFile) (r n : Nat) (x : TW) (k : Nat) : (f.setLane r n x).pv k = f.pv k := rfl

theorem RegFile.pv_setP_same (f : RegFile) {r : Nat} (b : Bool) (h : r ≠ 0) (h8 : r < 8) : (f.setP r b).pv r = b := by
  simp only [RegFile.setP, h, if_false, RegFile.pv]
  cases b <;> simp [h8]

theorem RegFile.pv_setP_ne (f : RegFile) {r k : Nat} (b : Bool) (h : k ≠ r) : (f.setP r b).pv k = f.pv k := by
  by_cases hr : r = 0
  · simp [RegFile.setP, hr]
  · have hs : (1#8 <<< r).getLsbD k = false := by
      rw [BitVec.getLsbD_shiftLeft]
      by_cases hk : k < r
      · simp [hk]
      · have : k - r ≠ 0 := by omega
        simp [this]
    cases b
    · by_cases h8 : k < 8
      · have : (~~~(1#8 <<< r)).getLsbD k = true := by rw [BitVec.getLsbD_not, hs]; simp [h8]
        simp only [RegFile.setP, hr, if_false, RegFile.pv, Bool.false_eq_true, BitVec.getLsbD_and, this, Bool.and_true]
      · have : f.p.getLsbD k = false := BitVec.getLsbD_of_ge f.p k (by omega)
        simp [RegFile.setP, hr, RegFile.pv, this]
    · simp [RegFile.setP, hr, RegFile.pv, hs]

theorem RegFile.lane_setLane_same (f : RegFile) (r n : Nat) (x : TW) : (f.setLane r n x).lane r n = x := by
  simp [RegFile.setLane, RegFile.lane]

theorem RegFile.lane_setLane_ne (f : RegFile) {r n k m : Nat} (x : TW) (h : 8 * k + m ≠ 8 * r + n) :
    (f.setLane r n x).lane k m = f.lane k m := by
  simp only [RegFile.setLane, RegFile.lane, SMap.get_set_ne _ _ _ _ h]

/-! ### Frames -/

theorem onlyEngine_refl (e : Nat) (s : State) : onlyEngine e s s := ⟨⟨s.eng, s.edge, s.free, rfl⟩, fun _ _ => rfl⟩

theorem onlyEngine.trans {e : Nat} {s t u : State} (h : onlyEngine e s t) (h' : onlyEngine e t u) : onlyEngine e s u := by
  obtain ⟨⟨g, n, k, rfl⟩, h2⟩ := h
  obtain ⟨⟨g', n', k', rfl⟩, h4⟩ := h'
  exact ⟨⟨g', n', k', rfl⟩, fun k hk => (h4 k hk).trans (h2 k hk)⟩

theorem onlyEngine_setEn (e : Nat) (s : State) (x : Eng) : onlyEngine e s (s.setEn e x) :=
  ⟨⟨_, s.edge, s.free, rfl⟩, fun _ hk => s.en_setEn_ne x hk⟩

theorem onlyEngine_updEn (e : Nat) (s : State) (f : Eng → Eng) : onlyEngine e s (s.updEn e f) := onlyEngine_setEn e s _

theorem onlyEngine_spend (e : Nat) (s : State) : onlyEngine e s s.spend := ⟨⟨s.eng, s.edge, s.free + 1, rfl⟩, fun _ _ => rfl⟩

theorem onlyEngine_at (e : Nat) (s : State) (n : Nat) : onlyEngine e s (s.at n) := by
  refine ⟨⟨s.eng, (s.at n).edge, s.free, ?_⟩, fun k _ => by simp⟩
  unfold State.at; split <;> rfl

/-! ### Issue -/

/-- An instruction that issues reaches its continuation, with what it reads, and the engine already past it. -/
theorem issueWith_spec {s : State} {e opc : Nat} {h : Hdr} {f : Fields} (hi : issuesNow s e opc h f = true)
    (k : Issue → Bool → State → State) :
    s.issueWith e opc h f k = k (issuePoint s e opc h f) (predTrue s e h) (atIssue s e opc h f) := by
  unfold issuesNow at hi
  cases hr : Isa.row? opc with
  | none => simp [hr] at hi
  | some r =>
    simp only [hr, issuesRow, Bool.and_eq_true, decide_eq_true_eq, Bool.not_eq_true'] at hi
    obtain ⟨ho, ⟨⟨⟨⟨⟨⟨⟨hi, hl⟩, hn⟩, hs⟩, hd⟩, hb⟩, hc⟩, -⟩⟩ := hi
    have h4 : ¬(0xC0 ≤ opc ∧ opc < 0xD0 ∧ ¬ (s.en e).scribe = true) := by
      rintro ⟨a, b, c⟩
      rw [ho] at hs
      simp [a, b, c] at hs
    unfold State.issueWith
    simp only [hr, hi, hb, hc, Bool.not_true, Bool.false_eq_true, if_false, if_true, issuePoint, atIssue]
    cases hx : (s.en e).old with
    | none =>
      simp only [hx, legalHere, Option.isSome_none, Bool.false_eq_true, if_false, Option.isNone_none, Bool.true_and,
        decide_eq_false_iff_not, Eng.issueAt, bundleNeeds] at hl hn hd ⊢
      rw [hl, if_neg (by simp), if_neg (fun hc => Bool.noConfusion (hn.symm.trans hc.2)), if_neg h4, if_neg (fun hc => hd hc.2)]
      simp only [predTrue, Eng.operands, hx]
    | some o =>
      simp only [hx, legalHere, Option.isSome_some, if_true, Option.isNone_some, Bool.false_eq_true, Eng.issueAt] at hl ⊢
      rw [hl, if_neg (by simp), if_neg (by simp), if_neg h4, if_neg (by simp)]
      simp only [predTrue, Eng.operands, hx]

/-- An instruction that goes reaches its effect. -/
theorem issue_spec {s : State} {e opc : Nat} {h : Hdr} {f : Fields} (hg : goes s e opc h f = true) (eff : Issue → State → State) :
    s.issue e opc h f eff = eff (issuePoint s e opc h f) (atIssue s e opc h f) := by
  simp only [goes, Bool.and_eq_true] at hg
  rw [State.issue, issueWith_spec hg.1, hg.2, if_pos rfl]

@[simp] theorem issuePoint_e (s : State) (e opc : Nat) (h : Hdr) (f : Fields) : (issuePoint s e opc h f).e = e := rfl
@[simp] theorem issuePoint_x (s : State) (e opc : Nat) (h : Hdr) (f : Fields) : (issuePoint s e opc h f).x = s.en e := rfl
@[simp] theorem issuePoint_idx (s : State) (e opc : Nat) (h : Hdr) (f : Fields) : (issuePoint s e opc h f).idx = (s.en e).pc := rfl
@[simp] theorem issuePoint_rf (s : State) (e opc : Nat) (h : Hdr) (f : Fields) :
    (issuePoint s e opc h f).rf = (s.en e).operands := rfl
@[simp] theorem issuePoint_g (s : State) (e opc : Nat) (h : Hdr) (f : Fields) (r : Nat) :
    (issuePoint s e opc h f).g r = s.readG e r := rfl
@[simp] theorem issuePoint_p (s : State) (e opc : Nat) (h : Hdr) (f : Fields) (r : Nat) :
    (issuePoint s e opc h f).p r = s.readP e r := rfl

/-- What the issue itself leaves: all but the engine and the instant, and the engine's registers, memory, stores and state. -/
theorem onlyEngine_atIssue (s : State) (e opc : Nat) (h : Hdr) (f : Fields) : onlyEngine e s (atIssue s e opc h f) := by
  unfold atIssue; split
  · exact (onlyEngine_setEn e s _).trans (onlyEngine_at e _ _)
  · exact onlyEngine_refl e s

theorem atIssue_en (s : State) (e opc : Nat) (h : Hdr) (f : Fields) :
    ∃ y : Eng, (atIssue s e opc h f).en e =
      { s.en e with pc := y.pc, loops := y.loops, cyc := y.cyc, ready := y.ready, divAt := y.divAt, old := y.old } := by
  unfold atIssue
  cases Isa.row? opc with
  | none => exact ⟨s.en e, rfl⟩
  | some r => exact ⟨(s.en e).issued (s.en e).old.isSome r h f ((s.en e).issueAt r h f), by simp; rfl⟩

@[simp] theorem atIssue_rf (s : State) (e opc : Nat) (h : Hdr) (f : Fields) : ((atIssue s e opc h f).en e).rf = (s.en e).rf := by
  obtain ⟨_, hx⟩ := atIssue_en s e opc h f; rw [hx]
@[simp] theorem atIssue_dmem (s : State) (e opc : Nat) (h : Hdr) (f : Fields) : ((atIssue s e opc h f).en e).dmem = (s.en e).dmem := by
  obtain ⟨_, hx⟩ := atIssue_en s e opc h f; rw [hx]
@[simp] theorem atIssue_dmemTag (s : State) (e opc : Nat) (h : Hdr) (f : Fields) :
    ((atIssue s e opc h f).en e).dmemTag = (s.en e).dmemTag := by
  obtain ⟨_, hx⟩ := atIssue_en s e opc h f; rw [hx]
@[simp] theorem atIssue_stores (s : State) (e opc : Nat) (h : Hdr) (f : Fields) :
    ((atIssue s e opc h f).en e).stores = (s.en e).stores := by
  obtain ⟨_, hx⟩ := atIssue_en s e opc h f; rw [hx]
@[simp] theorem atIssue_state (s : State) (e opc : Nat) (h : Hdr) (f : Fields) :
    ((atIssue s e opc h f).en e).state = (s.en e).state := by
  obtain ⟨_, hx⟩ := atIssue_en s e opc h f; rw [hx]
@[simp] theorem atIssue_rd (s : State) (e opc : Nat) (h : Hdr) (f : Fields) (a : Nat) : (atIssue s e opc h f).rd a = s.rd a := by
  unfold atIssue; split <;> simp

/-- Operands that are intact pass every check. -/
theorem firstBad_of_intact {full : Bool} {l : List TW} (h : ∀ x ∈ l, intact x = true) : firstBad full l = none := by
  unfold firstBad
  rw [List.find?_eq_none]
  intro x hx
  have hi := h x hx
  simp only [intact, decide_eq_true_eq] at hi
  have hlt : x.1.toNat % 251 < 251 := Nat.mod_lt _ (by decide)
  have h1 : rangeBad x = false := by
    simp only [rangeBad, hi, tagOf, BitVec.toNat_ofNat, decide_eq_false_iff_not]; omega
  have h2 : valueBad x = false := by simp [valueBad, hi]
  simp [h1, h2]

theorem checked_of_intact {s : State} {i : Issue} {full : Bool} {l : List TW} (h : ∀ x ∈ l, intact x = true) (f : State → State) :
    s.checked i full l f = f s := by
  simp [State.checked, firstBad_of_intact h]

theorem dual_of_intact {s : State} {i : Issue} {l : List TW} (h : ∀ x ∈ l, intact x = true) (hu : i.x.unitBad = false) (res : Word)
    (f : State → State) : s.dual i l res f = f s := by
  simp [State.dual, checked_of_intact h, hu]

theorem ruled_of_intact {s : State} {i : Issue} {full : Bool} {l : List TW} (h : ∀ x ∈ l, intact x = true) (hu : i.x.unitBad = false)
    (res : Word) (f : State → State) : s.ruled i full l res f = f s := by
  cases full <;> simp [State.ruled, dual_of_intact h hu, checked_of_intact h]

/-- The units of an engine whose instruction goes agree. -/
theorem units_of_goes {s : State} {e opc : Nat} {h : Hdr} {f : Fields} (hg : goes s e opc h f = true) : (s.en e).unitBad = false := by
  unfold goes issuesNow issuesRow at hg
  cases hr : Isa.row? opc with
  | none => simp [hr] at hg
  | some r => simp only [hr, Bool.and_eq_true, Bool.not_eq_true'] at hg; exact hg.1.2.2

/-- A state with nothing of engine `e` changed that an instruction can write. -/
def quiet (e : Nat) (s t : State) : Prop :=
  onlyEngine e s t ∧ (t.en e).rf = (s.en e).rf ∧ (t.en e).dmem = (s.en e).dmem ∧ (t.en e).dmemTag = (s.en e).dmemTag ∧
    (t.en e).stores = (s.en e).stores ∧ (t.en e).state = (s.en e).state

theorem quiet_atIssue (s : State) (e opc : Nat) (h : Hdr) (f : Fields) : quiet e s (atIssue s e opc h f) :=
  ⟨onlyEngine_atIssue s e opc h f, by simp, by simp, by simp, by simp, by simp⟩

theorem keepsButG_putG {s t : State} {e : Nat} (h : quiet e s t) (d : Nat) (x : TW) : keepsButG e [d] s (t.putG e d x) := by
  obtain ⟨h1, h2, h3, h4, h5, h6⟩ := h
  refine ⟨h1.trans (onlyEngine_updEn e t _), ?_, ?_, ?_, ?_, ?_, ?_, ?_⟩
  · intro r hr
    have : r ≠ d := by simpa using hr
    simp [State.gOf, State.putG, h2, RegFile.gv_setG_ne _ _ this]
  · intro r; simp [State.pOf, State.putG, h2]
  · intro r n; simp [State.laneOf, State.putG, h2]
  all_goals simp [State.putG, *]

theorem gOf_putG (t : State) (e d : Nat) (x : TW) : (t.putG e d x).gOf e d = if d = 0 then (0, 0) else x := by
  split
  · subst d; simp [State.gOf]
  · simp [State.gOf, State.putG, RegFile.gv_setG_same _ _ ‹_›]

theorem keepsButP_putP {s t : State} {e : Nat} (h : quiet e s t) (d : Nat) (b : Bool) : keepsButP e [d] s (t.putP e d b) := by
  obtain ⟨h1, h2, h3, h4, h5, h6⟩ := h
  refine ⟨h1.trans (onlyEngine_updEn e t _), ?_, ?_, ?_, ?_, ?_, ?_, ?_⟩
  · intro r; simp [State.gOf, State.putP, h2]
  · intro r hr
    have : r ≠ d := by simpa using hr
    simp [State.pOf, State.putP, h2, RegFile.pv_setP_ne _ _ this]
  · intro r n; simp [State.laneOf, State.putP, h2]
  all_goals simp [State.putP, *]

theorem pOf_putP (t : State) {e d : Nat} (b : Bool) (h : d < 8) : (t.putP e d b).pOf e d = if d = 0 then true else b := by
  split
  · subst d; simp [State.pOf]
  · simp [State.pOf, State.putP, RegFile.pv_setP_same _ _ ‹_› h]

/-! ### The shapes: what each does when the instruction goes and its operands are intact -/

theorem binR_spec {s : State} {e opc : Nat} {h : Hdr} {f : FmtR} (hg : goes s e opc h f.fields = true)
    (ha : intact (s.readG e f.a.toNat) = true) (hb : intact (s.readG e f.b.toNat) = true) (full : Bool) (op : TW → TW → TW) :
    s.binR e opc h f full op =
      (atIssue s e opc h f.fields).putG e f.d.toNat (op (s.readG e f.a.toNat) (s.readG e f.b.toNat)) := by
  rw [State.binR, issue_spec hg]
  exact ruled_of_intact (by simp [ha, hb]) (units_of_goes hg) _ _

theorem unR_spec {s : State} {e opc : Nat} {h : Hdr} {f : FmtR} (hg : goes s e opc h f.fields = true)
    (ha : intact (s.readG e f.a.toNat) = true) (full : Bool) (op : TW → TW) :
    s.unR e opc h f full op = (atIssue s e opc h f.fields).putG e f.d.toNat (op (s.readG e f.a.toNat)) := by
  rw [State.unR, issue_spec hg]
  exact ruled_of_intact (by simp [ha]) (units_of_goes hg) _ _

theorem binI_spec {s : State} {e opc : Nat} {h : Hdr} {f : FmtI} (hg : goes s e opc h f.fields = true)
    (ha : intact (s.readG e f.a.toNat) = true) (full : Bool) (op : TW → TW → TW) :
    s.binI e opc h f full op = (atIssue s e opc h f.fields).putG e f.d.toNat (op (s.readG e f.a.toNat) (newTW f.imm)) := by
  rw [State.binI, issue_spec hg]
  exact ruled_of_intact (by simp [ha]) (units_of_goes hg) _ _

theorem predOp_spec {s : State} {e opc : Nat} {h : Hdr} {f : FmtR} (hg : goes s e opc h f.fields = true) (op : Bool → Bool → Bool) :
    s.predOp e opc h f op =
      (atIssue s e opc h f.fields).putP e f.d.toNat (op (s.readP e f.a.toNat) (s.readP e f.b.toNat ^^ f.mod.getLsbD 0)) := by
  rw [State.predOp, issue_spec hg]
  rfl

theorem mem_selected (m : BitVec 8) (n : Nat) : n ∈ selected m ↔ n < 8 ∧ m.getLsbD n = true := by simp [selected]

theorem binV_spec {s : State} {e opc : Nat} {h : Hdr} {f : FmtR} (hg : goes s e opc h f.fields = true)
    (ha : ∀ n < 8, f.mask.getLsbD n = true → intact (s.readLane e f.a.toNat n) = true)
    (hb : ∀ n < 8, f.mask.getLsbD n = true → intact (s.readLane e f.b.toNat n) = true) (full : Bool) (op : TW → TW → TW) :
    s.binV e opc h f full op = (atIssue s e opc h f.fields).lanes e f.d.toNat f.mask
      (fun n => op (s.readLane e f.a.toNat n) (s.readLane e f.b.toNat n)) := by
  rw [State.binV, issue_spec hg]
  refine ruled_of_intact (fun x hx => ?_) (units_of_goes hg) _ _
  simp only [List.mem_flatMap, mem_selected] at hx
  obtain ⟨n, ⟨h8, hm⟩, hx⟩ := hx
  rcases List.mem_cons.1 hx with rfl | hx
  · exact ha n h8 hm
  · rw [List.mem_singleton.1 hx]; exact hb n h8 hm

theorem unV_spec {s : State} {e opc : Nat} {h : Hdr} {f : FmtR} (hg : goes s e opc h f.fields = true)
    (ha : ∀ n < 8, f.mask.getLsbD n = true → intact (s.readLane e f.a.toNat n) = true) (op : Word → Word) :
    s.unV e opc h f op = (atIssue s e opc h f.fields).lanes e f.d.toNat f.mask (fun n => newTW (op (s.readLane e f.a.toNat n).1)) := by
  rw [State.unV, issue_spec hg]
  refine dual_of_intact (fun x hx => ?_) (units_of_goes hg) _ _
  simp only [List.mem_map, mem_selected] at hx
  obtain ⟨n, ⟨h8, hm⟩, rfl⟩ := hx
  exact ha n h8 hm

/-! ### Lanes -/

theorem lanes_cons (s : State) (e r : Nat) (l : List Nat) (res : Nat → TW) (hl : ∀ n ∈ l, n < 8) (t : State)
    (ht : t = eachOf l (fun n u => u.putLane e r n (res n)) s) :
    onlyEngine e s t ∧ (t.en e).dmem = (s.en e).dmem ∧ (t.en e).dmemTag = (s.en e).dmemTag ∧ (t.en e).stores = (s.en e).stores ∧
      (t.en e).state = (s.en e).state ∧ (∀ k, (t.en e).rf.gv k = (s.en e).rf.gv k) ∧ (∀ k, (t.en e).rf.pv k = (s.en e).rf.pv k) ∧
      ∀ k m, m < 8 → (t.en e).rf.lane k m = if k = r ∧ m ∈ l then res m else (s.en e).rf.lane k m := by
  subst ht
  induction l generalizing s with
  | nil => exact ⟨onlyEngine_refl e s, rfl, rfl, rfl, rfl, fun _ => rfl, fun _ => rfl, by simp [eachOf]⟩
  | cons a l ih =>
    have ha : a < 8 := hl a (by simp)
    obtain ⟨h1, h2, h3, h4, h5, h6, h7, h8⟩ := ih (s.putLane e r a (res a)) (fun n hn => hl n (by simp [hn]))
    simp only [eachOf, List.foldl_cons] at *
    refine ⟨(onlyEngine_updEn e s _).trans h1, ?_, ?_, ?_, ?_, ?_, ?_, ?_⟩
    · rw [h2]; simp [State.putLane]
    · rw [h3]; simp [State.putLane]
    · rw [h4]; simp [State.putLane]
    · rw [h5]; simp [State.putLane]
    · intro k; rw [h6]; simp [State.putLane]
    · intro k; rw [h7]; simp [State.putLane]
    · intro k m hm
      rw [h8 k m hm]
      by_cases hk : k = r
      · subst k
        by_cases hml : m ∈ l
        · simp [hml]
        · by_cases hma : m = a
          · subst m; simp [hml, State.putLane, RegFile.lane_setLane_same]
          · simp [hml, hma, State.putLane]
            exact RegFile.lane_setLane_ne _ _ (by omega)
      · simp [hk, State.putLane]
        exact RegFile.lane_setLane_ne _ _ (by omega)

theorem lanes_spec (s : State) (e r : Nat) (mask : BitVec 8) (res : Nat → TW) :
    onlyEngine e s (s.lanes e r mask res) ∧ ((s.lanes e r mask res).en e).dmem = (s.en e).dmem ∧
      ((s.lanes e r mask res).en e).dmemTag = (s.en e).dmemTag ∧ ((s.lanes e r mask res).en e).stores = (s.en e).stores ∧
      ((s.lanes e r mask res).en e).state = (s.en e).state ∧ (∀ k, ((s.lanes e r mask res).en e).rf.gv k = (s.en e).rf.gv k) ∧
      (∀ k, ((s.lanes e r mask res).en e).rf.pv k = (s.en e).rf.pv k) ∧
      ∀ k m, m < 8 → ((s.lanes e r mask res).en e).rf.lane k m =
        if k = r ∧ m ∈ selected mask then res m else (s.en e).rf.lane k m :=
  lanes_cons s e r (selected mask) res (fun n hn => ((mem_selected mask n).1 hn).1) _ rfl

theorem keepsButV_lanes {s t : State} {e : Nat} (h : quiet e s t) (d : Nat) (mask : BitVec 8) (res : Nat → TW) :
    keepsButV e d (selected mask) s (t.lanes e d mask res) := by
  obtain ⟨h1, h2, h3, h4, h5, h6⟩ := h
  obtain ⟨g1, g2, g3, g4, g5, g6, g7, g8⟩ := lanes_spec t e d mask res
  refine ⟨h1.trans g1, ?_, ?_, ?_, by rw [g2, h3], by rw [g3, h4], by rw [g4, h5], by rw [g5, h6]⟩
  · intro r; simp only [State.gOf, g6, h2]
  · intro r; simp only [State.pOf, g7, h2]
  · intro r n hn hr
    simp only [State.laneOf, g8 r n hn, h2]
    rw [if_neg]
    rintro ⟨rfl, hm⟩
    rcases hr with hr | hr
    · exact hr rfl
    · exact hr hm

theorem laneOf_lanes (t : State) (e d : Nat) (mask : BitVec 8) (res : Nat → TW) {n : Nat} (h8 : n < 8) (hm : mask.getLsbD n = true) :
    (t.lanes e d mask res).laneOf e d n = res n := by
  have := (lanes_spec t e d mask res).2.2.2.2.2.2.2 d n h8
  simp only [State.laneOf, this, mem_selected, h8, hm, and_self, if_true]

end Sys2Proof.Machine
end

