-- ==== Sys2Proof/Laws/Memory.lean ====
section
/-! SUPPORT. Laws of the byte memories: a word read after it was written, the bytes a write leaves alone, and that every memory operation keeps the
canonical form. -/
namespace Sys2Proof.Machine

/-- A byte after a run of bytes was stored: the stored one inside the run, the old one outside. -/
theorem Mem.get_stBytes (m : SMap Byte) (a : Nat) (bs : List Byte) (k : Nat) :
    SMap.get 0 (Mem.stBytes m a bs) k = if a ≤ k ∧ k < a + bs.length then bs.getD (k - a) 0 else SMap.get 0 m k := by
  induction bs generalizing m a with
  | nil => simp only [Mem.stBytes, List.length_nil]; rw [if_neg (by omega)]
  | cons b bs ih =>
    simp only [Mem.stBytes, ih, List.length_cons]
    by_cases h : a + 1 ≤ k ∧ k < a + 1 + bs.length
    · have e : k - a = (k - (a + 1)) + 1 := by omega
      rw [if_pos h, if_pos (by omega), e, List.getD_cons_succ]
    · rw [if_neg h]
      by_cases hk : k = a
      · subst k; rw [if_pos (by omega)]; simp
      · rw [if_neg (by omega), SMap.get_set_ne _ _ _ _ hk]

/-- A write leaves every byte outside it alone. -/
theorem Mem.get_st_ne (m : SMap Byte) (a : Nat) (w : Word) {k : Nat} (h : k < a ∨ a + 4 ≤ k) :
    SMap.get 0 (Mem.st m a w) k = SMap.get 0 m k := by
  rw [Mem.st, Mem.get_stBytes, if_neg]
  simp only [bytesOf, List.length_cons, List.length_nil]; omega

theorem wordOf_bytesOf (w : Word) : wordOf ((bytesOf w).getD 0 0) ((bytesOf w).getD 1 0) ((bytesOf w).getD 2 0) ((bytesOf w).getD 3 0) = w := by
  simp only [bytesOf, wordOf, List.getD_cons_zero, List.getD_cons_succ]
  apply BitVec.eq_of_getLsbD_eq
  intro i hi
  simp only [BitVec.getLsbD_append, BitVec.getLsbD_extractLsb']
  by_cases h1 : i < 8
  · simp [h1]
  · by_cases h2 : i < 16
    · have e1 : i - 8 < 8 := by omega
      have e2 : 8 + (i - 8) = i := by omega
      simp [h1, e1, e2]
    · by_cases h3 : i < 24
      · have e1 : ¬ (i - 8 < 8) := by omega
        have e2 : i - 8 - 8 < 8 := by omega
        have e3 : 16 + (i - 8 - 8) = i := by omega
        simp [h1, e1, e2, e3]
      · have e1 : ¬ (i - 8 < 8) := by omega
        have e2 : ¬ (i - 8 - 8 < 8) := by omega
        have e3 : i - 8 - 8 - 8 < 8 := by omega
        have e4 : 24 + (i - 8 - 8 - 8) = i := by omega
        simp [h1, e1, e2, e3, e4]

/-- A read of the word just written gives it back. -/
@[simp] theorem Mem.ld_st (m : SMap Byte) (a : Nat) (w : Word) : Mem.ld (Mem.st m a w) a = w := by
  have e1 : a + 1 - a = 1 := by omega
  have e2 : a + 2 - a = 2 := by omega
  have e3 : a + 3 - a = 3 := by omega
  have hl : (bytesOf w).length = 4 := rfl
  simp only [Mem.ld, Mem.st, Mem.get_stBytes, hl]
  rw [if_pos (by omega), if_pos (by omega), if_pos (by omega), if_pos (by omega), Nat.sub_self, e1, e2, e3]
  exact wordOf_bytesOf w

theorem Mem.ld_st_ne (m : SMap Byte) {a b : Nat} (w : Word) (h : b + 4 ≤ a ∨ a + 4 ≤ b) : Mem.ld (Mem.st m a w) b = Mem.ld m b := by
  simp only [Mem.ld]
  rw [Mem.get_st_ne _ _ _ (by omega), Mem.get_st_ne _ _ _ (by omega), Mem.get_st_ne _ _ _ (by omega), Mem.get_st_ne _ _ _ (by omega)]

/-! ### The canonical form -/

theorem Memory.wf_set {m : SMap Byte} (k : Nat) (b : Byte) (h : Memory.wf m = true) : Memory.wf (SMap.set 0 m k b) = true := SMap.wf_set k b h

theorem Memory.wf_stBytes {m : SMap Byte} (a : Nat) (bs : List Byte) (h : Memory.wf m = true) : Memory.wf (Mem.stBytes m a bs) = true := by
  induction bs generalizing m a with
  | nil => exact h
  | cons b bs ih => exact ih (a + 1) (Memory.wf_set a b h)

theorem Memory.wf_st {m : SMap Byte} (a : Nat) (w : Word) (h : Memory.wf m = true) : Memory.wf (Mem.st m a w) = true := Memory.wf_stBytes a _ h

theorem Memory.wf_stWords {m : SMap Byte} (a : Nat) (ws : List Word) (h : Memory.wf m = true) : Memory.wf (Mem.stWords m a ws) = true :=
  Memory.wf_stBytes a _ h

theorem Memory.wf_tagWords {m : SMap Byte} (a : Nat) (ws : List Word) (h : Memory.wf m = true) : Memory.wf (Mem.tagWords m a ws) = true := by
  induction ws generalizing m a with
  | nil => exact h
  | cons w ws ih => exact ih (a + 4) (Memory.wf_set a (tagOf w) h)

theorem fmemPut_wf {s : State} (ofs : Nat) (ws : List Word) (h : Memory.wf s.fmem = true) (ht : Memory.wf s.fmemTag = true) :
    Memory.wf (s.fmemPut ofs ws).fmem = true ∧ Memory.wf (s.fmemPut ofs ws).fmemTag = true :=
  ⟨Memory.wf_stWords ofs ws h, Memory.wf_tagWords ofs ws ht⟩

end Sys2Proof.Machine
end

