-- ==== Sys2Proof/Laws/Keeps.lean ====
section
/-! SUPPORT. Laws: what every operation keeps: the queue, the part, and the canonical form of the registers and memories. -/
namespace Sys2Proof.Machine
/-- `t` comes after `s` with the same queue and the same part, and in canonical form if `s` is. -/
structure Keeps (s t : State) : Prop where
  queue : t.pending = s.pending
  part : t.sys.variant = s.sys.variant
  form : s.canonical = true → t.canonical = true

theorem Keeps.refl (s : State) : Keeps s s := ⟨rfl, rfl, id⟩
theorem Keeps.trans {s t u : State} (h : Keeps s t) (h' : Keeps t u) : Keeps s u :=
  ⟨h'.queue.trans h.queue, h'.part.trans h.part, fun c => h'.form (h.form c)⟩
theorem Keeps.ite {s0 a b : State} {c : Prop} [Decidable c] (h : Keeps s0 a) (h' : Keeps s0 b) : Keeps s0 (if c then a else b) := by
  split <;> assumption
/-- A change that leaves the queue, the register file and the memories alone, and the part. -/
theorem Keeps.upd {s0 x : State} {a2 a3 a4 a5 a6 a8 a9 a10 a11 a12 a15 a16 sy a18 a19 a20 a21 a23 a24 a25 a26 a27 a28 a29 a30 a31 a32 a33 a34 a35 a36 a37}
   (k : Keeps s0 x) (hv : sy.variant = x.sys.variant) : Keeps s0 ⟨x.pending, a2, a3, a4, a5, a6, x.regs, a8, a9, a10, a11, a12, x.fmem, x.fmemTag, x.dram, a15, a16, sy, a18, a19, a20, a21, x.prog,
     a23, a24, a25, a26, a27, a28, a29, a30, a31, a32, a33, a34, a35, a36, a37⟩ :=
  ⟨k.queue, hv.trans k.part, fun c => by have := k.form c; simpa [State.canonical] using this⟩
theorem Keeps.wr {s0 s : State} (a : Nat) (v : Word) (k : Keeps s0 s) : Keeps s0 (s.wr a v) :=
  ⟨k.queue, k.part, fun c => by
    have := k.form c
    simp only [State.canonical, Bool.and_eq_true] at this ⊢
    simp only [State.wr, this, and_true]
    exact Regs.wf_set a v this.1.1.1.1⟩

theorem Keeps.mramWritten {s0 s : State} (space ofs n : Nat) (k : Keeps s0 s) : Keeps s0 (s.mramWritten space ofs n) := by
  unfold State.mramWritten
  exact k.upd rfl
theorem Keeps.setFld {s0 s : State} (a lo n v : Nat) (k : Keeps s0 s) : Keeps s0 (s.setFld a lo n v) := k.wr a _
theorem Keeps.setFlag {s0 s : State} (a i : Nat) (b : Bool) (k : Keeps s0 s) : Keeps s0 (s.setFlag a i b) := k.wr a _
theorem Keeps.count {s0 s : State} (a lo n j : Nat) (k : Keeps s0 s) : Keeps s0 (s.count a lo n j) := k.setFld a lo n _
theorem Keeps.each {s0 s : State} (n : Nat) (f : Nat → State → State) (hf : ∀ i t, Keeps s0 t → Keeps s0 (f i t)) (k : Keeps s0 s) :
    Keeps s0 (each n f s) := by
  induction n with
  | zero => exact k
  | succ n ih => exact hf _ _ ih
theorem Keeps.eachOf {α : Type} {s0 : State} (l : List α) (f : α → State → State) (hf : ∀ i t, Keeps s0 t → Keeps s0 (f i t)) {s : State}
    (k : Keeps s0 s) : Keeps s0 (eachOf l f s) := by
  induction l generalizing s with
  | nil => exact k
  | cons x l ih => exact ih (hf x s k)
theorem Keeps.iff {s0 s : State} (c : Bool) (f : State → State) (hf : ∀ t, Keeps s0 t → Keeps s0 (f t)) (k : Keeps s0 s) :
    Keeps s0 (s.iff c f) := Keeps.ite (hf s k) k
theorem Keeps.fmemPut {s0 s : State} (ofs : Nat) (ws : List Word) (k : Keeps s0 s) : Keeps s0 (s.fmemPut ofs ws) :=
  ⟨k.queue, k.part, fun c => by
    have := k.form c
    simp only [State.canonical, Bool.and_eq_true] at this ⊢
    have w := fmemPut_wf (s := s) ofs ws this.1.1.1.2 this.1.1.2
    exact ⟨⟨⟨⟨this.1.1.1.1, w.1⟩, w.2⟩, this.1.2⟩, this.2⟩⟩
end Sys2Proof.Machine
end

