-- ==== Sys2Proof/Laws/KeepsOutputs.lean ====
section
/-! SUPPORT. Laws: what the operations of outputs, loads, faults, recorder, journal, Truss and the trust anchor keep. -/
set_option linter.unusedTactic false
set_option linter.unreachableTactic false
namespace Sys2Proof.Machine
theorem Keeps.spend {s0 s : State} (kk : Keeps s0 s) : Keeps s0 (s.spend) := by
  unfold State.spend
  repeat' first | intro _ | with_reducible assumption | with_reducible apply Keeps.ite | rfl | dsimp only | split
                | fail_if_no_progress (with_reducible refine Keeps.upd ?_ rfl)

theorem Keeps.at {s0 s : State} (t : Nat) (kk : Keeps s0 s) : Keeps s0 (s.at t) := by
  unfold State.at
  repeat' first | intro _ | with_reducible assumption | with_reducible apply Keeps.ite | rfl | dsimp only | split
                | fail_if_no_progress (with_reducible refine Keeps.upd ?_ rfl)

theorem Keeps.spanNow {s0 s : State} (kk : Keeps s0 s) : Keeps s0 (s.spanNow) := by
  unfold State.spanNow
  repeat' first | intro _ | with_reducible assumption | with_reducible apply Keeps.ite | rfl | dsimp only | split
                | fail_if_no_progress (with_reducible refine Keeps.upd ?_ rfl)

theorem Keeps.atRun {s0 s : State} (t : Nat) (kk : Keeps s0 s) : Keeps s0 (s.atRun t) := by
  unfold State.atRun
  repeat' first | intro _ | with_reducible assumption | with_reducible apply Keeps.at | with_reducible apply Keeps.ite | rfl | dsimp only | split
                | fail_if_no_progress (with_reducible refine Keeps.upd ?_ rfl)

theorem Keeps.stage {s0 s : State} (a : Nat) (v : Word) (kk : Keeps s0 s) : Keeps s0 (s.stage a v) := by
  unfold State.stage
  repeat' first | intro _ | with_reducible assumption | with_reducible apply Keeps.ite | rfl | dsimp only | split
                | fail_if_no_progress (with_reducible refine Keeps.upd ?_ rfl)

theorem Keeps.irq {s0 s : State} (i : Nat) (kk : Keeps s0 s) : Keeps s0 (s.irq i) := by
  unfold State.irq
  repeat' first | intro _ | with_reducible assumption | with_reducible apply Keeps.setFlag | with_reducible apply Keeps.ite | rfl | dsimp only
                | split | fail_if_no_progress (with_reducible refine Keeps.upd ?_ rfl)

theorem Keeps.hpErr {s0 s : State} (i : Nat) (kk : Keeps s0 s) : Keeps s0 (s.hpErr i) := by
  unfold State.hpErr
  repeat' first | intro _ | with_reducible assumption | with_reducible apply Keeps.setFlag | with_reducible apply Keeps.irq
                | with_reducible apply Keeps.ite | rfl | dsimp only | split | fail_if_no_progress (with_reducible refine Keeps.upd ?_ rfl)

theorem Keeps.record {s0 s : State} (i : RecItem) (kk : Keeps s0 s) : Keeps s0 (s.record i) := by
  unfold State.record
  repeat' first | intro _ | with_reducible assumption | with_reducible apply Keeps.ite | rfl | dsimp only | split
                | fail_if_no_progress (with_reducible refine Keeps.upd ?_ rfl)

theorem Keeps.recordCur {s0 s : State} (i : RecItem) (kk : Keeps s0 s) : Keeps s0 (s.recordCur i) := by
  unfold State.recordCur
  repeat' first | intro _ | with_reducible assumption | with_reducible apply Keeps.ite | rfl | dsimp only | split
                | fail_if_no_progress (with_reducible refine Keeps.upd ?_ rfl)

theorem Keeps.recordCut {s0 s : State} (i : RecItem) (kk : Keeps s0 s) : Keeps s0 (s.recordCut i) := by
  unfold State.recordCut
  repeat' first | intro _ | with_reducible assumption | with_reducible apply Keeps.record | with_reducible apply Keeps.ite | rfl | dsimp only
                | split | fail_if_no_progress (with_reducible refine Keeps.upd ?_ rfl)

theorem Keeps.setPch {s0 s : State} (c : Nat) (x : PwmCh) (kk : Keeps s0 s) : Keeps s0 (s.setPch c x) := by
  unfold State.setPch
  repeat' first | intro _ | with_reducible assumption | with_reducible apply Keeps.ite | rfl | dsimp only | split
                | fail_if_no_progress (with_reducible refine Keeps.upd ?_ rfl)

theorem Keeps.formMark {s0 s : State} (k : Nat) (onEdge : Bool) (i : Instant) (units : Nat) (kk : Keeps s0 s) :
    Keeps s0 (s.formMark k onEdge i units) := by
  unfold State.formMark
  repeat' first | intro _ | with_reducible assumption | with_reducible apply Keeps.record | with_reducible apply Keeps.ite | rfl | dsimp only
                | split | fail_if_no_progress (with_reducible refine Keeps.upd ?_ rfl)

theorem Keeps.edgeMark {s0 s : State} (k : Nat) (onEdge : Bool) (i : Instant) (kk : Keeps s0 s) : Keeps s0 (s.edgeMark k onEdge i) := by
  unfold State.edgeMark
  repeat' first | intro _ | with_reducible assumption | with_reducible apply Keeps.formMark | with_reducible apply Keeps.ite | rfl | dsimp only
                | split | fail_if_no_progress (with_reducible refine Keeps.upd ?_ rfl)

theorem Keeps.gaugeLast {s0 s : State} (c : Nat) (onEdge : Bool) (result value : Nat) (kk : Keeps s0 s) :
    Keeps s0 (s.gaugeLast c onEdge result value) := by
  unfold State.gaugeLast
  repeat' first | intro _ | with_reducible assumption | with_reducible apply Keeps.wr | with_reducible apply Keeps.ite | rfl | dsimp only | split
                | fail_if_no_progress (with_reducible refine Keeps.upd ?_ rfl)

theorem Keeps.searchFails {s0 s : State} (g : GSearch) (kk : Keeps s0 s) : Keeps s0 (s.searchFails g) := by
  unfold State.searchFails
  repeat' first | intro _ | with_reducible assumption | with_reducible apply Keeps.edgeMark | with_reducible apply Keeps.ite | rfl | dsimp only
                | split | fail_if_no_progress (with_reducible refine Keeps.upd ?_ rfl)

theorem Keeps.dropSearch {s0 s : State} (c : Nat) (kk : Keeps s0 s) : Keeps s0 (s.dropSearch c) := by
  unfold State.dropSearch
  repeat' first | intro _ | with_reducible assumption | with_reducible apply Keeps.ite | rfl | dsimp only | split
                | fail_if_no_progress (with_reducible refine Keeps.upd ?_ rfl)

theorem Keeps.gaugeAbort {s0 s : State} (c : Nat) (kk : Keeps s0 s) : Keeps s0 (s.gaugeAbort c) := by
  unfold State.gaugeAbort
  repeat' first | intro _ | with_reducible assumption | with_reducible apply Keeps.count | with_reducible apply Keeps.gaugeLast
                | with_reducible apply Keeps.searchFails | with_reducible apply Keeps.dropSearch | with_reducible apply Keeps.ite | rfl | dsimp only | split
                | fail_if_no_progress (with_reducible refine Keeps.upd ?_ rfl)

theorem Keeps.gaugeAbortAll {s0 s : State} (kk : Keeps s0 s) : Keeps s0 (s.gaugeAbortAll) := by
  unfold State.gaugeAbortAll
  repeat' first | intro _ | with_reducible assumption | with_reducible apply Keeps.eachOf | with_reducible apply Keeps.gaugeAbort
                | with_reducible apply Keeps.ite | rfl | dsimp only | split | fail_if_no_progress (with_reducible refine Keeps.upd ?_ rfl)

theorem Keeps.markEdge {s0 s : State} (c : Nat) (onEdge : Bool) (kk : Keeps s0 s) : Keeps s0 (s.markEdge c onEdge) := by
  unfold State.markEdge
  repeat' first | intro _ | with_reducible assumption | with_reducible apply Keeps.edgeMark | with_reducible apply Keeps.ite | rfl | dsimp only
                | split | fail_if_no_progress (with_reducible refine Keeps.upd ?_ rfl)

theorem Keeps.gaugeEdge {s0 s : State} (c : Nat) (onEdge mark : Bool) (kk : Keeps s0 s) : Keeps s0 (s.gaugeEdge c onEdge mark) := by
  unfold State.gaugeEdge
  repeat' first | intro _ | with_reducible assumption | with_reducible apply Keeps.edgeMark | with_reducible apply Keeps.gaugeAbort
                | with_reducible apply Keeps.ite | rfl | dsimp only | split | fail_if_no_progress (with_reducible refine Keeps.upd ?_ rfl)

theorem Keeps.gaugeUpdate {s0 s : State} (c : Nat) (onEdge : Bool) (m : Nat) (kk : Keeps s0 s) : Keeps s0 (s.gaugeUpdate c onEdge m) := by
  unfold State.gaugeUpdate
  repeat' first | intro _ | with_reducible assumption | with_reducible apply Keeps.wr | with_reducible apply Keeps.count
                | with_reducible apply Keeps.gaugeLast | with_reducible apply Keeps.ite | rfl | dsimp only | split
                | fail_if_no_progress (with_reducible refine Keeps.upd ?_ rfl)

theorem Keeps.gaugeMissed {s0 s : State} (c : Nat) (onEdge : Bool) (kk : Keeps s0 s) : Keeps s0 (s.gaugeMissed c onEdge) := by
  unfold State.gaugeMissed
  repeat' first | intro _ | with_reducible assumption | with_reducible apply Keeps.setFld | with_reducible apply Keeps.count
                | with_reducible apply Keeps.gaugeLast | with_reducible apply Keeps.ite | rfl | dsimp only | split
                | fail_if_no_progress (with_reducible refine Keeps.upd ?_ rfl)

theorem Keeps.setLch {s0 s : State} (c : Nat) (x : LswCh) (kk : Keeps s0 s) : Keeps s0 (s.setLch c x) := by
  unfold State.setLch
  repeat' first | intro _ | with_reducible assumption | with_reducible apply Keeps.ite | rfl | dsimp only | split
                | fail_if_no_progress (with_reducible refine Keeps.upd ?_ rfl)

theorem Keeps.setBank {s0 s : State} (b : Nat) (x : Bank) (kk : Keeps s0 s) : Keeps s0 (s.setBank b x) := by
  unfold State.setBank
  repeat' first | intro _ | with_reducible assumption | with_reducible apply Keeps.ite | rfl | dsimp only | split
                | fail_if_no_progress (with_reducible refine Keeps.upd ?_ rfl)

theorem Keeps.turnOn {s0 s : State} (c : Nat) (kk : Keeps s0 s) : Keeps s0 (s.turnOn c) := by
  unfold State.turnOn
  repeat' first | intro _ | with_reducible assumption | with_reducible apply Keeps.setLch | with_reducible apply Keeps.ite | rfl | dsimp only
                | split | fail_if_no_progress (with_reducible refine Keeps.upd ?_ rfl)

theorem Keeps.turnOff {s0 s : State} (c : Nat) (kk : Keeps s0 s) : Keeps s0 (s.turnOff c) := by
  unfold State.turnOff
  repeat' first | intro _ | with_reducible assumption | with_reducible apply Keeps.setLch | with_reducible apply Keeps.ite | rfl | dsimp only
                | split | fail_if_no_progress (with_reducible refine Keeps.upd ?_ rfl)

theorem Keeps.follow {s0 s : State} (c : Nat) (was inp out : Bool) (kk : Keeps s0 s) : Keeps s0 (s.follow c was inp out) := by
  unfold State.follow
  repeat' first | intro _ | with_reducible assumption | with_reducible apply Keeps.gaugeAbort | with_reducible apply Keeps.markEdge
                | with_reducible apply Keeps.gaugeEdge | with_reducible apply Keeps.setLch | with_reducible apply Keeps.ite | rfl | dsimp only | split
                | fail_if_no_progress (with_reducible refine Keeps.upd ?_ rfl)

theorem Keeps.settle {s0 s : State} (c : Nat) (kk : Keeps s0 s) : Keeps s0 (s.settle c) := by
  unfold State.settle
  repeat' first | intro _ | with_reducible assumption | with_reducible apply Keeps.wr | with_reducible apply Keeps.gaugeAbort
                | with_reducible apply Keeps.turnOn | with_reducible apply Keeps.turnOff | with_reducible apply Keeps.follow
                | with_reducible apply Keeps.ite | rfl | dsimp only | split | fail_if_no_progress (with_reducible refine Keeps.upd ?_ rfl)

theorem Keeps.chFlag {s0 s : State} (c i : Nat) (kk : Keeps s0 s) : Keeps s0 (s.chFlag c i) := by
  unfold State.chFlag
  repeat' first | intro _ | with_reducible assumption | with_reducible apply Keeps.setFlag | with_reducible apply Keeps.gaugeAbort
                | with_reducible apply Keeps.ite | rfl | dsimp only | split | fail_if_no_progress (with_reducible refine Keeps.upd ?_ rfl)

theorem Keeps.settleAll {s0 s : State} (kk : Keeps s0 s) : Keeps s0 (s.settleAll) := by
  unfold State.settleAll
  repeat' first | intro _ | with_reducible assumption | with_reducible apply Keeps.each | with_reducible apply Keeps.settle
                | with_reducible apply Keeps.ite | rfl | dsimp only | split | fail_if_no_progress (with_reducible refine Keeps.upd ?_ rfl)

theorem Keeps.settleBank {s0 s : State} (b : Nat) (kk : Keeps s0 s) : Keeps s0 (s.settleBank b) := by
  unfold State.settleBank
  repeat' first | intro _ | with_reducible assumption | with_reducible apply Keeps.each | with_reducible apply Keeps.settle
                | with_reducible apply Keeps.ite | rfl | dsimp only | split | fail_if_no_progress (with_reducible refine Keeps.upd ?_ rfl)

theorem Keeps.pwmMoved {s0 s : State} (p : Nat) (kk : Keeps s0 s) : Keeps s0 (s.pwmMoved p) := by
  unfold State.pwmMoved
  repeat' first | intro _ | with_reducible assumption | with_reducible apply Keeps.settle | with_reducible apply Keeps.ite | rfl | dsimp only
                | split | fail_if_no_progress (with_reducible refine Keeps.upd ?_ rfl)

theorem Keeps.openIso {s0 s : State} (b : Nat) (kk : Keeps s0 s) : Keeps s0 (s.openIso b) := by
  unfold State.openIso
  repeat' first | intro _ | with_reducible assumption | with_reducible apply Keeps.setBank | with_reducible apply Keeps.ite | rfl | dsimp only
                | split | fail_if_no_progress (with_reducible refine Keeps.upd ?_ rfl)

theorem Keeps.isoOpened {s0 s : State} (b : Nat) (kk : Keeps s0 s) : Keeps s0 (s.isoOpened b) := by
  unfold State.isoOpened
  repeat' first | intro _ | with_reducible assumption | with_reducible apply Keeps.setFlag | with_reducible apply Keeps.settleBank
                | with_reducible apply Keeps.ite | rfl | dsimp only | split | fail_if_no_progress (with_reducible refine Keeps.upd ?_ rfl)

theorem Keeps.isoClosed {s0 s : State} (b : Nat) (kk : Keeps s0 s) : Keeps s0 (s.isoClosed b) := by
  unfold State.isoClosed
  repeat' first | intro _ | with_reducible assumption | with_reducible apply Keeps.setFlag | with_reducible apply Keeps.settleBank
                | with_reducible apply Keeps.ite | rfl | dsimp only | split | fail_if_no_progress (with_reducible refine Keeps.upd ?_ rfl)

theorem Keeps.applyBcfg {s0 s : State} (b : Nat) (old : Word) (kk : Keeps s0 s) : Keeps s0 (s.applyBcfg b old) := by
  unfold State.applyBcfg
  repeat' first | intro _ | with_reducible assumption | with_reducible apply Keeps.setFld | with_reducible apply Keeps.iff
                | with_reducible apply Keeps.setBank | with_reducible apply Keeps.ite | rfl | dsimp only | split
                | fail_if_no_progress (with_reducible refine Keeps.upd ?_ rfl)

theorem Keeps.token {s0 s : State} (mask : Nat) (v : Word) (kk : Keeps s0 s) : Keeps s0 (s.token mask v) := by
  unfold State.token
  repeat' first | intro _ | with_reducible assumption | with_reducible apply Keeps.each | with_reducible apply Keeps.setBank
                | with_reducible apply Keeps.ite | rfl | dsimp only | split | fail_if_no_progress (with_reducible refine Keeps.upd ?_ rfl)

theorem Keeps.watchdog {s0 s : State} (b : Nat) (kk : Keeps s0 s) : Keeps s0 (s.watchdog b).1 := by
  unfold State.watchdog
  repeat' first | intro _ | with_reducible assumption | with_reducible apply Keeps.setFld | with_reducible apply Keeps.setFlag
                | with_reducible apply Keeps.count | with_reducible apply Keeps.iff | with_reducible apply Keeps.setBank
                | with_reducible apply Keeps.settleBank | with_reducible apply Keeps.ite | rfl | dsimp only | split
                | fail_if_no_progress (with_reducible refine Keeps.upd ?_ rfl)

theorem Keeps.wdexpClear {s0 s : State} (b : Nat) (kk : Keeps s0 s) : Keeps s0 (s.wdexpClear b) := by
  unfold State.wdexpClear
  repeat' first | intro _ | with_reducible assumption | with_reducible apply Keeps.setFlag | with_reducible apply Keeps.ite | rfl | dsimp only
                | split | fail_if_no_progress (with_reducible refine Keeps.upd ?_ rfl)

theorem Keeps.releaseBanks {s0 s : State} (kk : Keeps s0 s) : Keeps s0 (s.releaseBanks) := by
  unfold State.releaseBanks
  repeat' first | intro _ | with_reducible assumption | with_reducible apply Keeps.each | with_reducible apply Keeps.eachOf
                | with_reducible apply Keeps.setLch | with_reducible apply Keeps.setBank | with_reducible apply Keeps.ite | rfl | dsimp only | split
                | fail_if_no_progress (with_reducible refine Keeps.upd ?_ rfl)

theorem Keeps.decideRetry {s0 s : State} (c : Nat) (kk : Keeps s0 s) : Keeps s0 (s.decideRetry c).1 := by
  unfold State.decideRetry
  repeat' first | intro _ | with_reducible assumption | with_reducible apply Keeps.setFlag | with_reducible apply Keeps.setLch
                | with_reducible apply Keeps.settle | with_reducible apply Keeps.ite | rfl | dsimp only | split
                | fail_if_no_progress (with_reducible refine Keeps.upd ?_ rfl)

theorem Keeps.lockClear {s0 s : State} (c : Nat) (kk : Keeps s0 s) : Keeps s0 (s.lockClear c) := by
  unfold State.lockClear
  repeat' first | intro _ | with_reducible assumption | with_reducible apply Keeps.wr | with_reducible apply Keeps.setLch
                | with_reducible apply Keeps.ite | rfl | dsimp only | split | fail_if_no_progress (with_reducible refine Keeps.upd ?_ rfl)

theorem Keeps.setAxs {s0 s : State} (a : Nat) (x : Axis) (kk : Keeps s0 s) : Keeps s0 (s.setAxs a x) := by
  unfold State.setAxs
  repeat' first | intro _ | with_reducible assumption | with_reducible apply Keeps.ite | rfl | dsimp only | split
                | fail_if_no_progress (with_reducible refine Keeps.upd ?_ rfl)

theorem Keeps.setPrt {s0 s : State} (p : Nat) (x : Port) (kk : Keeps s0 s) : Keeps s0 (s.setPrt p x) := by
  unfold State.setPrt
  repeat' first | intro _ | with_reducible assumption | with_reducible apply Keeps.ite | rfl | dsimp only | split
                | fail_if_no_progress (with_reducible refine Keeps.upd ?_ rfl)

theorem Keeps.setFbk {s0 s : State} (n : Nat) (x : Fbk) (kk : Keeps s0 s) : Keeps s0 (s.setFbk n x) := by
  unfold State.setFbk
  repeat' first | intro _ | with_reducible assumption | with_reducible apply Keeps.ite | rfl | dsimp only | split
                | fail_if_no_progress (with_reducible refine Keeps.upd ?_ rfl)

theorem Keeps.setScp {s0 s : State} (n : Nat) (x : Sc) (kk : Keeps s0 s) : Keeps s0 (s.setScp n x) := by
  unfold State.setScp
  repeat' first | intro _ | with_reducible assumption | with_reducible apply Keeps.ite | rfl | dsimp only | split
                | fail_if_no_progress (with_reducible refine Keeps.upd ?_ rfl)

theorem Keeps.setAxPos {s0 s : State} (a p : Nat) (kk : Keeps s0 s) : Keeps s0 (s.setAxPos a p) := by
  unfold State.setAxPos
  repeat' first | intro _ | with_reducible assumption | with_reducible apply Keeps.wr | with_reducible apply Keeps.ite | rfl | dsimp only | split
                | fail_if_no_progress (with_reducible refine Keeps.upd ?_ rfl)

theorem Keeps.axState {s0 s : State} (a v : Nat) (kk : Keeps s0 s) : Keeps s0 (s.axState a v) := by
  unfold State.axState
  repeat' first | intro _ | with_reducible assumption | with_reducible apply Keeps.setFld | with_reducible apply Keeps.ite | rfl | dsimp only
                | split | fail_if_no_progress (with_reducible refine Keeps.upd ?_ rfl)

theorem Keeps.useLimits {s0 s : State} (a : Nat) (l : Limits) (kk : Keeps s0 s) : Keeps s0 (s.useLimits a l) := by
  unfold State.useLimits
  repeat' first | intro _ | with_reducible assumption | with_reducible apply Keeps.wr | with_reducible apply Keeps.setAxs
                | with_reducible apply Keeps.ite | rfl | dsimp only | split | fail_if_no_progress (with_reducible refine Keeps.upd ?_ rfl)

theorem Keeps.axisRest {s0 s : State} (a : Nat) (kk : Keeps s0 s) : Keeps s0 (s.axisRest a) := by
  unfold State.axisRest
  repeat' first | intro _ | with_reducible assumption | with_reducible apply Keeps.setFlag | with_reducible apply Keeps.useLimits
                | with_reducible apply Keeps.ite | rfl | dsimp only | split | fail_if_no_progress (with_reducible refine Keeps.upd ?_ rfl)

theorem Keeps.refEdge {s0 s : State} (src num : Nat) (rising : Bool) (kk : Keeps s0 s) : Keeps s0 (s.refEdge src num rising) := by
  unfold State.refEdge
  repeat' first | intro _ | with_reducible assumption | with_reducible apply Keeps.each | with_reducible apply Keeps.setAxs
                | with_reducible apply Keeps.ite | rfl | dsimp only | split | fail_if_no_progress (with_reducible refine Keeps.upd ?_ rfl)

theorem Keeps.stopNow {s0 s : State} (a : Nat) (kk : Keeps s0 s) : Keeps s0 (s.stopNow a) := by
  unfold State.stopNow
  repeat' first | intro _ | with_reducible assumption | with_reducible apply Keeps.wr | with_reducible apply Keeps.setAxs
                | with_reducible apply Keeps.setAxPos | with_reducible apply Keeps.axState | with_reducible apply Keeps.axisRest
                | with_reducible apply Keeps.ite | rfl | dsimp only | split | fail_if_no_progress (with_reducible refine Keeps.upd ?_ rfl)

theorem Keeps.stopSoft {s0 s : State} (a : Nat) (kk : Keeps s0 s) : Keeps s0 (s.stopSoft a) := by
  unfold State.stopSoft
  repeat' first | intro _ | with_reducible assumption | with_reducible apply Keeps.setAxs | with_reducible apply Keeps.axState
                | with_reducible apply Keeps.ite | rfl | dsimp only | split | fail_if_no_progress (with_reducible refine Keeps.upd ?_ rfl)

theorem Keeps.driver {s0 s : State} (a : Nat) (kk : Keeps s0 s) : Keeps s0 (s.driver a) := by
  unfold State.driver
  repeat' first | intro _ | with_reducible assumption | with_reducible apply Keeps.setFlag | with_reducible apply Keeps.stopNow
                | with_reducible apply Keeps.ite | rfl | dsimp only | split | fail_if_no_progress (with_reducible refine Keeps.upd ?_ rfl)

theorem Keeps.drivers {s0 s : State} (kk : Keeps s0 s) : Keeps s0 (s.drivers) := by
  unfold State.drivers
  repeat' first | intro _ | with_reducible assumption | with_reducible apply Keeps.each | with_reducible apply Keeps.driver
                | with_reducible apply Keeps.ite | rfl | dsimp only | split | fail_if_no_progress (with_reducible refine Keeps.upd ?_ rfl)

theorem Keeps.enqueue {s0 s : State} (q : QRec) (kk : Keeps s0 s) : Keeps s0 (s.enqueue q) := by
  unfold State.enqueue
  repeat' first | intro _ | with_reducible assumption | with_reducible apply Keeps.setFlag | with_reducible apply Keeps.count
                | with_reducible apply Keeps.ite | rfl | dsimp only | split | fail_if_no_progress (with_reducible refine Keeps.upd ?_ rfl)

theorem Keeps.setBucket {s0 s : State} (k : Nat) (b : Bucket) (kk : Keeps s0 s) : Keeps s0 (s.setBucket k b) := by
  unfold State.setBucket
  repeat' first | intro _ | with_reducible assumption | with_reducible apply Keeps.ite | rfl | dsimp only | split
                | fail_if_no_progress (with_reducible refine Keeps.upd ?_ rfl)

theorem Keeps.fillBucket {s0 s : State} (k : Nat) (kk : Keeps s0 s) : Keeps s0 (s.fillBucket k) := by
  unfold State.fillBucket
  repeat' first | intro _ | with_reducible assumption | with_reducible apply Keeps.setBucket | with_reducible apply Keeps.ite | rfl | dsimp only
                | split | fail_if_no_progress (with_reducible refine Keeps.upd ?_ rfl)

theorem Keeps.summary {s0 s : State} (k : Nat) (b : Bucket) (kk : Keeps s0 s) : Keeps s0 (s.summary k b) := by
  unfold State.summary
  repeat' first | intro _ | with_reducible assumption | with_reducible apply Keeps.enqueue | with_reducible apply Keeps.ite | rfl | dsimp only | split
                | fail_if_no_progress (with_reducible refine Keeps.upd ?_ rfl)

theorem Keeps.summaryNext {s0 s : State} (k : Nat) (b : Bucket) (kk : Keeps s0 s) : Keeps s0 (s.summaryNext k b) := by
  unfold State.summaryNext
  repeat' first | intro _ | with_reducible assumption | with_reducible apply Keeps.ite | rfl | dsimp only | split
                | fail_if_no_progress (with_reducible refine Keeps.upd ?_ rfl)

theorem Keeps.passQ {s0 s : State} (q : QRec) (cost : Nat) (kk : Keeps s0 s) : Keeps s0 (s.passQ q cost) := by
  unfold State.passQ
  repeat' first | intro _ | with_reducible assumption | with_reducible apply Keeps.count | with_reducible apply Keeps.enqueue
                | with_reducible apply Keeps.setBucket | with_reducible apply Keeps.summary | with_reducible apply Keeps.ite | rfl | dsimp only
                | split | fail_if_no_progress (with_reducible refine Keeps.upd ?_ rfl)

theorem Keeps.putQ {s0 s : State} (q : QRec) (kk : Keeps s0 s) : Keeps s0 (s.putQ q) := by
  unfold State.putQ
  repeat' first | intro _ | with_reducible assumption | with_reducible apply Keeps.count | with_reducible apply Keeps.setBucket
                | with_reducible apply Keeps.summaryNext | with_reducible apply Keeps.passQ | with_reducible apply Keeps.ite | rfl | dsimp only
                | split | fail_if_no_progress (with_reducible refine Keeps.upd ?_ rfl)

theorem Keeps.putRec {s0 s : State} (code sev : Nat) (detail : Word) (payload : List Word) (kk : Keeps s0 s) :
    Keeps s0 (s.putRec code sev detail payload) := by
  unfold State.putRec
  repeat' first | intro _ | with_reducible assumption | with_reducible apply Keeps.putQ | with_reducible apply Keeps.ite | rfl | dsimp only
                | split | fail_if_no_progress (with_reducible refine Keeps.upd ?_ rfl)

theorem Keeps.summaryDue {s0 s : State} (k : Nat) (kk : Keeps s0 s) : Keeps s0 (s.summaryDue k) := by
  unfold State.summaryDue
  repeat' first | intro _ | with_reducible assumption | with_reducible apply Keeps.count | with_reducible apply Keeps.setBucket
                | with_reducible apply Keeps.summary | with_reducible apply Keeps.ite | rfl | dsimp only | split
                | fail_if_no_progress (with_reducible refine Keeps.upd ?_ rfl)

theorem Keeps.pkNext {s0 s : State} (kk : Keeps s0 s) : Keeps s0 (s.pkNext) := by
  unfold State.pkNext
  repeat' first | intro _ | with_reducible assumption | with_reducible apply Keeps.ite | rfl | dsimp only | split
                | fail_if_no_progress (with_reducible refine Keeps.upd ?_ rfl)

theorem Keeps.pkDone {s0 s : State} (kk : Keeps s0 s) : Keeps s0 (s.pkDone) := by
  unfold State.pkDone
  repeat' first | intro _ | with_reducible assumption | with_reducible apply Keeps.pkNext | with_reducible apply Keeps.ite | rfl | dsimp only | split
                | fail_if_no_progress (with_reducible refine Keeps.upd ?_ rfl)

theorem Keeps.askSign {s0 s : State} (w : SigWait) (kk : Keeps s0 s) : Keeps s0 (s.askSign w) := by
  unfold State.askSign
  repeat' first | intro _ | with_reducible assumption | with_reducible apply Keeps.setFlag | with_reducible apply Keeps.pkNext
                | with_reducible apply Keeps.ite | rfl | dsimp only | split | fail_if_no_progress (with_reducible refine Keeps.upd ?_ rfl)

theorem Keeps.writeRec {s0 s : State} (q : QRec) (n : Nat) (kk : Keeps s0 s) : Keeps s0 (s.writeRec q n) := by
  unfold State.writeRec
  repeat' first | intro _ | with_reducible assumption | with_reducible apply Keeps.mramWritten | with_reducible apply Keeps.wr | with_reducible apply Keeps.askSign
                | with_reducible apply Keeps.ite | rfl | dsimp only | split | fail_if_no_progress (with_reducible refine Keeps.upd ?_ rfl)

theorem Keeps.refill {s0 s : State} (kk : Keeps s0 s) : Keeps s0 (s.refill) := by
  unfold State.refill
  repeat' first | intro _ | with_reducible assumption | with_reducible apply Keeps.enqueue | with_reducible apply Keeps.ite | rfl | dsimp only | split
                | fail_if_no_progress (with_reducible refine Keeps.upd ?_ rfl)

theorem Keeps.recAdvance {s0 s : State} (kk : Keeps s0 s) : Keeps s0 (s.recAdvance) := by
  unfold State.recAdvance
  repeat' first | intro _ | with_reducible assumption | with_reducible apply Keeps.ite | rfl | dsimp only | split
                | fail_if_no_progress (with_reducible refine Keeps.upd ?_ rfl)

theorem Keeps.recordWritten {s0 s : State} (kk : Keeps s0 s) : Keeps s0 (s.recordWritten) := by
  unfold State.recordWritten
  repeat' first | intro _ | with_reducible assumption | with_reducible apply Keeps.setFlag | with_reducible apply Keeps.count
                | with_reducible apply Keeps.writeRec | with_reducible apply Keeps.refill | with_reducible apply Keeps.ite | rfl | dsimp only | split
                | fail_if_no_progress (with_reducible refine Keeps.upd ?_ rfl)

theorem Keeps.drainRecords {s0 : State} (n : Nat) {s : State} (kk : Keeps s0 s) : Keeps s0 (drainRecords n s) := by
  induction n generalizing s with
  | zero => exact kk
  | succ n ih => unfold Machine.drainRecords; exact Keeps.ite kk (ih kk.recordWritten)

theorem Keeps.drainAll {s0 s : State} (kk : Keeps s0 s) : Keeps s0 (s.drainAll) := by
  unfold State.drainAll
  repeat' first | intro _ | with_reducible assumption | with_reducible apply Keeps.drainRecords | with_reducible apply Keeps.ite | rfl
                | dsimp only | split | fail_if_no_progress (with_reducible refine Keeps.upd ?_ rfl)

theorem Keeps.sealCheckpoint {s0 s : State} (k : BitVec 256) (kk : Keeps s0 s) : Keeps s0 (s.sealCheckpoint k) := by
  unfold State.sealCheckpoint
  repeat' first | intro _ | with_reducible assumption | with_reducible apply Keeps.setFlag | with_reducible apply Keeps.iff
                | with_reducible apply Keeps.enqueue | with_reducible apply Keeps.pkDone | with_reducible apply Keeps.ite | rfl | dsimp only | split
                | fail_if_no_progress (with_reducible refine Keeps.upd ?_ rfl)

theorem Keeps.signNone {s0 s : State} (kk : Keeps s0 s) : Keeps s0 (s.signNone) := by
  unfold State.signNone
  repeat' first | intro _ | with_reducible assumption | with_reducible apply Keeps.setFlag | with_reducible apply Keeps.iff
                | with_reducible apply Keeps.pkDone | with_reducible apply Keeps.ite | rfl | dsimp only | split
                | fail_if_no_progress (with_reducible refine Keeps.upd ?_ rfl)

theorem Keeps.txnResult {s0 s : State} (st : TxnStatus) (table unit limit count : Nat) (kk : Keeps s0 s) :
    Keeps s0 (s.txnResult st table unit limit count) := by
  unfold State.txnResult
  repeat' first | intro _ | with_reducible assumption | with_reducible apply Keeps.wr | with_reducible apply Keeps.setFld
                | with_reducible apply Keeps.irq | with_reducible apply Keeps.ite | rfl | dsimp only | split
                | fail_if_no_progress (with_reducible refine Keeps.upd ?_ rfl)

theorem Keeps.txnStatus {s0 s : State} (st : TxnStatus) (kk : Keeps s0 s) : Keeps s0 (s.txnStatus st) := by
  unfold State.txnStatus
  repeat' first | intro _ | with_reducible assumption | with_reducible apply Keeps.txnResult | with_reducible apply Keeps.ite | rfl | dsimp only
                | split | fail_if_no_progress (with_reducible refine Keeps.upd ?_ rfl)

theorem Keeps.txnRecord {s0 s : State} (owner : Nat) (st : TxnStatus) (table unit limit count : Nat) (kk : Keeps s0 s) :
    Keeps s0 (s.txnRecord owner st table unit limit count) := by
  unfold State.txnRecord
  repeat' first | intro _ | with_reducible assumption | with_reducible apply Keeps.putRec | with_reducible apply Keeps.ite | rfl | dsimp only
                | split | fail_if_no_progress (with_reducible refine Keeps.upd ?_ rfl)

theorem Keeps.txnFree {s0 s : State} (kk : Keeps s0 s) : Keeps s0 (s.txnFree) := by
  unfold State.txnFree
  repeat' first | intro _ | with_reducible assumption | with_reducible apply Keeps.ite | rfl | dsimp only | split
                | fail_if_no_progress (with_reducible refine Keeps.upd ?_ rfl)

theorem Keeps.txnRollback {s0 s : State} (st : TxnStatus) (kk : Keeps s0 s) : Keeps s0 (s.txnRollback st) := by
  unfold State.txnRollback
  repeat' first | intro _ | with_reducible assumption | with_reducible apply Keeps.txnStatus | with_reducible apply Keeps.txnRecord
                | with_reducible apply Keeps.txnFree | with_reducible apply Keeps.ite | rfl | dsimp only | split
                | fail_if_no_progress (with_reducible refine Keeps.upd ?_ rfl)

theorem Keeps.txnRefuse {s0 s : State} (owner : Nat) (st : TxnStatus) (kk : Keeps s0 s) : Keeps s0 (s.txnRefuse owner st) := by
  unfold State.txnRefuse
  repeat' first | intro _ | with_reducible assumption | with_reducible apply Keeps.txnStatus | with_reducible apply Keeps.txnRecord
                | with_reducible apply Keeps.ite | rfl | dsimp only | split | fail_if_no_progress (with_reducible refine Keeps.upd ?_ rfl)

theorem Keeps.txnDiscard {s0 s : State} (kk : Keeps s0 s) : Keeps s0 (s.txnDiscard) := by
  unfold State.txnDiscard
  repeat' first | intro _ | with_reducible assumption | with_reducible apply Keeps.wr | with_reducible apply Keeps.txnFree
                | with_reducible apply Keeps.ite | rfl | dsimp only | split | fail_if_no_progress (with_reducible refine Keeps.upd ?_ rfl)

theorem Keeps.shadowWrite {s0 s : State} (a : Nat) (v : Word) (kk : Keeps s0 s) : Keeps s0 (s.shadowWrite a v) := by
  unfold State.shadowWrite
  repeat' first | intro _ | with_reducible assumption | with_reducible apply Keeps.ite | rfl | dsimp only | split
                | fail_if_no_progress (with_reducible refine Keeps.upd ?_ rfl)

theorem Keeps.txnCommit {s0 s : State} (h : Holder) (waiter : Option Nat) (kk : Keeps s0 s) : Keeps s0 (s.txnCommit h waiter) := by
  unfold State.txnCommit
  repeat' first | intro _ | with_reducible assumption | with_reducible apply Keeps.txnRefuse | with_reducible apply Keeps.ite | rfl | dsimp only
                | split | fail_if_no_progress (with_reducible refine Keeps.upd ?_ rfl)

theorem Keeps.txnRollbackCmd {s0 s : State} (h : Holder) (kk : Keeps s0 s) : Keeps s0 (s.txnRollbackCmd h) := by
  unfold State.txnRollbackCmd
  repeat' first | intro _ | with_reducible assumption | with_reducible apply Keeps.txnRollback | with_reducible apply Keeps.txnRefuse
                | with_reducible apply Keeps.ite | rfl | dsimp only | split | fail_if_no_progress (with_reducible refine Keeps.upd ?_ rfl)

theorem Keeps.txnDropTask {s0 s : State} (task : Nat) (kk : Keeps s0 s) : Keeps s0 (s.txnDropTask task) := by
  unfold State.txnDropTask
  repeat' first | intro _ | with_reducible assumption | with_reducible apply Keeps.txnRollback | with_reducible apply Keeps.ite | rfl
                | dsimp only | split | fail_if_no_progress (with_reducible refine Keeps.upd ?_ rfl)

theorem Keeps.setEn {s0 s : State} (e : Nat) (x : Eng) (kk : Keeps s0 s) : Keeps s0 (s.setEn e x) := by
  unfold State.setEn
  repeat' first | intro _ | with_reducible assumption | with_reducible apply Keeps.ite | rfl | dsimp only | split
                | fail_if_no_progress (with_reducible refine Keeps.upd ?_ rfl)

theorem Keeps.engineStop {s0 s : State} (e : Nat) (kk : Keeps s0 s) : Keeps s0 (s.engineStop e) := by
  unfold State.engineStop
  repeat' first | intro _ | with_reducible assumption | with_reducible apply Keeps.setFlag | with_reducible apply Keeps.count
                | with_reducible apply Keeps.txnDropTask | with_reducible apply Keeps.setEn | with_reducible apply Keeps.ite | rfl | dsimp only
                | split | fail_if_no_progress (with_reducible refine Keeps.upd ?_ rfl)

theorem Keeps.latchRaise {s0 s : State} (src : Nat) (det : Word) (kk : Keeps s0 s) : Keeps s0 (s.latchRaise src det) := by
  unfold State.latchRaise
  repeat' first | intro _ | with_reducible assumption | with_reducible apply Keeps.wr | with_reducible apply Keeps.setFlag
                | with_reducible apply Keeps.count | with_reducible apply Keeps.ite | rfl | dsimp only | split
                | fail_if_no_progress (with_reducible refine Keeps.upd ?_ rfl)

theorem Keeps.captureFirst {s0 s : State} (src sev : Nat) (det : Word) (inj : Bool) (kk : Keeps s0 s) : Keeps s0 (s.captureFirst src sev det inj) := by
  unfold State.captureFirst
  repeat' first | intro _ | with_reducible assumption | with_reducible apply Keeps.wr | with_reducible apply Keeps.ite | rfl | dsimp only | split
                | fail_if_no_progress (with_reducible refine Keeps.upd ?_ rfl)

theorem Keeps.forceUnit {s0 s : State} (u cause first : Nat) (kk : Keeps s0 s) : Keeps s0 (s.forceUnit u cause first) := by
  unfold State.forceUnit
  repeat' first | intro _ | with_reducible assumption | with_reducible apply Keeps.wr | with_reducible apply Keeps.ite | rfl | dsimp only | split
                | fail_if_no_progress (with_reducible refine Keeps.upd ?_ rfl)

theorem Keeps.haltIsolators {s0 s : State} (kk : Keeps s0 s) : Keeps s0 (s.haltIsolators) := by
  unfold State.haltIsolators
  repeat' first | intro _ | with_reducible assumption | with_reducible apply Keeps.each | with_reducible apply Keeps.openIso
                | with_reducible apply Keeps.ite | rfl | dsimp only | split | fail_if_no_progress (with_reducible refine Keeps.upd ?_ rfl)

theorem Keeps.enterSafeState {s0 s : State} (kk : Keeps s0 s) : Keeps s0 (s.enterSafeState) := by
  unfold State.enterSafeState
  repeat' first | intro _ | with_reducible assumption | with_reducible apply Keeps.each | with_reducible apply Keeps.settleAll
                | with_reducible apply Keeps.drivers | with_reducible apply Keeps.forceUnit | with_reducible apply Keeps.ite | rfl | dsimp only | split
                | fail_if_no_progress (with_reducible refine Keeps.upd ?_ rfl)

theorem Keeps.react {s0 s : State} (inj : Bool) (src sev : Nat) (det : Word) (payload : List Word) (kk : Keeps s0 s) :
    Keeps s0 (s.react inj src sev det payload) := by
  unfold State.react
  repeat' first | intro _ | with_reducible assumption | with_reducible apply Keeps.haltIsolators | with_reducible apply Keeps.enterSafeState
                | with_reducible apply Keeps.ite | rfl | dsimp only | split | fail_if_no_progress (with_reducible refine Keeps.upd ?_ rfl)

theorem Keeps.cancelInjection {s0 s : State} (record : Bool) (kk : Keeps s0 s) : Keeps s0 (s.cancelInjection record) := by
  unfold State.cancelInjection
  repeat' first | intro _ | with_reducible assumption | with_reducible apply Keeps.setFld | with_reducible apply Keeps.putQ
                | with_reducible apply Keeps.ite | rfl | dsimp only | split | fail_if_no_progress (with_reducible refine Keeps.upd ?_ rfl)

theorem Keeps.raiseOne {s0 s : State} (inj : Bool) (src : Nat) (det : Word) (dowel : List Word) (kk : Keeps s0 s) :
    Keeps s0 (s.raiseOne inj src det dowel) := by
  unfold State.raiseOne
  refine Keeps.ite kk ?_
  extract_lets s1 sev pay s2 s3 s4 q s5 s6
  have k1 : Keeps s0 s1 := kk.latchRaise _ _
  refine Keeps.ite (Keeps.ite (k1.cancelInjection _) k1) ?_
  have k3 : Keeps s0 s3 := (k1.captureFirst _ _ _ _).react _ _ _ _ _
  clear_value s3
  have k4 : Keeps s0 s4 := by
    unfold s4; repeat' first | with_reducible assumption | split | with_reducible apply Keeps.engineStop
  clear_value s4
  have k5 : Keeps s0 s5 := Keeps.ite (k4.putQ _) k4
  clear_value s5
  have k6 : Keeps s0 s6 := Keeps.ite (k5.irq _) k5
  clear_value s6
  repeat' first | with_reducible assumption | with_reducible apply Keeps.cancelInjection | split

theorem Keeps.raiseAs {s0 s : State} (inj : Bool) (src : Nat) (det : Word) (dowel : List Word) (kk : Keeps s0 s) :
    Keeps s0 (s.raiseAs inj src det dowel) := by
  unfold State.raiseAs
  repeat' first | intro _ | with_reducible assumption | with_reducible apply Keeps.raiseOne | with_reducible apply Keeps.ite | rfl | dsimp only
                | split | fail_if_no_progress (with_reducible refine Keeps.upd ?_ rfl)

theorem Keeps.raise {s0 s : State} (src : Nat) (det : Word) (kk : Keeps s0 s) : Keeps s0 (s.raise src det) := by
  unfold State.raise
  repeat' first | intro _ | with_reducible assumption | with_reducible apply Keeps.raiseAs | with_reducible apply Keeps.ite | rfl | dsimp only
                | split | fail_if_no_progress (with_reducible refine Keeps.upd ?_ rfl)

theorem Keeps.engineReset {s0 s : State} (e : Nat) (kk : Keeps s0 s) : Keeps s0 (s.engineReset e) := by
  unfold State.engineReset
  repeat' first | intro _ | with_reducible assumption | with_reducible apply Keeps.engineStop | with_reducible apply Keeps.raise
                | with_reducible apply Keeps.ite | rfl | dsimp only | split | fail_if_no_progress (with_reducible refine Keeps.upd ?_ rfl)

theorem Keeps.raiseDowel {s0 s : State} (src : Nat) (det val : Word) (tag : Byte) (addr : Word) (kk : Keeps s0 s) :
    Keeps s0 (s.raiseDowel src det val tag addr) := by
  unfold State.raiseDowel
  repeat' first | intro _ | with_reducible assumption | with_reducible apply Keeps.raiseAs | with_reducible apply Keeps.ite | rfl | dsimp only
                | split | fail_if_no_progress (with_reducible refine Keeps.upd ?_ rfl)

theorem Keeps.assert {s0 s : State} (src : Nat) (det : Word) (kk : Keeps s0 s) : Keeps s0 (s.assert src det) := by
  unfold State.assert
  repeat' first | intro _ | with_reducible assumption | with_reducible apply Keeps.setFlag | with_reducible apply Keeps.raise
                | with_reducible apply Keeps.ite | rfl | dsimp only | split | fail_if_no_progress (with_reducible refine Keeps.upd ?_ rfl)

theorem Keeps.release {s0 s : State} (src : Nat) (kk : Keeps s0 s) : Keeps s0 (s.release src) := by
  unfold State.release
  repeat' first | intro _ | with_reducible assumption | with_reducible apply Keeps.setFlag | with_reducible apply Keeps.ite | rfl | dsimp only
                | split | fail_if_no_progress (with_reducible refine Keeps.upd ?_ rfl)

theorem Keeps.raiseLater {s0 s : State} (src : Nat) (det : Word) (kk : Keeps s0 s) : Keeps s0 (s.raiseLater src det) := by
  unfold State.raiseLater
  repeat' first | intro _ | with_reducible assumption | with_reducible apply Keeps.raise | with_reducible apply Keeps.ite | rfl | dsimp only | split
                | fail_if_no_progress (with_reducible refine Keeps.upd ?_ rfl)

theorem Keeps.takeWaiting {s0 s : State} (kk : Keeps s0 s) : Keeps s0 (s.takeWaiting) := by
  unfold State.takeWaiting
  exact Keeps.ite (Keeps.eachOf _ _ (fun _ _ k => k.raise _ _) (Keeps.upd kk rfl)) kk

theorem Keeps.endReaction {s0 s : State} (byClear : Bool) (kk : Keeps s0 s) : Keeps s0 (s.endReaction byClear) := by
  unfold State.endReaction
  repeat' first | intro _ | with_reducible assumption | with_reducible apply Keeps.ite | rfl | dsimp only | split
                | fail_if_no_progress (with_reducible refine Keeps.upd ?_ rfl)

theorem Keeps.escalate {s0 s : State} (kk : Keeps s0 s) : Keeps s0 (s.escalate) := by
  unfold State.escalate
  repeat' first | intro _ | with_reducible assumption | with_reducible apply Keeps.setFlag | with_reducible apply Keeps.passQ
                | with_reducible apply Keeps.haltIsolators | with_reducible apply Keeps.ite | rfl | dsimp only | split
                | fail_if_no_progress (with_reducible refine Keeps.upd ?_ rfl)

theorem Keeps.fltAdvance {s0 s : State} (kk : Keeps s0 s) : Keeps s0 (s.fltAdvance) := by
  unfold State.fltAdvance
  repeat' first | intro _ | with_reducible assumption | with_reducible apply Keeps.ite | rfl | dsimp only | split
                | fail_if_no_progress (with_reducible refine Keeps.upd ?_ rfl)

theorem Keeps.quietOver {s0 s : State} (kk : Keeps s0 s) : Keeps s0 (s.quietOver) := by
  unfold State.quietOver
  repeat' first | intro _ | with_reducible assumption | with_reducible apply Keeps.count | with_reducible apply Keeps.endReaction
                | with_reducible apply Keeps.escalate | with_reducible apply Keeps.ite | rfl | dsimp only | split
                | fail_if_no_progress (with_reducible refine Keeps.upd ?_ rfl)

theorem Keeps.fltClear {s0 s : State} (kk : Keeps s0 s) : Keeps s0 (s.fltClear) := by
  unfold State.fltClear
  repeat' first | intro _ | with_reducible assumption | with_reducible apply Keeps.endReaction | with_reducible apply Keeps.ite | rfl
                | dsimp only | split | fail_if_no_progress (with_reducible refine Keeps.upd ?_ rfl)

theorem Keeps.fltRclr {s0 s : State} (kk : Keeps s0 s) : Keeps s0 (s.fltRclr) := by
  unfold State.fltRclr
  repeat' first | intro _ | with_reducible assumption | with_reducible apply Keeps.setFld | with_reducible apply Keeps.ite | rfl | dsimp only
                | split | fail_if_no_progress (with_reducible refine Keeps.upd ?_ rfl)

theorem Keeps.reactionEnds {s0 s : State} (kk : Keeps s0 s) : Keeps s0 (s.reactionEnds) := by
  unfold State.reactionEnds
  repeat' first | intro _ | with_reducible assumption | with_reducible apply Keeps.eachOf | with_reducible apply Keeps.putRec
                | with_reducible apply Keeps.ite | rfl | dsimp only | split | fail_if_no_progress (with_reducible refine Keeps.upd ?_ rfl)

theorem Keeps.fltCtrl {s0 s : State} (v : Word) (kk : Keeps s0 s) : Keeps s0 (s.fltCtrl v) := by
  unfold State.fltCtrl
  repeat' first | intro _ | with_reducible assumption | with_reducible apply Keeps.iff | with_reducible apply Keeps.fltClear
                | with_reducible apply Keeps.fltRclr | with_reducible apply Keeps.ite | rfl | dsimp only | split
                | fail_if_no_progress (with_reducible refine Keeps.upd ?_ rfl)

theorem Keeps.injArm {s0 s : State} (v : Word) (kk : Keeps s0 s) : Keeps s0 (s.injArm v) := by
  unfold State.injArm
  repeat' first | intro _ | with_reducible assumption | with_reducible apply Keeps.setFld | with_reducible apply Keeps.setFlag
                | with_reducible apply Keeps.cancelInjection | with_reducible apply Keeps.ite | rfl | dsimp only | split
                | fail_if_no_progress (with_reducible refine Keeps.upd ?_ rfl)

theorem Keeps.injReady {s0 s : State} (kk : Keeps s0 s) : Keeps s0 (s.injReady) := by
  unfold State.injReady
  repeat' first | intro _ | with_reducible assumption | with_reducible apply Keeps.ite | rfl | dsimp only | split
                | fail_if_no_progress (with_reducible refine Keeps.upd ?_ rfl)

theorem Keeps.recSwcode {s0 s : State} (v : Word) (kk : Keeps s0 s) : Keeps s0 (s.recSwcode v) := by
  unfold State.recSwcode
  repeat' first | intro _ | with_reducible assumption | with_reducible apply Keeps.setFlag | with_reducible apply Keeps.putRec
                | with_reducible apply Keeps.raiseDowel | with_reducible apply Keeps.ite | rfl | dsimp only | split
                | fail_if_no_progress (with_reducible refine Keeps.upd ?_ rfl)

theorem Keeps.recRelease {s0 s : State} (kk : Keeps s0 s) : Keeps s0 (s.recRelease) := by
  unfold State.recRelease
  repeat' first | intro _ | with_reducible assumption | with_reducible apply Keeps.setFlag | with_reducible apply Keeps.ite | rfl | dsimp only
                | split | fail_if_no_progress (with_reducible refine Keeps.upd ?_ rfl)

theorem Keeps.recCtl {s0 s : State} (v : Word) (kk : Keeps s0 s) : Keeps s0 (s.recCtl v) := by
  unfold State.recCtl
  repeat' first | intro _ | with_reducible assumption | with_reducible apply Keeps.wr | with_reducible apply Keeps.setFlag
                | with_reducible apply Keeps.iff | with_reducible apply Keeps.recRelease | with_reducible apply Keeps.ite | rfl | dsimp only | split
                | fail_if_no_progress (with_reducible refine Keeps.upd ?_ rfl)

theorem Keeps.recCodeCommitted {s0 s : State} (k : Nat) (old : Word) (kk : Keeps s0 s) : Keeps s0 (s.recCodeCommitted k old) := by
  unfold State.recCodeCommitted
  repeat' first | intro _ | with_reducible assumption | with_reducible apply Keeps.fillBucket | with_reducible apply Keeps.ite | rfl | dsimp only
                | split | fail_if_no_progress (with_reducible refine Keeps.upd ?_ rfl)

theorem Keeps.jrnCompare {s0 s : State} (seq : Nat) (own crc : Word) (kk : Keeps s0 s) : Keeps s0 (s.jrnCompare seq own crc) := by
  unfold State.jrnCompare
  repeat' first | intro _ | with_reducible assumption | with_reducible apply Keeps.setFlag | with_reducible apply Keeps.raise
                | with_reducible apply Keeps.ite | rfl | dsimp only | split | fail_if_no_progress (with_reducible refine Keeps.upd ?_ rfl)

theorem Keeps.jrnNumber {s0 s : State} (ws : List Word) (kk : Keeps s0 s) : Keeps s0 (s.jrnNumber ws) := by
  unfold State.jrnNumber
  repeat' first | intro _ | with_reducible assumption | with_reducible apply Keeps.jrnCompare | with_reducible apply Keeps.ite | rfl | dsimp only
                | split | fail_if_no_progress (with_reducible refine Keeps.upd ?_ rfl)

theorem Keeps.jrnAppend {s0 s : State} (type nw : Nat) (data : List Word) (kk : Keeps s0 s) : Keeps s0 (s.jrnAppend type nw data) := by
  unfold State.jrnAppend
  repeat' first | intro _ | with_reducible assumption | with_reducible apply Keeps.jrnNumber | with_reducible apply Keeps.ite | rfl | dsimp only
                | split | fail_if_no_progress (with_reducible refine Keeps.upd ?_ rfl)

theorem Keeps.jput {s0 s : State} (type nw : Nat) (data : List Word) (kk : Keeps s0 s) : Keeps s0 (s.jput type nw data).1 := by
  unfold State.jput
  repeat' first | intro _ | with_reducible assumption | with_reducible apply Keeps.setFlag | with_reducible apply Keeps.jrnAppend
                | with_reducible apply Keeps.ite | rfl | dsimp only | split | fail_if_no_progress (with_reducible refine Keeps.upd ?_ rfl)

theorem Keeps.jrnStore {s0 s : State} (seq : Nat) (ws : List Word) (kk : Keeps s0 s) : Keeps s0 (s.jrnStore seq ws) := by
  unfold State.jrnStore
  repeat' first | intro _ | with_reducible assumption | with_reducible apply Keeps.mramWritten | with_reducible apply Keeps.ite | rfl | dsimp only
                | split | fail_if_no_progress (with_reducible refine Keeps.upd ?_ rfl)

theorem Keeps.jrnWritten {s0 s : State} (kk : Keeps s0 s) : Keeps s0 (s.jrnWritten) := by
  unfold State.jrnWritten
  repeat' first | intro _ | with_reducible assumption | with_reducible apply Keeps.jrnStore | with_reducible apply Keeps.ite | rfl | dsimp only
                | split | fail_if_no_progress (with_reducible refine Keeps.upd ?_ rfl)

theorem Keeps.jrnConfirm {s0 s : State} (seq : Nat) (crc : Word) (kk : Keeps s0 s) : Keeps s0 (s.jrnConfirm seq crc) := by
  unfold State.jrnConfirm
  repeat' first | intro _ | with_reducible assumption | with_reducible apply Keeps.jrnCompare | with_reducible apply Keeps.ite | rfl | dsimp only
                | split | fail_if_no_progress (with_reducible refine Keeps.upd ?_ rfl)

theorem Keeps.drainMark {s0 s : State} (kk : Keeps s0 s) : Keeps s0 (s.drainMark) := by
  unfold State.drainMark
  repeat' first | intro _ | with_reducible assumption | with_reducible apply Keeps.jrnNumber | with_reducible apply Keeps.jrnStore
                | with_reducible apply Keeps.ite | rfl | dsimp only | split | fail_if_no_progress (with_reducible refine Keeps.upd ?_ rfl)

theorem Keeps.drainMarks {s0 : State} (n : Nat) {s : State} (kk : Keeps s0 s) : Keeps s0 (drainMarks n s) := by
  induction n generalizing s with
  | zero => exact kk
  | succ n ih => exact ih kk.drainMark

theorem Keeps.drainBuffer {s0 s : State} (kk : Keeps s0 s) : Keeps s0 (s.drainBuffer) := by
  unfold State.drainBuffer
  repeat' first | intro _ | with_reducible assumption | with_reducible apply Keeps.drainMarks | with_reducible apply Keeps.ite | rfl | dsimp only
                | split | fail_if_no_progress (with_reducible refine Keeps.upd ?_ rfl)

theorem Keeps.replayBatch {s0 s : State} (kk : Keeps s0 s) : Keeps s0 (s.replayBatch) := by
  unfold State.replayBatch
  repeat' first | intro _ | with_reducible assumption | with_reducible apply Keeps.wr | with_reducible apply Keeps.setFlag
                | with_reducible apply Keeps.fmemPut | with_reducible apply Keeps.ite | rfl | dsimp only | split
                | fail_if_no_progress (with_reducible refine Keeps.upd ?_ rfl)

theorem Keeps.replayJournal {s0 s : State} (kk : Keeps s0 s) : Keeps s0 (s.replayJournal) := by
  unfold State.replayJournal
  repeat' first | intro _ | with_reducible assumption | with_reducible apply Keeps.setFlag | with_reducible apply Keeps.iff
                | with_reducible apply Keeps.raise | with_reducible apply Keeps.drainBuffer | with_reducible apply Keeps.replayBatch
                | with_reducible apply Keeps.ite | rfl | dsimp only | split | fail_if_no_progress (with_reducible refine Keeps.upd ?_ rfl)

theorem Keeps.jrnRctl {s0 s : State} (v : Word) (kk : Keeps s0 s) : Keeps s0 (s.jrnRctl v) := by
  unfold State.jrnRctl
  repeat' first | intro _ | with_reducible assumption | with_reducible apply Keeps.iff | with_reducible apply Keeps.replayBatch
                | with_reducible apply Keeps.replayJournal | with_reducible apply Keeps.ite | rfl | dsimp only | split
                | fail_if_no_progress (with_reducible refine Keeps.upd ?_ rfl)

theorem Keeps.truState {s0 s : State} (v : Nat) (kk : Keeps s0 s) : Keeps s0 (s.truState v) := by
  unfold State.truState
  repeat' first | intro _ | with_reducible assumption | with_reducible apply Keeps.setFld | with_reducible apply Keeps.ite | rfl | dsimp only
                | split | fail_if_no_progress (with_reducible refine Keeps.upd ?_ rfl)

theorem Keeps.formExchange {s0 s : State} (kk : Keeps s0 s) : Keeps s0 (s.formExchange) := by
  unfold State.formExchange
  repeat' first | intro _ | with_reducible assumption | with_reducible apply Keeps.ite | rfl | dsimp only | split
                | fail_if_no_progress (with_reducible refine Keeps.upd ?_ rfl)

theorem Keeps.driveKill {s0 s : State} (on : Bool) (kk : Keeps s0 s) : Keeps s0 (s.driveKill on) := by
  unfold State.driveKill
  repeat' first | intro _ | with_reducible assumption | with_reducible apply Keeps.ite | rfl | dsimp only | split
                | fail_if_no_progress (with_reducible refine Keeps.upd ?_ rfl)

theorem Keeps.takeDetected {s0 s : State} (kk : Keeps s0 s) : Keeps s0 (s.takeDetected) := by
  unfold State.takeDetected
  repeat' first | intro _ | with_reducible assumption | with_reducible apply Keeps.ite | rfl | dsimp only | split
                | fail_if_no_progress (with_reducible refine Keeps.upd ?_ rfl)

theorem Keeps.leavePair {s0 s : State} (kk : Keeps s0 s) : Keeps s0 (s.leavePair) := by
  unfold State.leavePair
  repeat' first | intro _ | with_reducible assumption | with_reducible apply Keeps.setFlag | with_reducible apply Keeps.ite | rfl | dsimp only
                | split | fail_if_no_progress (with_reducible refine Keeps.upd ?_ rfl)

theorem Keeps.truKill {s0 s : State} (v : Word) (kk : Keeps s0 s) : Keeps s0 (s.truKill v) := by
  unfold State.truKill
  repeat' first | intro _ | with_reducible assumption | with_reducible apply Keeps.driveKill | with_reducible apply Keeps.ite | rfl | dsimp only
                | split | fail_if_no_progress (with_reducible refine Keeps.upd ?_ rfl)

theorem Keeps.linkLost {s0 s : State} (kk : Keeps s0 s) : Keeps s0 (s.linkLost) := by
  unfold State.linkLost
  repeat' first | intro _ | with_reducible assumption | with_reducible apply Keeps.setFld | with_reducible apply Keeps.setFlag
                | with_reducible apply Keeps.raise | with_reducible apply Keeps.truState | with_reducible apply Keeps.driveKill
                | with_reducible apply Keeps.takeDetected | with_reducible apply Keeps.ite | rfl | dsimp only | split
                | fail_if_no_progress (with_reducible refine Keeps.upd ?_ rfl)

theorem Keeps.trussEnabled {s0 s : State} (on : Bool) (kk : Keeps s0 s) : Keeps s0 (s.trussEnabled on) := by
  unfold State.trussEnabled
  repeat' first | intro _ | with_reducible assumption | with_reducible apply Keeps.setFlag | with_reducible apply Keeps.truState
                | with_reducible apply Keeps.leavePair | with_reducible apply Keeps.ite | rfl | dsimp only | split
                | fail_if_no_progress (with_reducible refine Keeps.upd ?_ rfl)

theorem Keeps.lateBoundary {s0 s : State} (kk : Keeps s0 s) : Keeps s0 (s.lateBoundary) := by
  unfold State.lateBoundary
  repeat' first | intro _ | with_reducible assumption | with_reducible apply Keeps.setFlag | with_reducible apply Keeps.count
                | with_reducible apply Keeps.linkLost | with_reducible apply Keeps.ite | rfl | dsimp only | split
                | fail_if_no_progress (with_reducible refine Keeps.upd ?_ rfl)

theorem Keeps.cmpFail {s0 s : State} (twinSuspect : Bool) (kk : Keeps s0 s) : Keeps s0 (s.cmpFail twinSuspect) := by
  unfold State.cmpFail
  repeat' first | intro _ | with_reducible assumption | with_reducible apply Keeps.setFlag | with_reducible apply Keeps.raise
                | with_reducible apply Keeps.driveKill | with_reducible apply Keeps.takeDetected | with_reducible apply Keeps.ite | rfl | dsimp only
                | split | fail_if_no_progress (with_reducible refine Keeps.upd ?_ rfl)

theorem Keeps.onTime {s0 s : State} (x : TwinExchange) (kk : Keeps s0 s) : Keeps s0 (s.onTime x) := by
  unfold State.onTime
  repeat' first | intro _ | with_reducible assumption | with_reducible apply Keeps.setFlag | with_reducible apply Keeps.raise
                | with_reducible apply Keeps.takeDetected | with_reducible apply Keeps.cmpFail | with_reducible apply Keeps.ite | rfl | dsimp only | split
                | fail_if_no_progress (with_reducible refine Keeps.upd ?_ rfl)

theorem Keeps.trussDeadline {s0 s : State} (kk : Keeps s0 s) : Keeps s0 (s.trussDeadline) := by
  unfold State.trussDeadline
  repeat' first | intro _ | with_reducible assumption | with_reducible apply Keeps.lateBoundary | with_reducible apply Keeps.onTime
                | with_reducible apply Keeps.ite | rfl | dsimp only | split | fail_if_no_progress (with_reducible refine Keeps.upd ?_ rfl)

theorem Keeps.takeover {s0 s : State} (kk : Keeps s0 s) : Keeps s0 (s.takeover) := by
  unfold State.takeover
  repeat' first | intro _ | with_reducible assumption | with_reducible apply Keeps.setFlag | with_reducible apply Keeps.raise
                | with_reducible apply Keeps.truState | with_reducible apply Keeps.leavePair | with_reducible apply Keeps.ite | rfl | dsimp only | split
                | fail_if_no_progress (with_reducible refine Keeps.upd ?_ rfl)

theorem Keeps.pairUp {s0 s : State} (lead : Bool) (kk : Keeps s0 s) : Keeps s0 (s.pairUp lead) := by
  unfold State.pairUp
  repeat' first | intro _ | with_reducible assumption | with_reducible apply Keeps.setFlag | with_reducible apply Keeps.truState
                | with_reducible apply Keeps.ite | rfl | dsimp only | split | fail_if_no_progress (with_reducible refine Keeps.upd ?_ rfl)

theorem Keeps.isoJoins {s0 s : State} (kk : Keeps s0 s) : Keeps s0 (s.isoJoins) := by
  unfold State.isoJoins
  repeat' first | intro _ | with_reducible assumption | with_reducible apply Keeps.setFld | with_reducible apply Keeps.pairUp
                | with_reducible apply Keeps.ite | rfl | dsimp only | split | fail_if_no_progress (with_reducible refine Keeps.upd ?_ rfl)

theorem Keeps.trussBoundary {s0 s : State} (kk : Keeps s0 s) : Keeps s0 (s.trussBoundary) := by
  unfold State.trussBoundary
  repeat' first | intro _ | with_reducible assumption | with_reducible apply Keeps.setFlag | with_reducible apply Keeps.takeover
                | with_reducible apply Keeps.pairUp | with_reducible apply Keeps.isoJoins | with_reducible apply Keeps.ite | rfl | dsimp only | split
                | fail_if_no_progress (with_reducible refine Keeps.upd ?_ rfl)

theorem Keeps.wrRunOf {s0 : State} (a : Nat → Nat) (i : Nat) (ws : List Word) {s : State} (kk : Keeps s0 s) : Keeps s0 (s.wrRunOf a i ws) := by
  induction ws generalizing i s with
  | nil => exact kk
  | cons w ws ih => exact ih (i + 1) (kk.wr _ w)

theorem Keeps.newNonce {s0 s : State} (kk : Keeps s0 s) : Keeps s0 (s.newNonce) := by
  unfold State.newNonce
  repeat' first | intro _ | with_reducible assumption | with_reducible apply Keeps.wr | with_reducible apply Keeps.each
                | with_reducible apply Keeps.spend | with_reducible apply Keeps.ite | rfl | dsimp only | split
                | fail_if_no_progress (with_reducible refine Keeps.upd ?_ rfl)

theorem Keeps.lockHit {s0 s : State} (det : Nat) (kk : Keeps s0 s) : Keeps s0 (s.lockHit det) := by
  unfold State.lockHit
  repeat' first | intro _ | with_reducible assumption | with_reducible apply Keeps.setFlag | with_reducible apply Keeps.raiseLater
                | with_reducible apply Keeps.ite | rfl | dsimp only | split | fail_if_no_progress (with_reducible refine Keeps.upd ?_ rfl)

theorem Keeps.setGrant {s0 s : State} (bits : Nat) (ends : Option Nat) (kk : Keeps s0 s) : Keeps s0 (s.setGrant bits ends) := by
  unfold State.setGrant
  repeat' first | intro _ | with_reducible assumption | with_reducible apply Keeps.setFld | with_reducible apply Keeps.raise
                | with_reducible apply Keeps.ite | rfl | dsimp only | split | fail_if_no_progress (with_reducible refine Keeps.upd ?_ rfl)

theorem Keeps.endGrant {s0 s : State} (kk : Keeps s0 s) : Keeps s0 (s.endGrant) := by
  unfold State.endGrant
  repeat' first | intro _ | with_reducible assumption | with_reducible apply Keeps.setGrant | with_reducible apply Keeps.ite | rfl | dsimp only
                | split | fail_if_no_progress (with_reducible refine Keeps.upd ?_ rfl)

theorem Keeps.setOwner {s0 s : State} (k : Nat) (key : List Byte) (kk : Keeps s0 s) : Keeps s0 (s.setOwner k key) := by
  unfold State.setOwner
  repeat' first | intro _ | with_reducible assumption | with_reducible apply Keeps.setFlag | with_reducible apply Keeps.ite | rfl | dsimp only
                | split | fail_if_no_progress (with_reducible refine Keeps.upd ?_ rfl)

theorem Keeps.setHostKey {s0 s : State} (key : List Byte) (kk : Keeps s0 s) : Keeps s0 (s.setHostKey key) := by
  unfold State.setHostKey
  repeat' first | intro _ | with_reducible assumption | with_reducible apply Keeps.setFlag | with_reducible apply Keeps.ite | rfl | dsimp only
                | split | fail_if_no_progress (with_reducible refine Keeps.upd ?_ rfl)

theorem Keeps.setMessageKey {s0 s : State} (k : Nat) (key : List Byte) (kk : Keeps s0 s) : Keeps s0 (s.setMessageKey k key) := by
  unfold State.setMessageKey
  repeat' first | intro _ | with_reducible assumption | with_reducible apply Keeps.setFlag | with_reducible apply Keeps.ite | rfl | dsimp only
                | split | fail_if_no_progress (with_reducible refine Keeps.upd ?_ rfl)

theorem Keeps.releaseOwner {s0 s : State} (kk : Keeps s0 s) : Keeps s0 (s.releaseOwner) := by
  unfold State.releaseOwner
  repeat' first | intro _ | with_reducible assumption | with_reducible apply Keeps.setFlag | with_reducible apply Keeps.each
                | with_reducible apply Keeps.endGrant | with_reducible apply Keeps.setOwner | with_reducible apply Keeps.setHostKey
                | with_reducible apply Keeps.setMessageKey | with_reducible apply Keeps.ite | rfl | dsimp only | split
                | fail_if_no_progress (with_reducible refine Keeps.upd ?_ rfl)

theorem Keeps.keyEffect {s0 s : State} (c : KeyCmd) (kk : Keeps s0 s) : Keeps s0 (s.keyEffect c) := by
  unfold State.keyEffect
  repeat' first | intro _ | with_reducible assumption | with_reducible apply Keeps.wr | with_reducible apply Keeps.setGrant
                | with_reducible apply Keeps.setOwner | with_reducible apply Keeps.setHostKey | with_reducible apply Keeps.setMessageKey
                | with_reducible apply Keeps.releaseOwner | with_reducible apply Keeps.ite | rfl | dsimp only | split
                | fail_if_no_progress (with_reducible refine Keeps.upd ?_ rfl)

theorem Keeps.newPolicy {s0 s : State} (kk : Keeps s0 s) : Keeps s0 (s.newPolicy) := by
  unfold State.newPolicy
  repeat' first | intro _ | with_reducible assumption | with_reducible apply Keeps.setFlag | with_reducible apply Keeps.ite | rfl | dsimp only | split
                | fail_if_no_progress (with_reducible refine Keeps.upd ?_ rfl)

theorem Keeps.keyGo {s0 s : State} (v : Word) (stored : Bool) (kk : Keeps s0 s) : Keeps s0 (s.keyGo v stored) := by
  unfold State.keyGo
  repeat' first | intro _ | with_reducible assumption | with_reducible apply Keeps.setFld | with_reducible apply Keeps.pkNext
                | with_reducible apply Keeps.raise | with_reducible apply Keeps.keyEffect | with_reducible apply Keeps.ite | rfl | dsimp only | split
                | fail_if_no_progress (with_reducible refine Keeps.upd ?_ rfl)

theorem Keeps.attestGo {s0 s : State} (v : Word) (cfgCrc : Word) (kk : Keeps s0 s) : Keeps s0 (s.attestGo v cfgCrc) := by
  unfold State.attestGo
  repeat' first | intro _ | with_reducible assumption | with_reducible apply Keeps.setFlag | with_reducible apply Keeps.pkNext
                | with_reducible apply Keeps.ite | rfl | dsimp only | split | fail_if_no_progress (with_reducible refine Keeps.upd ?_ rfl)

theorem Keeps.hostCmdChecked {s0 s : State} (r : Nat) (kk : Keeps s0 s) : Keeps s0 (s.hostCmdChecked r) := by
  unfold State.hostCmdChecked
  repeat' first | intro _ | with_reducible assumption | with_reducible apply Keeps.wr | with_reducible apply Keeps.setFld
                | with_reducible apply Keeps.count | with_reducible apply Keeps.raise | with_reducible apply Keeps.ite | rfl | dsimp only | split
                | fail_if_no_progress (with_reducible refine Keeps.upd ?_ rfl)

theorem Keeps.hostCmdBegins {s0 s : State} (r : Nat) (kk : Keeps s0 s) : Keeps s0 (s.hostCmdBegins r) := by
  unfold State.hostCmdBegins
  repeat' first | intro _ | with_reducible assumption | with_reducible apply Keeps.spend | with_reducible apply Keeps.ite | rfl | dsimp only | split
                | fail_if_no_progress (with_reducible refine Keeps.upd ?_ rfl)

theorem Keeps.pegGrant {s0 s : State} (v : Word) (kk : Keeps s0 s) : Keeps s0 (s.pegGrant v) := by
  unfold State.pegGrant
  repeat' first | intro _ | with_reducible assumption | with_reducible apply Keeps.endGrant | with_reducible apply Keeps.ite | rfl | dsimp only
                | split | fail_if_no_progress (with_reducible refine Keeps.upd ?_ rfl)

theorem Keeps.directHit {s0 s : State} (a : Nat) (kk : Keeps s0 s) : Keeps s0 (s.directHit a) := by
  unfold State.directHit
  repeat' first | intro _ | with_reducible assumption | with_reducible apply Keeps.setFlag | with_reducible apply Keeps.txnRefuse
                | with_reducible apply Keeps.raise | with_reducible apply Keeps.ite | rfl | dsimp only | split
                | fail_if_no_progress (with_reducible refine Keeps.upd ?_ rfl)

end Sys2Proof.Machine
end

