-- ==== Sys2Proof/Laws/KeepsEngines.lean ====
section
/-! SUPPORT. Laws: what the operations of the engines, of the PWM units, the load switches and the ADC keep. -/
set_option linter.unusedTactic false
set_option linter.unreachableTactic false
namespace Sys2Proof.Machine
theorem Keeps.updEn {s0 s : State} (e : Nat) (f : Eng → Eng) (kk : Keeps s0 s) : Keeps s0 (s.updEn e f) := by
  unfold State.updEn
  repeat' first | intro _ | with_reducible assumption | with_reducible apply Keeps.setEn | with_reducible apply Keeps.ite | rfl | dsimp only
                | split | fail_if_no_progress (with_reducible refine Keeps.upd ?_ rfl)

theorem Keeps.updRun {s0 s : State} (e : Nat) (f : Eng → Eng) (kk : Keeps s0 s) : Keeps s0 (s.updRun e f) := by
  unfold State.updRun
  repeat' first | intro _ | with_reducible assumption | with_reducible apply Keeps.updEn | with_reducible apply Keeps.ite | rfl | dsimp only | split
                | fail_if_no_progress (with_reducible refine Keeps.upd ?_ rfl)

theorem Keeps.putG {s0 s : State} (e r : Nat) (x : TW) (kk : Keeps s0 s) : Keeps s0 (s.putG e r x) := by
  unfold State.putG
  repeat' first | intro _ | with_reducible assumption | with_reducible apply Keeps.updEn | with_reducible apply Keeps.ite | rfl | dsimp only
                | split | fail_if_no_progress (with_reducible refine Keeps.upd ?_ rfl)

theorem Keeps.putLane {s0 s : State} (e r n : Nat) (x : TW) (kk : Keeps s0 s) : Keeps s0 (s.putLane e r n x) := by
  unfold State.putLane
  repeat' first | intro _ | with_reducible assumption | with_reducible apply Keeps.updEn | with_reducible apply Keeps.ite | rfl | dsimp only
                | split | fail_if_no_progress (with_reducible refine Keeps.upd ?_ rfl)

theorem Keeps.putP {s0 s : State} (e r : Nat) (b : Bool) (kk : Keeps s0 s) : Keeps s0 (s.putP e r b) := by
  unfold State.putP
  repeat' first | intro _ | with_reducible assumption | with_reducible apply Keeps.updEn | with_reducible apply Keeps.ite | rfl | dsimp only
                | split | fail_if_no_progress (with_reducible refine Keeps.upd ?_ rfl)

theorem Keeps.abandon {s0 s : State} (e cause : Nat) (kk : Keeps s0 s) : Keeps s0 (s.abandon e cause) := by
  unfold State.abandon
  repeat' first | intro _ | with_reducible assumption | with_reducible apply Keeps.setFld | with_reducible apply Keeps.setFlag
                | with_reducible apply Keeps.count | with_reducible apply Keeps.txnDropTask | with_reducible apply Keeps.setEn
                | with_reducible apply Keeps.raise | with_reducible apply Keeps.ite | rfl | dsimp only | split
                | fail_if_no_progress (with_reducible refine Keeps.upd ?_ rfl)

theorem Keeps.mismatch {s0 s : State} (i : Issue) (b : TW) (addr : Word) (kk : Keeps s0 s) : Keeps s0 (s.mismatch i b addr) := by
  unfold State.mismatch
  repeat' first | intro _ | with_reducible assumption | with_reducible apply Keeps.wr | with_reducible apply Keeps.count
                | with_reducible apply Keeps.raiseDowel | with_reducible apply Keeps.ite | rfl | dsimp only | split
                | fail_if_no_progress (with_reducible refine Keeps.upd ?_ rfl)

theorem Keeps.checked {s0 s : State} (i : Issue) (full : Bool) (ops : List TW) (f : State → State)
    (hf : ∀ t, Keeps s0 t → Keeps s0 (f t)) (kk : Keeps s0 s) : Keeps s0 (s.checked i full ops f) := by
  unfold State.checked
  split
  · exact kk.mismatch _ _ _
  · exact hf s kk

theorem Keeps.dual {s0 s : State} (i : Issue) (ops : List TW) (res : Word) (f : State → State)
    (hf : ∀ t, Keeps s0 t → Keeps s0 (f t)) (kk : Keeps s0 s) : Keeps s0 (s.dual i ops res f) :=
  kk.checked i true ops _ fun t kt => Keeps.ite (kt.mismatch _ _ _) (hf t kt)

theorem Keeps.ruled {s0 s : State} (i : Issue) (full : Bool) (ops : List TW) (res : Word) (f : State → State)
    (hf : ∀ t, Keeps s0 t → Keeps s0 (f t)) (kk : Keeps s0 s) : Keeps s0 (s.ruled i full ops res f) :=
  Keeps.ite (kk.dual i ops res f hf) (kk.checked i false ops f hf)

theorem Keeps.issueAfter {s0 s : State} (e : Nat) (opc : Nat) (h : Hdr) (f : Fields) (k : Issue → Bool → State → State)
    (hk : ∀ i g t, Keeps s0 t → Keeps s0 (k i g t)) (kk : Keeps s0 s) : Keeps s0 (s.issueAfter e opc h f k) := by
  unfold State.issueAfter
  split
  · exact Keeps.ite ((hk _ _ _ (kk.updEn _ _)).updEn _ _) kk
  · exact kk

theorem Keeps.issueWith {s0 s : State} (e : Nat) (opc : Nat) (h : Hdr) (f : Fields) (k : Issue → Bool → State → State)
    (hk : ∀ i g t, Keeps s0 t → Keeps s0 (k i g t)) (kk : Keeps s0 s) : Keeps s0 (s.issueWith e opc h f k) := by
  unfold State.issueWith
  refine Keeps.ite (kk.issueAfter _ _ _ _ _ hk) ?_
  cases Isa.row? opc with
  | none => exact kk.abandon _ _
  | some r =>
    extract_lets
    repeat' first | with_reducible assumption | with_reducible apply Keeps.ite | with_reducible apply Keeps.abandon
    exact hk _ _ _ (Keeps.ite ((kk.setEn _ _).at _) (((kk.setEn _ _).at _).count _ _ _ _))

theorem Keeps.issue {s0 s : State} (e : Nat) (opc : Nat) (h : Hdr) (f : Fields) (eff : Issue → State → State)
    (hk : ∀ i t, Keeps s0 t → Keeps s0 (eff i t)) (kk : Keeps s0 s) : Keeps s0 (s.issue e opc h f eff) :=
  kk.issueWith e opc h f _ fun _ _ _ kt => Keeps.ite (hk _ _ kt) kt

theorem Keeps.holdFor {s0 s : State} (i : Issue) (n : Nat) (kk : Keeps s0 s) : Keeps s0 (s.holdFor i n) := by
  unfold State.holdFor
  repeat' first | intro _ | with_reducible assumption | with_reducible apply Keeps.updRun | with_reducible apply Keeps.ite | rfl | dsimp only | split
                | fail_if_no_progress (with_reducible refine Keeps.upd ?_ rfl)

theorem Keeps.waitFor {s0 s : State} (i : Issue) (w : EngWait) (kk : Keeps s0 s) : Keeps s0 (s.waitFor i w) := by
  unfold State.waitFor
  repeat' first | intro _ | with_reducible assumption | with_reducible apply Keeps.updRun | with_reducible apply Keeps.ite | rfl | dsimp only | split
                | fail_if_no_progress (with_reducible refine Keeps.upd ?_ rfl)

theorem Keeps.waitOver {s0 s : State} (e n : Nat) (kk : Keeps s0 s) : Keeps s0 (s.waitOver e n) := by
  unfold State.waitOver
  repeat' first | intro _ | with_reducible assumption | with_reducible apply Keeps.spend | with_reducible apply Keeps.updEn
                | with_reducible apply Keeps.ite | rfl | dsimp only | split | fail_if_no_progress (with_reducible refine Keeps.upd ?_ rfl)

theorem Keeps.answer {s0 s : State} (e n : Nat) (keys : List Nat) (kk : Keeps s0 s) : Keeps s0 (s.answer e n keys) := by
  unfold State.answer
  repeat' first | intro _ | with_reducible assumption | with_reducible apply Keeps.updEn | with_reducible apply Keeps.waitOver
                | with_reducible apply Keeps.ite | rfl | dsimp only | split | fail_if_no_progress (with_reducible refine Keeps.upd ?_ rfl)

theorem Keeps.answerG {s0 s : State} (e n d : Nat) (w : Word) (kk : Keeps s0 s) : Keeps s0 (s.answerG e n d w) := by
  unfold State.answerG
  repeat' first | intro _ | with_reducible assumption | with_reducible apply Keeps.putG | with_reducible apply Keeps.answer
                | with_reducible apply Keeps.ite | rfl | dsimp only | split | fail_if_no_progress (with_reducible refine Keeps.upd ?_ rfl)

theorem Keeps.answerAt {s0 s : State} (e at_ p : Nat) (b : Bool) (kk : Keeps s0 s) : Keeps s0 (s.answerAt e at_ p b) := by
  unfold State.answerAt
  repeat' first | intro _ | with_reducible assumption | with_reducible apply Keeps.updEn | with_reducible apply Keeps.putP
                | with_reducible apply Keeps.ite | rfl | dsimp only | split | fail_if_no_progress (with_reducible refine Keeps.upd ?_ rfl)

theorem Keeps.readyIn {s0 s : State} (i : Issue) (n : Nat) (keys : List Nat) (kk : Keeps s0 s) : Keeps s0 (s.readyIn i n keys) := by
  unfold State.readyIn
  repeat' first | intro _ | with_reducible assumption | with_reducible apply Keeps.updEn | with_reducible apply Keeps.ite | rfl | dsimp only
                | split | fail_if_no_progress (with_reducible refine Keeps.upd ?_ rfl)

theorem Keeps.binR {s0 s : State} (e opc : Nat) (h : Hdr) (f : FmtR) (full : Bool) (op : TW → TW → TW) (kk : Keeps s0 s) :
    Keeps s0 (s.binR e opc h f full op) := by
  unfold State.binR
  repeat' first | intro _ | with_reducible assumption | with_reducible apply Keeps.putG | with_reducible apply Keeps.ruled
                | with_reducible apply Keeps.issue | with_reducible apply Keeps.ite | rfl | dsimp only | split
                | fail_if_no_progress (with_reducible refine Keeps.upd ?_ rfl)

theorem Keeps.unR {s0 s : State} (e opc : Nat) (h : Hdr) (f : FmtR) (full : Bool) (op : TW → TW) (kk : Keeps s0 s) :
    Keeps s0 (s.unR e opc h f full op) := by
  unfold State.unR
  repeat' first | intro _ | with_reducible assumption | with_reducible apply Keeps.putG | with_reducible apply Keeps.ruled
                | with_reducible apply Keeps.issue | with_reducible apply Keeps.ite | rfl | dsimp only | split
                | fail_if_no_progress (with_reducible refine Keeps.upd ?_ rfl)

theorem Keeps.binI {s0 s : State} (e opc : Nat) (h : Hdr) (f : FmtI) (full : Bool) (op : TW → TW → TW) (kk : Keeps s0 s) :
    Keeps s0 (s.binI e opc h f full op) := by
  unfold State.binI
  repeat' first | intro _ | with_reducible assumption | with_reducible apply Keeps.putG | with_reducible apply Keeps.ruled
                | with_reducible apply Keeps.issue | with_reducible apply Keeps.ite | rfl | dsimp only | split
                | fail_if_no_progress (with_reducible refine Keeps.upd ?_ rfl)

theorem Keeps.lanes {s0 s : State} (e r : Nat) (mask : BitVec 8) (res : Nat → TW) (kk : Keeps s0 s) : Keeps s0 (s.lanes e r mask res) := by
  unfold State.lanes
  repeat' first | intro _ | with_reducible assumption | with_reducible apply Keeps.eachOf | with_reducible apply Keeps.putLane
                | with_reducible apply Keeps.ite | rfl | dsimp only | split | fail_if_no_progress (with_reducible refine Keeps.upd ?_ rfl)

theorem Keeps.binV {s0 s : State} (e opc : Nat) (h : Hdr) (f : FmtR) (full : Bool) (op : TW → TW → TW) (kk : Keeps s0 s) :
    Keeps s0 (s.binV e opc h f full op) := by
  unfold State.binV
  repeat' first | intro _ | with_reducible assumption | with_reducible apply Keeps.ruled | with_reducible apply Keeps.issue
                | with_reducible apply Keeps.lanes | with_reducible apply Keeps.ite | rfl | dsimp only | split
                | fail_if_no_progress (with_reducible refine Keeps.upd ?_ rfl)

theorem Keeps.unV {s0 s : State} (e opc : Nat) (h : Hdr) (f : FmtR) (op : Word → Word) (kk : Keeps s0 s) : Keeps s0 (s.unV e opc h f op) := by
  unfold State.unV
  repeat' first | intro _ | with_reducible assumption | with_reducible apply Keeps.dual | with_reducible apply Keeps.issue
                | with_reducible apply Keeps.lanes | with_reducible apply Keeps.ite | rfl | dsimp only | split
                | fail_if_no_progress (with_reducible refine Keeps.upd ?_ rfl)

theorem Keeps.jump {s0 s : State} (i : Issue) (t : Nat) (kk : Keeps s0 s) : Keeps s0 (s.jump i t) := by
  unfold State.jump
  repeat' first | intro _ | with_reducible assumption | with_reducible apply Keeps.updRun | with_reducible apply Keeps.ite | rfl | dsimp only | split
                | fail_if_no_progress (with_reducible refine Keeps.upd ?_ rfl)

theorem Keeps.division {s0 s : State} (e opc : Nat) (h : Hdr) (f : FmtR) (op : Word → Word → Word × Word) (kk : Keeps s0 s) :
    Keeps s0 (s.division e opc h f op) := by
  unfold State.division
  repeat' first | intro _ | with_reducible assumption | with_reducible apply Keeps.spend | with_reducible apply Keeps.putG
                | with_reducible apply Keeps.dual | with_reducible apply Keeps.issue | with_reducible apply Keeps.ite | rfl | dsimp only | split
                | fail_if_no_progress (with_reducible refine Keeps.upd ?_ rfl)

theorem Keeps.predOp {s0 s : State} (e opc : Nat) (h : Hdr) (f : FmtR) (op : Bool → Bool → Bool) (kk : Keeps s0 s) :
    Keeps s0 (s.predOp e opc h f op) := by
  unfold State.predOp
  repeat' first | intro _ | with_reducible assumption | with_reducible apply Keeps.putP | with_reducible apply Keeps.issue
                | with_reducible apply Keeps.ite | rfl | dsimp only | split | fail_if_no_progress (with_reducible refine Keeps.upd ?_ rfl)

theorem Keeps.pwmChanged {s0 s : State} (c : Nat) (kk : Keeps s0 s) : Keeps s0 (s.pwmChanged c) := by
  unfold State.pwmChanged
  repeat' first | intro _ | with_reducible assumption | with_reducible apply Keeps.pwmMoved | with_reducible apply Keeps.ite | rfl | dsimp only
                | split | fail_if_no_progress (with_reducible refine Keeps.upd ?_ rfl)

theorem Keeps.unitChanged {s0 s : State} (u : Nat) (kk : Keeps s0 s) : Keeps s0 (s.unitChanged u) := by
  unfold State.unitChanged
  repeat' first | intro _ | with_reducible assumption | with_reducible apply Keeps.each | with_reducible apply Keeps.driver
                | with_reducible apply Keeps.pwmChanged | with_reducible apply Keeps.ite | rfl | dsimp only | split
                | fail_if_no_progress (with_reducible refine Keeps.upd ?_ rfl)

theorem Keeps.pinForce {s0 s : State} (u : Nat) (kk : Keeps s0 s) : Keeps s0 (s.pinForce u) := by
  unfold State.pinForce
  repeat' first | intro _ | with_reducible assumption | with_reducible apply Keeps.forceUnit | with_reducible apply Keeps.unitChanged
                | with_reducible apply Keeps.ite | rfl | dsimp only | split | fail_if_no_progress (with_reducible refine Keeps.upd ?_ rfl)

theorem Keeps.blankEnds {s0 s : State} (old : State) (kk : Keeps s0 s) : Keeps s0 (s.blankEnds old) :=
  kk.each _ _ fun _ _ kt => Keeps.ite (kt.pinForce _) kt

theorem Keeps.holdUnit {s0 s : State} (u : Nat) (kk : Keeps s0 s) : Keeps s0 (s.holdUnit u) := by
  unfold State.holdUnit
  repeat' first | intro _ | with_reducible assumption | with_reducible apply Keeps.each | with_reducible apply Keeps.setPch
                | with_reducible apply Keeps.ite | rfl | dsimp only | split | fail_if_no_progress (with_reducible refine Keeps.upd ?_ rfl)

theorem Keeps.flatchClear {s0 s : State} (u : Nat) (kk : Keeps s0 s) : Keeps s0 (s.flatchClear u) := by
  unfold State.flatchClear
  repeat' first | intro _ | with_reducible assumption | with_reducible apply Keeps.wr | with_reducible apply Keeps.unitChanged
                | with_reducible apply Keeps.holdUnit | with_reducible apply Keeps.ite | rfl | dsimp only | split
                | fail_if_no_progress (with_reducible refine Keeps.upd ?_ rfl)

theorem Keeps.transfer {s0 s : State} (c : Nat) (kk : Keeps s0 s) : Keeps s0 (s.transfer c) := by
  unfold State.transfer
  repeat' first | intro _ | with_reducible assumption | with_reducible apply Keeps.wr | with_reducible apply Keeps.setFlag
                | with_reducible apply Keeps.count | with_reducible apply Keeps.setPch | with_reducible apply Keeps.ite | rfl | dsimp only | split
                | fail_if_no_progress (with_reducible refine Keeps.upd ?_ rfl)

theorem Keeps.transferOdd {s0 s : State} (c : Nat) (kk : Keeps s0 s) : Keeps s0 (s.transferOdd c) := by
  unfold State.transferOdd
  repeat' first | intro _ | with_reducible assumption | with_reducible apply Keeps.wr | with_reducible apply Keeps.setPch
                | with_reducible apply Keeps.ite | rfl | dsimp only | split | fail_if_no_progress (with_reducible refine Keeps.upd ?_ rfl)

theorem Keeps.beginSingle {s0 s : State} (c : Nat) (kk : Keeps s0 s) : Keeps s0 (s.beginSingle c) := by
  unfold State.beginSingle
  repeat' first | intro _ | with_reducible assumption | with_reducible apply Keeps.setFlag | with_reducible apply Keeps.count
                | with_reducible apply Keeps.setPch | with_reducible apply Keeps.ite | rfl | dsimp only | split
                | fail_if_no_progress (with_reducible refine Keeps.upd ?_ rfl)

theorem Keeps.beginPair {s0 s : State} (c : Nat) (kk : Keeps s0 s) : Keeps s0 (s.beginPair c) := by
  unfold State.beginPair
  repeat' first | intro _ | with_reducible assumption | with_reducible apply Keeps.setFlag | with_reducible apply Keeps.count
                | with_reducible apply Keeps.setPch | with_reducible apply Keeps.ite | rfl | dsimp only | split
                | fail_if_no_progress (with_reducible refine Keeps.upd ?_ rfl)

theorem Keeps.adoptCfg {s0 s : State} (c : Nat) (kk : Keeps s0 s) : Keeps s0 (s.adoptCfg c) := by
  unfold State.adoptCfg
  repeat' first | intro _ | with_reducible assumption | with_reducible apply Keeps.setPch | with_reducible apply Keeps.ite | rfl | dsimp only | split
                | fail_if_no_progress (with_reducible refine Keeps.upd ?_ rfl)

theorem Keeps.beginOwn {s0 s : State} (c : Nat) (kk : Keeps s0 s) : Keeps s0 (s.beginOwn c) := by
  unfold State.beginOwn
  repeat' first | intro _ | with_reducible assumption | with_reducible apply Keeps.pwmChanged | with_reducible apply Keeps.transfer
                | with_reducible apply Keeps.transferOdd | with_reducible apply Keeps.beginSingle | with_reducible apply Keeps.beginPair
                | with_reducible apply Keeps.ite | rfl | dsimp only | split | fail_if_no_progress (with_reducible refine Keeps.upd ?_ rfl)

theorem Keeps.periodBoundary {s0 s : State} (c : Nat) (kk : Keeps s0 s) : Keeps s0 (s.periodBoundary c) := by
  unfold State.periodBoundary
  repeat' first | intro _ | with_reducible assumption | with_reducible apply Keeps.pwmChanged | with_reducible apply Keeps.blankEnds
                | with_reducible apply Keeps.transferOdd | with_reducible apply Keeps.adoptCfg | with_reducible apply Keeps.beginOwn
                | with_reducible apply Keeps.ite | rfl | dsimp only | split | fail_if_no_progress (with_reducible refine Keeps.upd ?_ rfl)

theorem Keeps.dutyEdge {s0 s : State} (c : Nat) (kk : Keeps s0 s) : Keeps s0 (s.dutyEdge c) := by
  unfold State.dutyEdge
  repeat' first | intro _ | with_reducible assumption | with_reducible apply Keeps.setPch | with_reducible apply Keeps.pwmChanged
                | with_reducible apply Keeps.blankEnds | with_reducible apply Keeps.ite | rfl | dsimp only | split
                | fail_if_no_progress (with_reducible refine Keeps.upd ?_ rfl)

theorem Keeps.deadEnds {s0 s : State} (c : Nat) (tout : Bool) (kk : Keeps s0 s) : Keeps s0 (s.deadEnds c tout) := by
  unfold State.deadEnds
  repeat' first | intro _ | with_reducible assumption | with_reducible apply Keeps.setFlag | with_reducible apply Keeps.setPch
                | with_reducible apply Keeps.blankEnds | with_reducible apply Keeps.ite | rfl | dsimp only | split
                | fail_if_no_progress (with_reducible refine Keeps.upd ?_ rfl)

theorem Keeps.loadCounter {s0 s : State} (c v : Nat) (kk : Keeps s0 s) : Keeps s0 (s.loadCounter c v) := by
  unfold State.loadCounter
  repeat' first | intro _ | with_reducible assumption | with_reducible apply Keeps.setPch | with_reducible apply Keeps.pwmChanged
                | with_reducible apply Keeps.blankEnds | with_reducible apply Keeps.periodBoundary | with_reducible apply Keeps.ite | rfl | dsimp only
                | split | fail_if_no_progress (with_reducible refine Keeps.upd ?_ rfl)

theorem Keeps.startUnit {s0 s : State} (u : Nat) (atSync : Bool) (kk : Keeps s0 s) : Keeps s0 (s.startUnit u atSync) := by
  unfold State.startUnit
  repeat' first | intro _ | with_reducible assumption | with_reducible apply Keeps.each | with_reducible apply Keeps.setPch
                | with_reducible apply Keeps.periodBoundary | with_reducible apply Keeps.loadCounter | with_reducible apply Keeps.ite | rfl
                | dsimp only | split | fail_if_no_progress (with_reducible refine Keeps.upd ?_ rfl)

theorem Keeps.setSyncs {s0 s : State} (u : Nat) (l : List (Nat × Nat)) (kk : Keeps s0 s) : Keeps s0 (s.setSyncs u l) := by
  unfold State.setSyncs
  repeat' first | intro _ | with_reducible assumption | with_reducible apply Keeps.ite | rfl | dsimp only | split
                | fail_if_no_progress (with_reducible refine Keeps.upd ?_ rfl)

theorem Keeps.syncComes {s0 s : State} (u lo hi : Nat) (kk : Keeps s0 s) : Keeps s0 (s.syncComes u lo hi) := by
  unfold State.syncComes
  repeat' first | intro _ | with_reducible assumption | with_reducible apply Keeps.setSyncs | with_reducible apply Keeps.ite | rfl | dsimp only
                | split | fail_if_no_progress (with_reducible refine Keeps.upd ?_ rfl)

theorem Keeps.frameSyncs {s0 s : State} (kk : Keeps s0 s) : Keeps s0 (s.frameSyncs) := by
  unfold State.frameSyncs
  repeat' first | intro _ | with_reducible assumption | with_reducible apply Keeps.each | with_reducible apply Keeps.setSyncs
                | with_reducible apply Keeps.syncComes | with_reducible apply Keeps.ite | rfl | dsimp only | split
                | fail_if_no_progress (with_reducible refine Keeps.upd ?_ rfl)

theorem Keeps.syncOutPulse {s0 s : State} (u : Nat) (kk : Keeps s0 s) : Keeps s0 (s.syncOutPulse u) := by
  unfold State.syncOutPulse
  repeat' first | intro _ | with_reducible assumption | with_reducible apply Keeps.spend | with_reducible apply Keeps.ite | rfl | dsimp only | split
                | fail_if_no_progress (with_reducible refine Keeps.upd ?_ rfl)

theorem Keeps.syncEvent {s0 s : State} (u : Nat) (kk : Keeps s0 s) : Keeps s0 (s.syncEvent u) := by
  unfold State.syncEvent
  repeat' first | intro _ | with_reducible assumption | with_reducible apply Keeps.each | with_reducible apply Keeps.loadCounter
                | with_reducible apply Keeps.startUnit | with_reducible apply Keeps.setSyncs | with_reducible apply Keeps.syncComes
                | with_reducible apply Keeps.syncOutPulse | with_reducible apply Keeps.ite | rfl | dsimp only | split
                | fail_if_no_progress (with_reducible refine Keeps.upd ?_ rfl)

theorem Keeps.unitEnable {s0 s : State} (u : Nat) (kk : Keeps s0 s) : Keeps s0 (s.unitEnable u) := by
  unfold State.unitEnable
  repeat' first | intro _ | with_reducible assumption | with_reducible apply Keeps.setFlag | with_reducible apply Keeps.unitChanged
                | with_reducible apply Keeps.startUnit | with_reducible apply Keeps.ite | rfl | dsimp only | split
                | fail_if_no_progress (with_reducible refine Keeps.upd ?_ rfl)

theorem Keeps.unitDisable {s0 s : State} (u : Nat) (kk : Keeps s0 s) : Keeps s0 (s.unitDisable u) := by
  unfold State.unitDisable
  repeat' first | intro _ | with_reducible assumption | with_reducible apply Keeps.setFlag | with_reducible apply Keeps.each
                | with_reducible apply Keeps.setPch | with_reducible apply Keeps.unitChanged | with_reducible apply Keeps.blankEnds
                | with_reducible apply Keeps.ite | rfl | dsimp only | split | fail_if_no_progress (with_reducible refine Keeps.upd ?_ rfl)

theorem Keeps.unitWrite {s0 s : State} (u : Nat) (en : Bool) (kk : Keeps s0 s) : Keeps s0 (s.unitWrite u en) := by
  unfold State.unitWrite
  repeat' first | intro _ | with_reducible assumption | with_reducible apply Keeps.unitEnable | with_reducible apply Keeps.unitDisable
                | with_reducible apply Keeps.ite | rfl | dsimp only | split | fail_if_no_progress (with_reducible refine Keeps.upd ?_ rfl)

theorem Keeps.enterPwm {s0 s : State} (c word : Nat) (v : Word) (kk : Keeps s0 s) : Keeps s0 (s.enterPwm c word v) := by
  unfold State.enterPwm
  repeat' first | intro _ | with_reducible assumption | with_reducible apply Keeps.setFlag | with_reducible apply Keeps.count
                | with_reducible apply Keeps.setPch | with_reducible apply Keeps.ite | rfl | dsimp only | split
                | fail_if_no_progress (with_reducible refine Keeps.upd ?_ rfl)

theorem Keeps.pinActive {s0 s : State} (n : Nat) (kk : Keeps s0 s) : Keeps s0 (s.pinActive n) := by
  unfold State.pinActive
  repeat' first | intro _ | with_reducible assumption | with_reducible apply Keeps.setFlag | with_reducible apply Keeps.each
                | with_reducible apply Keeps.assert | with_reducible apply Keeps.pinForce | with_reducible apply Keeps.ite | rfl | dsimp only | split
                | fail_if_no_progress (with_reducible refine Keeps.upd ?_ rfl)

theorem Keeps.pinRelease {s0 s : State} (n : Nat) (kk : Keeps s0 s) : Keeps s0 (s.pinRelease n) := by
  unfold State.pinRelease
  repeat' first | intro _ | with_reducible assumption | with_reducible apply Keeps.setFlag | with_reducible apply Keeps.release
                | with_reducible apply Keeps.ite | rfl | dsimp only | split | fail_if_no_progress (with_reducible refine Keeps.upd ?_ rfl)

theorem Keeps.dropCommand {s0 s : State} (c : Nat) (kk : Keeps s0 s) : Keeps s0 (s.dropCommand c) := by
  unfold State.dropCommand
  repeat' first | intro _ | with_reducible assumption | with_reducible apply Keeps.wr | with_reducible apply Keeps.setLch
                | with_reducible apply Keeps.settle | with_reducible apply Keeps.ite | rfl | dsimp only | split
                | fail_if_no_progress (with_reducible refine Keeps.upd ?_ rfl)

theorem Keeps.windowTest {s0 s : State} (c v : Nat) (kk : Keeps s0 s) : Keeps s0 (s.windowTest c v) := by
  unfold State.windowTest
  repeat' first | intro _ | with_reducible assumption | with_reducible apply Keeps.setLch | with_reducible apply Keeps.chFlag
                | with_reducible apply Keeps.raise | with_reducible apply Keeps.ite | rfl | dsimp only | split
                | fail_if_no_progress (with_reducible refine Keeps.upd ?_ rfl)

theorem Keeps.frameValue {s0 s : State} (c : Nat) (m : ChSample) (kk : Keeps s0 s) : Keeps s0 (s.frameValue c m) := by
  unfold State.frameValue
  repeat' first | intro _ | with_reducible assumption | with_reducible apply Keeps.wr | with_reducible apply Keeps.setFlag
                | with_reducible apply Keeps.setLch | with_reducible apply Keeps.windowTest | with_reducible apply Keeps.ite | rfl | dsimp only
                | split | fail_if_no_progress (with_reducible refine Keeps.upd ?_ rfl)

theorem Keeps.pairWindows {s0 s : State} (unagreed : Bool) (kk : Keeps s0 s) : Keeps s0 (s.pairWindows unagreed) := by
  unfold State.pairWindows
  repeat' first | intro _ | with_reducible assumption | with_reducible apply Keeps.each | with_reducible apply Keeps.windowTest
                | with_reducible apply Keeps.ite | rfl | dsimp only | split | fail_if_no_progress (with_reducible refine Keeps.upd ?_ rfl)

theorem Keeps.bankTest {s0 s : State} (b : Nat) (vbank : Nat) (kk : Keeps s0 s) : Keeps s0 (s.bankTest b vbank) := by
  unfold State.bankTest
  repeat' first | intro _ | with_reducible assumption | with_reducible apply Keeps.wr | with_reducible apply Keeps.setFlag
                | with_reducible apply Keeps.setBank | with_reducible apply Keeps.openIso | with_reducible apply Keeps.raise | with_reducible apply Keeps.ite
                | rfl | dsimp only | split | fail_if_no_progress (with_reducible refine Keeps.upd ?_ rfl)

theorem Keeps.retryDecision {s0 s : State} (c : Nat) (kk : Keeps s0 s) : Keeps s0 (s.retryDecision c) := by
  unfold State.retryDecision
  repeat' first | intro _ | with_reducible assumption | with_reducible apply Keeps.gaugeAbort | with_reducible apply Keeps.decideRetry
                | with_reducible apply Keeps.raise | with_reducible apply Keeps.ite | rfl | dsimp only | split
                | fail_if_no_progress (with_reducible refine Keeps.upd ?_ rfl)

theorem Keeps.setAdcU {s0 s : State} (b : Bool) (u : AdcUnit) (kk : Keeps s0 s) : Keeps s0 (s.setAdcU b u) := by
  unfold State.setAdcU
  repeat' first | intro _ | with_reducible assumption | with_reducible apply Keeps.setFlag | with_reducible apply Keeps.ite | rfl | dsimp only | split
                | fail_if_no_progress (with_reducible refine Keeps.upd ?_ rfl)

theorem Keeps.adcTake {s0 s : State} (b : Bool) (l : AdcList) (kk : Keeps s0 s) : Keeps s0 (s.adcTake b l) := by
  unfold State.adcTake
  repeat' first | intro _ | with_reducible assumption | with_reducible apply Keeps.setAdcU | with_reducible apply Keeps.ite | rfl | dsimp only | split
                | fail_if_no_progress (with_reducible refine Keeps.upd ?_ rfl)

theorem Keeps.adcStep {s0 s : State} (kk : Keeps s0 s) : Keeps s0 (s.adcStep) := by
  unfold State.adcStep
  repeat' first | intro _ | with_reducible assumption | with_reducible apply Keeps.adcTake | with_reducible apply Keeps.ite | rfl | dsimp only
                | split | fail_if_no_progress (with_reducible refine Keeps.upd ?_ rfl)

theorem Keeps.adcRun {s0 : State} (n : Nat) {s : State} (kk : Keeps s0 s) : Keeps s0 (adcRun n s) := by
  induction n generalizing s with
  | zero => exact kk
  | succ n ih => exact ih kk.adcStep

theorem Keeps.adcGo {s0 s : State} (kk : Keeps s0 s) : Keeps s0 (s.adcGo) := by
  unfold State.adcGo
  repeat' first | intro _ | with_reducible assumption | with_reducible apply Keeps.adcRun | with_reducible apply Keeps.ite | rfl | dsimp only
                | split | fail_if_no_progress (with_reducible refine Keeps.upd ?_ rfl)

theorem Keeps.adcQueue {s0 s : State} (b : Bool) (l : AdcList) (kk : Keeps s0 s) : Keeps s0 (s.adcQueue b l) := by
  unfold State.adcQueue
  repeat' first | intro _ | with_reducible assumption | with_reducible apply Keeps.setAdcU | with_reducible apply Keeps.ite | rfl | dsimp only | split
                | fail_if_no_progress (with_reducible refine Keeps.upd ?_ rfl)

theorem Keeps.adcGiveBack {s0 s : State} (b : Bool) (l : AdcList) (kk : Keeps s0 s) : Keeps s0 (s.adcGiveBack b l) := by
  unfold State.adcGiveBack
  repeat' first | intro _ | with_reducible assumption | with_reducible apply Keeps.setAdcU | with_reducible apply Keeps.ite | rfl | dsimp only | split
                | fail_if_no_progress (with_reducible refine Keeps.upd ?_ rfl)

theorem Keeps.adcFire {s0 s : State} (t : Nat) (kk : Keeps s0 s) : Keeps s0 (s.adcFire t) := by
  unfold State.adcFire
  repeat' first | intro _ | with_reducible assumption | with_reducible apply Keeps.setFlag | with_reducible apply Keeps.count
                | with_reducible apply Keeps.adcGo | with_reducible apply Keeps.adcQueue | with_reducible apply Keeps.adcGiveBack
                | with_reducible apply Keeps.ite | rfl | dsimp only | split | fail_if_no_progress (with_reducible refine Keeps.upd ?_ rfl)

theorem Keeps.adcCount {s0 s : State} (t : Nat) (kk : Keeps s0 s) : Keeps s0 (s.adcCount t).1 := by
  unfold State.adcCount
  repeat' first | intro _ | with_reducible assumption | with_reducible apply Keeps.ite | rfl | dsimp only | split
                | fail_if_no_progress (with_reducible refine Keeps.upd ?_ rfl)

theorem Keeps.adcEvent {s0 s : State} (kind : Nat) (sel : Nat → Bool) (kk : Keeps s0 s) : Keeps s0 (s.adcEvent kind sel) := by
  unfold State.adcEvent
  repeat' first | intro _ | with_reducible assumption | with_reducible apply Keeps.eachOf | with_reducible apply Keeps.adcFire
                | with_reducible apply Keeps.adcCount | with_reducible apply Keeps.ite | rfl | dsimp only | split
                | fail_if_no_progress (with_reducible refine Keeps.upd ?_ rfl)

theorem Keeps.adcDue {s0 s : State} (kind ns : Nat) (sel : Nat → Bool) (kk : Keeps s0 s) : Keeps s0 (s.adcDue kind ns sel) := by
  unfold State.adcDue
  repeat' first | intro _ | with_reducible assumption | with_reducible apply Keeps.eachOf | with_reducible apply Keeps.adcCount
                | with_reducible apply Keeps.ite | rfl | dsimp only | split | fail_if_no_progress (with_reducible refine Keeps.upd ?_ rfl)

theorem Keeps.adcSwtrg {s0 s : State} (v : Word) (kk : Keeps s0 s) : Keeps s0 (s.adcSwtrg v) := by
  unfold State.adcSwtrg
  repeat' first | intro _ | with_reducible assumption | with_reducible apply Keeps.eachOf | with_reducible apply Keeps.adcFire
                | with_reducible apply Keeps.adcCount | with_reducible apply Keeps.ite | rfl | dsimp only | split
                | fail_if_no_progress (with_reducible refine Keeps.upd ?_ rfl)

theorem Keeps.adcMean {s0 s : State} (codes : List Nat) (kk : Keeps s0 s) : Keeps s0 (s.adcMean codes).2 := by
  unfold State.adcMean
  repeat' first | intro _ | with_reducible assumption | with_reducible apply Keeps.spend | with_reducible apply Keeps.ite | rfl | dsimp only
                | split | fail_if_no_progress (with_reducible refine Keeps.upd ?_ rfl)

theorem Keeps.adcWindow {s0 s : State} (i : Nat) (cfg w : Word) (code : Nat) (kk : Keeps s0 s) : Keeps s0 (s.adcWindow i cfg w code).2.2 := by
  unfold State.adcWindow
  repeat' first | intro _ | with_reducible assumption | with_reducible apply Keeps.setFlag | with_reducible apply Keeps.count
                | with_reducible apply Keeps.raise | with_reducible apply Keeps.ite | rfl | dsimp only | split
                | fail_if_no_progress (with_reducible refine Keeps.upd ?_ rfl)

theorem Keeps.setShunt {s0 s : State} (i : Nat) (isOpen : Bool) (kk : Keeps s0 s) : Keeps s0 (s.setShunt i isOpen) := by
  unfold State.setShunt
  repeat' first | intro _ | with_reducible assumption | with_reducible apply Keeps.setFlag | with_reducible apply Keeps.setAdcU
                | with_reducible apply Keeps.ite | rfl | dsimp only | split | fail_if_no_progress (with_reducible refine Keeps.upd ?_ rfl)

theorem Keeps.tripShunt {s0 s : State} (i : Nat) (on : Bool) (kk : Keeps s0 s) : Keeps s0 (s.tripShunt i on) := by
  unfold State.tripShunt
  repeat' first | intro _ | with_reducible assumption | with_reducible apply Keeps.ite | rfl | dsimp only | split
                | fail_if_no_progress (with_reducible refine Keeps.upd ?_ rfl)

theorem Keeps.adcShunt {s0 s : State} (v : Word) (kk : Keeps s0 s) : Keeps s0 (s.adcShunt v) := by
  unfold State.adcShunt
  repeat' first | intro _ | with_reducible assumption | with_reducible apply Keeps.each | with_reducible apply Keeps.setShunt
                | with_reducible apply Keeps.tripShunt | with_reducible apply Keeps.ite | rfl | dsimp only | split
                | fail_if_no_progress (with_reducible refine Keeps.upd ?_ rfl)

theorem Keeps.adcRanged {s0 s : State} (i : Nat) (old : Word) (kk : Keeps s0 s) : Keeps s0 (s.adcRanged i old) := by
  unfold State.adcRanged
  repeat' first | intro _ | with_reducible assumption | with_reducible apply Keeps.setShunt | with_reducible apply Keeps.ite | rfl | dsimp only
                | split | fail_if_no_progress (with_reducible refine Keeps.upd ?_ rfl)

theorem Keeps.adcFrameStart {s0 s : State} (kk : Keeps s0 s) : Keeps s0 (s.adcFrameStart) := by
  unfold State.adcFrameStart
  repeat' first | intro _ | with_reducible assumption | with_reducible apply Keeps.setAdcU | with_reducible apply Keeps.adcGo
                | with_reducible apply Keeps.adcDue | with_reducible apply Keeps.ite | rfl | dsimp only | split
                | fail_if_no_progress (with_reducible refine Keeps.upd ?_ rfl)

theorem Keeps.adcCommitted {s0 s : State} (kk : Keeps s0 s) : Keeps s0 (s.adcCommitted) := by
  unfold State.adcCommitted
  repeat' first | intro _ | with_reducible assumption | with_reducible apply Keeps.setAdcU | with_reducible apply Keeps.ite | rfl | dsimp only | split
                | fail_if_no_progress (with_reducible refine Keeps.upd ?_ rfl)

theorem Keeps.adcResume {s0 s : State} (kk : Keeps s0 s) : Keeps s0 (s.adcResume) := by
  unfold State.adcResume
  repeat' first | intro _ | with_reducible assumption | with_reducible apply Keeps.setFlag | with_reducible apply Keeps.setAdcU
                | with_reducible apply Keeps.ite | rfl | dsimp only | split | fail_if_no_progress (with_reducible refine Keeps.upd ?_ rfl)

end Sys2Proof.Machine
end

