-- ==== Sys2Proof/Laws/KeepsMotion.lean ====
section
/-! SUPPORT. Laws: what the operations of motion, GNSS, the view of the registers and the bus keep. -/
set_option linter.unusedTactic false
set_option linter.unreachableTactic false
namespace Sys2Proof.Machine
theorem Keeps.axisSync {s0 s : State} (a : Nat) (kk : Keeps s0 s) : Keeps s0 (s.axisSync a) := by
  unfold State.axisSync
  repeat' first | intro _ | with_reducible assumption | with_reducible apply Keeps.axState | with_reducible apply Keeps.stopNow
                | with_reducible apply Keeps.ite | rfl | dsimp only | split | fail_if_no_progress (with_reducible refine Keeps.upd ?_ rfl)

theorem Keeps.setMotSh {s0 s : State} (a : Nat) (v : Word) (kk : Keeps s0 s) : Keeps s0 (s.setMotSh a v) := by
  unfold State.setMotSh
  repeat' first | intro _ | with_reducible assumption | with_reducible apply Keeps.ite | rfl | dsimp only | split
                | fail_if_no_progress (with_reducible refine Keeps.upd ?_ rfl)

theorem Keeps.axisStage {s0 s : State} (a ofs : Nat) (v : Word) (kk : Keeps s0 s) : Keeps s0 (s.axisStage a ofs v) := by
  unfold State.axisStage
  repeat' first | intro _ | with_reducible assumption | with_reducible apply Keeps.stage | with_reducible apply Keeps.setAxs
                | with_reducible apply Keeps.ite | rfl | dsimp only | split | fail_if_no_progress (with_reducible refine Keeps.upd ?_ rfl)

theorem Keeps.enterStart {s0 s : State} (v : Word) (kk : Keeps s0 s) : Keeps s0 (s.enterStart v) := by
  unfold State.enterStart
  repeat' first | intro _ | with_reducible assumption | with_reducible apply Keeps.each | with_reducible apply Keeps.setAxs
                | with_reducible apply Keeps.axState | with_reducible apply Keeps.ite | rfl | dsimp only | split
                | fail_if_no_progress (with_reducible refine Keeps.upd ?_ rfl)

theorem Keeps.enterMotion {s0 s : State} (addr : Nat) (v : Word) (kk : Keeps s0 s) : Keeps s0 (s.enterMotion addr v) := by
  unfold State.enterMotion
  refine Keeps.ite (kk.enterStart v) ?_
  extract_lets a s1
  have k1 : Keeps s0 s1 := kk.setMotSh _ _
  clear_value s1
  split <;> repeat' first | with_reducible assumption | with_reducible apply Keeps.setAxs | with_reducible apply Keeps.ite | split

theorem Keeps.turnDir {s0 s : State} (a : Nat) (way : Int) (kk : Keeps s0 s) : Keeps s0 (s.turnDir a way) := by
  unfold State.turnDir
  repeat' first | intro _ | with_reducible assumption | with_reducible apply Keeps.setAxs | with_reducible apply Keeps.ite | rfl | dsimp only | split
                | fail_if_no_progress (with_reducible refine Keeps.upd ?_ rfl)

theorem Keeps.setpoint {s0 s : State} (a : Nat) (step vel acc : Int) (kk : Keeps s0 s) : Keeps s0 (s.setpoint a step vel acc) := by
  unfold State.setpoint
  repeat' first | intro _ | with_reducible assumption | with_reducible apply Keeps.wr | with_reducible apply Keeps.setAxs
                | with_reducible apply Keeps.setAxPos | with_reducible apply Keeps.axState | with_reducible apply Keeps.turnDir
                | with_reducible apply Keeps.ite | rfl | dsimp only | split | fail_if_no_progress (with_reducible refine Keeps.upd ?_ rfl)

theorem Keeps.followPlan {s0 s : State} (a : Nat) (p : AxisPlan) (kk : Keeps s0 s) : Keeps s0 (s.followPlan a p) := by
  unfold State.followPlan
  repeat' first | intro _ | with_reducible assumption | with_reducible apply Keeps.setFlag | with_reducible apply Keeps.at
                | with_reducible apply Keeps.setAxs | with_reducible apply Keeps.axisRest | with_reducible apply Keeps.setpoint
                | with_reducible apply Keeps.ite | rfl | dsimp only | split | fail_if_no_progress (with_reducible refine Keeps.upd ?_ rfl)

theorem Keeps.coast {s0 s : State} (a : Nat) (kk : Keeps s0 s) : Keeps s0 (s.coast a) := by
  unfold State.coast
  repeat' first | intro _ | with_reducible assumption | with_reducible apply Keeps.setpoint | with_reducible apply Keeps.ite | rfl | dsimp only
                | split | fail_if_no_progress (with_reducible refine Keeps.upd ?_ rfl)

theorem Keeps.takePreset {s0 s : State} (a : Nat) (kk : Keeps s0 s) : Keeps s0 (s.takePreset a) := by
  unfold State.takePreset
  repeat' first | intro _ | with_reducible assumption | with_reducible apply Keeps.setFlag | with_reducible apply Keeps.setAxs
                | with_reducible apply Keeps.setAxPos | with_reducible apply Keeps.ite | rfl | dsimp only | split
                | fail_if_no_progress (with_reducible refine Keeps.upd ?_ rfl)

theorem Keeps.takeLimits {s0 s : State} (a : Nat) (kk : Keeps s0 s) : Keeps s0 (s.takeLimits a) := by
  unfold State.takeLimits
  repeat' first | intro _ | with_reducible assumption | with_reducible apply Keeps.setFlag | with_reducible apply Keeps.setAxs
                | with_reducible apply Keeps.useLimits | with_reducible apply Keeps.ite | rfl | dsimp only | split
                | fail_if_no_progress (with_reducible refine Keeps.upd ?_ rfl)

theorem Keeps.beginMove {s0 s : State} (a tgt : Nat) (kk : Keeps s0 s) : Keeps s0 (s.beginMove a tgt) := by
  unfold State.beginMove
  repeat' first | intro _ | with_reducible assumption | with_reducible apply Keeps.setAxs | with_reducible apply Keeps.useLimits
                | with_reducible apply Keeps.ite | rfl | dsimp only | split | fail_if_no_progress (with_reducible refine Keeps.upd ?_ rfl)

theorem Keeps.takeTarget {s0 s : State} (a : Nat) (kk : Keeps s0 s) : Keeps s0 (s.takeTarget a) := by
  unfold State.takeTarget
  repeat' first | intro _ | with_reducible assumption | with_reducible apply Keeps.wr | with_reducible apply Keeps.setAxs
                | with_reducible apply Keeps.beginMove | with_reducible apply Keeps.ite | rfl | dsimp only | split
                | fail_if_no_progress (with_reducible refine Keeps.upd ?_ rfl)

theorem Keeps.servoStream {s0 s : State} (a : Nat) (kk : Keeps s0 s) : Keeps s0 (s.servoStream a) := by
  unfold State.servoStream
  repeat' first | intro _ | with_reducible assumption | with_reducible apply Keeps.wr | with_reducible apply Keeps.setFlag
                | with_reducible apply Keeps.setAxs | with_reducible apply Keeps.setpoint | with_reducible apply Keeps.coast
                | with_reducible apply Keeps.ite | rfl | dsimp only | split | fail_if_no_progress (with_reducible refine Keeps.upd ?_ rfl)

theorem Keeps.servoStop {s0 s : State} (a : Nat) (kk : Keeps s0 s) : Keeps s0 (s.servoStop a) := by
  unfold State.servoStop
  repeat' first | intro _ | with_reducible assumption | with_reducible apply Keeps.followPlan | with_reducible apply Keeps.coast
                | with_reducible apply Keeps.ite | rfl | dsimp only | split | fail_if_no_progress (with_reducible refine Keeps.upd ?_ rfl)

theorem Keeps.servoPlan {s0 s : State} (a kind : Nat) (kk : Keeps s0 s) : Keeps s0 (s.servoPlan a kind) := by
  unfold State.servoPlan
  repeat' first | intro _ | with_reducible assumption | with_reducible apply Keeps.setFlag | with_reducible apply Keeps.followPlan
                | with_reducible apply Keeps.coast | with_reducible apply Keeps.ite | rfl | dsimp only | split
                | fail_if_no_progress (with_reducible refine Keeps.upd ?_ rfl)

theorem Keeps.servoLoad {s0 s : State} (a : Nat) (kk : Keeps s0 s) : Keeps s0 (s.servoLoad a) := by
  unfold State.servoLoad
  repeat' first | intro _ | with_reducible assumption | with_reducible apply Keeps.wr | with_reducible apply Keeps.setAxs
                | with_reducible apply Keeps.ite | rfl | dsimp only | split | fail_if_no_progress (with_reducible refine Keeps.upd ?_ rfl)

theorem Keeps.servo {s0 s : State} (a : Nat) (kk : Keeps s0 s) : Keeps s0 (s.servo a) := by
  unfold State.servo
  repeat' first | intro _ | with_reducible assumption | with_reducible apply Keeps.takePreset | with_reducible apply Keeps.takeLimits
                | with_reducible apply Keeps.takeTarget | with_reducible apply Keeps.servoStream | with_reducible apply Keeps.servoStop
                | with_reducible apply Keeps.servoPlan | with_reducible apply Keeps.servoLoad | with_reducible apply Keeps.ite | rfl | dsimp only
                | split | fail_if_no_progress (with_reducible refine Keeps.upd ?_ rfl)

theorem Keeps.servoAll {s0 s : State} (kk : Keeps s0 s) : Keeps s0 (s.servoAll) := by
  unfold State.servoAll
  repeat' first | intro _ | with_reducible assumption | with_reducible apply Keeps.each | with_reducible apply Keeps.servo
                | with_reducible apply Keeps.ite | rfl | dsimp only | split | fail_if_no_progress (with_reducible refine Keeps.upd ?_ rfl)

theorem Keeps.axisCommitted {s0 s : State} (a : Nat) (old : Word) (kk : Keeps s0 s) : Keeps s0 (s.axisCommitted a old) := by
  unfold State.axisCommitted
  repeat' first | intro _ | with_reducible assumption | with_reducible apply Keeps.stopSoft | with_reducible apply Keeps.axisSync
                | with_reducible apply Keeps.ite | rfl | dsimp only | split | fail_if_no_progress (with_reducible refine Keeps.upd ?_ rfl)

theorem Keeps.axisCmd {s0 s : State} (a : Nat) (v : Word) (kk : Keeps s0 s) : Keeps s0 (s.axisCmd a v) := by
  unfold State.axisCmd
  repeat' first | intro _ | with_reducible assumption | with_reducible apply Keeps.stopNow | with_reducible apply Keeps.stopSoft
                | with_reducible apply Keeps.ite | rfl | dsimp only | split | fail_if_no_progress (with_reducible refine Keeps.upd ?_ rfl)

theorem Keeps.shiftAxis {s0 s : State} (a : Nat) (d : Int) (kk : Keeps s0 s) : Keeps s0 (s.shiftAxis a d) := by
  unfold State.shiftAxis
  repeat' first | intro _ | with_reducible assumption | with_reducible apply Keeps.setAxs | with_reducible apply Keeps.setAxPos
                | with_reducible apply Keeps.ite | rfl | dsimp only | split | fail_if_no_progress (with_reducible refine Keeps.upd ?_ rfl)

theorem Keeps.portFault {s0 s : State} (p : Nat) (flags : Word) (kk : Keeps s0 s) : Keeps s0 (s.portFault p flags) := by
  unfold State.portFault
  repeat' first | intro _ | with_reducible assumption | with_reducible apply Keeps.wr | with_reducible apply Keeps.forceUnit
                | with_reducible apply Keeps.assert | with_reducible apply Keeps.unitChanged | with_reducible apply Keeps.ite | rfl | dsimp only | split
                | fail_if_no_progress (with_reducible refine Keeps.upd ?_ rfl)

theorem Keeps.coilDuty {s0 s : State} (c pper ns : Nat) (kk : Keeps s0 s) : Keeps s0 (s.coilDuty c pper ns) := by
  unfold State.coilDuty
  repeat' first | intro _ | with_reducible assumption | with_reducible apply Keeps.setPch | with_reducible apply Keeps.ite | rfl | dsimp only
                | split | fail_if_no_progress (with_reducible refine Keeps.upd ?_ rfl)

theorem Keeps.fbEvent {s0 s : State} (n kind : Nat) (kk : Keeps s0 s) : Keeps s0 (s.fbEvent n kind) := by
  unfold State.fbEvent
  repeat' first | intro _ | with_reducible assumption | with_reducible apply Keeps.adcDue | with_reducible apply Keeps.ite | rfl | dsimp only | split
                | fail_if_no_progress (with_reducible refine Keeps.upd ?_ rfl)

theorem Keeps.fbPeriod {s0 s : State} (n : Nat) (kk : Keeps s0 s) : Keeps s0 (s.fbPeriod n) := by
  unfold State.fbPeriod
  repeat' first | intro _ | with_reducible assumption | with_reducible apply Keeps.wr | with_reducible apply Keeps.setFlag
                | with_reducible apply Keeps.setFbk | with_reducible apply Keeps.fbEvent | with_reducible apply Keeps.ite | rfl | dsimp only | split
                | fail_if_no_progress (with_reducible refine Keeps.upd ?_ rfl)

theorem Keeps.scAmp {s0 s : State} (sin cos : BitVec 16) (kk : Keeps s0 s) : Keeps s0 (s.scAmp sin cos).2 := by
  unfold State.scAmp
  repeat' first | intro _ | with_reducible assumption | with_reducible apply Keeps.spend | with_reducible apply Keeps.ite | rfl | dsimp only | split
                | fail_if_no_progress (with_reducible refine Keeps.upd ?_ rfl)

theorem Keeps.fbCommitted {s0 s : State} (n : Nat) (old : Word) (kk : Keeps s0 s) : Keeps s0 (s.fbCommitted n old) := by
  unfold State.fbCommitted
  repeat' first | intro _ | with_reducible assumption | with_reducible apply Keeps.setFlag | with_reducible apply Keeps.setFbk
                | with_reducible apply Keeps.ite | rfl | dsimp only | split | fail_if_no_progress (with_reducible refine Keeps.upd ?_ rfl)

theorem Keeps.motionSafe {s0 s : State} (kk : Keeps s0 s) : Keeps s0 (s.motionSafe) := by
  unfold State.motionSafe
  repeat' first | intro _ | with_reducible assumption | with_reducible apply Keeps.each | with_reducible apply Keeps.stopSoft
                | with_reducible apply Keeps.drivers | with_reducible apply Keeps.ite | rfl | dsimp only | split
                | fail_if_no_progress (with_reducible refine Keeps.upd ?_ rfl)

theorem Keeps.motionResume {s0 s : State} (kk : Keeps s0 s) : Keeps s0 (s.motionResume) := by
  unfold State.motionResume
  repeat' first | intro _ | with_reducible assumption | with_reducible apply Keeps.setFlag | with_reducible apply Keeps.each
                | with_reducible apply Keeps.stopNow | with_reducible apply Keeps.drivers | with_reducible apply Keeps.ite | rfl | dsimp only | split
                | fail_if_no_progress (with_reducible refine Keeps.upd ?_ rfl)

theorem Keeps.setGch {s0 s : State} (n : Nat) (x : Gch) (kk : Keeps s0 s) : Keeps s0 (s.setGch n x) := by
  unfold State.setGch
  repeat' first | intro _ | with_reducible assumption | with_reducible apply Keeps.ite | rfl | dsimp only | split
                | fail_if_no_progress (with_reducible refine Keeps.upd ?_ rfl)

theorem Keeps.gTracks {s0 s : State} (kk : Keeps s0 s) : Keeps s0 (s.gTracks) := by
  unfold State.gTracks
  repeat' first | intro _ | with_reducible assumption | with_reducible apply Keeps.setFld | with_reducible apply Keeps.setFlag
                | with_reducible apply Keeps.ite | rfl | dsimp only | split | fail_if_no_progress (with_reducible refine Keeps.upd ?_ rfl)

theorem Keeps.gEnter {s0 s : State} (n st : Nat) (kk : Keeps s0 s) : Keeps s0 (s.gEnter n st) := by
  unfold State.gEnter
  repeat' first | intro _ | with_reducible assumption | with_reducible apply Keeps.wr | with_reducible apply Keeps.setFld
                | with_reducible apply Keeps.setGch | with_reducible apply Keeps.gTracks | with_reducible apply Keeps.ite | rfl | dsimp only | split
                | fail_if_no_progress (with_reducible refine Keeps.upd ?_ rfl)

theorem Keeps.antCommitted {s0 s : State} (a : Nat) (old : Word) (kk : Keeps s0 s) : Keeps s0 (s.antCommitted a old) := by
  unfold State.antCommitted
  repeat' first | intro _ | with_reducible assumption | with_reducible apply Keeps.setFlag | with_reducible apply Keeps.ite | rfl | dsimp only
                | split | fail_if_no_progress (with_reducible refine Keeps.upd ?_ rfl)

theorem Keeps.gCn0 {s0 s : State} (n cn0 : Nat) (kk : Keeps s0 s) : Keeps s0 (s.gCn0 n cn0) := by
  unfold State.gCn0
  repeat' first | intro _ | with_reducible assumption | with_reducible apply Keeps.setFld | with_reducible apply Keeps.setGch
                | with_reducible apply Keeps.ite | rfl | dsimp only | split | fail_if_no_progress (with_reducible refine Keeps.upd ?_ rfl)

theorem Keeps.gBurstGo {s0 s : State} (n : Nat) (kk : Keeps s0 s) : Keeps s0 (s.gBurstGo n) := by
  unfold State.gBurstGo
  repeat' first | intro _ | with_reducible assumption | with_reducible apply Keeps.gEnter | with_reducible apply Keeps.ite | rfl | dsimp only
                | split | fail_if_no_progress (with_reducible refine Keeps.upd ?_ rfl)

theorem Keeps.gBurstSync {s0 s : State} (kk : Keeps s0 s) : Keeps s0 (s.gBurstSync) := by
  unfold State.gBurstSync
  repeat' first | intro _ | with_reducible assumption | with_reducible apply Keeps.setFlag | with_reducible apply Keeps.eachOf
                | with_reducible apply Keeps.gBurstGo | with_reducible apply Keeps.ite | rfl | dsimp only | split
                | fail_if_no_progress (with_reducible refine Keeps.upd ?_ rfl)

theorem Keeps.gCommitted {s0 s : State} (n : Nat) (old : Word) (kk : Keeps s0 s) : Keeps s0 (s.gCommitted n old) := by
  unfold State.gCommitted
  repeat' first | intro _ | with_reducible assumption | with_reducible apply Keeps.setGch | with_reducible apply Keeps.gEnter
                | with_reducible apply Keeps.ite | rfl | dsimp only | split | fail_if_no_progress (with_reducible refine Keeps.upd ?_ rfl)

theorem Keeps.rtSync {s0 s : State} (kk : Keeps s0 s) : Keeps s0 (s.rtSync) := by
  unfold State.rtSync
  repeat' first | intro _ | with_reducible assumption | with_reducible apply Keeps.setFld | with_reducible apply Keeps.ite | rfl | dsimp only | split
                | fail_if_no_progress (with_reducible refine Keeps.upd ?_ rfl)

theorem Keeps.rtStep {s0 s : State} (d : Int) (kk : Keeps s0 s) : Keeps s0 (s.rtStep d) := by
  unfold State.rtStep
  repeat' first | intro _ | with_reducible assumption | with_reducible apply Keeps.ite | rfl | dsimp only | split
                | fail_if_no_progress (with_reducible refine Keeps.upd ?_ rfl)

theorem Keeps.burstEdge {s t : State} (h : Keeps s t) (inside : Bool) : Keeps s (t.burstEdge inside) := by
  unfold Sys2Proof.Machine.State.burstEdge
  exact (h.at _).rtSync

theorem Keeps.uncCheck {s0 s : State} (kk : Keeps s0 s) : Keeps s0 (s.uncCheck) := by
  unfold State.uncCheck
  repeat' first | intro _ | with_reducible assumption | with_reducible apply Keeps.release | with_reducible apply Keeps.ite | rfl | dsimp only
                | split | fail_if_no_progress (with_reducible refine Keeps.upd ?_ rfl)

theorem Keeps.gnsView {s0 s : State} (kk : Keeps s0 s) : Keeps s0 (s.gnsView) := by
  unfold State.gnsView
  repeat' first | intro _ | with_reducible assumption | with_reducible apply Keeps.wr | with_reducible apply Keeps.rtSync
                | with_reducible apply Keeps.ite | rfl | dsimp only | split | fail_if_no_progress (with_reducible refine Keeps.upd ?_ rfl)

theorem Keeps.phaseTaken {s0 s : State} (kk : Keeps s0 s) : Keeps s0 (s.phaseTaken) := by
  unfold State.phaseTaken
  repeat' first | intro _ | with_reducible assumption | with_reducible apply Keeps.setFld | with_reducible apply Keeps.uncCheck
                | with_reducible apply Keeps.ite | rfl | dsimp only | split | fail_if_no_progress (with_reducible refine Keeps.upd ?_ rfl)

theorem Keeps.holdBack {s0 s : State} (kk : Keeps s0 s) : Keeps s0 (s.holdBack) := by
  unfold State.holdBack
  repeat' first | intro _ | with_reducible assumption | with_reducible apply Keeps.setFld | with_reducible apply Keeps.ite | rfl | dsimp only | split
                | fail_if_no_progress (with_reducible refine Keeps.upd ?_ rfl)

theorem Keeps.steerPhase {s0 s : State} (v : Word) (kk : Keeps s0 s) : Keeps s0 (s.steerPhase v) := by
  unfold State.steerPhase
  repeat' first | intro _ | with_reducible assumption | with_reducible apply Keeps.setFlag | with_reducible apply Keeps.rtSync
                | with_reducible apply Keeps.rtStep | with_reducible apply Keeps.uncCheck | with_reducible apply Keeps.phaseTaken
                | with_reducible apply Keeps.ite | rfl | dsimp only | split | fail_if_no_progress (with_reducible refine Keeps.upd ?_ rfl)

theorem Keeps.steerFreq {s0 s : State} (v : Word) (kk : Keeps s0 s) : Keeps s0 (s.steerFreq v) := by
  unfold State.steerFreq
  repeat' first | intro _ | with_reducible assumption | with_reducible apply Keeps.wr | with_reducible apply Keeps.setFlag
                | with_reducible apply Keeps.rtSync | with_reducible apply Keeps.ite | rfl | dsimp only | split
                | fail_if_no_progress (with_reducible refine Keeps.upd ?_ rfl)

theorem Keeps.timeSet {s0 s : State} (v : Word) (kk : Keeps s0 s) : Keeps s0 (s.timeSet v) := by
  unfold State.timeSet
  refine Keeps.ite kk ?_
  extract_lets sec t r g s1
  refine Keeps.ite ?_ (kk.setFlag _ _ _)
  have k1 : Keeps s0 s1 := kk.rtSync.upd rfl
  clear_value s1
  exact Keeps.ite (k1.upd rfl) k1

theorem Keeps.gnssLatch {s0 s : State} (m : FrameSample) (kk : Keeps s0 s) : Keeps s0 (s.gnssLatch m) := by
  unfold State.gnssLatch
  repeat' first | intro _ | with_reducible assumption | with_reducible apply Keeps.setFld | with_reducible apply Keeps.each
                | with_reducible apply Keeps.eachOf | with_reducible apply Keeps.gCn0 | with_reducible apply Keeps.ite | rfl | dsimp only | split
                | fail_if_no_progress (with_reducible refine Keeps.upd ?_ rfl)

theorem Keeps.wrRun {s0 : State} (a : Nat) (ws : List Word) {s : State} (kk : Keeps s0 s) : Keeps s0 (s.wrRun a ws) := by
  induction ws generalizing a s with
  | nil => exact kk
  | cons w ws ih => exact ih (a + 4) (kk.wr _ w)

theorem Keeps.gnssResume {s0 s : State} (kk : Keeps s0 s) : Keeps s0 (s.gnssResume) := by
  unfold State.gnssResume
  repeat' first | intro _ | with_reducible assumption | with_reducible apply Keeps.setFld | with_reducible apply Keeps.eachOf
                | with_reducible apply Keeps.gEnter | with_reducible apply Keeps.rtSync | with_reducible apply Keeps.ite | rfl | dsimp only | split
                | fail_if_no_progress (with_reducible refine Keeps.upd ?_ rfl)

theorem Keeps.gnssRelock {s0 s : State} (kk : Keeps s0 s) : Keeps s0 (s.gnssRelock) := by
  unfold State.gnssRelock
  repeat' first | intro _ | with_reducible assumption | with_reducible apply Keeps.eachOf | with_reducible apply Keeps.gEnter
                | with_reducible apply Keeps.ite | rfl | dsimp only | split | fail_if_no_progress (with_reducible refine Keeps.upd ?_ rfl)

theorem Keeps.imuTest {s0 s : State} (v : Word) (kk : Keeps s0 s) : Keeps s0 (s.imuTest v) := by
  unfold State.imuTest
  repeat' first | intro _ | with_reducible assumption | with_reducible apply Keeps.setFlag | with_reducible apply Keeps.ite | rfl | dsimp only
                | split | fail_if_no_progress (with_reducible refine Keeps.upd ?_ rfl)

theorem Keeps.imuLatch {s0 s : State} (m : ImuSample) (kk : Keeps s0 s) : Keeps s0 (s.imuLatch m) := by
  unfold State.imuLatch
  repeat' first | intro _ | with_reducible assumption | with_reducible apply Keeps.wr | with_reducible apply Keeps.setFld
                | with_reducible apply Keeps.setFlag | with_reducible apply Keeps.each | with_reducible apply Keeps.recordCur
                | with_reducible apply Keeps.ite | rfl | dsimp only | split | fail_if_no_progress (with_reducible refine Keeps.upd ?_ rfl)

theorem Keeps.capture {s0 s : State} (kk : Keeps s0 s) : Keeps s0 (s.capture) := by
  unfold State.capture
  repeat' first | intro _ | with_reducible assumption | with_reducible apply Keeps.ite | rfl | dsimp only | split
                | fail_if_no_progress (with_reducible refine Keeps.upd ?_ rfl)

theorem Keeps.flipImage {s0 s : State} (kk : Keeps s0 s) : Keeps s0 (s.flipImage) := by
  unfold State.flipImage
  repeat' first | intro _ | with_reducible assumption | with_reducible apply Keeps.ite | rfl | dsimp only | split
                | fail_if_no_progress (with_reducible refine Keeps.upd ?_ rfl)

theorem Keeps.setBctl {s0 s : State} (n : Nat) (x : BusCtl) (kk : Keeps s0 s) : Keeps s0 (s.setBctl n x) := by
  unfold State.setBctl
  repeat' first | intro _ | with_reducible assumption | with_reducible apply Keeps.ite | rfl | dsimp only | split
                | fail_if_no_progress (with_reducible refine Keeps.upd ?_ rfl)

theorem Keeps.onBctl {s0 s : State} (n : Nat) (f : BusCtl → BusCtl) (kk : Keeps s0 s) : Keeps s0 (s.onBctl n f) := by
  unfold State.onBctl
  repeat' first | intro _ | with_reducible assumption | with_reducible apply Keeps.setBctl | with_reducible apply Keeps.ite | rfl | dsimp only
                | split | fail_if_no_progress (with_reducible refine Keeps.upd ?_ rfl)

theorem Keeps.setTx {s0 s : State} (n k : Nat) (e : TxEnt) (kk : Keeps s0 s) : Keeps s0 (s.setTx n k e) := by
  unfold State.setTx
  repeat' first | intro _ | with_reducible assumption | with_reducible apply Keeps.onBctl | with_reducible apply Keeps.ite | rfl | dsimp only
                | split | fail_if_no_progress (with_reducible refine Keeps.upd ?_ rfl)

theorem Keeps.txState {s0 s : State} (n k v : Nat) (kk : Keeps s0 s) : Keeps s0 (s.txState n k v) := by
  unfold State.txState
  repeat' first | intro _ | with_reducible assumption | with_reducible apply Keeps.setFld | with_reducible apply Keeps.ite | rfl | dsimp only
                | split | fail_if_no_progress (with_reducible refine Keeps.upd ?_ rfl)

theorem Keeps.busWas {s0 s : State} (n ago : Nat) (kk : Keeps s0 s) : Keeps s0 (s.busWas n ago) := by
  refine ⟨kk.queue, ?_, fun c => ?_⟩
  · have := kk.part; simp only [State.busWas]; split <;> exact this
  have h := kk.form c
  simp only [State.canonical, Bool.and_eq_true] at h ⊢
  simp only [State.busWas, h, and_true]
  generalize s.bus.past = l
  have w := h.1.1.1.1
  revert w
  generalize s.regs = m
  induction l generalizing m with
  | nil => exact id
  | cons x l ih =>
    intro w
    simp only [List.foldl_cons]
    refine ih _ ?_
    split
    · exact Regs.wf_set _ _ w
    · exact w

theorem Keeps.busLast {s0 s : State} (kk : Keeps s0 s) : Keeps s0 (s.busLast) := by
  unfold State.busLast
  repeat' first | intro _ | with_reducible assumption | with_reducible apply Keeps.each | with_reducible apply Keeps.onBctl
                | with_reducible apply Keeps.ite | rfl | dsimp only | split | fail_if_no_progress (with_reducible refine Keeps.upd ?_ rfl)

theorem Keeps.busPast {s0 s : State} (a : Nat) (old : Word) (kk : Keeps s0 s) : Keeps s0 (s.busPast a old) := by
  unfold State.busPast
  repeat' first | intro _ | with_reducible assumption | with_reducible apply Keeps.ite | rfl | dsimp only | split
                | fail_if_no_progress (with_reducible refine Keeps.upd ?_ rfl)

theorem Keeps.txReturn {s0 s : State} (n k : Nat) (won : Bool) (kk : Keeps s0 s) : Keeps s0 (s.txReturn n k won) := by
  unfold State.txReturn
  repeat' first | intro _ | with_reducible assumption | with_reducible apply Keeps.setFlag | with_reducible apply Keeps.setTx
                | with_reducible apply Keeps.txState | with_reducible apply Keeps.ite | rfl | dsimp only | split
                | fail_if_no_progress (with_reducible refine Keeps.upd ?_ rfl)

theorem Keeps.busCounters {s0 s : State} (n tec rec_ : Nat) (kk : Keeps s0 s) : Keeps s0 (s.busCounters n tec rec_) := by
  unfold State.busCounters
  repeat' first | intro _ | with_reducible assumption | with_reducible apply Keeps.setFld | with_reducible apply Keeps.setFlag
                | with_reducible apply Keeps.raise | with_reducible apply Keeps.onBctl | with_reducible apply Keeps.ite | rfl | dsimp only | split
                | fail_if_no_progress (with_reducible refine Keeps.upd ?_ rfl)

theorem Keeps.txRequest {s0 s : State} (n k : Nat) (kk : Keeps s0 s) : Keeps s0 (s.txRequest n k) := by
  unfold State.txRequest
  repeat' first | intro _ | with_reducible assumption | with_reducible apply Keeps.setFld | with_reducible apply Keeps.setFlag
                | with_reducible apply Keeps.stage | with_reducible apply Keeps.raiseDowel | with_reducible apply Keeps.onBctl
                | with_reducible apply Keeps.setTx | with_reducible apply Keeps.txState | with_reducible apply Keeps.ite | rfl | dsimp only | split
                | fail_if_no_progress (with_reducible refine Keeps.upd ?_ rfl)

theorem Keeps.txCancel {s0 s : State} (n k : Nat) (kk : Keeps s0 s) : Keeps s0 (s.txCancel n k) := by
  unfold State.txCancel
  repeat' first | intro _ | with_reducible assumption | with_reducible apply Keeps.setFlag | with_reducible apply Keeps.stage
                | with_reducible apply Keeps.setTx | with_reducible apply Keeps.txState | with_reducible apply Keeps.ite | rfl | dsimp only | split
                | fail_if_no_progress (with_reducible refine Keeps.upd ?_ rfl)

theorem Keeps.takeFresh {s0 s : State} (n k : Nat) (kk : Keeps s0 s) : Keeps s0 (s.takeFresh n k) := by
  unfold State.takeFresh
  repeat' first | intro _ | with_reducible assumption | with_reducible apply Keeps.setTx | with_reducible apply Keeps.ite | rfl | dsimp only | split
                | fail_if_no_progress (with_reducible refine Keeps.upd ?_ rfl)

theorem Keeps.freshen {s0 s : State} (n : Nat) (kk : Keeps s0 s) : Keeps s0 (s.freshen n) := by
  unfold State.freshen
  repeat' first | intro _ | with_reducible assumption | with_reducible apply Keeps.takeFresh | with_reducible apply Keeps.ite | rfl | dsimp only
                | split | fail_if_no_progress (with_reducible refine Keeps.upd ?_ rfl)

theorem Keeps.txAttempt {s0 s : State} (n k : Nat) (kk : Keeps s0 s) : Keeps s0 (s.txAttempt n k) := by
  unfold State.txAttempt
  repeat' first | intro _ | with_reducible assumption | with_reducible apply Keeps.setTx | with_reducible apply Keeps.takeFresh
                | with_reducible apply Keeps.ite | rfl | dsimp only | split | fail_if_no_progress (with_reducible refine Keeps.upd ?_ rfl)

theorem Keeps.txRequests {s0 s : State} (n first : Nat) (mask : Word) (kk : Keeps s0 s) : Keeps s0 (s.txRequests n first mask) := by
  unfold State.txRequests
  repeat' first | intro _ | with_reducible assumption | with_reducible apply Keeps.each | with_reducible apply Keeps.txRequest
                | with_reducible apply Keeps.freshen | with_reducible apply Keeps.ite | rfl | dsimp only | split
                | fail_if_no_progress (with_reducible refine Keeps.upd ?_ rfl)

theorem Keeps.txCancels {s0 s : State} (n first : Nat) (mask : Word) (kk : Keeps s0 s) : Keeps s0 (s.txCancels n first mask) := by
  unfold State.txCancels
  repeat' first | intro _ | with_reducible assumption | with_reducible apply Keeps.each | with_reducible apply Keeps.txCancel
                | with_reducible apply Keeps.freshen | with_reducible apply Keeps.ite | rfl | dsimp only | split
                | fail_if_no_progress (with_reducible refine Keeps.upd ?_ rfl)

theorem Keeps.txOnBus {s0 s : State} (n ago : Nat) (ph : BusPhase) (kk : Keeps s0 s) : Keeps s0 (s.txOnBus n ago ph) := by
  unfold State.txOnBus
  repeat' first | intro _ | with_reducible assumption | with_reducible apply Keeps.setTx | with_reducible apply Keeps.txState
                | with_reducible apply Keeps.busWas | with_reducible apply Keeps.txAttempt | with_reducible apply Keeps.ite | rfl | dsimp only | split
                | fail_if_no_progress (with_reducible refine Keeps.upd ?_ rfl)

theorem Keeps.txMark {s0 s : State} (n k : Nat) (kk : Keeps s0 s) : Keeps s0 (s.txMark n k) := by
  unfold State.txMark
  repeat' first | intro _ | with_reducible assumption | with_reducible apply Keeps.setTx | with_reducible apply Keeps.ite | rfl | dsimp only | split
                | fail_if_no_progress (with_reducible refine Keeps.upd ?_ rfl)

theorem Keeps.refSent {s0 s : State} (was : State) (n ago : Nat) (kk : Keeps s0 s) : Keeps s0 (s.refSent was n ago) := by
  unfold State.refSent
  repeat' first | intro _ | with_reducible assumption | with_reducible apply Keeps.wr | with_reducible apply Keeps.onBctl
                | with_reducible apply Keeps.ite | rfl | dsimp only | split | fail_if_no_progress (with_reducible refine Keeps.upd ?_ rfl)

theorem Keeps.txEnded {s0 s : State} (n : Nat) (kk : Keeps s0 s) : Keeps s0 (s.txEnded n) := by
  unfold State.txEnded
  repeat' first | intro _ | with_reducible assumption | with_reducible apply Keeps.setFld | with_reducible apply Keeps.onBctl
                | with_reducible apply Keeps.freshen | with_reducible apply Keeps.ite | rfl | dsimp only | split
                | fail_if_no_progress (with_reducible refine Keeps.upd ?_ rfl)

theorem Keeps.busRestart {s0 s : State} (n : Nat) (v : Word) (kk : Keeps s0 s) : Keeps s0 (s.busRestart n v) := by
  unfold State.busRestart
  repeat' first | intro _ | with_reducible assumption | with_reducible apply Keeps.setFlag | with_reducible apply Keeps.ite | rfl | dsimp only
                | split | fail_if_no_progress (with_reducible refine Keeps.upd ?_ rfl)

theorem Keeps.storeFrame {s0 s : State} (n q : Nat) (f : CanFrame) (auth dflt : Bool) (filt ago : Nat) (kk : Keeps s0 s) :
    Keeps s0 (s.storeFrame n q f auth dflt filt ago) := by
  unfold State.storeFrame
  repeat' first | intro _ | with_reducible assumption | with_reducible apply Keeps.setFld | with_reducible apply Keeps.setFlag
                | with_reducible apply Keeps.count | with_reducible apply Keeps.fmemPut | with_reducible apply Keeps.raise
                | with_reducible apply Keeps.onBctl | with_reducible apply Keeps.ite | rfl | dsimp only | split
                | fail_if_no_progress (with_reducible refine Keeps.upd ?_ rfl)

theorem Keeps.followFrame {s0 s : State} (n : Nat) (f : CanFrame) (kk : Keeps s0 s) : Keeps s0 (s.followFrame n f) := by
  unfold State.followFrame
  repeat' first | intro _ | with_reducible assumption | with_reducible apply Keeps.eachOf | with_reducible apply Keeps.setTx
                | with_reducible apply Keeps.txState | with_reducible apply Keeps.txMark | with_reducible apply Keeps.ite | rfl | dsimp only | split
                | fail_if_no_progress (with_reducible refine Keeps.upd ?_ rfl)

theorem Keeps.refReceived {s0 s : State} (n : Nat) (f : CanFrame) (first : Bool) (ago : Nat) (kk : Keeps s0 s) :
    Keeps s0 (s.refReceived n f first ago) := by
  unfold State.refReceived
  repeat' first | intro _ | with_reducible assumption | with_reducible apply Keeps.wr | with_reducible apply Keeps.onBctl
                | with_reducible apply Keeps.ite | rfl | dsimp only | split | fail_if_no_progress (with_reducible refine Keeps.upd ?_ rfl)

theorem Keeps.queueAck {s0 s : State} (n q : Nat) (v : Word) (kk : Keeps s0 s) : Keeps s0 (s.queueAck n q v) := by
  unfold State.queueAck
  repeat' first | intro _ | with_reducible assumption | with_reducible apply Keeps.setFld | with_reducible apply Keeps.setFlag
                | with_reducible apply Keeps.setBctl | with_reducible apply Keeps.ite | rfl | dsimp only | split
                | fail_if_no_progress (with_reducible refine Keeps.upd ?_ rfl)

theorem Keeps.busLatch {s0 s : State} (kk : Keeps s0 s) : Keeps s0 (s.busLatch) := by
  unfold State.busLatch
  repeat' first | intro _ | with_reducible assumption | with_reducible apply Keeps.each | with_reducible apply Keeps.eachOf
                | with_reducible apply Keeps.recordCur | with_reducible apply Keeps.setBctl | with_reducible apply Keeps.freshen
                | with_reducible apply Keeps.ite | rfl | dsimp only | split | fail_if_no_progress (with_reducible refine Keeps.upd ?_ rfl)

theorem Keeps.busCommitted {s0 s : State} (n : Nat) (old : Word) (kk : Keeps s0 s) : Keeps s0 (s.busCommitted n old) := by
  unfold State.busCommitted
  repeat' first | intro _ | with_reducible assumption | with_reducible apply Keeps.wr | with_reducible apply Keeps.setFld
                | with_reducible apply Keeps.setFlag | with_reducible apply Keeps.each | with_reducible apply Keeps.setBctl
                | with_reducible apply Keeps.busPast | with_reducible apply Keeps.freshen | with_reducible apply Keeps.ite | rfl | dsimp only | split
                | fail_if_no_progress (with_reducible refine Keeps.upd ?_ rfl)

theorem Keeps.busRefCommitted {s0 s : State} (n : Nat) (old : Word) (kk : Keeps s0 s) : Keeps s0 (s.busRefCommitted n old) := by
  unfold State.busRefCommitted
  repeat' first | intro _ | with_reducible assumption | with_reducible apply Keeps.setFlag | with_reducible apply Keeps.onBctl
                | with_reducible apply Keeps.ite | rfl | dsimp only | split | fail_if_no_progress (with_reducible refine Keeps.upd ?_ rfl)

theorem Keeps.busNow {s0 s : State} (l : List (BusPhase × Nat)) (kk : Keeps s0 s) : Keeps s0 (s.busNow l) := by
  unfold State.busNow
  repeat' first | intro _ | with_reducible assumption | with_reducible apply Keeps.each | with_reducible apply Keeps.onBctl
                | with_reducible apply Keeps.busWas | with_reducible apply Keeps.txOnBus | with_reducible apply Keeps.ite | rfl | dsimp only | split
                | fail_if_no_progress (with_reducible refine Keeps.upd ?_ rfl)

theorem Keeps.busHalt {s0 s : State} (n : Nat) (kk : Keeps s0 s) : Keeps s0 (s.busHalt n) := by
  unfold State.busHalt
  repeat' first | intro _ | with_reducible assumption | with_reducible apply Keeps.eachOf | with_reducible apply Keeps.stage
                | with_reducible apply Keeps.txReturn | with_reducible apply Keeps.ite | rfl | dsimp only | split
                | fail_if_no_progress (with_reducible refine Keeps.upd ?_ rfl)

theorem Keeps.busResume {s0 s : State} (kk : Keeps s0 s) : Keeps s0 (s.busResume) := by
  unfold State.busResume
  repeat' first | intro _ | with_reducible assumption | with_reducible apply Keeps.setFlag | with_reducible apply Keeps.each
                | with_reducible apply Keeps.busHalt | with_reducible apply Keeps.ite | rfl | dsimp only | split
                | fail_if_no_progress (with_reducible refine Keeps.upd ?_ rfl)

end Sys2Proof.Machine
end

