-- ==== Sys2Proof/Laws/KeepsSched.lean ====
section
/-! SUPPORT. Laws: what the operations of the loader, the scheduler, Scribe, the host port, the clocks and the transactions keep. -/
set_option linter.unusedTactic false
set_option linter.unreachableTactic false
namespace Sys2Proof.Machine
theorem Keeps.recordCheck {s0 s : State} (b : Nat) (r : Reject) (kk : Keeps s0 s) : Keeps s0 (s.recordCheck b r) := by
  unfold State.recordCheck
  repeat' first | intro _ | with_reducible assumption | with_reducible apply Keeps.setFld | with_reducible apply Keeps.spend
                | with_reducible apply Keeps.ite | rfl | dsimp only | split | fail_if_no_progress (with_reducible refine Keeps.upd ?_ rfl)

theorem Keeps.progVerify {s0 s : State} (v : Word) (kk : Keeps s0 s) : Keeps s0 (s.progVerify v) := by
  unfold State.progVerify
  repeat' first | intro _ | with_reducible assumption | with_reducible apply Keeps.setFlag | with_reducible apply Keeps.pkNext
                | with_reducible apply Keeps.ite | rfl | dsimp only | split | fail_if_no_progress (with_reducible refine Keeps.upd ?_ rfl)

theorem Keeps.bankPut {s0 s : State} (ofs : Nat) (w : Word) (k : Keeps s0 s) : Keeps s0 { s with prog := Mem.st s.prog ofs w } :=
  ⟨k.queue, k.part, fun c => by
    have := k.form c
    simp only [State.canonical, Bool.and_eq_true] at this ⊢
    exact ⟨this.1, Memory.wf_st ofs w this.2⟩⟩

theorem Keeps.bankWrite {s0 s : State} (ofs : Nat) (w : Word) (kk : Keeps s0 s) : Keeps s0 (s.bankWrite ofs w) := by
  have k1 := (kk.mramWritten 2 ofs 4).bankPut ofs w
  unfold State.bankWrite
  refine Keeps.ite (kk.setFlag _ _ _) ?_
  extract_lets src s1 y
  change Keeps s0 s1 at k1
  clear_value s1
  repeat' first | intro _ | with_reducible assumption | with_reducible apply Keeps.setFlag | with_reducible apply Keeps.iff | with_reducible apply Keeps.pkDone | with_reducible apply Keeps.recordCheck | dsimp only | split | fail_if_no_progress (with_reducible refine Keeps.upd ?_ rfl)

theorem Keeps.loadBank {s0 s : State} (b : Nat) (fallback : Bool) (kk : Keeps s0 s) : Keeps s0 (s.loadBank b fallback) := by
  unfold State.loadBank
  repeat' first | intro _ | with_reducible assumption | with_reducible apply Keeps.setFld | with_reducible apply Keeps.setFlag
                | with_reducible apply Keeps.each | with_reducible apply Keeps.setEn | with_reducible apply Keeps.wrRunOf
                | with_reducible apply Keeps.ite | rfl | dsimp only | split | fail_if_no_progress (with_reducible refine Keeps.upd ?_ rfl)

theorem Keeps.bootLoad {s0 s : State} (kk : Keeps s0 s) : Keeps s0 (s.bootLoad).1 := by
  unfold State.bootLoad
  repeat' first | intro _ | with_reducible assumption | with_reducible apply Keeps.setFld | with_reducible apply Keeps.setFlag
                | with_reducible apply Keeps.raise | with_reducible apply Keeps.recordCheck | with_reducible apply Keeps.loadBank
                | with_reducible apply Keeps.ite | rfl | dsimp only | split | fail_if_no_progress (with_reducible refine Keeps.upd ?_ rfl)

theorem Keeps.rehashDone {s0 s : State} (kk : Keeps s0 s) : Keeps s0 (s.rehashDone) := by
  unfold State.rehashDone
  repeat' first | intro _ | with_reducible assumption | with_reducible apply Keeps.each | with_reducible apply Keeps.updEn
                | with_reducible apply Keeps.ite | rfl | dsimp only | split | fail_if_no_progress (with_reducible refine Keeps.upd ?_ rfl)

theorem Keeps.beRst {s0 s : State} (v : Word) (kk : Keeps s0 s) : Keeps s0 (s.beRst v) := by
  unfold State.beRst
  repeat' first | intro _ | with_reducible assumption | with_reducible apply Keeps.each | with_reducible apply Keeps.engineReset
                | with_reducible apply Keeps.ite | rfl | dsimp only | split | fail_if_no_progress (with_reducible refine Keeps.upd ?_ rfl)

theorem Keeps.schedLatch {s0 s : State} (kk : Keeps s0 s) : Keeps s0 (s.schedLatch) := by
  unfold State.schedLatch
  repeat' first | intro _ | with_reducible assumption | with_reducible apply Keeps.ite | rfl | dsimp only | split
                | fail_if_no_progress (with_reducible refine Keeps.upd ?_ rfl)

theorem Keeps.feedFlags {s0 s : State} (t : HeatTest) (kk : Keeps s0 s) : Keeps s0 (s.feedFlags t) := by
  unfold State.feedFlags
  repeat' first | intro _ | with_reducible assumption | with_reducible apply Keeps.setFlag | with_reducible apply Keeps.iff
                | with_reducible apply Keeps.ite | rfl | dsimp only | split | fail_if_no_progress (with_reducible refine Keeps.upd ?_ rfl)

theorem Keeps.shedClass {s0 s : State} (c : Nat) (kk : Keeps s0 s) : Keeps s0 (s.shedClass c) := by
  unfold State.shedClass
  repeat' first | intro _ | with_reducible assumption | with_reducible apply Keeps.setFlag | with_reducible apply Keeps.count
                | with_reducible apply Keeps.ite | rfl | dsimp only | split | fail_if_no_progress (with_reducible refine Keeps.upd ?_ rfl)

theorem Keeps.admitLoop {s0 : State} (n : Nat) : ∀ {s : State} (l : List Task) (_ : Keeps s0 s), Keeps s0 (admitLoop n s l).1 := by
  induction n with
  | zero => intro s l kk; unfold Sys2Proof.Machine.admitLoop; dsimp only; split
            · exact kk.feedFlags _
            · split
              · exact kk.feedFlags _
              · exact (kk.feedFlags _).setFlag _ _ _
  | succ n ih => intro s l kk; unfold Sys2Proof.Machine.admitLoop; dsimp only; split
                 · exact kk.feedFlags _
                 · split
                   · exact ih _ ((kk.feedFlags _).shedClass _)
                   · exact (kk.feedFlags _).setFlag _ _ _

theorem Keeps.feedWord {s0 s : State} (p : Nat) (kk : Keeps s0 s) : Keeps s0 (s.feedWord p).2 := by
  unfold State.feedWord
  repeat' first | intro _ | with_reducible assumption | with_reducible apply Keeps.spend | with_reducible apply Keeps.ite | rfl | dsimp only
                | split | fail_if_no_progress (with_reducible refine Keeps.upd ?_ rfl)

theorem Keeps.schedShow {s0 s : State} (t : HeatTest) (kk : Keeps s0 s) : Keeps s0 (s.schedShow t) := by
  unfold State.schedShow
  repeat' first | intro _ | with_reducible assumption | with_reducible apply Keeps.wr | with_reducible apply Keeps.spend
                | with_reducible apply Keeps.feedWord | with_reducible apply Keeps.ite | rfl | dsimp only | split
                | fail_if_no_progress (with_reducible refine Keeps.upd ?_ rfl)

theorem Keeps.schedRecover {s0 s : State} (m : Mode) (due cands : List Task) (kk : Keeps s0 s) : Keeps s0 (s.schedRecover m due cands) := by
  unfold State.schedRecover
  repeat' first | intro _ | with_reducible assumption | with_reducible apply Keeps.setFlag | with_reducible apply Keeps.ite | rfl | dsimp only
                | split | fail_if_no_progress (with_reducible refine Keeps.upd ?_ rfl)

theorem Keeps.taskStat {s0 s : State} (admitted deferred : Bool) (t : Task) (kk : Keeps s0 s) : Keeps s0 (s.taskStat admitted deferred t) := by
  unfold State.taskStat
  repeat' first | intro _ | with_reducible assumption | with_reducible apply Keeps.setFld | with_reducible apply Keeps.count
                | with_reducible apply Keeps.ite | rfl | dsimp only | split | fail_if_no_progress (with_reducible refine Keeps.upd ?_ rfl)

theorem Keeps.idleTasks {s0 s : State} (kk : Keeps s0 s) : Keeps s0 (s.idleTasks) := by
  unfold State.idleTasks
  repeat' first | intro _ | with_reducible assumption | with_reducible apply Keeps.setFld | with_reducible apply Keeps.each
                | with_reducible apply Keeps.ite | rfl | dsimp only | split | fail_if_no_progress (with_reducible refine Keeps.upd ?_ rfl)

theorem Keeps.schedDecide {s0 s : State} (m : Mode) (kk : Keeps s0 s) : Keeps s0 (s.schedDecide m) := by
  unfold State.schedDecide
  repeat' first | intro _ | with_reducible assumption | with_reducible apply Keeps.eachOf | with_reducible apply Keeps.assert
                | with_reducible apply Keeps.release | with_reducible apply Keeps.admitLoop | with_reducible apply Keeps.schedShow
                | with_reducible apply Keeps.schedRecover | with_reducible apply Keeps.taskStat | with_reducible apply Keeps.idleTasks
                | with_reducible apply Keeps.ite | rfl | dsimp only | split | fail_if_no_progress (with_reducible refine Keeps.upd ?_ rfl)

theorem Keeps.schedRestart {s0 s : State} (v : Word) (kk : Keeps s0 s) : Keeps s0 (s.schedRestart v) := by
  unfold State.schedRestart
  repeat' first | intro _ | with_reducible assumption | with_reducible apply Keeps.ite | rfl | dsimp only | split
                | fail_if_no_progress (with_reducible refine Keeps.upd ?_ rfl)

theorem Keeps.schedBoundary {s0 s : State} (kk : Keeps s0 s) : Keeps s0 (s.schedBoundary) := by
  unfold State.schedBoundary
  repeat' first | intro _ | with_reducible assumption | with_reducible apply Keeps.each | with_reducible apply Keeps.stopSoft
                | with_reducible apply Keeps.ite | rfl | dsimp only | split | fail_if_no_progress (with_reducible refine Keeps.upd ?_ rfl)

theorem Keeps.refuseQuery {s0 s : State} (badAddr : Bool) (kk : Keeps s0 s) : Keeps s0 (s.refuseQuery badAddr) := by
  unfold State.refuseQuery
  repeat' first | intro _ | with_reducible assumption | with_reducible apply Keeps.setFlag | with_reducible apply Keeps.count
                | with_reducible apply Keeps.iff | with_reducible apply Keeps.ite | rfl | dsimp only | split
                | fail_if_no_progress (with_reducible refine Keeps.upd ?_ rfl)

theorem Keeps.scribeQuery {s0 s : State} (a b count : Nat) (kk : Keeps s0 s) : Keeps s0 (s.scribeQuery a b count).2 := by
  unfold State.scribeQuery
  repeat' first | intro _ | with_reducible assumption | with_reducible apply Keeps.setFld | with_reducible apply Keeps.setFlag
                | with_reducible apply Keeps.iff | with_reducible apply Keeps.spend | with_reducible apply Keeps.refuseQuery
                | with_reducible apply Keeps.ite | rfl | dsimp only | split | fail_if_no_progress (with_reducible refine Keeps.upd ?_ rfl)

theorem Keeps.outletResult {s0 s : State} (q : Query) (o : QOutlet) (kk : Keeps s0 s) : Keeps s0 (outletResult s q o).2.2 := by
  unfold Sys2Proof.Machine.outletResult; split
  · exact kk
  · exact Keeps.upd kk rfl

theorem Keeps.storeResults {s0 : State} (q : Query) (os : List QOutlet) : ∀ {s : State} (n : Nat) (_ :
    Keeps s0 s), Keeps s0 (s.storeResults q n os) := by
  induction os with
  | nil => intro s n kk; exact kk
  | cons o os ih =>
    intro s n kk
    unfold State.storeResults
    have k1 := (kk.outletResult q o).fmemPut (q.addr + 16 * n) (Machine.outletResult s q o).1
    exact ih _ (Keeps.ite ((k1.setFlag _ _ _).raise _ _) k1)

theorem Keeps.queryDone {s0 s : State} (t : Word) (kk : Keeps s0 s) : Keeps s0 (s.queryDone t) := by
  unfold State.queryDone
  repeat' first | intro _ | with_reducible assumption | with_reducible apply Keeps.storeResults | with_reducible apply Keeps.ite | rfl | dsimp only
                | split | fail_if_no_progress (with_reducible refine Keeps.upd ?_ rfl)

theorem Keeps.queryFailed {s0 s : State} (t : Word) (kk : Keeps s0 s) : Keeps s0 (s.queryFailed t) := by
  unfold State.queryFailed
  repeat' first | intro _ | with_reducible assumption | with_reducible apply Keeps.raise | with_reducible apply Keeps.ite | rfl | dsimp only | split
                | fail_if_no_progress (with_reducible refine Keeps.upd ?_ rfl)

theorem Keeps.setMarking {s0 s : State} (k : Nat) (x : Marking) (kk : Keeps s0 s) : Keeps s0 (s.setMarking k x) := by
  unfold State.setMarking
  repeat' first | intro _ | with_reducible assumption | with_reducible apply Keeps.ite | rfl | dsimp only | split
                | fail_if_no_progress (with_reducible refine Keeps.upd ?_ rfl)

theorem Keeps.markReject {s0 s : State} (flag : Nat) (kk : Keeps s0 s) : Keeps s0 (s.markReject flag) := by
  unfold State.markReject
  repeat' first | intro _ | with_reducible assumption | with_reducible apply Keeps.setFlag | with_reducible apply Keeps.count
                | with_reducible apply Keeps.ite | rfl | dsimp only | split | fail_if_no_progress (with_reducible refine Keeps.upd ?_ rfl)

theorem Keeps.dramPut {s0 s : State} (a : Nat) (bs : List Byte) (kk : Keeps s0 s) : Keeps s0 (s.dramPut a bs) :=
  ⟨kk.queue, kk.part, fun c => by
    have := kk.form c
    simp only [State.canonical, Bool.and_eq_true] at this ⊢
    exact ⟨⟨this.1.1, Memory.wf_stBytes a bs this.1.2⟩, this.2⟩⟩

theorem Keeps.raiseCell {s0 s : State} (k : Nat) (d : MapDesc) (t i j : Nat) (kk : Keeps s0 s) : Keeps s0 (s.raiseCell k d t i j) := by
  unfold State.raiseCell
  repeat' first | intro _ | with_reducible assumption | with_reducible apply Keeps.raise | with_reducible apply Keeps.markReject
                | with_reducible apply Keeps.dramPut | with_reducible apply Keeps.ite | rfl | dsimp only | split
                | fail_if_no_progress (with_reducible refine Keeps.upd ?_ rfl)

theorem Keeps.markCell {s0 s : State} (k : Nat) (d : MapDesc) (i j : Nat) (kk : Keeps s0 s) : Keeps s0 (s.markCell k d i j) := by
  unfold State.markCell
  repeat' first | intro _ | with_reducible assumption | with_reducible apply Keeps.setFld | with_reducible apply Keeps.raise
                | with_reducible apply Keeps.markReject | with_reducible apply Keeps.dramPut | with_reducible apply Keeps.raiseCell
                | with_reducible apply Keeps.ite | rfl | dsimp only | split | fail_if_no_progress (with_reducible refine Keeps.upd ?_ rfl)

theorem Keeps.markSegment {s0 s : State} (k : Nat) (t1 t2 : Int) (kk : Keeps s0 s) : Keeps s0 (s.markSegment k t1 t2) := by
  unfold State.markSegment
  repeat' first | intro _ | with_reducible assumption | with_reducible apply Keeps.eachOf | with_reducible apply Keeps.markCell
                | with_reducible apply Keeps.ite | rfl | dsimp only | split | fail_if_no_progress (with_reducible refine Keeps.upd ?_ rfl)

theorem Keeps.markSpan {s0 s : State} (k : Nat) (t1 t2 : Int) (kk : Keeps s0 s) : Keeps s0 (s.markSpan k t1 t2) := by
  unfold State.markSpan
  dsimp only
  generalize ((((s.scr.poses.map (·.at_)).filter (fun t => decide (t1 < t) && decide (t < t2))).reverse) ++ [t2]) = l
  induction l generalizing s t1 with
  | nil => exact kk
  | cons x l ih => exact ih x (kk.markSegment k t1 x)

theorem Keeps.markReach {s0 s : State} (k : Nat) (t : Int) (ahead : List MarkEvent) (kk : Keeps s0 s) : Keeps s0 (s.markReach k t ahead) := by
  unfold State.markReach
  repeat' first | intro _ | with_reducible assumption | with_reducible apply Keeps.setMarking | with_reducible apply Keeps.markSpan
                | with_reducible apply Keeps.ite | rfl | dsimp only | split | fail_if_no_progress (with_reducible refine Keeps.upd ?_ rfl)

theorem Keeps.markTo {s0 : State} (k : Nat) (t : Int) (l : List MarkEvent) : ∀ {s : State} (_ : Keeps s0 s), Keeps s0 (s.markTo k t l) := by
  induction l with
  | nil => intro s kk; exact kk.markReach k t []
  | cons e l ih =>
    intro s kk; unfold State.markTo; dsimp only; split
    · exact kk.markReach _ _ _
    · refine ih (Keeps.setMarking _ _ ?_)
      split
      · exact kk.markSpan _ _ _
      · exact kk

theorem Keeps.markAdvance {s0 s : State} (k : Nat) (kk : Keeps s0 s) : Keeps s0 (s.markAdvance k) := by
  unfold State.markAdvance
  repeat' first | intro _ | with_reducible assumption | with_reducible apply Keeps.markTo | with_reducible apply Keeps.ite | rfl | dsimp only
                | split | fail_if_no_progress (with_reducible refine Keeps.upd ?_ rfl)

theorem Keeps.markEvent {s0 s : State} (k : Nat) (on : Bool) (at_ : Int) (kk : Keeps s0 s) : Keeps s0 (s.markEvent k on at_) := by
  unfold State.markEvent
  repeat' first | intro _ | with_reducible assumption | with_reducible apply Keeps.raise | with_reducible apply Keeps.setMarking
                | with_reducible apply Keeps.markReject | with_reducible apply Keeps.markAdvance | with_reducible apply Keeps.ite | rfl | dsimp only | split
                | fail_if_no_progress (with_reducible refine Keeps.upd ?_ rfl)

theorem Keeps.smark {s0 s : State} (k : Nat) (on : Bool) (frame : BitVec 48) (ofs : Nat) (kk : Keeps s0 s) : Keeps s0 (s.smark k on frame ofs) := by
  unfold State.smark
  repeat' first | intro _ | with_reducible assumption | with_reducible apply Keeps.setFlag | with_reducible apply Keeps.count
                | with_reducible apply Keeps.markEvent | with_reducible apply Keeps.ite | rfl | dsimp only | split
                | fail_if_no_progress (with_reducible refine Keeps.upd ?_ rfl)

theorem Keeps.spose {s0 s : State} (l : List Int) (kk : Keeps s0 s) : Keeps s0 (s.spose l) := by
  unfold State.spose
  repeat' first | intro _ | with_reducible assumption | with_reducible apply Keeps.setFlag | with_reducible apply Keeps.eachOf
                | with_reducible apply Keeps.markAdvance | with_reducible apply Keeps.ite | rfl | dsimp only | split
                | fail_if_no_progress (with_reducible refine Keeps.upd ?_ rfl)

theorem Keeps.scribeBoundary {s0 s : State} (kk : Keeps s0 s) : Keeps s0 (s.scribeBoundary) := by
  unfold State.scribeBoundary
  repeat' first | intro _ | with_reducible assumption | with_reducible apply Keeps.setFld | with_reducible apply Keeps.setFlag
                | with_reducible apply Keeps.eachOf | with_reducible apply Keeps.ite | rfl | dsimp only | split
                | fail_if_no_progress (with_reducible refine Keeps.upd ?_ rfl)

theorem Keeps.scribeItems {s0 s : State} (items : List RecItem) (kk : Keeps s0 s) : Keeps s0 (s.scribeItems items) := by
  unfold State.scribeItems
  repeat' first | intro _ | with_reducible assumption | with_reducible apply Keeps.eachOf | with_reducible apply Keeps.gaugeUpdate
                | with_reducible apply Keeps.markEvent | with_reducible apply Keeps.ite | rfl | dsimp only | split
                | fail_if_no_progress (with_reducible refine Keeps.upd ?_ rfl)

theorem Keeps.marksOff {s0 s : State} (kk : Keeps s0 s) : Keeps s0 (s.marksOff) := by
  unfold State.marksOff
  repeat' first | intro _ | with_reducible assumption | with_reducible apply Keeps.ite | rfl | dsimp only | split
                | fail_if_no_progress (with_reducible refine Keeps.upd ?_ rfl)

theorem Keeps.setPage {s0 s : State} (p : Nat) (x : Page) (kk : Keeps s0 s) : Keeps s0 (s.setPage p x) := by
  unfold State.setPage
  repeat' first | intro _ | with_reducible assumption | with_reducible apply Keeps.ite | rfl | dsimp only | split
                | fail_if_no_progress (with_reducible refine Keeps.upd ?_ rfl)

theorem Keeps.publishPage {s0 s : State} (p : Nat) (kk : Keeps s0 s) : Keeps s0 (s.publishPage p) := by
  unfold State.publishPage
  repeat' first | intro _ | with_reducible assumption | with_reducible apply Keeps.ite | rfl | dsimp only | split
                | fail_if_no_progress (with_reducible refine Keeps.upd ?_ rfl)

theorem Keeps.publish {s0 s : State} (first : Nat) (v : Word) (kk : Keeps s0 s) : Keeps s0 (s.publish first v) := by
  unfold State.publish
  repeat' first | intro _ | with_reducible assumption | with_reducible apply Keeps.each | with_reducible apply Keeps.publishPage
                | with_reducible apply Keeps.ite | rfl | dsimp only | split | fail_if_no_progress (with_reducible refine Keeps.upd ?_ rfl)

theorem Keeps.pageCopied {s0 s : State} (p : Nat) (kk : Keeps s0 s) : Keeps s0 (s.pageCopied p) := by
  unfold State.pageCopied
  repeat' first | intro _ | with_reducible assumption | with_reducible apply Keeps.raiseDowel | with_reducible apply Keeps.ite | rfl | dsimp only
                | split | fail_if_no_progress (with_reducible refine Keeps.upd ?_ rfl)

theorem Keeps.pagesBoundary {s0 s : State} (kk : Keeps s0 s) : Keeps s0 (s.pagesBoundary) := by
  unfold State.pagesBoundary
  repeat' first | intro _ | with_reducible assumption | with_reducible apply Keeps.ite | rfl | dsimp only | split
                | fail_if_no_progress (with_reducible refine Keeps.upd ?_ rfl)

theorem Keeps.flipPage {s0 s : State} (p : Nat) (kk : Keeps s0 s) : Keeps s0 (s.flipPage p) := by
  unfold State.flipPage
  repeat' first | intro _ | with_reducible assumption | with_reducible apply Keeps.irq | with_reducible apply Keeps.setPage
                | with_reducible apply Keeps.ite | rfl | dsimp only | split | fail_if_no_progress (with_reducible refine Keeps.upd ?_ rfl)

theorem Keeps.flipPages {s0 s : State} (kk : Keeps s0 s) : Keeps s0 s.flipPages := by
  unfold State.flipPages
  extract_lets s1
  have k1 : Keeps s0 s1 := Keeps.each _ _ (fun i _ k => k.flipPage i) kk
  clear_value s1
  exact Keeps.upd k1 rfl

theorem Keeps.setStream {s0 s : State} (x : Stream) (kk : Keeps s0 s) : Keeps s0 (s.setStream x) := by
  unfold State.setStream
  repeat' first | intro _ | with_reducible assumption | with_reducible apply Keeps.ite | rfl | dsimp only | split
                | fail_if_no_progress (with_reducible refine Keeps.upd ?_ rfl)

theorem Keeps.streamEnd {s0 s : State} (err : Nat) (kk : Keeps s0 s) : Keeps s0 (s.streamEnd err) := by
  unfold State.streamEnd
  repeat' first | intro _ | with_reducible assumption | with_reducible apply Keeps.setFld | with_reducible apply Keeps.setFlag
                | with_reducible apply Keeps.iff | with_reducible apply Keeps.irq | with_reducible apply Keeps.setStream | with_reducible apply Keeps.ite
                | rfl | dsimp only | split | fail_if_no_progress (with_reducible refine Keeps.upd ?_ rfl)

theorem Keeps.streamRefuse {s0 s : State} (err : Nat) (kk : Keeps s0 s) : Keeps s0 (s.streamRefuse err) := by
  unfold State.streamRefuse
  repeat' first | intro _ | with_reducible assumption | with_reducible apply Keeps.setFld | with_reducible apply Keeps.irq
                | with_reducible apply Keeps.ite | rfl | dsimp only | split | fail_if_no_progress (with_reducible refine Keeps.upd ?_ rfl)

theorem Keeps.recStream {s0 s : State} (kk : Keeps s0 s) : Keeps s0 (s.recStream) := by
  unfold State.recStream
  repeat' first | intro _ | with_reducible assumption | with_reducible apply Keeps.wr | with_reducible apply Keeps.setStream
                | with_reducible apply Keeps.streamEnd | with_reducible apply Keeps.ite | rfl | dsimp only | split
                | fail_if_no_progress (with_reducible refine Keeps.upd ?_ rfl)

theorem Keeps.streamCtl {s0 s : State} (v : Word) (kk : Keeps s0 s) : Keeps s0 (s.streamCtl v) := by
  unfold State.streamCtl
  repeat' first | intro _ | with_reducible assumption | with_reducible apply Keeps.wr | with_reducible apply Keeps.setFld
                | with_reducible apply Keeps.setFlag | with_reducible apply Keeps.iff | with_reducible apply Keeps.setStream
                | with_reducible apply Keeps.streamEnd | with_reducible apply Keeps.streamRefuse | with_reducible apply Keeps.recStream
                | with_reducible apply Keeps.ite | rfl | dsimp only | split | fail_if_no_progress (with_reducible refine Keeps.upd ?_ rfl)

theorem Keeps.skipTo {s0 s : State} (x : Stream) (to_ : Word) (kk : Keeps s0 s) : Keeps s0 (s.skipTo x to_).1 := by
  unfold State.skipTo
  repeat' first | intro _ | with_reducible assumption | with_reducible apply Keeps.wr | with_reducible apply Keeps.ite | rfl | dsimp only | split
                | fail_if_no_progress (with_reducible refine Keeps.upd ?_ rfl)

theorem Keeps.fetchRecord {s0 s : State} (x : Stream) (kk : Keeps s0 s) : Keeps s0 (s.fetchRecord x) := by
  unfold State.fetchRecord
  repeat' first | intro _ | with_reducible assumption | with_reducible apply Keeps.streamEnd | with_reducible apply Keeps.setFlag | with_reducible apply Keeps.raise
                | with_reducible apply Keeps.setStream | with_reducible apply Keeps.skipTo | with_reducible apply Keeps.ite | rfl | dsimp only | split
                | fail_if_no_progress (with_reducible refine Keeps.upd ?_ rfl)

theorem Keeps.fetchOne {s0 s : State} (kk : Keeps s0 s) : Keeps s0 (s.fetchOne) := by
  unfold State.fetchOne
  repeat' first | intro _ | with_reducible assumption | with_reducible apply Keeps.setStream | with_reducible apply Keeps.streamEnd
                | with_reducible apply Keeps.fetchRecord | with_reducible apply Keeps.ite | rfl | dsimp only | split
                | fail_if_no_progress (with_reducible refine Keeps.upd ?_ rfl)

theorem Keeps.fetchMany {s0 : State} (n : Nat) {s : State} (kk : Keeps s0 s) : Keeps s0 (fetchMany n s) := by
  induction n generalizing s with
  | zero => exact kk
  | succ n ih => exact ih kk.fetchOne

theorem Keeps.streamDone {s0 s : State} (kk : Keeps s0 s) : Keeps s0 (s.streamDone) := by
  unfold State.streamDone
  repeat' first | intro _ | with_reducible assumption | with_reducible apply Keeps.streamEnd | with_reducible apply Keeps.ite | rfl | dsimp only
                | split | fail_if_no_progress (with_reducible refine Keeps.upd ?_ rfl)

theorem Keeps.streamFlow {s0 s : State} (kk : Keeps s0 s) : Keeps s0 (s.streamFlow) := by
  unfold State.streamFlow
  repeat' first | intro _ | with_reducible assumption | with_reducible apply Keeps.spend | with_reducible apply Keeps.setStream
                | with_reducible apply Keeps.fetchMany | with_reducible apply Keeps.streamDone | with_reducible apply Keeps.ite | rfl | dsimp only | split
                | fail_if_no_progress (with_reducible refine Keeps.upd ?_ rfl)

theorem Keeps.streamRead {s0 s : State} (kk : Keeps s0 s) : Keeps s0 (s.streamRead) := by
  unfold State.streamRead
  repeat' first | intro _ | with_reducible assumption | with_reducible apply Keeps.wr | with_reducible apply Keeps.setFld
                | with_reducible apply Keeps.setFlag | with_reducible apply Keeps.lockHit | with_reducible apply Keeps.setStream
                | with_reducible apply Keeps.streamDone | with_reducible apply Keeps.streamFlow | with_reducible apply Keeps.ite | rfl | dsimp only
                | split | fail_if_no_progress (with_reducible refine Keeps.upd ?_ rfl)

theorem Keeps.spaceWrite {s0 s : State} (space a : Nat) (w : Word) (kk : Keeps s0 s) : Keeps s0 (s.spaceWrite space a w) := by
  unfold State.spaceWrite
  repeat' first | intro _ | with_reducible assumption | with_reducible apply Keeps.setFlag | with_reducible apply Keeps.fmemPut
                | with_reducible apply Keeps.bankWrite | with_reducible apply Keeps.dramPut | with_reducible apply Keeps.ite | rfl | dsimp only | split
                | fail_if_no_progress (with_reducible refine Keeps.upd ?_ rfl)

theorem Keeps.streamWrite {s0 s : State} (v : BitVec 16) (kk : Keeps s0 s) : Keeps s0 (s.streamWrite v) := by
  unfold State.streamWrite
  repeat' first | intro _ | with_reducible assumption | with_reducible apply Keeps.setFld | with_reducible apply Keeps.setFlag
                | with_reducible apply Keeps.setStream | with_reducible apply Keeps.streamEnd | with_reducible apply Keeps.streamFlow
                | with_reducible apply Keeps.spaceWrite | with_reducible apply Keeps.ite | rfl | dsimp only | split
                | fail_if_no_progress (with_reducible refine Keeps.upd ?_ rfl)

theorem Keeps.refUpdate {s0 s : State} (fails : Bool) (kk : Keeps s0 s) : Keeps s0 (s.refUpdate fails) := by
  unfold State.refUpdate
  repeat' first | intro _ | with_reducible assumption | with_reducible apply Keeps.setFld | with_reducible apply Keeps.count
                | with_reducible apply Keeps.eachOf | with_reducible apply Keeps.raise | with_reducible apply Keeps.setGch | with_reducible apply Keeps.ite
                | rfl | dsimp only | split | fail_if_no_progress (with_reducible refine Keeps.upd ?_ rfl)

theorem Keeps.pllLost {s0 s : State} (bus : Bool) (kk : Keeps s0 s) : Keeps s0 (s.pllLost bus) := by
  unfold State.pllLost
  repeat' first | intro _ | with_reducible assumption | with_reducible apply Keeps.setFlag | with_reducible apply Keeps.each
                | with_reducible apply Keeps.assert | with_reducible apply Keeps.busHalt | with_reducible apply Keeps.ite | rfl | dsimp only | split
                | fail_if_no_progress (with_reducible refine Keeps.upd ?_ rfl)

theorem Keeps.beganWith {s0 s : State} (q : BeginReq) (kk : Keeps s0 s) : Keeps s0 (s.beganWith q) := by
  unfold State.beganWith
  repeat' first | intro _ | with_reducible assumption | with_reducible apply Keeps.ite | rfl | dsimp only | split
                | fail_if_no_progress (with_reducible refine Keeps.upd ?_ rfl)

theorem Keeps.txnOutrank {s0 s : State} (q : BeginReq) (kk : Keeps s0 s) : Keeps s0 (s.txnOutrank q) := by
  unfold State.txnOutrank
  repeat' first | intro _ | with_reducible assumption | with_reducible apply Keeps.eachOf | with_reducible apply Keeps.txnRefuse
                | with_reducible apply Keeps.putP | with_reducible apply Keeps.ite | rfl | dsimp only | split
                | fail_if_no_progress (with_reducible refine Keeps.upd ?_ rfl)

theorem Keeps.txnBegin {s0 s : State} (q : BeginReq) (kk : Keeps s0 s) : Keeps s0 (s.txnBegin q) := by
  unfold State.txnBegin
  repeat' first | intro _ | with_reducible assumption | with_reducible apply Keeps.txnStatus | with_reducible apply Keeps.txnRefuse
                | with_reducible apply Keeps.beganWith | with_reducible apply Keeps.txnOutrank | with_reducible apply Keeps.ite | rfl | dsimp only
                | split | fail_if_no_progress (with_reducible refine Keeps.upd ?_ rfl)

theorem Keeps.commitAnswer {s0 s : State} (e : Nat) (word : Word) (kk : Keeps s0 s) : Keeps s0 (s.commitAnswer e word) := by
  unfold State.commitAnswer
  repeat' first | intro _ | with_reducible assumption | with_reducible apply Keeps.answerG | with_reducible apply Keeps.ite | rfl | dsimp only
                | split | fail_if_no_progress (with_reducible refine Keeps.upd ?_ rfl)

theorem Keeps.answerWaiter {s0 s : State} (waiter : Option Nat) (word : Word) (kk : Keeps s0 s) : Keeps s0 (s.answerWaiter waiter word) := by
  unfold State.answerWaiter
  repeat' first | intro _ | with_reducible assumption | with_reducible apply Keeps.commitAnswer | with_reducible apply Keeps.ite | rfl
                | dsimp only | split | fail_if_no_progress (with_reducible refine Keeps.upd ?_ rfl)

theorem Keeps.commitChecked {s0 s : State} (kk : Keeps s0 s) : Keeps s0 (s.commitChecked) := by
  unfold State.commitChecked
  repeat' first | intro _ | with_reducible assumption | with_reducible apply Keeps.count | with_reducible apply Keeps.txnResult
                | with_reducible apply Keeps.txnStatus | with_reducible apply Keeps.txnRecord | with_reducible apply Keeps.txnFree
                | with_reducible apply Keeps.answerWaiter | with_reducible apply Keeps.table | with_reducible apply Keeps.ite | rfl | dsimp only | split
                | fail_if_no_progress (with_reducible refine Keeps.upd ?_ rfl)

theorem Keeps.txnCommitDig {s0 s : State} (h : Holder) (dig : Word) (kk : Keeps s0 s) : Keeps s0 (s.txnCommitDig h dig) := by
  unfold State.txnCommitDig
  repeat' first | intro _ | with_reducible assumption | with_reducible apply Keeps.txnCommit | with_reducible apply Keeps.ite | rfl | dsimp only
                | split | fail_if_no_progress (with_reducible refine Keeps.upd ?_ rfl)

theorem Keeps.txnCtrl {s0 s : State} (mk : Nat → Holder) (v dig : Word) (kk : Keeps s0 s) : Keeps s0 (s.txnCtrl mk v dig) := by
  unfold State.txnCtrl
  repeat' first | intro _ | with_reducible assumption | with_reducible apply Keeps.txnRollbackCmd | with_reducible apply Keeps.txnBegin
                | with_reducible apply Keeps.txnCommitDig | with_reducible apply Keeps.ite | rfl | dsimp only | split
                | fail_if_no_progress (with_reducible refine Keeps.upd ?_ rfl)

theorem Keeps.txnHostWrite {s0 s : State} (a : Nat) (v : Word) (kk : Keeps s0 s) : Keeps s0 (s.txnHostWrite a v) := by
  unfold State.txnHostWrite
  repeat' first | intro _ | with_reducible assumption | with_reducible apply Keeps.setFlag | with_reducible apply Keeps.shadowWrite
                | with_reducible apply Keeps.ite | rfl | dsimp only | split | fail_if_no_progress (with_reducible refine Keeps.upd ?_ rfl)

theorem Keeps.txnTwinWrite {s0 s : State} (a : Nat) (v : Word) (kk : Keeps s0 s) : Keeps s0 (s.txnTwinWrite a v) := by
  unfold State.txnTwinWrite
  repeat' first | intro _ | with_reducible assumption | with_reducible apply Keeps.setFlag | with_reducible apply Keeps.shadowWrite
                | with_reducible apply Keeps.ite | rfl | dsimp only | split | fail_if_no_progress (with_reducible refine Keeps.upd ?_ rfl)

theorem Keeps.wordApplied {s0 s : State} (a : Nat) (old : Word) (kk : Keeps s0 s) : Keeps s0 (s.wordApplied a old) := by
  unfold State.wordApplied
  repeat' first | intro _ | with_reducible assumption | with_reducible apply Keeps.eachOf | with_reducible apply Keeps.gaugeAbortAll
                | with_reducible apply Keeps.setLch | with_reducible apply Keeps.applyBcfg | with_reducible apply Keeps.forceUnit
                | with_reducible apply Keeps.recCodeCommitted | with_reducible apply Keeps.driveKill | with_reducible apply Keeps.trussEnabled
                | with_reducible apply Keeps.pinForce | with_reducible apply Keeps.pinActive | with_reducible apply Keeps.pinRelease
                | with_reducible apply Keeps.adcRanged | with_reducible apply Keeps.axisCommitted | with_reducible apply Keeps.fbCommitted
                | with_reducible apply Keeps.antCommitted | with_reducible apply Keeps.gCommitted | with_reducible apply Keeps.uncCheck
                | with_reducible apply Keeps.holdBack | with_reducible apply Keeps.busPast | with_reducible apply Keeps.busCommitted
                | with_reducible apply Keeps.busRefCommitted | with_reducible apply Keeps.refUpdate | with_reducible apply Keeps.ite | rfl
                | dsimp only | split | fail_if_no_progress (with_reducible refine Keeps.upd ?_ rfl)

theorem Keeps.adcApplied {s0 s : State} (l : List (Nat × Word)) (kk : Keeps s0 s) : Keeps s0 (s.adcApplied l) := by
  unfold State.adcApplied
  repeat' first | intro _ | with_reducible assumption | with_reducible apply Keeps.adcCommitted | with_reducible apply Keeps.ite | rfl
                | dsimp only | split | fail_if_no_progress (with_reducible refine Keeps.upd ?_ rfl)

theorem mergedRegs_wf (s : State) (p : Nat → Bool) (h : SMap.wf Reg.resetOf s.regs = true) : SMap.wf Reg.resetOf (mergedRegs s p) = true := by
  unfold mergedRegs
  generalize s.txn.shadow = l
  generalize s.regs = m at h ⊢
  induction l generalizing m with
  | nil => exact h
  | cons x l ih =>
    simp only [List.foldl_cons]
    apply ih
    split
    · exact Regs.wf_set _ _ h
    · exact h

theorem Keeps.txnApply {s0 s : State} (kk : Keeps s0 s) : Keeps s0 s.txnApply := by
  unfold State.txnApply
  refine Keeps.ite ?_ kk
  extract_lets l t olds s1 s2
  have kt : Keeps s0 t := Keeps.ite kk.rtSync kk
  clear_value t
  have k1 : Keeps s0 s1 := Keeps.txnFree ⟨kt.queue, kt.part, fun c => by
    have := kt.form c
    simp only [State.canonical, Bool.and_eq_true] at this ⊢
    exact ⟨⟨⟨⟨mergedRegs_wf t _ this.1.1.1.1, this.1.1.1.2⟩, this.1.1.2⟩, this.1.2⟩, this.2⟩⟩
  have k2 : Keeps s0 s2 := (k1.wr _ _).wr _ _
  exact Keeps.adcApplied _ (Keeps.eachOf _ _ (fun _ _ k => k.wordApplied _ _) k2)

end Sys2Proof.Machine
end

