-- ==== Sys2Proof/Laws/KeepsModes.lean ====
section
/-! SUPPORT. Laws: what the operations of modes and resets, supplies, Scarf, engine memory and the test port keep. -/
set_option linter.unusedTactic false
set_option linter.unreachableTactic false
namespace Sys2Proof.Machine
theorem Keeps.setPhase {s0 s : State} (p : Nat) (kk : Keeps s0 s) : Keeps s0 (s.setPhase p) := by
  unfold State.setPhase
  repeat' first | intro _ | with_reducible assumption | with_reducible apply Keeps.setFld | with_reducible apply Keeps.ite | rfl | dsimp only
                | split | fail_if_no_progress (with_reducible refine Keeps.upd ?_ rfl)

theorem Keeps.scarfGo {s0 s : State} (v : Word) (kk : Keeps s0 s) : Keeps s0 (s.scarfGo v) := by
  unfold State.scarfGo
  repeat' first | intro _ | with_reducible assumption | with_reducible apply Keeps.setFld | with_reducible apply Keeps.setPhase
                | with_reducible apply Keeps.ite | rfl | dsimp only | split | fail_if_no_progress (with_reducible refine Keeps.upd ?_ rfl)

theorem Keeps.twinCommit {s0 s : State} (ws : List (Nat × Word)) (kk : Keeps s0 s) : Keeps s0 (s.twinCommit ws) := by
  unfold State.twinCommit
  repeat' first | intro _ | with_reducible assumption | with_reducible apply Keeps.eachOf | with_reducible apply Keeps.iff
                | with_reducible apply Keeps.txnCommit | with_reducible apply Keeps.txnBegin | with_reducible apply Keeps.commitChecked
                | with_reducible apply Keeps.txnTwinWrite | with_reducible apply Keeps.ite | rfl | dsimp only | split
                | fail_if_no_progress (with_reducible refine Keeps.upd ?_ rfl)

theorem Keeps.scarfRegs {s0 s : State} (ws : List (Nat × Word)) (kk : Keeps s0 s) : Keeps s0 (s.scarfRegs ws) := by
  unfold State.scarfRegs
  repeat' first | intro _ | with_reducible assumption | with_reducible apply Keeps.each | with_reducible apply Keeps.txnApply
                | with_reducible apply Keeps.twinCommit | with_reducible apply Keeps.ite | rfl | dsimp only | split
                | fail_if_no_progress (with_reducible refine Keeps.upd ?_ rfl)

theorem Keeps.scarfTake {s0 s : State} (i : ScarfItem) (kk : Keeps s0 s) : Keeps s0 (s.scarfTake i) := by
  unfold State.scarfTake
  cases i with
  | reg a v => exact kk
  | dram a b => exact kk.dramPut _ _
  | fmem o w => exact kk.fmemPut _ _
  | dmem e o w => exact kk.updEn _ _
  | journal h e => exact Keeps.upd (kk.mramWritten 3 0 0x400000) rfl
  | recorder h o a b l =>
    dsimp only
    have k1 := (kk.wr Reg.REC_HEAD h).wr Reg.REC_OLDEST o
    generalize (s.wr Reg.REC_HEAD h).wr Reg.REC_OLDEST o = u at k1 ⊢
    exact Keeps.upd (k1.mramWritten 4 0 0x1000000) rfl

theorem Keeps.journalAnswers {s0 s : State} (kk : Keeps s0 s) : Keeps s0 (s.journalAnswers) := by
  unfold State.journalAnswers
  repeat' first | intro _ | with_reducible assumption | with_reducible apply Keeps.each | with_reducible apply Keeps.answerAt
                | with_reducible apply Keeps.ite | rfl | dsimp only | split | fail_if_no_progress (with_reducible refine Keeps.upd ?_ rfl)

theorem Keeps.setSys {s0 s : State} (f : Sys → Sys) (hf : ∀ y, (f y).variant = y.variant) (kk : Keeps s0 s) : Keeps s0 (s.setSys f) :=
  ⟨kk.queue, (hf _).trans kk.part, kk.form⟩

theorem Keeps.changeMode {s0 s : State} (m : Mode) (cause : Nat) (kk : Keeps s0 s) : Keeps s0 (s.changeMode m cause) := by
  unfold State.changeMode
  repeat' first | intro _ | with_reducible assumption | with_reducible apply Keeps.setFld | with_reducible apply Keeps.irq
                | with_reducible apply Keeps.putRec | with_reducible apply Keeps.setSys | with_reducible apply Keeps.ite | rfl | dsimp only | split
                | fail_if_no_progress (with_reducible refine Keeps.upd ?_ rfl)

theorem Keeps.outputs {s0 s : State} (kk : Keeps s0 s) : Keeps s0 (s.outputs) := by
  unfold State.outputs
  repeat' first | intro _ | with_reducible assumption | with_reducible apply Keeps.settleAll | with_reducible apply Keeps.drivers
                | with_reducible apply Keeps.ite | rfl | dsimp only | split | fail_if_no_progress (with_reducible refine Keeps.upd ?_ rfl)

theorem Keeps.holdUnits {s0 s : State} (kk : Keeps s0 s) : Keeps s0 (s.holdUnits) := by
  unfold State.holdUnits
  repeat' first | intro _ | with_reducible assumption | with_reducible apply Keeps.each | with_reducible apply Keeps.holdUnit
                | with_reducible apply Keeps.ite | rfl | dsimp only | split | fail_if_no_progress (with_reducible refine Keeps.upd ?_ rfl)

theorem Keeps.firstRun {s0 s : State} (kk : Keeps s0 s) : Keeps s0 (s.firstRun) := by
  unfold State.firstRun
  repeat' first | intro _ | with_reducible assumption | with_reducible apply Keeps.wr | with_reducible apply Keeps.setSys
                | with_reducible apply Keeps.ite | rfl | dsimp only | split | fail_if_no_progress (with_reducible refine Keeps.upd ?_ rfl)

theorem Keeps.leaveBoot {s0 s : State} (m : Mode) (kk : Keeps s0 s) : Keeps s0 (s.leaveBoot m) := by
  unfold State.leaveBoot
  repeat' first | intro _ | with_reducible assumption | with_reducible apply Keeps.setFld | with_reducible apply Keeps.trussEnabled
                | with_reducible apply Keeps.ite | rfl | dsimp only | split | fail_if_no_progress (with_reducible refine Keeps.upd ?_ rfl)

theorem Keeps.enterMode {s0 s : State} (m : Mode) (cause : Nat) (kk : Keeps s0 s) : Keeps s0 (s.enterMode m cause) := by
  unfold State.enterMode
  repeat' first | intro _ | with_reducible assumption | with_reducible apply Keeps.setFld | with_reducible apply Keeps.gaugeAbortAll
                | with_reducible apply Keeps.replayJournal | with_reducible apply Keeps.motionSafe | with_reducible apply Keeps.gBurstSync
                | with_reducible apply Keeps.marksOff | with_reducible apply Keeps.streamEnd | with_reducible apply Keeps.changeMode
                | with_reducible apply Keeps.holdUnits | with_reducible apply Keeps.firstRun | with_reducible apply Keeps.leaveBoot
                | with_reducible apply Keeps.ite | rfl | dsimp only | split | fail_if_no_progress (with_reducible refine Keeps.upd ?_ rfl)

theorem Keeps.decideMode {s0 s : State} (kk : Keeps s0 s) : Keeps s0 (s.decideMode) := by
  unfold State.decideMode
  repeat' first | intro _ | with_reducible assumption | with_reducible apply Keeps.setSys | with_reducible apply Keeps.ite | rfl | dsimp only
                | split | fail_if_no_progress (with_reducible refine Keeps.upd ?_ rfl)

theorem keptRegs_wf (k : ResetKind) (m : SMap Word) : SMap.wf Reg.resetOf (keptRegs k m) = true := by
  unfold keptRegs
  suffices h : ∀ acc : SMap Word, SMap.wf Reg.resetOf acc = true →
      SMap.wf Reg.resetOf (m.foldl (fun acc x =>
        let b := keepMask k x.1
        if b = 0 then acc else Regs.set acc x.1 ((Reg.resetOf x.1 &&& ~~~b) ||| (x.2 &&& b))) acc) = true from h [] rfl
  intro acc h
  induction m generalizing acc with
  | nil => exact h
  | cons x m ih =>
    simp only [List.foldl_cons]
    apply ih
    split
    · exact h
    · exact Regs.wf_set _ _ h

theorem regsAfter_wf (s : State) (k : ResetKind) : SMap.wf Reg.resetOf (s.regsAfter k) = true := by
  unfold State.regsAfter
  have h := Regs.wf_set Reg.PWM_FLTLVL (pinsAfter s) (keptRegs_wf k s.regs)
  revert h
  generalize Regs.set (keptRegs k s.regs) Reg.PWM_FLTLVL (pinsAfter s) = m
  generalize assertedAfter s k = l
  induction l generalizing m with
  | nil => exact id
  | cons x l ih => exact fun h => ih _ (Regs.wf_set _ _ h)

theorem Keeps.afterReset {s0 s : State} (k : ResetKind) (kk : Keeps s0 s) : Keeps s0 (s.afterReset k) :=
  ⟨kk.queue, kk.part, fun c => by
    have := kk.form c
    simp only [State.canonical, Bool.and_eq_true] at this ⊢
    exact ⟨⟨⟨⟨regsAfter_wf s k, rfl⟩, rfl⟩, rfl⟩, this.2⟩⟩

theorem Keeps.beginBoot {s0 s : State} (old : State) (cause : Nat) (kk : Keeps s0 s) : Keeps s0 (s.beginBoot old cause) := by
  unfold State.beginBoot
  repeat' first | intro _ | with_reducible assumption | with_reducible apply Keeps.wr | with_reducible apply Keeps.setFld
                | with_reducible apply Keeps.setFlag | with_reducible apply Keeps.putRec | with_reducible apply Keeps.takeWaiting
                | with_reducible apply Keeps.setSys | with_reducible apply Keeps.ite | rfl | dsimp only | split
                | fail_if_no_progress (with_reducible refine Keeps.upd ?_ rfl)

theorem Keeps.systemReset {s0 s : State} (cause : Nat) (kk : Keeps s0 s) : Keeps s0 (s.systemReset cause) := by
  unfold State.systemReset
  repeat' first | intro _ | with_reducible assumption | with_reducible apply Keeps.afterReset | with_reducible apply Keeps.beginBoot
                | with_reducible apply Keeps.ite | rfl | dsimp only | split | fail_if_no_progress (with_reducible refine Keeps.upd ?_ rfl)

theorem Keeps.cycleCount {s0 s : State} (kk : Keeps s0 s) : Keeps s0 (s.cycleCount) := by
  unfold State.cycleCount
  repeat' first | intro _ | with_reducible assumption | with_reducible apply Keeps.wr | with_reducible apply Keeps.ite | rfl | dsimp only | split
                | fail_if_no_progress (with_reducible refine Keeps.upd ?_ rfl)

theorem Keeps.wakeReset {s0 s : State} (src : Nat) (kk : Keeps s0 s) : Keeps s0 (s.wakeReset src) := by
  unfold State.wakeReset
  repeat' first | intro _ | with_reducible assumption | with_reducible apply Keeps.setFld | with_reducible apply Keeps.afterReset
                | with_reducible apply Keeps.beginBoot | with_reducible apply Keeps.cycleCount | with_reducible apply Keeps.wake
                | with_reducible apply Keeps.ite | rfl | dsimp only | split | fail_if_no_progress (with_reducible refine Keeps.upd ?_ rfl)

theorem Keeps.sillSave {s0 s : State} (kk : Keeps s0 s) : Keeps s0 (s.sillSave) := by
  unfold State.sillSave
  repeat' first | intro _ | with_reducible assumption | with_reducible apply Keeps.setSys | with_reducible apply Keeps.ite | rfl | dsimp only
                | split | fail_if_no_progress (with_reducible refine Keeps.upd ?_ rfl)

theorem Keeps.savedSill {s0 s : State} (kk : Keeps s0 s) : Keeps s0 (s.savedSill) := by
  unfold State.savedSill
  repeat' first | intro _ | with_reducible assumption | with_reducible apply Keeps.setSys | with_reducible apply Keeps.sillSave
                | with_reducible apply Keeps.ite | rfl | dsimp only | split | fail_if_no_progress (with_reducible refine Keeps.upd ?_ rfl)

theorem Keeps.enterSill {s0 s : State} (cause : Nat) (kk : Keeps s0 s) : Keeps s0 (s.enterSill cause) := by
  unfold State.enterSill
  repeat' first | intro _ | with_reducible assumption | with_reducible apply Keeps.setFlag | with_reducible apply Keeps.each
                | with_reducible apply Keeps.gaugeAbortAll | with_reducible apply Keeps.openIso | with_reducible apply Keeps.txnDiscard
                | with_reducible apply Keeps.endGrant | with_reducible apply Keeps.busLast | with_reducible apply Keeps.streamEnd
                | with_reducible apply Keeps.setSys | with_reducible apply Keeps.changeMode | with_reducible apply Keeps.outputs
                | with_reducible apply Keeps.ite | rfl | dsimp only | split | fail_if_no_progress (with_reducible refine Keeps.upd ?_ rfl)

theorem Keeps.writeAll {s0 : State} (n : Nat) {s : State} (kk : Keeps s0 s) : Keeps s0 (writeAll n s) := by
  induction n generalizing s with
  | zero => exact kk
  | succ n ih => exact ih kk.jrnWritten

theorem Keeps.drainJournal {s0 s : State} (kk : Keeps s0 s) : Keeps s0 (s.drainJournal) := by
  unfold State.drainJournal
  repeat' first | intro _ | with_reducible assumption | with_reducible apply Keeps.drainBuffer | with_reducible apply Keeps.writeAll
                | with_reducible apply Keeps.ite | rfl | dsimp only | split | fail_if_no_progress (with_reducible refine Keeps.upd ?_ rfl)

theorem Keeps.wake {s0 s : State} (src : Nat) (kk : Keeps s0 s) : Keeps s0 (s.wake src) := by
  unfold State.wake
  repeat' first | intro _ | with_reducible assumption | with_reducible apply Keeps.setSys | with_reducible apply Keeps.wakeReset
                | with_reducible apply Keeps.ite | rfl | dsimp only | split | fail_if_no_progress (with_reducible refine Keeps.upd ?_ rfl)

theorem Keeps.badSlot {s0 s : State} (k : Nat) (kk : Keeps s0 s) : Keeps s0 (s.badSlot k) := by
  unfold State.badSlot
  repeat' first | intro _ | with_reducible assumption | with_reducible apply Keeps.wr | with_reducible apply Keeps.setFlag
                | with_reducible apply Keeps.each | with_reducible apply Keeps.spend | with_reducible apply Keeps.raise | with_reducible apply Keeps.setOwner
                | with_reducible apply Keeps.setHostKey | with_reducible apply Keeps.setMessageKey | with_reducible apply Keeps.ite | rfl | dsimp only
                | split | fail_if_no_progress (with_reducible refine Keeps.upd ?_ rfl)

theorem Keeps.enterFreeze {s0 s : State} (cause : Nat) (kk : Keeps s0 s) : Keeps s0 (s.enterFreeze cause) := by
  unfold State.enterFreeze
  repeat' first | intro _ | with_reducible assumption | with_reducible apply Keeps.writeAll | with_reducible apply Keeps.setFlag | with_reducible apply Keeps.each
                | with_reducible apply Keeps.setEn | with_reducible apply Keeps.cancelInjection | with_reducible apply Keeps.streamEnd
                | with_reducible apply Keeps.setSys | with_reducible apply Keeps.changeMode | with_reducible apply Keeps.outputs
                | with_reducible apply Keeps.ite | rfl | dsimp only | split | fail_if_no_progress (with_reducible refine Keeps.upd ?_ rfl)

theorem Keeps.freezeBy {s0 s : State} (cause : Nat) (kk : Keeps s0 s) : Keeps s0 (s.freezeBy cause) := by
  unfold State.freezeBy
  repeat' first | intro _ | with_reducible assumption | with_reducible apply Keeps.setSys | with_reducible apply Keeps.enterFreeze
                | with_reducible apply Keeps.ite | rfl | dsimp only | split | fail_if_no_progress (with_reducible refine Keeps.upd ?_ rfl)

theorem Keeps.resume {s0 s : State} (kk : Keeps s0 s) : Keeps s0 (s.resume) := by
  unfold State.resume
  refine Keeps.ite kk ?_
  extract_lets s1 s2
  have k2 : Keeps s0 s2 := Keeps.each _ _ (fun _ _ k => Keeps.ite (k.setEn _ _) k) (kk.changeMode _ _)
  clear_value s2
  exact k2.journalAnswers.gaugeAbortAll.adcResume.motionResume.gnssResume.busResume.holdUnits.outputs.takeWaiting

theorem Keeps.requestRefused {s0 s : State} (req by_ : Nat) (kk : Keeps s0 s) : Keeps s0 (s.requestRefused req by_) := by
  unfold State.requestRefused
  repeat' first | intro _ | with_reducible assumption | with_reducible apply Keeps.setFld | with_reducible apply Keeps.setFlag
                | with_reducible apply Keeps.raise | with_reducible apply Keeps.ite | rfl | dsimp only | split
                | fail_if_no_progress (with_reducible refine Keeps.upd ?_ rfl)

theorem Keeps.modeRequest {s0 s : State} (v : Word) (by_ : Nat) (kk : Keeps s0 s) : Keeps s0 (s.modeRequest v by_) := by
  unfold State.modeRequest
  repeat' first | intro _ | with_reducible assumption | with_reducible apply Keeps.setFld | with_reducible apply Keeps.setSys
                | with_reducible apply Keeps.requestRefused | with_reducible apply Keeps.ite | rfl | dsimp only | split
                | fail_if_no_progress (with_reducible refine Keeps.upd ?_ rfl)

theorem Keeps.sysRst {s0 s : State} (v : Word) (kk : Keeps s0 s) : Keeps s0 (s.sysRst v) := by
  unfold State.sysRst
  repeat' first | intro _ | with_reducible assumption | with_reducible apply Keeps.systemReset | with_reducible apply Keeps.ite | rfl
                | dsimp only | split | fail_if_no_progress (with_reducible refine Keeps.upd ?_ rfl)

theorem Keeps.modeBoundary {s0 s : State} (kk : Keeps s0 s) : Keeps s0 (s.modeBoundary) := by
  unfold State.modeBoundary
  repeat' first | intro _ | with_reducible assumption | with_reducible apply Keeps.reactionEnds | with_reducible apply Keeps.setSys
                | with_reducible apply Keeps.enterMode | with_reducible apply Keeps.systemReset | with_reducible apply Keeps.enterSill
                | with_reducible apply Keeps.ite | rfl | dsimp only | split | fail_if_no_progress (with_reducible refine Keeps.upd ?_ rfl)

theorem Keeps.showSource {s0 s : State} (v1 v2 : Nat) (kk : Keeps s0 s) : Keeps s0 (s.showSource v1 v2) := by
  unfold State.showSource
  repeat' first | intro _ | with_reducible assumption | with_reducible apply Keeps.setFld | with_reducible apply Keeps.ite | rfl | dsimp only
                | split | fail_if_no_progress (with_reducible refine Keeps.upd ?_ rfl)

theorem Keeps.dipEnds {s0 s : State} (kk : Keeps s0 s) : Keeps s0 (s.dipEnds) := by
  unfold State.dipEnds
  repeat' first | intro _ | with_reducible assumption | with_reducible apply Keeps.count | with_reducible apply Keeps.raise
                | with_reducible apply Keeps.setSys | with_reducible apply Keeps.ite | rfl | dsimp only | split
                | fail_if_no_progress (with_reducible refine Keeps.upd ?_ rfl)

theorem Keeps.pinsLow {s0 s : State} (kk : Keeps s0 s) : Keeps s0 s.pinsLow := by
  unfold State.pinsLow
  repeat' first | intro _ | with_reducible assumption | with_reducible apply Keeps.each | with_reducible apply Keeps.ite
                | with_reducible apply Keeps.pinRelease | with_reducible apply Keeps.pinActive | rfl | dsimp only

theorem Keeps.latchSupplies {s0 s : State} (temps : List (Option (BitVec 16))) (v1 v2 hold : BitVec 16) (kk : Keeps s0 s) :
    Keeps s0 (s.latchSupplies temps v1 v2 hold) := by
  unfold State.latchSupplies
  repeat' first | intro _ | with_reducible assumption | with_reducible apply Keeps.wr | with_reducible apply Keeps.each
                | with_reducible apply Keeps.setSys | with_reducible apply Keeps.showSource | with_reducible apply Keeps.ite | rfl | dsimp only
                | split | fail_if_no_progress (with_reducible refine Keeps.upd ?_ rfl)

theorem Keeps.memPut {s0 s : State} (e space o : Nat) (x : TW) (kk : Keeps s0 s) : Keeps s0 (s.memPut e space o x) := by
  unfold State.memPut
  refine Keeps.ite (kk.updEn _ _) ⟨kk.queue, kk.part, fun c => ?_⟩
  have := kk.form c
  simp only [State.canonical, Bool.and_eq_true] at this ⊢
  exact ⟨⟨⟨⟨this.1.1.1.1, Memory.wf_st _ _ this.1.1.1.2⟩, Memory.wf_set _ _ this.1.1.2⟩, this.1.2⟩, this.2⟩

theorem Keeps.access {s0 s : State} (i : Issue) (f : FmtM) (vec full : Bool) (data : List TW) (k : Nat → State → State)
    (hk : ∀ o t, Keeps s0 t → Keeps s0 (k o t)) (kk : Keeps s0 s) : Keeps s0 (s.access i f vec full data k) := by
  unfold State.access
  extract_lets a b o ok
  split
  · exact Keeps.ite (kk.mismatch _ _ _) ((kk.mismatch _ _ _).abandon _ _)
  · exact Keeps.ite (hk _ _ kk) (kk.abandon _ _)

theorem Keeps.table {s0 s : State} (e opc : Nat) (h : Hdr) (f : FmtI) (read : State → Nat → Nat → Word → TableRead)
    (kk : Keeps s0 s) : Keeps s0 (s.table e opc h f read) := by
  unfold State.table
  refine kk.issue e opc h _ _ fun i t kt => ?_
  dsimp only
  split
  · exact (kt.mismatch _ _ _).abandon _ _
  · exact kt.mismatch _ _ _
  · exact kt.mismatch _ _ _
  · exact kt.abandon _ _
  · exact kt.dual _ _ _ _ fun u ku => ku.putG _ _ _

theorem Keeps.setJtag {s0 s : State} (f : Jtag → Jtag) (kk : Keeps s0 s) : Keeps s0 (s.setJtag f) := by
  unfold State.setJtag
  repeat' first | intro _ | with_reducible assumption | with_reducible apply Keeps.ite | rfl | dsimp only | split
                | fail_if_no_progress (with_reducible refine Keeps.upd ?_ rfl)

theorem Keeps.loadIr {s0 s : State} (i : TestInstr) (f : State → State) (hf : ∀ t, Keeps s0 t → Keeps s0 (f t)) (kk : Keeps s0 s) :
    Keeps s0 (s.loadIr i f) := by
  unfold State.loadIr
  exact Keeps.ite (hf _ (kk.setJtag _)) kk

theorem Keeps.bypass {s0 s : State} (kk : Keeps s0 s) : Keeps s0 (s.bypass) := by
  unfold State.bypass
  repeat' first | intro _ | with_reducible assumption | with_reducible apply Keeps.setJtag | with_reducible apply Keeps.ite | rfl | dsimp only | split
                | fail_if_no_progress (with_reducible refine Keeps.upd ?_ rfl)

theorem Keeps.debugOnly {s0 s : State} (i : TestInstr) (f : State → State) (hf : ∀ t, Keeps s0 t → Keeps s0 (f t)) (kk : Keeps s0 s) :
    Keeps s0 (s.debugOnly i f) := by
  unfold State.debugOnly
  exact kk.loadIr _ _ (fun t k => Keeps.ite (hf t k) (k.bypass.lockHit _))

theorem Keeps.queryAnswers {s0 s : State} (ticket : Word) (b : Bool) (kk : Keeps s0 s) : Keeps s0 (s.queryAnswers ticket b) := by
  unfold State.queryAnswers
  repeat' first | intro _ | with_reducible assumption | with_reducible apply Keeps.each | with_reducible apply Keeps.answerAt
                | with_reducible apply Keeps.ite | rfl | dsimp only | split | fail_if_no_progress (with_reducible refine Keeps.upd ?_ rfl)

theorem Keeps.tcommit {s0 s : State} (e task d : Nat) (kk : Keeps s0 s) : Keeps s0 (s.tcommit e task d) := by
  unfold State.tcommit
  repeat' first | intro _ | with_reducible assumption | with_reducible apply Keeps.txnCommit | with_reducible apply Keeps.updEn
                | with_reducible apply Keeps.answerG | with_reducible apply Keeps.ite | rfl | dsimp only | split
                | fail_if_no_progress (with_reducible refine Keeps.upd ?_ rfl)

end Sys2Proof.Machine
end

