-- ==== Sys2Proof/Laws/KeepsFrame.lean ====
section
/-! SUPPORT. Laws: what the operations of arriving words and of the frame keep. -/
set_option linter.unusedTactic false
set_option linter.unreachableTactic false
namespace Sys2Proof.Machine
theorem Keeps.txPart {s0 s : State} (w : Write) (kk : Keeps s0 s) : Keeps s0 (s.txPart w) := by
  unfold State.txPart
  repeat' first | intro _ | with_reducible assumption | with_reducible apply Keeps.setFlag | with_reducible apply Keeps.recordCut
                | with_reducible apply Keeps.shadowWrite | with_reducible apply Keeps.txnHostWrite | with_reducible apply Keeps.txnTwinWrite
                | with_reducible apply Keeps.ite | rfl | dsimp only | split | fail_if_no_progress (with_reducible refine Keeps.upd ?_ rfl)

theorem Keeps.txnPart {s0 s : State} (w : Write) (kk : Keeps s0 s) : Keeps s0 (s.txnPart w) := by
  unfold State.txnPart
  repeat' first | intro _ | with_reducible assumption | with_reducible apply Keeps.setFlag | with_reducible apply Keeps.recordCut
                | with_reducible apply Keeps.txnCtrl | with_reducible apply Keeps.ite | rfl | dsimp only | split
                | fail_if_no_progress (with_reducible refine Keeps.upd ?_ rfl)

theorem Keeps.modePart {s0 s : State} (w : Write) (kk : Keeps s0 s) : Keeps s0 (s.modePart w) := by
  unfold State.modePart
  repeat' first | intro _ | with_reducible assumption | with_reducible apply Keeps.recordCut | with_reducible apply Keeps.requestRefused
                | with_reducible apply Keeps.modeRequest | with_reducible apply Keeps.ite | rfl | dsimp only | split
                | fail_if_no_progress (with_reducible refine Keeps.upd ?_ rfl)

theorem Keeps.plain {s0 s : State} (r : RegRow) (a : Nat) (v : Word) (kk : Keeps s0 s) : Keeps s0 (s.plain r a v) := by
  unfold State.plain
  repeat' first | intro _ | with_reducible assumption | with_reducible apply Keeps.wr | with_reducible apply Keeps.ite | rfl | dsimp only | split
                | fail_if_no_progress (with_reducible refine Keeps.upd ?_ rfl)

theorem Keeps.plainBut {s0 s : State} (r : RegRow) (a : Nat) (v : Word) (i : Nat) (kk : Keeps s0 s) : Keeps s0 (s.plainBut r a v i) := by
  unfold State.plainBut
  repeat' first | intro _ | with_reducible assumption | with_reducible apply Keeps.plain | with_reducible apply Keeps.ite | rfl | dsimp only
                | split | fail_if_no_progress (with_reducible refine Keeps.upd ?_ rfl)

theorem Keeps.sysPart {s0 s : State} (r : RegRow) (w : Write) (kk : Keeps s0 s) : Keeps s0 (s.sysPart r w) := by
  unfold State.sysPart
  repeat' first | intro _ | with_reducible assumption | with_reducible apply Keeps.publish | with_reducible apply Keeps.streamCtl
                | with_reducible apply Keeps.sysRst | with_reducible apply Keeps.modePart | with_reducible apply Keeps.plain | with_reducible apply Keeps.ite
                | rfl | dsimp only | split | fail_if_no_progress (with_reducible refine Keeps.upd ?_ rfl)

theorem Keeps.corePart {s0 s : State} (r : RegRow) (w : Write) (kk : Keeps s0 s) : Keeps s0 (s.corePart r w) := by
  unfold State.corePart
  repeat' first | intro _ | with_reducible assumption | with_reducible apply Keeps.wr | with_reducible apply Keeps.progVerify
                | with_reducible apply Keeps.beRst | with_reducible apply Keeps.schedRestart | with_reducible apply Keeps.plain
                | with_reducible apply Keeps.ite | rfl | dsimp only | split | fail_if_no_progress (with_reducible refine Keeps.upd ?_ rfl)

theorem Keeps.lswPart {s0 s : State} (r : RegRow) (w : Write) (kk : Keeps s0 s) : Keeps s0 (s.lswPart r w) := by
  unfold State.lswPart
  repeat' first | intro _ | with_reducible assumption | with_reducible apply Keeps.stage | with_reducible apply Keeps.chFlag
                | with_reducible apply Keeps.token | with_reducible apply Keeps.wdexpClear | with_reducible apply Keeps.lockClear
                | with_reducible apply Keeps.plain | with_reducible apply Keeps.plainBut | with_reducible apply Keeps.ite | rfl | dsimp only | split
                | fail_if_no_progress (with_reducible refine Keeps.upd ?_ rfl)

theorem Keeps.pwmPart {s0 s : State} (r : RegRow) (w : Write) (kk : Keeps s0 s) : Keeps s0 (s.pwmPart r w) := by
  unfold State.pwmPart
  repeat' first | intro _ | with_reducible assumption | with_reducible apply Keeps.stage | with_reducible apply Keeps.flatchClear
                | with_reducible apply Keeps.unitWrite | with_reducible apply Keeps.plain | with_reducible apply Keeps.plainBut
                | with_reducible apply Keeps.ite | rfl | dsimp only | split | fail_if_no_progress (with_reducible refine Keeps.upd ?_ rfl)

theorem Keeps.motPart {s0 s : State} (r : RegRow) (w : Write) (kk : Keeps s0 s) : Keeps s0 (s.motPart r w) := by
  unfold State.motPart
  repeat' first | intro _ | with_reducible assumption | with_reducible apply Keeps.stage | with_reducible apply Keeps.axisStage
                | with_reducible apply Keeps.axisCmd | with_reducible apply Keeps.imuTest | with_reducible apply Keeps.plain | with_reducible apply Keeps.ite
                | rfl | dsimp only | split | fail_if_no_progress (with_reducible refine Keeps.upd ?_ rfl)

theorem Keeps.sensePart {s0 s : State} (r : RegRow) (w : Write) (kk : Keeps s0 s) : Keeps s0 (s.sensePart r w) := by
  unfold State.sensePart
  repeat' first | intro _ | with_reducible assumption | with_reducible apply Keeps.wr | with_reducible apply Keeps.adcSwtrg
                | with_reducible apply Keeps.adcShunt | with_reducible apply Keeps.rtSync | with_reducible apply Keeps.uncCheck
                | with_reducible apply Keeps.steerPhase | with_reducible apply Keeps.steerFreq | with_reducible apply Keeps.timeSet
                | with_reducible apply Keeps.plain | with_reducible apply Keeps.ite | rfl | dsimp only | split
                | fail_if_no_progress (with_reducible refine Keeps.upd ?_ rfl)

theorem Keeps.busPart {s0 s : State} (r : RegRow) (w : Write) (kk : Keeps s0 s) : Keeps s0 (s.busPart r w) := by
  unfold State.busPart
  repeat' first | intro _ | with_reducible assumption | with_reducible apply Keeps.txRequests | with_reducible apply Keeps.txCancels
                | with_reducible apply Keeps.txOnBus | with_reducible apply Keeps.busRestart | with_reducible apply Keeps.queueAck
                | with_reducible apply Keeps.plain | with_reducible apply Keeps.ite | rfl | dsimp only | split
                | fail_if_no_progress (with_reducible refine Keeps.upd ?_ rfl)

theorem Keeps.logPart {s0 s : State} (r : RegRow) (w : Write) (tag : Byte) (kk : Keeps s0 s) : Keeps s0 (s.logPart r w tag) := by
  unfold State.logPart
  repeat' first | intro _ | with_reducible assumption | with_reducible apply Keeps.fltCtrl | with_reducible apply Keeps.injArm
                | with_reducible apply Keeps.recSwcode | with_reducible apply Keeps.recCtl | with_reducible apply Keeps.jrnRctl
                | with_reducible apply Keeps.truKill | with_reducible apply Keeps.scarfGo | with_reducible apply Keeps.plain | with_reducible apply Keeps.ite
                | rfl | dsimp only | split | fail_if_no_progress (with_reducible refine Keeps.upd ?_ rfl)

theorem Keeps.blockPart {s0 s : State} (r : RegRow) (w : Write) (tag : Byte) (kk : Keeps s0 s) : Keeps s0 (s.blockPart r w tag) := by
  unfold State.blockPart
  repeat' first | intro _ | with_reducible assumption | with_reducible apply Keeps.txnPart | with_reducible apply Keeps.sysPart
                | with_reducible apply Keeps.corePart | with_reducible apply Keeps.lswPart | with_reducible apply Keeps.pwmPart
                | with_reducible apply Keeps.motPart | with_reducible apply Keeps.sensePart | with_reducible apply Keeps.busPart
                | with_reducible apply Keeps.logPart | with_reducible apply Keeps.ite | rfl | dsimp only | split
                | fail_if_no_progress (with_reducible refine Keeps.upd ?_ rfl)

theorem Keeps.arrive {s0 s : State} (w : Write) (tag : Byte) (kk : Keeps s0 s) : Keeps s0 (s.arrive w tag) := by
  unfold State.arrive
  repeat' first | intro _ | with_reducible assumption | with_reducible apply Keeps.txPart | with_reducible apply Keeps.blockPart
                | with_reducible apply Keeps.ite | rfl | dsimp only | split | fail_if_no_progress (with_reducible refine Keeps.upd ?_ rfl)

theorem Keeps.reapply {s0 s : State} (x : Arrival) (kk : Keeps s0 s) : Keeps s0 (s.reapply x) := by
  unfold State.reapply
  repeat' first | intro _ | with_reducible assumption | with_reducible apply Keeps.txPart | with_reducible apply Keeps.blockPart
                | with_reducible apply Keeps.ite | rfl | dsimp only | split | fail_if_no_progress (with_reducible refine Keeps.upd ?_ rfl)

theorem Keeps.arriveRanked {s0 s : State} (rank : Nat) (w : Write) (tag : Byte) (kk : Keeps s0 s) : Keeps s0 (s.arriveRanked rank w tag) := by
  unfold State.arriveRanked
  repeat' first | intro _ | with_reducible assumption | with_reducible apply Keeps.eachOf | with_reducible apply Keeps.arrive
                | with_reducible apply Keeps.reapply | with_reducible apply Keeps.ite | rfl | dsimp only | split
                | fail_if_no_progress (with_reducible refine Keeps.upd ?_ rfl)

theorem Keeps.pegPart {s0 s : State} (a : Nat) (v : Word) (stored : Bool) (kk : Keeps s0 s) : Keeps s0 (s.pegPart a v stored) := by
  unfold State.pegPart
  repeat' first | intro _ | with_reducible assumption | with_reducible apply Keeps.wr | with_reducible apply Keeps.keyGo
                | with_reducible apply Keeps.attestGo | with_reducible apply Keeps.pegGrant | with_reducible apply Keeps.plain
                | with_reducible apply Keeps.ite | rfl | dsimp only | split | fail_if_no_progress (with_reducible refine Keeps.upd ?_ rfl)

theorem Keeps.noAddress {s0 s : State} (kk : Keeps s0 s) : Keeps s0 (s.noAddress) := by
  unfold State.noAddress
  repeat' first | intro _ | with_reducible assumption | with_reducible apply Keeps.hpErr | with_reducible apply Keeps.ite | rfl | dsimp only
                | split | fail_if_no_progress (with_reducible refine Keeps.upd ?_ rfl)

theorem Keeps.deliver {s0 s : State} (w : Write) (kk : Keeps s0 s) : Keeps s0 (s.deliver w) := by
  unfold State.deliver
  repeat' first | intro _ | with_reducible assumption | with_reducible apply Keeps.arriveRanked | with_reducible apply Keeps.noAddress
                | with_reducible apply Keeps.ite | rfl | dsimp only | split | fail_if_no_progress (with_reducible refine Keeps.upd ?_ rfl)

theorem Keeps.hostCommand {s0 s : State} (tagHi : Word) (ph : BusPhase) (ago : Nat) (kk : Keeps s0 s) : Keeps s0 (s.hostCommand tagHi ph ago) := by
  unfold State.hostCommand
  repeat' first | intro _ | with_reducible assumption | with_reducible apply Keeps.hostCmdChecked | with_reducible apply Keeps.hostCmdBegins
                | with_reducible apply Keeps.deliver | with_reducible apply Keeps.ite | rfl | dsimp only | split
                | fail_if_no_progress (with_reducible refine Keeps.upd ?_ rfl)

theorem Keeps.hostArrive {s0 s : State} (a : Nat) (v : Word) (stored : Bool) (ph : BusPhase) (ago : Nat) (kk : Keeps s0 s) :
    Keeps s0 (s.hostArrive a v stored ph ago) := by
  unfold State.hostArrive
  repeat' first | intro _ | with_reducible assumption | with_reducible apply Keeps.directHit | with_reducible apply Keeps.pegPart
                | with_reducible apply Keeps.deliver | with_reducible apply Keeps.hostCommand | with_reducible apply Keeps.ite | rfl | dsimp only | split
                | fail_if_no_progress (with_reducible refine Keeps.upd ?_ rfl)

theorem Keeps.storesMoved {s0 s : State} (e : Nat) (kk : Keeps s0 s) : Keeps s0 (s.storesMoved e) := by
  unfold State.storesMoved
  repeat' first | intro _ | with_reducible assumption | with_reducible apply Keeps.eachOf | with_reducible apply Keeps.spend
                | with_reducible apply Keeps.updEn | with_reducible apply Keeps.putG | with_reducible apply Keeps.answer | with_reducible apply Keeps.tcommit
                | with_reducible apply Keeps.ite | rfl | dsimp only | split | fail_if_no_progress (with_reducible refine Keeps.upd ?_ rfl)

theorem Keeps.post {s0 s : State} (a : Nat) (v : Word) (kk : Keeps s0 s) : Keeps s0 (s.post a v) := by
  unfold State.post
  repeat' first | intro _ | with_reducible assumption | with_reducible apply Keeps.hpErr | with_reducible apply Keeps.raise
                | with_reducible apply Keeps.ite | rfl | dsimp only | split | fail_if_no_progress (with_reducible refine Keeps.upd ?_ rfl)

theorem Keeps.hold {s0 s : State} (h : Option (Nat × BitVec 16)) (kk : Keeps s0 s) : Keeps s0 (s.hold h) := by
  unfold State.hold
  repeat' first | intro _ | with_reducible assumption | with_reducible apply Keeps.ite | rfl | dsimp only | split
                | fail_if_no_progress (with_reducible refine Keeps.upd ?_ rfl)

theorem Keeps.lowWrite {s0 s : State} (a : Nat) (v : BitVec 16) (kk : Keeps s0 s) : Keeps s0 (s.lowWrite a v) := by
  unfold State.lowWrite
  repeat' first | intro _ | with_reducible assumption | with_reducible apply Keeps.hpErr | with_reducible apply Keeps.hold
                | with_reducible apply Keeps.ite | rfl | dsimp only | split | fail_if_no_progress (with_reducible refine Keeps.upd ?_ rfl)

theorem Keeps.highWrite {s0 s : State} (a : Nat) (v : BitVec 16) (kk : Keeps s0 s) : Keeps s0 (s.highWrite a v) := by
  unfold State.highWrite
  repeat' first | intro _ | with_reducible assumption | with_reducible apply Keeps.hpErr | with_reducible apply Keeps.post
                | with_reducible apply Keeps.hold | with_reducible apply Keeps.ite | rfl | dsimp only | split
                | fail_if_no_progress (with_reducible refine Keeps.upd ?_ rfl)

theorem Keeps.hostHalf {s0 s : State} (a : BitVec 24) (v : BitVec 16) (f : State → State) (hf : ∀ t, Keeps s0 t → Keeps s0 (f t))
    (kk : Keeps s0 s) : Keeps s0 (s.hostHalf a v f) := by
  unfold State.hostHalf
  exact Keeps.ite kk (Keeps.ite (kk.streamWrite _) (Keeps.ite (kk.setFlag _ _ _) (hf _ kk)))

theorem Keeps.popPosted {s0 s : State} (t : Nat) (p : Nat → Word → Bool) (stored : Bool) (ph : BusPhase) (ago : Nat) (kk : Keeps s0 s) :
    Keeps s0 (s.popPosted t p stored ph ago) := by
  unfold State.popPosted
  split
  · exact kk
  · refine Keeps.ite (Keeps.hostArrive _ _ _ _ _ (Keeps.upd (kk.at t) rfl)) kk

theorem Keeps.popWrite {s0 s : State} (t : Nat) (p : Nat → Word → Bool) (kk : Keeps s0 s) : Keeps s0 (s.popWrite t p) := by
  unfold State.popWrite
  repeat' first | intro _ | with_reducible assumption | with_reducible apply Keeps.popPosted | with_reducible apply Keeps.ite | rfl | dsimp only
                | split | fail_if_no_progress (with_reducible refine Keeps.upd ?_ rfl)

theorem Keeps.rcClear {s0 s : State} (a : Nat) (w : Word) (f : Nat × Nat) (kk : Keeps s0 s) : Keeps s0 (s.rcClear a w f) := by
  unfold State.rcClear
  repeat' first | intro _ | with_reducible assumption | with_reducible apply Keeps.setFld | with_reducible apply Keeps.ite | rfl | dsimp only
                | split | fail_if_no_progress (with_reducible refine Keeps.upd ?_ rfl)

theorem Keeps.rcRead {s0 s : State} (a : Nat) (w : Word) (high : Bool) (kk : Keeps s0 s) : Keeps s0 (s.rcRead a w high) := by
  unfold State.rcRead
  repeat' first | intro _ | with_reducible assumption | with_reducible apply Keeps.eachOf | with_reducible apply Keeps.rcClear
                | with_reducible apply Keeps.ite | rfl | dsimp only | split | fail_if_no_progress (with_reducible refine Keeps.upd ?_ rfl)

theorem Keeps.beforeRead {s0 s : State} (a : Nat) (kk : Keeps s0 s) : Keeps s0 (s.beforeRead a) := by
  unfold State.beforeRead
  repeat' first | intro _ | with_reducible assumption | with_reducible apply Keeps.lockHit | with_reducible apply Keeps.streamFlow
                | with_reducible apply Keeps.ite | rfl | dsimp only | split | fail_if_no_progress (with_reducible refine Keeps.upd ?_ rfl)

theorem Keeps.drive {s0 s : State} (v : BitVec 16) (kk : Keeps s0 s) : Keeps s0 (s.drive v) := by
  unfold State.drive
  repeat' first | intro _ | with_reducible assumption | with_reducible apply Keeps.ite | rfl | dsimp only | split
                | fail_if_no_progress (with_reducible refine Keeps.upd ?_ rfl)

theorem Keeps.readLow {s0 s : State} (a : Nat) (kk : Keeps s0 s) : Keeps s0 (s.readLow a) := by
  unfold State.readLow
  repeat' first | intro _ | with_reducible assumption | with_reducible apply Keeps.setPage | with_reducible apply Keeps.rcRead
                | with_reducible apply Keeps.beforeRead | with_reducible apply Keeps.drive | with_reducible apply Keeps.ite | rfl | dsimp only | split
                | fail_if_no_progress (with_reducible refine Keeps.upd ?_ rfl)

theorem Keeps.readHigh {s0 s : State} (a : Nat) (kk : Keeps s0 s) : Keeps s0 (s.readHigh a) := by
  unfold State.readHigh
  repeat' first | intro _ | with_reducible assumption | with_reducible apply Keeps.hpErr | with_reducible apply Keeps.rcRead
                | with_reducible apply Keeps.beforeRead | with_reducible apply Keeps.drive | with_reducible apply Keeps.ite | rfl | dsimp only | split
                | fail_if_no_progress (with_reducible refine Keeps.upd ?_ rfl)

theorem Keeps.hostRead {s0 s : State} (a : BitVec 24) (high : Bool) (kk : Keeps s0 s) : Keeps s0 (s.hostRead a high) := by
  unfold State.hostRead
  repeat' first | intro _ | with_reducible assumption | with_reducible apply Keeps.streamRead | with_reducible apply Keeps.readLow
                | with_reducible apply Keeps.readHigh | with_reducible apply Keeps.ite | rfl | dsimp only | split
                | fail_if_no_progress (with_reducible refine Keeps.upd ?_ rfl)

theorem Keeps.placeRecord {s0 s : State} (items : List RecItem) (kk : Keeps s0 s) : Keeps s0 (s.placeRecord items) := by
  unfold State.placeRecord
  repeat' first | intro _ | with_reducible assumption | with_reducible apply Keeps.fmemPut | with_reducible apply Keeps.ite | rfl | dsimp only
                | split | fail_if_no_progress (with_reducible refine Keeps.upd ?_ rfl)

theorem Keeps.recordWrites {s0 s : State} (items : List RecItem) (kk : Keeps s0 s) : Keeps s0 (s.recordWrites items) := by
  unfold State.recordWrites
  repeat' first | intro _ | with_reducible assumption | with_reducible apply Keeps.eachOf | with_reducible apply Keeps.modeRequest
                | with_reducible apply Keeps.arrive | with_reducible apply Keeps.ite | rfl | dsimp only | split
                | fail_if_no_progress (with_reducible refine Keeps.upd ?_ rfl)

theorem Keeps.nextFrame {s0 s : State} (kk : Keeps s0 s) : Keeps s0 (s.nextFrame) := by
  unfold State.nextFrame
  repeat' first | intro _ | with_reducible assumption | with_reducible apply Keeps.ite | rfl | dsimp only | split
                | fail_if_no_progress (with_reducible refine Keeps.upd ?_ rfl)

theorem Keeps.enterStaged {s0 s : State} (a : Nat) (v : Word) (kk : Keeps s0 s) : Keeps s0 (s.enterStaged a v) := by
  unfold State.enterStaged
  repeat' first | intro _ | with_reducible assumption | with_reducible apply Keeps.wr | with_reducible apply Keeps.setLch
                | with_reducible apply Keeps.chFlag | with_reducible apply Keeps.enterPwm | with_reducible apply Keeps.enterMotion
                | with_reducible apply Keeps.ite | rfl | dsimp only | split | fail_if_no_progress (with_reducible refine Keeps.upd ?_ rfl)

theorem Keeps.transferOutputs {s0 s : State} (kk : Keeps s0 s) : Keeps s0 (s.transferOutputs) := by
  unfold State.transferOutputs
  repeat' first | intro _ | with_reducible assumption | with_reducible apply Keeps.each | with_reducible apply Keeps.eachOf
                | with_reducible apply Keeps.releaseBanks | with_reducible apply Keeps.reactionEnds | with_reducible apply Keeps.frameSyncs
                | with_reducible apply Keeps.axisSync | with_reducible apply Keeps.servoAll | with_reducible apply Keeps.schedBoundary
                | with_reducible apply Keeps.scribeBoundary | with_reducible apply Keeps.outputs | with_reducible apply Keeps.hold
                | with_reducible apply Keeps.enterStaged | with_reducible apply Keeps.ite | rfl | dsimp only | split
                | fail_if_no_progress (with_reducible refine Keeps.upd ?_ rfl)

theorem Keeps.watchdogAll {s0 s : State} (kk : Keeps s0 s) : Keeps s0 (s.watchdogAll) := by
  unfold State.watchdogAll
  repeat' first | intro _ | with_reducible assumption | with_reducible apply Keeps.each | with_reducible apply Keeps.watchdog
                | with_reducible apply Keeps.raise | with_reducible apply Keeps.ite | rfl | dsimp only | split
                | fail_if_no_progress (with_reducible refine Keeps.upd ?_ rfl)

theorem Keeps.latchInputs {s0 s : State} (imu : ImuSample) (kk : Keeps s0 s) : Keeps s0 (s.latchInputs imu) := by
  unfold State.latchInputs
  repeat' first | intro _ | with_reducible assumption | with_reducible apply Keeps.eachOf | with_reducible apply Keeps.recordCur
                | with_reducible apply Keeps.adcFrameStart | with_reducible apply Keeps.imuLatch | with_reducible apply Keeps.busLatch
                | with_reducible apply Keeps.ite | rfl | dsimp only | split | fail_if_no_progress (with_reducible refine Keeps.upd ?_ rfl)

theorem Keeps.staleWord {s0 s : State} (old : SMap Word) (x : Nat × Word × Byte) (kk : Keeps s0 s) : Keeps s0 (s.staleWord old x) := by
  unfold State.staleWord
  repeat' first | intro _ | with_reducible assumption | with_reducible apply Keeps.wr | with_reducible apply Keeps.hpErr
                | with_reducible apply Keeps.raiseDowel | with_reducible apply Keeps.ite | rfl | dsimp only | split
                | fail_if_no_progress (with_reducible refine Keeps.upd ?_ rfl)

end Sys2Proof.Machine
end

