-- ==== Sys2Proof/Laws/ExecBlocks.lean ====
section
/-! SUPPORT. Laws: every event of motion, load switches, GNSS, buses, modes and supplies answers such a next state. -/
set_option linter.unusedTactic false
set_option linter.unreachableTactic false
namespace Sys2Proof.Machine
theorem Keeps.execChannelCommandEffect (c : Fin 108) (s : State) : ∃ u0, execChannelCommandEffect c s = .next u0 ∧ Keeps s u0 := by
  have kk := Keeps.refl s
  unfold Sys2Proof.Machine.execChannelCommandEffect; refine ⟨_, rfl, ?_⟩
  repeat' first | intro _ | with_reducible assumption | with_reducible apply Keeps.wr | with_reducible apply Keeps.at
                | with_reducible apply Keeps.setLch | with_reducible apply Keeps.settle | with_reducible apply Keeps.ite | rfl | dsimp only | split
                | fail_if_no_progress (with_reducible refine Keeps.upd ?_ rfl)

theorem Keeps.execDinEdge (t : Nat) (n : Fin 16) (level : Bool)  (s : State) : ∃ u0, execDinEdge t n level s = .next u0 ∧ Keeps s u0 := by
  have kk := Keeps.refl s
  unfold Sys2Proof.Machine.execDinEdge; refine ⟨_, rfl, ?_⟩
  repeat' first | intro _ | with_reducible assumption | with_reducible apply Keeps.each | with_reducible apply Keeps.at
                | with_reducible apply Keeps.settle | with_reducible apply Keeps.refEdge | with_reducible apply Keeps.ite | rfl | dsimp only | split
                | fail_if_no_progress (with_reducible refine Keeps.upd ?_ rfl)

theorem Keeps.execDieLinkBlock (t : Nat) (die : Fin 3) (chs : List (Fin 108)) (ok : Bool)  (s : State) :
    ∃ u0, execDieLinkBlock t die chs ok s = .next u0 ∧ Keeps s u0 := by
  have kk := Keeps.refl s
  unfold Sys2Proof.Machine.execDieLinkBlock; refine ⟨_, rfl, ?_⟩
  repeat' first | intro _ | with_reducible assumption | with_reducible apply Keeps.count | with_reducible apply Keeps.eachOf
                | with_reducible apply Keeps.at | with_reducible apply Keeps.raise | with_reducible apply Keeps.dropCommand
                | with_reducible apply Keeps.ite | rfl | dsimp only | split | fail_if_no_progress (with_reducible refine Keeps.upd ?_ rfl)

theorem Keeps.execFrameValueSample (chs : List ChSample) (banks : List (BitVec 16)) (s : State) :
    ∃ u0, execFrameValueSample chs banks s = .next u0 ∧ Keeps s u0 := by
  have kk := Keeps.refl s
  unfold Sys2Proof.Machine.execFrameValueSample; refine ⟨_, rfl, ?_⟩
  repeat' first | intro _ | with_reducible assumption | with_reducible apply Keeps.each | with_reducible apply Keeps.at
                | with_reducible apply Keeps.frameValue | with_reducible apply Keeps.bankTest | with_reducible apply Keeps.ite | rfl | dsimp only | split
                | fail_if_no_progress (with_reducible refine Keeps.upd ?_ rfl)

theorem Keeps.execOffStateDetection (t : Nat) (c : Fin 108) (above : Bool) (s : State) :
    ∃ u0, execOffStateDetection t c above s = .next u0 ∧ Keeps s u0 := by
  have kk := Keeps.refl s
  unfold Sys2Proof.Machine.execOffStateDetection; refine ⟨_, rfl, ?_⟩
  repeat' first | intro _ | with_reducible assumption | with_reducible apply Keeps.at | with_reducible apply Keeps.setLch
                | with_reducible apply Keeps.chFlag | with_reducible apply Keeps.raise | with_reducible apply Keeps.ite | rfl | dsimp only | split
                | fail_if_no_progress (with_reducible refine Keeps.upd ?_ rfl)

theorem Keeps.execCurrentLimitTimeout (t : Nat) (c : Fin 108) (s : State) : ∃ u0, execCurrentLimitTimeout t c s = .next u0 ∧ Keeps s u0 := by
  have kk := Keeps.refl s
  unfold Sys2Proof.Machine.execCurrentLimitTimeout; refine ⟨_, rfl, ?_⟩
  repeat' first | intro _ | with_reducible assumption | with_reducible apply Keeps.at | with_reducible apply Keeps.chFlag
                | with_reducible apply Keeps.raise | with_reducible apply Keeps.retryDecision | with_reducible apply Keeps.ite | rfl | dsimp only | split
                | fail_if_no_progress (with_reducible refine Keeps.upd ?_ rfl)

theorem Keeps.execThermalShutdown (t : Nat) (c : Fin 108) (s : State) : ∃ u0, execThermalShutdown t c s = .next u0 ∧ Keeps s u0 := by
  have kk := Keeps.refl s
  unfold Sys2Proof.Machine.execThermalShutdown; refine ⟨_, rfl, ?_⟩
  repeat' first | intro _ | with_reducible assumption | with_reducible apply Keeps.setFlag | with_reducible apply Keeps.at
                | with_reducible apply Keeps.setLch | with_reducible apply Keeps.settle | with_reducible apply Keeps.chFlag
                | with_reducible apply Keeps.raise | with_reducible apply Keeps.ite | rfl | dsimp only | split
                | fail_if_no_progress (with_reducible refine Keeps.upd ?_ rfl)

theorem Keeps.execTlatchRelease (t : Nat) (c : Fin 108) (s : State) : ∃ u0, execTlatchRelease t c s = .next u0 ∧ Keeps s u0 := by
  have kk := Keeps.refl s
  unfold Sys2Proof.Machine.execTlatchRelease; refine ⟨_, rfl, ?_⟩
  repeat' first | intro _ | with_reducible assumption | with_reducible apply Keeps.setFlag | with_reducible apply Keeps.at
                | with_reducible apply Keeps.settle | with_reducible apply Keeps.retryDecision | with_reducible apply Keeps.ite | rfl | dsimp only | split
                | fail_if_no_progress (with_reducible refine Keeps.upd ?_ rfl)

theorem Keeps.execRetryTimerExpiry (t : Nat) (c : Fin 108)  (s : State) : ∃ u0, execRetryTimerExpiry t c s = .next u0 ∧ Keeps s u0 := by
  have kk := Keeps.refl s
  unfold Sys2Proof.Machine.execRetryTimerExpiry; refine ⟨_, rfl, ?_⟩
  repeat' first | intro _ | with_reducible assumption | with_reducible apply Keeps.setFld | with_reducible apply Keeps.setFlag
                | with_reducible apply Keeps.at | with_reducible apply Keeps.settle | with_reducible apply Keeps.ite | rfl | dsimp only | split
                | fail_if_no_progress (with_reducible refine Keeps.upd ?_ rfl)

theorem Keeps.execStableOnExpiry (c : Timed (Fin 108))  (s : State) : ∃ u0, execStableOnExpiry c s = .next u0 ∧ Keeps s u0 := by
  have kk := Keeps.refl s
  unfold Sys2Proof.Machine.execStableOnExpiry; refine ⟨_, rfl, ?_⟩
  repeat' first | intro _ | with_reducible assumption | with_reducible apply Keeps.setFld | with_reducible apply Keeps.at
                | with_reducible apply Keeps.ite | rfl | dsimp only | split | fail_if_no_progress (with_reducible refine Keeps.upd ?_ rfl)

theorem Keeps.execInrushEnd (c : Timed (Fin 108))  (s : State) : ∃ u0, execInrushEnd c s = .next u0 ∧ Keeps s u0 := by
  have kk := Keeps.refl s
  unfold Sys2Proof.Machine.execInrushEnd; refine ⟨_, rfl, ?_⟩
  repeat' first | intro _ | with_reducible assumption | with_reducible apply Keeps.at | with_reducible apply Keeps.setLch
                | with_reducible apply Keeps.ite | rfl | dsimp only | split | fail_if_no_progress (with_reducible refine Keeps.upd ?_ rfl)

theorem Keeps.execIsolatorCloseComplete (t : Nat) (b : Fin 12) (s : State) : ∃ u0, execIsolatorCloseComplete t b s = .next u0 ∧ Keeps s u0 := by
  have kk := Keeps.refl s
  unfold Sys2Proof.Machine.execIsolatorCloseComplete; refine ⟨_, rfl, ?_⟩
  repeat' first | intro _ | with_reducible assumption | with_reducible apply Keeps.at | with_reducible apply Keeps.isoClosed
                | with_reducible apply Keeps.ite | rfl | dsimp only | split | fail_if_no_progress (with_reducible refine Keeps.upd ?_ rfl)

theorem Keeps.execIsolatorOpenComplete (t : Nat) (b : Fin 12) (s : State) : ∃ u0, execIsolatorOpenComplete t b s = .next u0 ∧ Keeps s u0 := by
  have kk := Keeps.refl s
  unfold Sys2Proof.Machine.execIsolatorOpenComplete; refine ⟨_, rfl, ?_⟩
  repeat' first | intro _ | with_reducible assumption | with_reducible apply Keeps.at | with_reducible apply Keeps.isoOpened
                | with_reducible apply Keeps.ite | rfl | dsimp only | split | fail_if_no_progress (with_reducible refine Keeps.upd ?_ rfl)

theorem Keeps.execIsolatorFault (t : Nat) (b : Fin 12) (disagree : Bool)  (s : State) :
    ∃ u0, execIsolatorFault t b disagree s = .next u0 ∧ Keeps s u0 := by
  have kk := Keeps.refl s
  unfold Sys2Proof.Machine.execIsolatorFault; refine ⟨_, rfl, ?_⟩
  repeat' first | intro _ | with_reducible assumption | with_reducible apply Keeps.setFlag | with_reducible apply Keeps.at
                | with_reducible apply Keeps.setBank | with_reducible apply Keeps.raise | with_reducible apply Keeps.ite | rfl | dsimp only | split
                | fail_if_no_progress (with_reducible refine Keeps.upd ?_ rfl)

theorem Keeps.execBankSupplyStateChange (t : Nat) (b : Fin 12) (st : BankSupply) (s : State) :
    ∃ u0, execBankSupplyStateChange t b st s = .next u0 ∧ Keeps s u0 := by
  have kk := Keeps.refl s
  unfold Sys2Proof.Machine.execBankSupplyStateChange; refine ⟨_, rfl, ?_⟩
  repeat' first | intro _ | with_reducible assumption | with_reducible apply Keeps.setFlag | with_reducible apply Keeps.each
                | with_reducible apply Keeps.at | with_reducible apply Keeps.gaugeAbort | with_reducible apply Keeps.setBank
                | with_reducible apply Keeps.settleBank | with_reducible apply Keeps.ite | rfl | dsimp only | split
                | fail_if_no_progress (with_reducible refine Keeps.upd ?_ rfl)

theorem Keeps.execSetpointTimeout (a : Fin 16)  (s : State) : ∃ u0, execSetpointTimeout a s = .next u0 ∧ Keeps s u0 := by
  have kk := Keeps.refl s
  unfold Sys2Proof.Machine.execSetpointTimeout; refine ⟨_, rfl, ?_⟩
  repeat' first | intro _ | with_reducible assumption | with_reducible apply Keeps.setFlag | with_reducible apply Keeps.setAxs
                | with_reducible apply Keeps.axState | with_reducible apply Keeps.ite | rfl | dsimp only | split
                | fail_if_no_progress (with_reducible refine Keeps.upd ?_ rfl)

theorem Keeps.execStallDetected (t : Nat) (a : Fin 8) (s : State) : ∃ u0, execStallDetected t a s = .next u0 ∧ Keeps s u0 := by
  have kk := Keeps.refl s
  unfold Sys2Proof.Machine.execStallDetected; refine ⟨_, rfl, ?_⟩
  repeat' first | intro _ | with_reducible assumption | with_reducible apply Keeps.setFlag | with_reducible apply Keeps.at
                | with_reducible apply Keeps.setAxs | with_reducible apply Keeps.stopNow | with_reducible apply Keeps.raise | with_reducible apply Keeps.ite
                | rfl | dsimp only | split | fail_if_no_progress (with_reducible refine Keeps.upd ?_ rfl)

theorem Keeps.execHoldCurrentSwitch (x : Timed (Fin 8)) (s : State) : ∃ u0, execHoldCurrentSwitch x s = .next u0 ∧ Keeps s u0 := by
  have kk := Keeps.refl s
  unfold Sys2Proof.Machine.execHoldCurrentSwitch; refine ⟨_, rfl, ?_⟩
  repeat' first | intro _ | with_reducible assumption | with_reducible apply Keeps.at | with_reducible apply Keeps.setAxs
                | with_reducible apply Keeps.ite | rfl | dsimp only | split | fail_if_no_progress (with_reducible refine Keeps.upd ?_ rfl)

theorem Keeps.execStepPulse (t : Nat) (a : Fin 16)  (s : State) : ∃ u0, execStepPulse t a s = .next u0 ∧ Keeps s u0 := by
  have kk := Keeps.refl s
  unfold Sys2Proof.Machine.execStepPulse; refine ⟨_, rfl, ?_⟩
  repeat' first | intro _ | with_reducible assumption | with_reducible apply Keeps.setFlag | with_reducible apply Keeps.at
                | with_reducible apply Keeps.setAxs | with_reducible apply Keeps.ite | rfl | dsimp only | split
                | fail_if_no_progress (with_reducible refine Keeps.upd ?_ rfl)

theorem Keeps.execReferenceLatch (t : Nat) (a : Fin 16)  (s : State) : ∃ u0, execReferenceLatch t a s = .next u0 ∧ Keeps s u0 := by
  have kk := Keeps.refl s
  unfold Sys2Proof.Machine.execReferenceLatch; refine ⟨_, rfl, ?_⟩
  repeat' first | intro _ | with_reducible assumption | with_reducible apply Keeps.wr | with_reducible apply Keeps.setFlag
                | with_reducible apply Keeps.at | with_reducible apply Keeps.setAxs | with_reducible apply Keeps.stopSoft
                | with_reducible apply Keeps.shiftAxis | with_reducible apply Keeps.ite | rfl | dsimp only | split
                | fail_if_no_progress (with_reducible refine Keeps.upd ?_ rfl)

theorem Keeps.execPortFault (t : Nat) (p : Fin 8) (flags : BitVec 8) (s : State) : ∃ u0, execPortFault t p flags s = .next u0 ∧ Keeps s u0 := by
  have kk := Keeps.refl s
  unfold Sys2Proof.Machine.execPortFault; refine ⟨_, rfl, ?_⟩
  repeat' first | intro _ | with_reducible assumption | with_reducible apply Keeps.at | with_reducible apply Keeps.portFault
                | with_reducible apply Keeps.ite | rfl | dsimp only | split | fail_if_no_progress (with_reducible refine Keeps.upd ?_ rfl)

theorem Keeps.execPortConditionEnd (p : Fin 8) (s : State) : ∃ u0, execPortConditionEnd p s = .next u0 ∧ Keeps s u0 := by
  have kk := Keeps.refl s
  unfold Sys2Proof.Machine.execPortConditionEnd; refine ⟨_, rfl, ?_⟩
  repeat' first | intro _ | with_reducible assumption | with_reducible apply Keeps.setFlag | with_reducible apply Keeps.driver
                | with_reducible apply Keeps.release | with_reducible apply Keeps.ite | rfl | dsimp only | split
                | fail_if_no_progress (with_reducible refine Keeps.upd ?_ rfl)

theorem Keeps.execCoilCurrentSample (t : Nat) (p : Fin 8) (ia ib : BitVec 16) (vm : BitVec 16)  (s : State) :
    ∃ u0, execCoilCurrentSample t p ia ib vm s = .next u0 ∧ Keeps s u0 := by
  have kk := Keeps.refl s
  unfold Sys2Proof.Machine.execCoilCurrentSample; refine ⟨_, rfl, ?_⟩
  repeat' first | intro _ | with_reducible assumption | with_reducible apply Keeps.wr | with_reducible apply Keeps.at
                | with_reducible apply Keeps.setAxs | with_reducible apply Keeps.setPrt | with_reducible apply Keeps.portFault
                | with_reducible apply Keeps.coilDuty | with_reducible apply Keeps.ite | rfl | dsimp only | split
                | fail_if_no_progress (with_reducible refine Keeps.upd ?_ rfl)

theorem Keeps.execFeedbackEdge (w : Timed Nat) (n : Fin 24) (na nb nz : Bool)  (s : State) :
    ∃ u0, execFeedbackEdge w n na nb nz s = .next u0 ∧ Keeps s u0 := by
  have kk := Keeps.refl s
  unfold Sys2Proof.Machine.execFeedbackEdge; refine ⟨_, rfl, ?_⟩
  repeat' first | intro _ | with_reducible assumption | with_reducible apply Keeps.wr | with_reducible apply Keeps.setFld
                | with_reducible apply Keeps.setFlag | with_reducible apply Keeps.count | with_reducible apply Keeps.at
                | with_reducible apply Keeps.setFbk | with_reducible apply Keeps.refEdge | with_reducible apply Keeps.fbEvent
                | with_reducible apply Keeps.fbPeriod | with_reducible apply Keeps.ite | rfl | dsimp only | split
                | fail_if_no_progress (with_reducible refine Keeps.upd ?_ rfl)

theorem Keeps.execIndexPulse (t : Nat) (n : Fin 24)  (s : State) : ∃ u0, execIndexPulse t n s = .next u0 ∧ Keeps s u0 := by
  have kk := Keeps.refl s
  unfold Sys2Proof.Machine.execIndexPulse; refine ⟨_, rfl, ?_⟩
  repeat' first | intro _ | with_reducible assumption | with_reducible apply Keeps.wr | with_reducible apply Keeps.setFlag
                | with_reducible apply Keeps.count | with_reducible apply Keeps.at | with_reducible apply Keeps.setFbk
                | with_reducible apply Keeps.raise | with_reducible apply Keeps.fbEvent | with_reducible apply Keeps.ite | rfl | dsimp only | split
                | fail_if_no_progress (with_reducible refine Keeps.upd ?_ rfl)

theorem Keeps.execPeriodStale (y : Timed (Fin 24))  (s : State) : ∃ u0, execPeriodStale y s = .next u0 ∧ Keeps s u0 := by
  have kk := Keeps.refl s
  unfold Sys2Proof.Machine.execPeriodStale; refine ⟨_, rfl, ?_⟩
  repeat' first | intro _ | with_reducible assumption | with_reducible apply Keeps.wr | with_reducible apply Keeps.setFlag
                | with_reducible apply Keeps.at | with_reducible apply Keeps.setFbk | with_reducible apply Keeps.ite | rfl | dsimp only | split
                | fail_if_no_progress (with_reducible refine Keeps.upd ?_ rfl)

theorem Keeps.execFrequencyGateEnd (n : Fin 24)  (s : State) : ∃ u0, execFrequencyGateEnd n s = .next u0 ∧ Keeps s u0 := by
  have kk := Keeps.refl s
  unfold Sys2Proof.Machine.execFrequencyGateEnd; refine ⟨_, rfl, ?_⟩
  repeat' first | intro _ | with_reducible assumption | with_reducible apply Keeps.wr | with_reducible apply Keeps.setFbk
                | with_reducible apply Keeps.ite | rfl | dsimp only | split | fail_if_no_progress (with_reducible refine Keeps.upd ?_ rfl)

theorem Keeps.execSincosSample (t : Nat) (p : Fin 8) (sin cos : BitVec 16)  (s : State) :
    ∃ u0, execSincosSample t p sin cos s = .next u0 ∧ Keeps s u0 := by
  have kk := Keeps.refl s
  unfold Sys2Proof.Machine.execSincosSample; refine ⟨_, rfl, ?_⟩
  repeat' first | intro _ | with_reducible assumption | with_reducible apply Keeps.wr | with_reducible apply Keeps.setFld
                | with_reducible apply Keeps.at | with_reducible apply Keeps.setScp | with_reducible apply Keeps.scAmp
                | with_reducible apply Keeps.ite | rfl | dsimp only | split | fail_if_no_progress (with_reducible refine Keeps.upd ?_ rfl)

theorem Keeps.execSincosAmplitudeFault (t : Nat) (p : Fin 8) (s : State) : ∃ u0, execSincosAmplitudeFault t p s = .next u0 ∧ Keeps s u0 := by
  have kk := Keeps.refl s
  unfold Sys2Proof.Machine.execSincosAmplitudeFault; refine ⟨_, rfl, ?_⟩
  repeat' first | intro _ | with_reducible assumption | with_reducible apply Keeps.setFlag | with_reducible apply Keeps.count
                | with_reducible apply Keeps.at | with_reducible apply Keeps.setScp | with_reducible apply Keeps.raise | with_reducible apply Keeps.ite | rfl
                | dsimp only | split | fail_if_no_progress (with_reducible refine Keeps.upd ?_ rfl)

theorem Keeps.execAntennaBiasShort (t : Nat) (a : Fin 3)  (s : State) : ∃ u0, execAntennaBiasShort t a s = .next u0 ∧ Keeps s u0 := by
  have kk := Keeps.refl s
  unfold Sys2Proof.Machine.execAntennaBiasShort; refine ⟨_, rfl, ?_⟩
  repeat' first | intro _ | with_reducible assumption | with_reducible apply Keeps.setFlag | with_reducible apply Keeps.at
                | with_reducible apply Keeps.raise | with_reducible apply Keeps.ite | rfl | dsimp only | split
                | fail_if_no_progress (with_reducible refine Keeps.upd ?_ rfl)

theorem Keeps.execBiasRetry (a : Fin 3)  (s : State) : ∃ u0, execBiasRetry a s = .next u0 ∧ Keeps s u0 := by
  have kk := Keeps.refl s
  unfold Sys2Proof.Machine.execBiasRetry; refine ⟨_, rfl, ?_⟩
  repeat' first | intro _ | with_reducible assumption | with_reducible apply Keeps.setFlag | with_reducible apply Keeps.ite | rfl | dsimp only | split
                | fail_if_no_progress (with_reducible refine Keeps.upd ?_ rfl)

theorem Keeps.execAntennaOpen (t : Nat) (a : Fin 3) (below : Bool)  (s : State) : ∃ u0, execAntennaOpen t a below s = .next u0 ∧ Keeps s u0 := by
  have kk := Keeps.refl s
  unfold Sys2Proof.Machine.execAntennaOpen; refine ⟨_, rfl, ?_⟩
  repeat' first | intro _ | with_reducible assumption | with_reducible apply Keeps.setFlag | with_reducible apply Keeps.at
                | with_reducible apply Keeps.raise | with_reducible apply Keeps.ite | rfl | dsimp only | split
                | fail_if_no_progress (with_reducible refine Keeps.upd ?_ rfl)

theorem Keeps.execSignalFound (x : Timed GFind)  (s : State) : ∃ u0, execSignalFound x s = .next u0 ∧ Keeps s u0 := by
  have kk := Keeps.refl s
  unfold Sys2Proof.Machine.execSignalFound; refine ⟨_, rfl, ?_⟩
  repeat' first | intro _ | with_reducible assumption | with_reducible apply Keeps.at | with_reducible apply Keeps.setGch
                | with_reducible apply Keeps.gEnter | with_reducible apply Keeps.ite | rfl | dsimp only | split
                | fail_if_no_progress (with_reducible refine Keeps.upd ?_ rfl)

theorem Keeps.execCodeCarrierLock (t : Nat) (x : GLock)  (s : State) : ∃ u0, execCodeCarrierLock t x s = .next u0 ∧ Keeps s u0 := by
  have kk := Keeps.refl s
  unfold Sys2Proof.Machine.execCodeCarrierLock; refine ⟨_, rfl, ?_⟩
  repeat' first | intro _ | with_reducible assumption | with_reducible apply Keeps.count | with_reducible apply Keeps.at
                | with_reducible apply Keeps.setGch | with_reducible apply Keeps.gEnter | with_reducible apply Keeps.ite | rfl | dsimp only | split
                | fail_if_no_progress (with_reducible refine Keeps.upd ?_ rfl)

theorem Keeps.execPullinTimeout (x : Timed (Fin 288))  (s : State) : ∃ u0, execPullinTimeout x s = .next u0 ∧ Keeps s u0 := by
  have kk := Keeps.refl s
  unfold Sys2Proof.Machine.execPullinTimeout; refine ⟨_, rfl, ?_⟩
  repeat' first | intro _ | with_reducible assumption | with_reducible apply Keeps.at | with_reducible apply Keeps.gEnter
                | with_reducible apply Keeps.ite | rfl | dsimp only | split | fail_if_no_progress (with_reducible refine Keeps.upd ?_ rfl)

theorem Keeps.execSignalLoss (x : Timed (Fin 288))  (s : State) : ∃ u0, execSignalLoss x s = .next u0 ∧ Keeps s u0 := by
  have kk := Keeps.refl s
  unfold Sys2Proof.Machine.execSignalLoss; refine ⟨_, rfl, ?_⟩
  repeat' first | intro _ | with_reducible assumption | with_reducible apply Keeps.count | with_reducible apply Keeps.at
                | with_reducible apply Keeps.gEnter | with_reducible apply Keeps.ite | rfl | dsimp only | split
                | fail_if_no_progress (with_reducible refine Keeps.upd ?_ rfl)

theorem Keeps.execReacqTimeout (x : Timed (Fin 288))  (s : State) : ∃ u0, execReacqTimeout x s = .next u0 ∧ Keeps s u0 := by
  have kk := Keeps.refl s
  unfold Sys2Proof.Machine.execReacqTimeout; refine ⟨_, rfl, ?_⟩
  repeat' first | intro _ | with_reducible assumption | with_reducible apply Keeps.at | with_reducible apply Keeps.gEnter
                | with_reducible apply Keeps.ite | rfl | dsimp only | split | fail_if_no_progress (with_reducible refine Keeps.upd ?_ rfl)

theorem Keeps.execCarrierLockLoss (n : Fin 288) (s : State) : ∃ u0, execCarrierLockLoss n s = .next u0 ∧ Keeps s u0 := by
  have kk := Keeps.refl s
  unfold Sys2Proof.Machine.execCarrierLockLoss; refine ⟨_, rfl, ?_⟩
  repeat' first | intro _ | with_reducible assumption | with_reducible apply Keeps.setGch | with_reducible apply Keeps.ite | rfl | dsimp only
                | split | fail_if_no_progress (with_reducible refine Keeps.upd ?_ rfl)

theorem Keeps.execSecondaryCodeSync (n : Fin 288) (s : State) : ∃ u0, execSecondaryCodeSync n s = .next u0 ∧ Keeps s u0 := by
  have kk := Keeps.refl s
  unfold Sys2Proof.Machine.execSecondaryCodeSync; refine ⟨_, rfl, ?_⟩
  repeat' first | intro _ | with_reducible assumption | with_reducible apply Keeps.setGch | with_reducible apply Keeps.ite | rfl | dsimp only
                | split | fail_if_no_progress (with_reducible refine Keeps.upd ?_ rfl)

theorem Keeps.execSymbolWord (t : Nat) (n : Fin 288) (back : Nat) (symbols : BitVec 32)  (s : State) :
    ∃ u0, execSymbolWord t n back symbols s = .next u0 ∧ Keeps s u0 := by
  have kk := Keeps.refl s
  unfold Sys2Proof.Machine.execSymbolWord; refine ⟨_, rfl, ?_⟩
  repeat' first | intro _ | with_reducible assumption | with_reducible apply Keeps.wr | with_reducible apply Keeps.at
                | with_reducible apply Keeps.recordCut | with_reducible apply Keeps.ite | rfl | dsimp only | split
                | fail_if_no_progress (with_reducible refine Keeps.upd ?_ rfl)

theorem Keeps.execBurstStart (s : State) : ∃ u0, execBurstStart s = .next u0 ∧ Keeps s u0 := by
  have kk := Keeps.refl s
  unfold Sys2Proof.Machine.execBurstStart; refine ⟨_, rfl, ?_⟩
  repeat' first | intro _ | with_reducible assumption | with_reducible apply Keeps.setFlag | with_reducible apply Keeps.eachOf
                | with_reducible apply Keeps.burstEdge | with_reducible apply Keeps.setGch | with_reducible apply Keeps.gBurstGo
                | with_reducible apply Keeps.rtSync | with_reducible apply Keeps.ite | rfl | dsimp only | split
                | fail_if_no_progress (with_reducible refine Keeps.upd ?_ rfl)

theorem Keeps.execBurstEnd (s : State) : ∃ u0, execBurstEnd s = .next u0 ∧ Keeps s u0 := by
  have kk := Keeps.refl s
  unfold Sys2Proof.Machine.execBurstEnd; refine ⟨_, rfl, ?_⟩
  repeat' first | intro _ | with_reducible assumption | with_reducible apply Keeps.setFlag | with_reducible apply Keeps.eachOf
                | with_reducible apply Keeps.burstEdge | with_reducible apply Keeps.gEnter | with_reducible apply Keeps.rtSync
                | with_reducible apply Keeps.ite | rfl | dsimp only | split | fail_if_no_progress (with_reducible refine Keeps.upd ?_ rfl)

theorem Keeps.execPendingStepApply (t : Nat)  (s : State) : ∃ u0, execPendingStepApply t s = .next u0 ∧ Keeps s u0 := by
  have kk := Keeps.refl s
  unfold Sys2Proof.Machine.execPendingStepApply; refine ⟨_, rfl, ?_⟩
  repeat' first | intro _ | with_reducible assumption | with_reducible apply Keeps.setFlag | with_reducible apply Keeps.at
                | with_reducible apply Keeps.rtSync | with_reducible apply Keeps.rtStep | with_reducible apply Keeps.ite | rfl | dsimp only | split
                | fail_if_no_progress (with_reducible refine Keeps.upd ?_ rfl)

theorem Keeps.execSlewComplete (t : Nat)  (s : State) : ∃ u0, execSlewComplete t s = .next u0 ∧ Keeps s u0 := by
  have kk := Keeps.refl s
  unfold Sys2Proof.Machine.execSlewComplete; refine ⟨_, rfl, ?_⟩
  repeat' first | intro _ | with_reducible assumption | with_reducible apply Keeps.at | with_reducible apply Keeps.rtSync
                | with_reducible apply Keeps.uncCheck | with_reducible apply Keeps.ite | rfl | dsimp only | split
                | fail_if_no_progress (with_reducible refine Keeps.upd ?_ rfl)

theorem Keeps.execHoldtoExpiry (t : Nat)  (s : State) : ∃ u0, execHoldtoExpiry t s = .next u0 ∧ Keeps s u0 := by
  have kk := Keeps.refl s
  unfold Sys2Proof.Machine.execHoldtoExpiry; refine ⟨_, rfl, ?_⟩
  repeat' first | intro _ | with_reducible assumption | with_reducible apply Keeps.setFld | with_reducible apply Keeps.at
                | with_reducible apply Keeps.rtSync | with_reducible apply Keeps.uncCheck | with_reducible apply Keeps.ite | rfl | dsimp only | split
                | fail_if_no_progress (with_reducible refine Keeps.upd ?_ rfl)

theorem Keeps.execUncOver (t : Nat) (s : State) : ∃ u0, execUncOver t s = .next u0 ∧ Keeps s u0 := by
  have kk := Keeps.refl s
  unfold Sys2Proof.Machine.execUncOver; refine ⟨_, rfl, ?_⟩
  repeat' first | intro _ | with_reducible assumption | with_reducible apply Keeps.setFlag | with_reducible apply Keeps.at
                | with_reducible apply Keeps.assert | with_reducible apply Keeps.release | with_reducible apply Keeps.rtSync | with_reducible apply Keeps.ite
                | rfl | dsimp only | split | fail_if_no_progress (with_reducible refine Keeps.upd ?_ rfl)

theorem Keeps.execTpulse (t : Nat)  (s : State) : ∃ u0, execTpulse t s = .next u0 ∧ Keeps s u0 := by
  have kk := Keeps.refl s
  unfold Sys2Proof.Machine.execTpulse; refine ⟨_, rfl, ?_⟩
  repeat' first | intro _ | with_reducible assumption | with_reducible apply Keeps.wr | with_reducible apply Keeps.at
                | with_reducible apply Keeps.rtSync | with_reducible apply Keeps.ite | rfl | dsimp only | split
                | fail_if_no_progress (with_reducible refine Keeps.upd ?_ rfl)

theorem Keeps.execEpoch (t : Nat) (ms : List GMeas) (cn0 : List (BitVec 16))  (s : State) : ∃ u0, execEpoch t ms cn0 s = .next u0 ∧ Keeps s u0 := by
  have kk := Keeps.refl s
  unfold Sys2Proof.Machine.execEpoch; refine ⟨_, rfl, ?_⟩
  repeat' first | intro _ | with_reducible assumption | with_reducible apply Keeps.count | with_reducible apply Keeps.eachOf
                | with_reducible apply Keeps.at | with_reducible apply Keeps.setGch | with_reducible apply Keeps.gCn0
                | with_reducible apply Keeps.rtSync | with_reducible apply Keeps.ite | rfl | dsimp only | split
                | fail_if_no_progress (with_reducible refine Keeps.upd ?_ rfl)

theorem Keeps.execEpochRecordComplete (t : Nat)  (s : State) : ∃ u0, execEpochRecordComplete t s = .next u0 ∧ Keeps s u0 := by
  have kk := Keeps.refl s
  unfold Sys2Proof.Machine.execEpochRecordComplete; refine ⟨_, rfl, ?_⟩
  repeat' first | intro _ | with_reducible assumption | with_reducible apply Keeps.at | with_reducible apply Keeps.recordCut
                | with_reducible apply Keeps.wrRun | with_reducible apply Keeps.ite | rfl | dsimp only | split
                | fail_if_no_progress (with_reducible refine Keeps.upd ?_ rfl)

theorem Keeps.execImuSelfTestComplete (t : Nat) (passed : Bool)  (s : State) : ∃ u0, execImuSelfTestComplete t passed s = .next u0 ∧ Keeps s u0 := by
  have kk := Keeps.refl s
  unfold Sys2Proof.Machine.execImuSelfTestComplete; refine ⟨_, rfl, ?_⟩
  repeat' first | intro _ | with_reducible assumption | with_reducible apply Keeps.setFlag | with_reducible apply Keeps.at
                | with_reducible apply Keeps.raise | with_reducible apply Keeps.ite | rfl | dsimp only | split
                | fail_if_no_progress (with_reducible refine Keeps.upd ?_ rfl)

theorem Keeps.execImuFault (t : Nat)  (s : State) : ∃ u0, execImuFault t s = .next u0 ∧ Keeps s u0 := by
  have kk := Keeps.refl s
  unfold Sys2Proof.Machine.execImuFault; refine ⟨_, rfl, ?_⟩
  repeat' first | intro _ | with_reducible assumption | with_reducible apply Keeps.setFlag | with_reducible apply Keeps.at
                | with_reducible apply Keeps.raise | with_reducible apply Keeps.ite | rfl | dsimp only | split
                | fail_if_no_progress (with_reducible refine Keeps.upd ?_ rfl)

theorem Keeps.execImuSamplesResume (s : State) : ∃ u0, execImuSamplesResume s = .next u0 ∧ Keeps s u0 := by
  have kk := Keeps.refl s
  unfold Sys2Proof.Machine.execImuSamplesResume; refine ⟨_, rfl, ?_⟩
  repeat' first | intro _ | with_reducible assumption | with_reducible apply Keeps.ite | rfl | dsimp only | split
                | fail_if_no_progress (with_reducible refine Keeps.upd ?_ rfl)

theorem Keeps.execTxatReached (t : Nat) (n : Fin 4) (k : Fin 64)  (s : State) : ∃ u0, execTxatReached t n k s = .next u0 ∧ Keeps s u0 := by
  have kk := Keeps.refl s
  unfold Sys2Proof.Machine.execTxatReached; refine ⟨_, rfl, ?_⟩
  repeat' first | intro _ | with_reducible assumption | with_reducible apply Keeps.at | with_reducible apply Keeps.stage
                | with_reducible apply Keeps.setTx | with_reducible apply Keeps.freshen | with_reducible apply Keeps.ite | rfl | dsimp only | split
                | fail_if_no_progress (with_reducible refine Keeps.upd ?_ rfl)

theorem Keeps.execTransmissionComplete (t : Nat) (n : Fin 4) (ago : Nat)  (s : State) :
    ∃ u0, execTransmissionComplete t n ago s = .next u0 ∧ Keeps s u0 := by
  have kk := Keeps.refl s
  unfold Sys2Proof.Machine.execTransmissionComplete; refine ⟨_, rfl, ?_⟩
  repeat' first | intro _ | with_reducible assumption | with_reducible apply Keeps.setFlag | with_reducible apply Keeps.count
                | with_reducible apply Keeps.at | with_reducible apply Keeps.onBctl | with_reducible apply Keeps.setTx
                | with_reducible apply Keeps.txState | with_reducible apply Keeps.busWas | with_reducible apply Keeps.busCounters
                | with_reducible apply Keeps.txAttempt | with_reducible apply Keeps.txMark | with_reducible apply Keeps.refSent
                | with_reducible apply Keeps.txEnded | with_reducible apply Keeps.ite | rfl | dsimp only | split
                | fail_if_no_progress (with_reducible refine Keeps.upd ?_ rfl)

theorem Keeps.execTransmissionError (t : Nat) (n : Fin 4) (ago : Nat) (lec : Fin 8) (dom arb : Bool) (place : TxPlace)  (s : State) :
    ∃ u0, execTransmissionError t n ago lec dom arb place s = .next u0 ∧ Keeps s u0 := by
  have kk := Keeps.refl s
  unfold Sys2Proof.Machine.execTransmissionError; refine ⟨_, rfl, ?_⟩
  repeat' first | intro _ | with_reducible assumption | with_reducible apply Keeps.setFld | with_reducible apply Keeps.setFlag
                | with_reducible apply Keeps.at | with_reducible apply Keeps.setTx | with_reducible apply Keeps.txState
                | with_reducible apply Keeps.busWas | with_reducible apply Keeps.txReturn | with_reducible apply Keeps.busCounters
                | with_reducible apply Keeps.txAttempt | with_reducible apply Keeps.txMark | with_reducible apply Keeps.txEnded
                | with_reducible apply Keeps.ite | rfl | dsimp only | split | fail_if_no_progress (with_reducible refine Keeps.upd ?_ rfl)

theorem Keeps.execArbitrationLost (t : Nat) (n : Fin 4) (ago : Nat) (ide : Bool) (id : BitVec 29)  (s : State) :
    ∃ u0, execArbitrationLost t n ago ide id s = .next u0 ∧ Keeps s u0 := by
  have kk := Keeps.refl s
  unfold Sys2Proof.Machine.execArbitrationLost; refine ⟨_, rfl, ?_⟩
  repeat' first | intro _ | with_reducible assumption | with_reducible apply Keeps.setFlag | with_reducible apply Keeps.at
                | with_reducible apply Keeps.onBctl | with_reducible apply Keeps.busWas | with_reducible apply Keeps.txReturn
                | with_reducible apply Keeps.freshen | with_reducible apply Keeps.txAttempt | with_reducible apply Keeps.ite | rfl | dsimp only
                | split | fail_if_no_progress (with_reducible refine Keeps.upd ?_ rfl)

theorem Keeps.execReceiveError (t : Nat) (n : Fin 4) (lec : Fin 8) (eight : Bool)  (s : State) :
    ∃ u0, execReceiveError t n lec eight s = .next u0 ∧ Keeps s u0 := by
  have kk := Keeps.refl s
  unfold Sys2Proof.Machine.execReceiveError; refine ⟨_, rfl, ?_⟩
  repeat' first | intro _ | with_reducible assumption | with_reducible apply Keeps.setFld | with_reducible apply Keeps.at
                | with_reducible apply Keeps.busCounters | with_reducible apply Keeps.txEnded | with_reducible apply Keeps.ite | rfl | dsimp only
                | split | fail_if_no_progress (with_reducible refine Keeps.upd ?_ rfl)

theorem Keeps.execBusOffRecovery (n : Fin 4)  (s : State) : ∃ u0, execBusOffRecovery n s = .next u0 ∧ Keeps s u0 := by
  have kk := Keeps.refl s
  unfold Sys2Proof.Machine.execBusOffRecovery; refine ⟨_, rfl, ?_⟩
  repeat' first | intro _ | with_reducible assumption | with_reducible apply Keeps.setFld | with_reducible apply Keeps.setFlag
                | with_reducible apply Keeps.onBctl | with_reducible apply Keeps.freshen | with_reducible apply Keeps.ite | rfl | dsimp only | split
                | fail_if_no_progress (with_reducible refine Keeps.upd ?_ rfl)

theorem Keeps.execDominantTimeout (t : Nat) (n : Fin 4) (s : State) : ∃ u0, execDominantTimeout t n s = .next u0 ∧ Keeps s u0 := by
  have kk := Keeps.refl s
  unfold Sys2Proof.Machine.execDominantTimeout; refine ⟨_, rfl, ?_⟩
  repeat' first | intro _ | with_reducible assumption | with_reducible apply Keeps.setFlag | with_reducible apply Keeps.at
                | with_reducible apply Keeps.raise | with_reducible apply Keeps.ite | rfl | dsimp only | split
                | fail_if_no_progress (with_reducible refine Keeps.upd ?_ rfl)

theorem Keeps.execReferenceMessage (n : Fin 4)  (s : State) : ∃ u0, execReferenceMessage n s = .next u0 ∧ Keeps s u0 := by
  have kk := Keeps.refl s
  unfold Sys2Proof.Machine.execReferenceMessage; refine ⟨_, rfl, ?_⟩
  repeat' first | intro _ | with_reducible assumption | with_reducible apply Keeps.at | with_reducible apply Keeps.onBctl
                | with_reducible apply Keeps.ite | rfl | dsimp only | split | fail_if_no_progress (with_reducible refine Keeps.upd ?_ rfl)

theorem Keeps.execReferenceMissing (n : Fin 4)  (s : State) : ∃ u0, execReferenceMissing n s = .next u0 ∧ Keeps s u0 := by
  have kk := Keeps.refl s
  unfold Sys2Proof.Machine.execReferenceMissing; refine ⟨_, rfl, ?_⟩
  repeat' first | intro _ | with_reducible assumption | with_reducible apply Keeps.setFlag | with_reducible apply Keeps.onBctl
                | with_reducible apply Keeps.ite | rfl | dsimp only | split | fail_if_no_progress (with_reducible refine Keeps.upd ?_ rfl)

theorem Keeps.execFrameReceived (t : Nat) (n : Fin 4) (f : CanFrame) (ago : Nat)  (s : State) :
    ∃ u0, execFrameReceived t n f ago s = .next u0 ∧ Keeps s u0 := by
  have kk := Keeps.refl s
  unfold Sys2Proof.Machine.execFrameReceived; refine ⟨_, rfl, ?_⟩
  repeat' first | intro _ | with_reducible assumption | with_reducible apply Keeps.setFlag | with_reducible apply Keeps.count
                | with_reducible apply Keeps.spend | with_reducible apply Keeps.at | with_reducible apply Keeps.raise
                | with_reducible apply Keeps.busWas | with_reducible apply Keeps.busCounters | with_reducible apply Keeps.txEnded
                | with_reducible apply Keeps.storeFrame | with_reducible apply Keeps.followFrame | with_reducible apply Keeps.refReceived
                | with_reducible apply Keeps.ite | rfl | dsimp only | split | fail_if_no_progress (with_reducible refine Keeps.upd ?_ rfl)

theorem Keeps.execSillEntryComplete (s : State) : ∃ u0, execSillEntryComplete s = .next u0 ∧ Keeps s u0 := by
  have kk := Keeps.refl s
  unfold Sys2Proof.Machine.execSillEntryComplete; refine ⟨_, rfl, ?_⟩
  repeat' first | intro _ | with_reducible assumption | with_reducible apply Keeps.drainAll | with_reducible apply Keeps.afterReset
                | with_reducible apply Keeps.wakeReset | with_reducible apply Keeps.sillSave | with_reducible apply Keeps.drainJournal
                | with_reducible apply Keeps.wake | with_reducible apply Keeps.ite | rfl | dsimp only | split
                | fail_if_no_progress (with_reducible refine Keeps.upd ?_ rfl)

theorem Keeps.execIgnChange (active : Bool)  (s : State) : ∃ u0, execIgnChange active s = .next u0 ∧ Keeps s u0 := by
  have kk := Keeps.refl s
  unfold Sys2Proof.Machine.execIgnChange; refine ⟨_, rfl, ?_⟩
  repeat' first | intro _ | with_reducible assumption | with_reducible apply Keeps.setFlag | with_reducible apply Keeps.setSys
                | with_reducible apply Keeps.savedSill | with_reducible apply Keeps.ite | rfl | dsimp only | split
                | fail_if_no_progress (with_reducible refine Keeps.upd ?_ rfl)

theorem Keeps.execIgnDebounceExpiry (s : State) : ∃ u0, execIgnDebounceExpiry s = .next u0 ∧ Keeps s u0 := by
  have kk := Keeps.refl s
  unfold Sys2Proof.Machine.execIgnDebounceExpiry; refine ⟨_, rfl, ?_⟩
  repeat' first | intro _ | with_reducible assumption | with_reducible apply Keeps.setFlag | with_reducible apply Keeps.setSys
                | with_reducible apply Keeps.beginBoot | with_reducible apply Keeps.wake | with_reducible apply Keeps.ite | rfl | dsimp only | split
                | fail_if_no_progress (with_reducible refine Keeps.upd ?_ rfl)

theorem Keeps.execWakeUpPattern (s : State) : ∃ u0, execWakeUpPattern s = .next u0 ∧ Keeps s u0 := by
  have kk := Keeps.refl s
  unfold Sys2Proof.Machine.execWakeUpPattern; refine ⟨_, rfl, ?_⟩
  repeat' first | intro _ | with_reducible assumption | with_reducible apply Keeps.setFlag | with_reducible apply Keeps.wake
                | with_reducible apply Keeps.ite | rfl | dsimp only | split | fail_if_no_progress (with_reducible refine Keeps.upd ?_ rfl)

theorem Keeps.execWakeTimerExpiry (s : State) : ∃ u0, execWakeTimerExpiry s = .next u0 ∧ Keeps s u0 := by
  have kk := Keeps.refl s
  unfold Sys2Proof.Machine.execWakeTimerExpiry; refine ⟨_, rfl, ?_⟩
  repeat' first | intro _ | with_reducible assumption | with_reducible apply Keeps.wake | with_reducible apply Keeps.ite | rfl | dsimp only
                | split | fail_if_no_progress (with_reducible refine Keeps.upd ?_ rfl)

theorem Keeps.execKeyOffTimeout (t : Nat)  (s : State) : ∃ u0, execKeyOffTimeout t s = .next u0 ∧ Keeps s u0 := by
  have kk := Keeps.refl s
  unfold Sys2Proof.Machine.execKeyOffTimeout; refine ⟨_, rfl, ?_⟩
  repeat' first | intro _ | with_reducible assumption | with_reducible apply Keeps.at | with_reducible apply Keeps.raise
                | with_reducible apply Keeps.setSys | with_reducible apply Keeps.ite | rfl | dsimp only | split
                | fail_if_no_progress (with_reducible refine Keeps.upd ?_ rfl)

theorem Keeps.execOperatingTimeAdvance (s : State) : ∃ u0, execOperatingTimeAdvance s = .next u0 ∧ Keeps s u0 := by
  have kk := Keeps.refl s
  unfold Sys2Proof.Machine.execOperatingTimeAdvance; refine ⟨_, rfl, ?_⟩
  repeat' first | intro _ | with_reducible assumption | with_reducible apply Keeps.recAdvance | with_reducible apply Keeps.fltAdvance
                | with_reducible apply Keeps.setSys | with_reducible apply Keeps.ite | rfl | dsimp only | split
                | fail_if_no_progress (with_reducible refine Keeps.upd ?_ rfl)

theorem Keeps.execSillSave (s : State) : ∃ u0, execSillSave s = .next u0 ∧ Keeps s u0 := by
  have kk := Keeps.refl s
  unfold Sys2Proof.Machine.execSillSave; refine ⟨_, rfl, ?_⟩
  repeat' first | intro _ | with_reducible assumption | with_reducible apply Keeps.sillSave | with_reducible apply Keeps.ite | rfl | dsimp only
                | split | fail_if_no_progress (with_reducible refine Keeps.upd ?_ rfl)

theorem Keeps.execPowerOnReset (ign hsync tside : Bool)  (s : State) : ∃ u0, execPowerOnReset ign hsync tside s = .next u0 ∧ Keeps s u0 := by
  have kk := Keeps.refl s
  unfold Sys2Proof.Machine.execPowerOnReset; refine ⟨_, rfl, ?_⟩
  repeat' first | intro _ | with_reducible assumption | with_reducible apply Keeps.wr | with_reducible apply Keeps.setFlag
                | with_reducible apply Keeps.setSys | with_reducible apply Keeps.afterReset | with_reducible apply Keeps.cycleCount
                | with_reducible apply Keeps.savedSill | with_reducible apply Keeps.ite | rfl | dsimp only | split
                | fail_if_no_progress (with_reducible refine Keeps.upd ?_ rfl)

theorem Keeps.execBootComplete (t : Nat) (r : BootReport)  (s : State) : ∃ u0, execBootComplete t r s = .next u0 ∧ Keeps s u0 := by
  have kk := Keeps.refl s
  unfold Sys2Proof.Machine.execBootComplete; refine ⟨_, rfl, ?_⟩
  repeat' first | intro _ | with_reducible assumption | with_reducible apply Keeps.setFlag | with_reducible apply Keeps.eachOf
                | with_reducible apply Keeps.iff | with_reducible apply Keeps.at | with_reducible apply Keeps.signNone
                | with_reducible apply Keeps.raise | with_reducible apply Keeps.truState | with_reducible apply Keeps.newNonce
                | with_reducible apply Keeps.bootLoad | with_reducible apply Keeps.setSys | with_reducible apply Keeps.badSlot
                | with_reducible apply Keeps.ite | rfl | dsimp only | split | fail_if_no_progress (with_reducible refine Keeps.upd ?_ rfl)

theorem Keeps.execPllUnlock (t : Nat) (p : Pll) (s : State) : ∃ u0, execPllUnlock t p s = .next u0 ∧ Keeps s u0 := by
  have kk := Keeps.refl s
  unfold Sys2Proof.Machine.execPllUnlock; refine ⟨_, rfl, ?_⟩
  repeat' first | intro _ | with_reducible assumption | with_reducible apply Keeps.at | with_reducible apply Keeps.pllLost
                | with_reducible apply Keeps.systemReset | with_reducible apply Keeps.ite | rfl | dsimp only | split
                | fail_if_no_progress (with_reducible refine Keeps.upd ?_ rfl)

theorem Keeps.execSillOscillatorFault (t : Nat) (s : State) : ∃ u0, execSillOscillatorFault t s = .next u0 ∧ Keeps s u0 := by
  have kk := Keeps.refl s
  unfold Sys2Proof.Machine.execSillOscillatorFault; refine ⟨_, rfl, ?_⟩
  repeat' first | intro _ | with_reducible assumption | with_reducible apply Keeps.setFlag | with_reducible apply Keeps.at
                | with_reducible apply Keeps.raise | with_reducible apply Keeps.ite | rfl | dsimp only | split
                | fail_if_no_progress (with_reducible refine Keeps.upd ?_ rfl)

theorem Keeps.execFreezePin (t : Nat)  (s : State) : ∃ u0, execFreezePin t s = .next u0 ∧ Keeps s u0 := by
  have kk := Keeps.refl s
  unfold Sys2Proof.Machine.execFreezePin; refine ⟨_, rfl, ?_⟩
  repeat' first | intro _ | with_reducible assumption | with_reducible apply Keeps.atRun | with_reducible apply Keeps.freezeBy
                | with_reducible apply Keeps.ite | rfl | dsimp only | split | fail_if_no_progress (with_reducible refine Keeps.upd ?_ rfl)

theorem Keeps.execFreezeRelease (s : State) : ∃ u0, execFreezeRelease s = .next u0 ∧ Keeps s u0 := by
  have kk := Keeps.refl s
  unfold Sys2Proof.Machine.execFreezeRelease; refine ⟨_, rfl, ?_⟩
  repeat' first | intro _ | with_reducible assumption | with_reducible apply Keeps.setSys | with_reducible apply Keeps.resume
                | with_reducible apply Keeps.ite | rfl | dsimp only | split | fail_if_no_progress (with_reducible refine Keeps.upd ?_ rfl)

theorem Keeps.execFeedStateChange (t : Nat) (second : Bool) (st : FeedState) (v1 v2 : BitVec 16)  (s : State) :
    ∃ u0, execFeedStateChange t second st v1 v2 s = .next u0 ∧ Keeps s u0 := by
  have kk := Keeps.refl s
  unfold Sys2Proof.Machine.execFeedStateChange; refine ⟨_, rfl, ?_⟩
  repeat' first | intro _ | with_reducible assumption | with_reducible apply Keeps.setFld | with_reducible apply Keeps.count
                | with_reducible apply Keeps.atRun | with_reducible apply Keeps.raise | with_reducible apply Keeps.assert
                | with_reducible apply Keeps.release | with_reducible apply Keeps.setSys | with_reducible apply Keeps.showSource
                | with_reducible apply Keeps.dipEnds | with_reducible apply Keeps.ite | rfl | dsimp only | split
                | fail_if_no_progress (with_reducible refine Keeps.upd ?_ rfl)

theorem Keeps.execPowerFail (t : Nat) (drained : Bool)  (s : State) : ∃ u0, execPowerFail t drained s = .next u0 ∧ Keeps s u0 := by
  have kk := Keeps.refl s
  unfold Sys2Proof.Machine.execPowerFail; refine ⟨_, rfl, ?_⟩
  repeat' first | intro _ | with_reducible assumption | with_reducible apply Keeps.each | with_reducible apply Keeps.spend
                | with_reducible apply Keeps.atRun | with_reducible apply Keeps.openIso | with_reducible apply Keeps.drainRecords
                | with_reducible apply Keeps.setEn | with_reducible apply Keeps.setSys | with_reducible apply Keeps.outputs
                | with_reducible apply Keeps.sillSave | with_reducible apply Keeps.drainJournal | with_reducible apply Keeps.ite | rfl | dsimp only
                | split | fail_if_no_progress (with_reducible refine Keeps.upd ?_ rfl)

theorem Keeps.execHoldFault (t : Nat) (v : BitVec 16)  (s : State) : ∃ u0, execHoldFault t v s = .next u0 ∧ Keeps s u0 := by
  have kk := Keeps.refl s
  unfold Sys2Proof.Machine.execHoldFault; refine ⟨_, rfl, ?_⟩
  repeat' first | intro _ | with_reducible assumption | with_reducible apply Keeps.setFlag | with_reducible apply Keeps.atRun
                | with_reducible apply Keeps.assert | with_reducible apply Keeps.ite | rfl | dsimp only | split
                | fail_if_no_progress (with_reducible refine Keeps.upd ?_ rfl)

theorem Keeps.execHoldCharged (t : Nat)  (s : State) : ∃ u0, execHoldCharged t s = .next u0 ∧ Keeps s u0 := by
  have kk := Keeps.refl s
  unfold Sys2Proof.Machine.execHoldCharged; refine ⟨_, rfl, ?_⟩
  repeat' first | intro _ | with_reducible assumption | with_reducible apply Keeps.setFlag | with_reducible apply Keeps.atRun
                | with_reducible apply Keeps.release | with_reducible apply Keeps.ite | rfl | dsimp only | split
                | fail_if_no_progress (with_reducible refine Keeps.upd ?_ rfl)

theorem Keeps.execVioFault (t : Nat) (g : Bool) (v : BitVec 16)  (s : State) : ∃ u0, execVioFault t g v s = .next u0 ∧ Keeps s u0 := by
  have kk := Keeps.refl s
  unfold Sys2Proof.Machine.execVioFault; refine ⟨_, rfl, ?_⟩
  repeat' first | intro _ | with_reducible assumption | with_reducible apply Keeps.setFlag | with_reducible apply Keeps.atRun
                | with_reducible apply Keeps.assert | with_reducible apply Keeps.setSys | with_reducible apply Keeps.pinsLow
                | with_reducible apply Keeps.ite | rfl | dsimp only | split | fail_if_no_progress (with_reducible refine Keeps.upd ?_ rfl)

theorem Keeps.execVioRecovery (t : Nat) (g : Bool)  (s : State) : ∃ u0, execVioRecovery t g s = .next u0 ∧ Keeps s u0 := by
  have kk := Keeps.refl s
  unfold Sys2Proof.Machine.execVioRecovery; refine ⟨_, rfl, ?_⟩
  repeat' first | intro _ | with_reducible assumption | with_reducible apply Keeps.atRun | with_reducible apply Keeps.release
                | with_reducible apply Keeps.setSys | with_reducible apply Keeps.ite | rfl | dsimp only | split
                | fail_if_no_progress (with_reducible refine Keeps.upd ?_ rfl)

theorem Keeps.execTemperaturePointFail (t : Nat) (p : PointFail)  (s : State) : ∃ u0, execTemperaturePointFail t p s = .next u0 ∧ Keeps s u0 := by
  have kk := Keeps.refl s
  unfold Sys2Proof.Machine.execTemperaturePointFail; refine ⟨_, rfl, ?_⟩
  repeat' first | intro _ | with_reducible assumption | with_reducible apply Keeps.setFlag | with_reducible apply Keeps.atRun
                | with_reducible apply Keeps.raiseLater | with_reducible apply Keeps.setSys | with_reducible apply Keeps.ite | rfl | dsimp only
                | split | fail_if_no_progress (with_reducible refine Keeps.upd ?_ rfl)

theorem Keeps.execTemperatureWarning (t : Nat) (d : Option (Fin 3)) (x : List (BitVec 16))  (s : State) :
    ∃ u0, execTemperatureWarning t d x s = .next u0 ∧ Keeps s u0 := by
  have kk := Keeps.refl s
  unfold Sys2Proof.Machine.execTemperatureWarning; refine ⟨_, rfl, ?_⟩
  repeat' first | intro _ | with_reducible assumption | with_reducible apply Keeps.atRun | with_reducible apply Keeps.assert
                | with_reducible apply Keeps.ite | rfl | dsimp only | split | fail_if_no_progress (with_reducible refine Keeps.upd ?_ rfl)

theorem Keeps.execControlDieOvertemp (t : Nat) (x : List (BitVec 16))  (s : State) : ∃ u0, execControlDieOvertemp t x s = .next u0 ∧ Keeps s u0 := by
  have kk := Keeps.refl s
  unfold Sys2Proof.Machine.execControlDieOvertemp; refine ⟨_, rfl, ?_⟩
  repeat' first | intro _ | with_reducible assumption | with_reducible apply Keeps.atRun | with_reducible apply Keeps.assert
                | with_reducible apply Keeps.ite | rfl | dsimp only | split | fail_if_no_progress (with_reducible refine Keeps.upd ?_ rfl)

theorem Keeps.execTemperatureRelease (t : Nat) (x : Samples (Fin 3))  (s : State) : ∃ u0, execTemperatureRelease t x s = .next u0 ∧ Keeps s u0 := by
  have kk := Keeps.refl s
  unfold Sys2Proof.Machine.execTemperatureRelease; refine ⟨_, rfl, ?_⟩
  repeat' first | intro _ | with_reducible assumption | with_reducible apply Keeps.atRun | with_reducible apply Keeps.release
                | with_reducible apply Keeps.ite | rfl | dsimp only | split | fail_if_no_progress (with_reducible refine Keeps.upd ?_ rfl)

end Sys2Proof.Machine
end

