-- ==== Sys2Proof/Laws/ExecEngines.lean ====
section
/-! SUPPORT. Laws: every instruction of an engine answers a next state, which keeps the queue, the part and the canonical form. -/
set_option linter.unusedTactic false
set_option linter.unreachableTactic false
namespace Sys2Proof.Machine
theorem Keeps.execBudgetExhausted (e : Fin 8) (s : State) : ∃ u0, execBudgetExhausted e s = .next u0 ∧ Keeps s u0 := by
  have kk := Keeps.refl s
  unfold Sys2Proof.Machine.execBudgetExhausted; refine ⟨_, rfl, ?_⟩
  repeat' first | intro _ | with_reducible assumption | with_reducible apply Keeps.abandon | with_reducible apply Keeps.ite | rfl | dsimp only
                | split | fail_if_no_progress (with_reducible refine Keeps.upd ?_ rfl)

theorem Keeps.execNop (e : Fin 8) (h : Hdr) (f : FmtC) (s : State) : ∃ u0, execNop e h f s = .next u0 ∧ Keeps s u0 := by
  have kk := Keeps.refl s
  unfold Sys2Proof.Machine.execNop; refine ⟨_, rfl, ?_⟩
  repeat' first | intro _ | with_reducible assumption | with_reducible apply Keeps.issue | with_reducible apply Keeps.ite | rfl | dsimp only
                | split | fail_if_no_progress (with_reducible refine Keeps.upd ?_ rfl)

theorem Keeps.execBr (e : Fin 8) (h : Hdr) (f : FmtC) (s : State) : ∃ u0, execBr e h f s = .next u0 ∧ Keeps s u0 := by
  have kk := Keeps.refl s
  unfold Sys2Proof.Machine.execBr; refine ⟨_, rfl, ?_⟩
  repeat' first | intro _ | with_reducible assumption | with_reducible apply Keeps.issueWith | with_reducible apply Keeps.holdFor
                | with_reducible apply Keeps.jump | with_reducible apply Keeps.ite | rfl | dsimp only | split
                | fail_if_no_progress (with_reducible refine Keeps.upd ?_ rfl)

theorem Keeps.execCall (e : Fin 8) (h : Hdr) (f : FmtC) (s : State) : ∃ u0, execCall e h f s = .next u0 ∧ Keeps s u0 := by
  have kk := Keeps.refl s
  unfold Sys2Proof.Machine.execCall; refine ⟨_, rfl, ?_⟩
  repeat' first | intro _ | with_reducible assumption | with_reducible apply Keeps.updEn | with_reducible apply Keeps.abandon
                | with_reducible apply Keeps.issueWith | with_reducible apply Keeps.holdFor | with_reducible apply Keeps.ite | rfl | dsimp only | split
                | fail_if_no_progress (with_reducible refine Keeps.upd ?_ rfl)

theorem Keeps.execRet (e : Fin 8) (h : Hdr) (f : FmtC) (s : State) : ∃ u0, execRet e h f s = .next u0 ∧ Keeps s u0 := by
  have kk := Keeps.refl s
  unfold Sys2Proof.Machine.execRet; refine ⟨_, rfl, ?_⟩
  repeat' first | intro _ | with_reducible assumption | with_reducible apply Keeps.updEn | with_reducible apply Keeps.abandon
                | with_reducible apply Keeps.issueWith | with_reducible apply Keeps.holdFor | with_reducible apply Keeps.ite | rfl | dsimp only | split
                | fail_if_no_progress (with_reducible refine Keeps.upd ?_ rfl)

theorem Keeps.execLoop (e : Fin 8) (h : Hdr) (f : FmtC)  (s : State) : ∃ u0, execLoop e h f s = .next u0 ∧ Keeps s u0 := by
  have kk := Keeps.refl s
  unfold Sys2Proof.Machine.execLoop; refine ⟨_, rfl, ?_⟩
  repeat' first | intro _ | with_reducible assumption | with_reducible apply Keeps.updRun | with_reducible apply Keeps.abandon
                | with_reducible apply Keeps.mismatch | with_reducible apply Keeps.issueWith | with_reducible apply Keeps.holdFor
                | with_reducible apply Keeps.ite | rfl | dsimp only | split | fail_if_no_progress (with_reducible refine Keeps.upd ?_ rfl)

theorem Keeps.execJt (e : Fin 8) (h : Hdr) (f : FmtC) (s : State) : ∃ u0, execJt e h f s = .next u0 ∧ Keeps s u0 := by
  have kk := Keeps.refl s
  unfold Sys2Proof.Machine.execJt; refine ⟨_, rfl, ?_⟩
  repeat' first | intro _ | with_reducible assumption | with_reducible apply Keeps.mismatch | with_reducible apply Keeps.issueWith
                | with_reducible apply Keeps.holdFor | with_reducible apply Keeps.jump | with_reducible apply Keeps.ite | rfl | dsimp only | split
                | fail_if_no_progress (with_reducible refine Keeps.upd ?_ rfl)

theorem Keeps.execEnd (e : Fin 8) (h : Hdr) (f : FmtC) (s : State) : ∃ u0, execEnd e h f s = .next u0 ∧ Keeps s u0 := by
  have kk := Keeps.refl s
  unfold Sys2Proof.Machine.execEnd; refine ⟨_, rfl, ?_⟩
  repeat' first | intro _ | with_reducible assumption | with_reducible apply Keeps.setFld | with_reducible apply Keeps.updEn
                | with_reducible apply Keeps.issue | with_reducible apply Keeps.ite | rfl | dsimp only | split
                | fail_if_no_progress (with_reducible refine Keeps.upd ?_ rfl)

theorem Keeps.execAdd (e : Fin 8) (h : Hdr) (f : FmtR) (s : State) : ∃ u0, execAdd e h f s = .next u0 ∧ Keeps s u0 := by
  have kk := Keeps.refl s
  unfold Sys2Proof.Machine.execAdd; refine ⟨_, rfl, ?_⟩
  repeat' first | intro _ | with_reducible assumption | with_reducible apply Keeps.binR | with_reducible apply Keeps.ite | rfl | dsimp only
                | split | fail_if_no_progress (with_reducible refine Keeps.upd ?_ rfl)

theorem Keeps.execSub (e : Fin 8) (h : Hdr) (f : FmtR) (s : State) : ∃ u0, execSub e h f s = .next u0 ∧ Keeps s u0 := by
  have kk := Keeps.refl s
  unfold Sys2Proof.Machine.execSub; refine ⟨_, rfl, ?_⟩
  repeat' first | intro _ | with_reducible assumption | with_reducible apply Keeps.binR | with_reducible apply Keeps.ite | rfl | dsimp only
                | split | fail_if_no_progress (with_reducible refine Keeps.upd ?_ rfl)

theorem Keeps.execAdds (e : Fin 8) (h : Hdr) (f : FmtR) (s : State) : ∃ u0, execAdds e h f s = .next u0 ∧ Keeps s u0 := by
  have kk := Keeps.refl s
  unfold Sys2Proof.Machine.execAdds; refine ⟨_, rfl, ?_⟩
  repeat' first | intro _ | with_reducible assumption | with_reducible apply Keeps.binR | with_reducible apply Keeps.ite | rfl | dsimp only
                | split | fail_if_no_progress (with_reducible refine Keeps.upd ?_ rfl)

theorem Keeps.execSubs (e : Fin 8) (h : Hdr) (f : FmtR) (s : State) : ∃ u0, execSubs e h f s = .next u0 ∧ Keeps s u0 := by
  have kk := Keeps.refl s
  unfold Sys2Proof.Machine.execSubs; refine ⟨_, rfl, ?_⟩
  repeat' first | intro _ | with_reducible assumption | with_reducible apply Keeps.binR | with_reducible apply Keeps.ite | rfl | dsimp only
                | split | fail_if_no_progress (with_reducible refine Keeps.upd ?_ rfl)

theorem Keeps.execMul (e : Fin 8) (h : Hdr) (f : FmtR) (s : State) : ∃ u0, execMul e h f s = .next u0 ∧ Keeps s u0 := by
  have kk := Keeps.refl s
  unfold Sys2Proof.Machine.execMul; refine ⟨_, rfl, ?_⟩
  repeat' first | intro _ | with_reducible assumption | with_reducible apply Keeps.binR | with_reducible apply Keeps.ite | rfl | dsimp only
                | split | fail_if_no_progress (with_reducible refine Keeps.upd ?_ rfl)

theorem Keeps.execMulhu (e : Fin 8) (h : Hdr) (f : FmtR) (s : State) : ∃ u0, execMulhu e h f s = .next u0 ∧ Keeps s u0 := by
  have kk := Keeps.refl s
  unfold Sys2Proof.Machine.execMulhu; refine ⟨_, rfl, ?_⟩
  repeat' first | intro _ | with_reducible assumption | with_reducible apply Keeps.binR | with_reducible apply Keeps.ite | rfl | dsimp only
                | split | fail_if_no_progress (with_reducible refine Keeps.upd ?_ rfl)

theorem Keeps.execMulhs (e : Fin 8) (h : Hdr) (f : FmtR) (s : State) : ∃ u0, execMulhs e h f s = .next u0 ∧ Keeps s u0 := by
  have kk := Keeps.refl s
  unfold Sys2Proof.Machine.execMulhs; refine ⟨_, rfl, ?_⟩
  repeat' first | intro _ | with_reducible assumption | with_reducible apply Keeps.binR | with_reducible apply Keeps.ite | rfl | dsimp only
                | split | fail_if_no_progress (with_reducible refine Keeps.upd ?_ rfl)

theorem Keeps.execMac (e : Fin 8) (h : Hdr) (f : FmtR) (s : State) : ∃ u0, execMac e h f s = .next u0 ∧ Keeps s u0 := by
  have kk := Keeps.refl s
  unfold Sys2Proof.Machine.execMac; refine ⟨_, rfl, ?_⟩
  repeat' first | intro _ | with_reducible assumption | with_reducible apply Keeps.putG | with_reducible apply Keeps.checked
                | with_reducible apply Keeps.issue | with_reducible apply Keeps.ite | rfl | dsimp only | split
                | fail_if_no_progress (with_reducible refine Keeps.upd ?_ rfl)

theorem Keeps.execMin (e : Fin 8) (h : Hdr) (f : FmtR) (s : State) : ∃ u0, execMin e h f s = .next u0 ∧ Keeps s u0 := by
  have kk := Keeps.refl s
  unfold Sys2Proof.Machine.execMin; refine ⟨_, rfl, ?_⟩
  repeat' first | intro _ | with_reducible assumption | with_reducible apply Keeps.binR | with_reducible apply Keeps.ite | rfl | dsimp only
                | split | fail_if_no_progress (with_reducible refine Keeps.upd ?_ rfl)

theorem Keeps.execMax (e : Fin 8) (h : Hdr) (f : FmtR) (s : State) : ∃ u0, execMax e h f s = .next u0 ∧ Keeps s u0 := by
  have kk := Keeps.refl s
  unfold Sys2Proof.Machine.execMax; refine ⟨_, rfl, ?_⟩
  repeat' first | intro _ | with_reducible assumption | with_reducible apply Keeps.binR | with_reducible apply Keeps.ite | rfl | dsimp only
                | split | fail_if_no_progress (with_reducible refine Keeps.upd ?_ rfl)

theorem Keeps.execMinu (e : Fin 8) (h : Hdr) (f : FmtR) (s : State) : ∃ u0, execMinu e h f s = .next u0 ∧ Keeps s u0 := by
  have kk := Keeps.refl s
  unfold Sys2Proof.Machine.execMinu; refine ⟨_, rfl, ?_⟩
  repeat' first | intro _ | with_reducible assumption | with_reducible apply Keeps.binR | with_reducible apply Keeps.ite | rfl | dsimp only
                | split | fail_if_no_progress (with_reducible refine Keeps.upd ?_ rfl)

theorem Keeps.execMaxu (e : Fin 8) (h : Hdr) (f : FmtR) (s : State) : ∃ u0, execMaxu e h f s = .next u0 ∧ Keeps s u0 := by
  have kk := Keeps.refl s
  unfold Sys2Proof.Machine.execMaxu; refine ⟨_, rfl, ?_⟩
  repeat' first | intro _ | with_reducible assumption | with_reducible apply Keeps.binR | with_reducible apply Keeps.ite | rfl | dsimp only
                | split | fail_if_no_progress (with_reducible refine Keeps.upd ?_ rfl)

theorem Keeps.execAbs (e : Fin 8) (h : Hdr) (f : FmtR) (s : State) : ∃ u0, execAbs e h f s = .next u0 ∧ Keeps s u0 := by
  have kk := Keeps.refl s
  unfold Sys2Proof.Machine.execAbs; refine ⟨_, rfl, ?_⟩
  repeat' first | intro _ | with_reducible assumption | with_reducible apply Keeps.unR | with_reducible apply Keeps.ite | rfl | dsimp only
                | split | fail_if_no_progress (with_reducible refine Keeps.upd ?_ rfl)

theorem Keeps.execNeg (e : Fin 8) (h : Hdr) (f : FmtR) (s : State) : ∃ u0, execNeg e h f s = .next u0 ∧ Keeps s u0 := by
  have kk := Keeps.refl s
  unfold Sys2Proof.Machine.execNeg; refine ⟨_, rfl, ?_⟩
  repeat' first | intro _ | with_reducible assumption | with_reducible apply Keeps.unR | with_reducible apply Keeps.ite | rfl | dsimp only
                | split | fail_if_no_progress (with_reducible refine Keeps.upd ?_ rfl)

theorem Keeps.execDiv (e : Fin 8) (h : Hdr) (f : FmtR) (s : State) : ∃ u0, execDiv e h f s = .next u0 ∧ Keeps s u0 := by
  have kk := Keeps.refl s
  unfold Sys2Proof.Machine.execDiv; refine ⟨_, rfl, ?_⟩
  repeat' first | intro _ | with_reducible assumption | with_reducible apply Keeps.division | with_reducible apply Keeps.ite | rfl | dsimp only
                | split | fail_if_no_progress (with_reducible refine Keeps.upd ?_ rfl)

theorem Keeps.execDivu (e : Fin 8) (h : Hdr) (f : FmtR) (s : State) : ∃ u0, execDivu e h f s = .next u0 ∧ Keeps s u0 := by
  have kk := Keeps.refl s
  unfold Sys2Proof.Machine.execDivu; refine ⟨_, rfl, ?_⟩
  repeat' first | intro _ | with_reducible assumption | with_reducible apply Keeps.division | with_reducible apply Keeps.ite | rfl | dsimp only
                | split | fail_if_no_progress (with_reducible refine Keeps.upd ?_ rfl)

theorem Keeps.execAddi (e : Fin 8) (h : Hdr) (f : FmtI) (s : State) : ∃ u0, execAddi e h f s = .next u0 ∧ Keeps s u0 := by
  have kk := Keeps.refl s
  unfold Sys2Proof.Machine.execAddi; refine ⟨_, rfl, ?_⟩
  repeat' first | intro _ | with_reducible assumption | with_reducible apply Keeps.binI | with_reducible apply Keeps.ite | rfl | dsimp only
                | split | fail_if_no_progress (with_reducible refine Keeps.upd ?_ rfl)

theorem Keeps.execMuli (e : Fin 8) (h : Hdr) (f : FmtI) (s : State) : ∃ u0, execMuli e h f s = .next u0 ∧ Keeps s u0 := by
  have kk := Keeps.refl s
  unfold Sys2Proof.Machine.execMuli; refine ⟨_, rfl, ?_⟩
  repeat' first | intro _ | with_reducible assumption | with_reducible apply Keeps.binI | with_reducible apply Keeps.ite | rfl | dsimp only
                | split | fail_if_no_progress (with_reducible refine Keeps.upd ?_ rfl)

theorem Keeps.execMovi (e : Fin 8) (h : Hdr) (f : FmtI) (s : State) : ∃ u0, execMovi e h f s = .next u0 ∧ Keeps s u0 := by
  have kk := Keeps.refl s
  unfold Sys2Proof.Machine.execMovi; refine ⟨_, rfl, ?_⟩
  repeat' first | intro _ | with_reducible assumption | with_reducible apply Keeps.putG | with_reducible apply Keeps.issue
                | with_reducible apply Keeps.ite | rfl | dsimp only | split | fail_if_no_progress (with_reducible refine Keeps.upd ?_ rfl)

theorem Keeps.execMini (e : Fin 8) (h : Hdr) (f : FmtI) (s : State) : ∃ u0, execMini e h f s = .next u0 ∧ Keeps s u0 := by
  have kk := Keeps.refl s
  unfold Sys2Proof.Machine.execMini; refine ⟨_, rfl, ?_⟩
  repeat' first | intro _ | with_reducible assumption | with_reducible apply Keeps.binI | with_reducible apply Keeps.ite | rfl | dsimp only
                | split | fail_if_no_progress (with_reducible refine Keeps.upd ?_ rfl)

theorem Keeps.execMaxi (e : Fin 8) (h : Hdr) (f : FmtI) (s : State) : ∃ u0, execMaxi e h f s = .next u0 ∧ Keeps s u0 := by
  have kk := Keeps.refl s
  unfold Sys2Proof.Machine.execMaxi; refine ⟨_, rfl, ?_⟩
  repeat' first | intro _ | with_reducible assumption | with_reducible apply Keeps.binI | with_reducible apply Keeps.ite | rfl | dsimp only
                | split | fail_if_no_progress (with_reducible refine Keeps.upd ?_ rfl)

theorem Keeps.execAndi (e : Fin 8) (h : Hdr) (f : FmtI) (s : State) : ∃ u0, execAndi e h f s = .next u0 ∧ Keeps s u0 := by
  have kk := Keeps.refl s
  unfold Sys2Proof.Machine.execAndi; refine ⟨_, rfl, ?_⟩
  repeat' first | intro _ | with_reducible assumption | with_reducible apply Keeps.binI | with_reducible apply Keeps.ite | rfl | dsimp only
                | split | fail_if_no_progress (with_reducible refine Keeps.upd ?_ rfl)

theorem Keeps.execOri (e : Fin 8) (h : Hdr) (f : FmtI) (s : State) : ∃ u0, execOri e h f s = .next u0 ∧ Keeps s u0 := by
  have kk := Keeps.refl s
  unfold Sys2Proof.Machine.execOri; refine ⟨_, rfl, ?_⟩
  repeat' first | intro _ | with_reducible assumption | with_reducible apply Keeps.binI | with_reducible apply Keeps.ite | rfl | dsimp only
                | split | fail_if_no_progress (with_reducible refine Keeps.upd ?_ rfl)

theorem Keeps.execXori (e : Fin 8) (h : Hdr) (f : FmtI) (s : State) : ∃ u0, execXori e h f s = .next u0 ∧ Keeps s u0 := by
  have kk := Keeps.refl s
  unfold Sys2Proof.Machine.execXori; refine ⟨_, rfl, ?_⟩
  repeat' first | intro _ | with_reducible assumption | with_reducible apply Keeps.binI | with_reducible apply Keeps.ite | rfl | dsimp only
                | split | fail_if_no_progress (with_reducible refine Keeps.upd ?_ rfl)

theorem Keeps.execShli (e : Fin 8) (h : Hdr) (f : FmtI) (s : State) : ∃ u0, execShli e h f s = .next u0 ∧ Keeps s u0 := by
  have kk := Keeps.refl s
  unfold Sys2Proof.Machine.execShli; refine ⟨_, rfl, ?_⟩
  repeat' first | intro _ | with_reducible assumption | with_reducible apply Keeps.binI | with_reducible apply Keeps.ite | rfl | dsimp only
                | split | fail_if_no_progress (with_reducible refine Keeps.upd ?_ rfl)

theorem Keeps.execShri (e : Fin 8) (h : Hdr) (f : FmtI) (s : State) : ∃ u0, execShri e h f s = .next u0 ∧ Keeps s u0 := by
  have kk := Keeps.refl s
  unfold Sys2Proof.Machine.execShri; refine ⟨_, rfl, ?_⟩
  repeat' first | intro _ | with_reducible assumption | with_reducible apply Keeps.binI | with_reducible apply Keeps.ite | rfl | dsimp only
                | split | fail_if_no_progress (with_reducible refine Keeps.upd ?_ rfl)

theorem Keeps.execSari (e : Fin 8) (h : Hdr) (f : FmtI) (s : State) : ∃ u0, execSari e h f s = .next u0 ∧ Keeps s u0 := by
  have kk := Keeps.refl s
  unfold Sys2Proof.Machine.execSari; refine ⟨_, rfl, ?_⟩
  repeat' first | intro _ | with_reducible assumption | with_reducible apply Keeps.binI | with_reducible apply Keeps.ite | rfl | dsimp only
                | split | fail_if_no_progress (with_reducible refine Keeps.upd ?_ rfl)

theorem Keeps.execCmpi (e : Fin 8) (h : Hdr) (f : FmtI) (s : State) : ∃ u0, execCmpi e h f s = .next u0 ∧ Keeps s u0 := by
  have kk := Keeps.refl s
  unfold Sys2Proof.Machine.execCmpi; refine ⟨_, rfl, ?_⟩
  repeat' first | intro _ | with_reducible assumption | with_reducible apply Keeps.putP | with_reducible apply Keeps.checked
                | with_reducible apply Keeps.issue | with_reducible apply Keeps.ite | rfl | dsimp only | split
                | fail_if_no_progress (with_reducible refine Keeps.upd ?_ rfl)

theorem Keeps.execExt (e : Fin 8) (h : Hdr) (f : FmtI) (s : State) : ∃ u0, execExt e h f s = .next u0 ∧ Keeps s u0 := by
  have kk := Keeps.refl s
  unfold Sys2Proof.Machine.execExt; refine ⟨_, rfl, ?_⟩
  repeat' first | intro _ | with_reducible assumption | with_reducible apply Keeps.binI | with_reducible apply Keeps.ite | rfl | dsimp only
                | split | fail_if_no_progress (with_reducible refine Keeps.upd ?_ rfl)

theorem Keeps.execIns (e : Fin 8) (h : Hdr) (f : FmtI)  (s : State) : ∃ u0, execIns e h f s = .next u0 ∧ Keeps s u0 := by
  have kk := Keeps.refl s
  unfold Sys2Proof.Machine.execIns; refine ⟨_, rfl, ?_⟩
  repeat' first | intro _ | with_reducible assumption | with_reducible apply Keeps.putG | with_reducible apply Keeps.dual
                | with_reducible apply Keeps.issue | with_reducible apply Keeps.ite | rfl | dsimp only | split
                | fail_if_no_progress (with_reducible refine Keeps.upd ?_ rfl)

theorem Keeps.execSats (e : Fin 8) (h : Hdr) (f : FmtI) (s : State) : ∃ u0, execSats e h f s = .next u0 ∧ Keeps s u0 := by
  have kk := Keeps.refl s
  unfold Sys2Proof.Machine.execSats; refine ⟨_, rfl, ?_⟩
  repeat' first | intro _ | with_reducible assumption | with_reducible apply Keeps.binI | with_reducible apply Keeps.ite | rfl | dsimp only
                | split | fail_if_no_progress (with_reducible refine Keeps.upd ?_ rfl)

theorem Keeps.execSatu (e : Fin 8) (h : Hdr) (f : FmtI) (s : State) : ∃ u0, execSatu e h f s = .next u0 ∧ Keeps s u0 := by
  have kk := Keeps.refl s
  unfold Sys2Proof.Machine.execSatu; refine ⟨_, rfl, ?_⟩
  repeat' first | intro _ | with_reducible assumption | with_reducible apply Keeps.binI | with_reducible apply Keeps.ite | rfl | dsimp only
                | split | fail_if_no_progress (with_reducible refine Keeps.upd ?_ rfl)

theorem Keeps.execAnd (e : Fin 8) (h : Hdr) (f : FmtR) (s : State) : ∃ u0, execAnd e h f s = .next u0 ∧ Keeps s u0 := by
  have kk := Keeps.refl s
  unfold Sys2Proof.Machine.execAnd; refine ⟨_, rfl, ?_⟩
  repeat' first | intro _ | with_reducible assumption | with_reducible apply Keeps.binR | with_reducible apply Keeps.ite | rfl | dsimp only
                | split | fail_if_no_progress (with_reducible refine Keeps.upd ?_ rfl)

theorem Keeps.execOr (e : Fin 8) (h : Hdr) (f : FmtR) (s : State) : ∃ u0, execOr e h f s = .next u0 ∧ Keeps s u0 := by
  have kk := Keeps.refl s
  unfold Sys2Proof.Machine.execOr; refine ⟨_, rfl, ?_⟩
  repeat' first | intro _ | with_reducible assumption | with_reducible apply Keeps.binR | with_reducible apply Keeps.ite | rfl | dsimp only
                | split | fail_if_no_progress (with_reducible refine Keeps.upd ?_ rfl)

theorem Keeps.execXor (e : Fin 8) (h : Hdr) (f : FmtR) (s : State) : ∃ u0, execXor e h f s = .next u0 ∧ Keeps s u0 := by
  have kk := Keeps.refl s
  unfold Sys2Proof.Machine.execXor; refine ⟨_, rfl, ?_⟩
  repeat' first | intro _ | with_reducible assumption | with_reducible apply Keeps.binR | with_reducible apply Keeps.ite | rfl | dsimp only
                | split | fail_if_no_progress (with_reducible refine Keeps.upd ?_ rfl)

theorem Keeps.execAndn (e : Fin 8) (h : Hdr) (f : FmtR) (s : State) : ∃ u0, execAndn e h f s = .next u0 ∧ Keeps s u0 := by
  have kk := Keeps.refl s
  unfold Sys2Proof.Machine.execAndn; refine ⟨_, rfl, ?_⟩
  repeat' first | intro _ | with_reducible assumption | with_reducible apply Keeps.binR | with_reducible apply Keeps.ite | rfl | dsimp only
                | split | fail_if_no_progress (with_reducible refine Keeps.upd ?_ rfl)

theorem Keeps.execNot (e : Fin 8) (h : Hdr) (f : FmtR) (s : State) : ∃ u0, execNot e h f s = .next u0 ∧ Keeps s u0 := by
  have kk := Keeps.refl s
  unfold Sys2Proof.Machine.execNot; refine ⟨_, rfl, ?_⟩
  repeat' first | intro _ | with_reducible assumption | with_reducible apply Keeps.unR | with_reducible apply Keeps.ite | rfl | dsimp only
                | split | fail_if_no_progress (with_reducible refine Keeps.upd ?_ rfl)

theorem Keeps.execShl (e : Fin 8) (h : Hdr) (f : FmtR) (s : State) : ∃ u0, execShl e h f s = .next u0 ∧ Keeps s u0 := by
  have kk := Keeps.refl s
  unfold Sys2Proof.Machine.execShl; refine ⟨_, rfl, ?_⟩
  repeat' first | intro _ | with_reducible assumption | with_reducible apply Keeps.binR | with_reducible apply Keeps.ite | rfl | dsimp only
                | split | fail_if_no_progress (with_reducible refine Keeps.upd ?_ rfl)

theorem Keeps.execShr (e : Fin 8) (h : Hdr) (f : FmtR) (s : State) : ∃ u0, execShr e h f s = .next u0 ∧ Keeps s u0 := by
  have kk := Keeps.refl s
  unfold Sys2Proof.Machine.execShr; refine ⟨_, rfl, ?_⟩
  repeat' first | intro _ | with_reducible assumption | with_reducible apply Keeps.binR | with_reducible apply Keeps.ite | rfl | dsimp only
                | split | fail_if_no_progress (with_reducible refine Keeps.upd ?_ rfl)

theorem Keeps.execSar (e : Fin 8) (h : Hdr) (f : FmtR) (s : State) : ∃ u0, execSar e h f s = .next u0 ∧ Keeps s u0 := by
  have kk := Keeps.refl s
  unfold Sys2Proof.Machine.execSar; refine ⟨_, rfl, ?_⟩
  repeat' first | intro _ | with_reducible assumption | with_reducible apply Keeps.binR | with_reducible apply Keeps.ite | rfl | dsimp only
                | split | fail_if_no_progress (with_reducible refine Keeps.upd ?_ rfl)

theorem Keeps.execRol (e : Fin 8) (h : Hdr) (f : FmtR) (s : State) : ∃ u0, execRol e h f s = .next u0 ∧ Keeps s u0 := by
  have kk := Keeps.refl s
  unfold Sys2Proof.Machine.execRol; refine ⟨_, rfl, ?_⟩
  repeat' first | intro _ | with_reducible assumption | with_reducible apply Keeps.binR | with_reducible apply Keeps.ite | rfl | dsimp only
                | split | fail_if_no_progress (with_reducible refine Keeps.upd ?_ rfl)

theorem Keeps.execClz (e : Fin 8) (h : Hdr) (f : FmtR) (s : State) : ∃ u0, execClz e h f s = .next u0 ∧ Keeps s u0 := by
  have kk := Keeps.refl s
  unfold Sys2Proof.Machine.execClz; refine ⟨_, rfl, ?_⟩
  repeat' first | intro _ | with_reducible assumption | with_reducible apply Keeps.unR | with_reducible apply Keeps.ite | rfl | dsimp only
                | split | fail_if_no_progress (with_reducible refine Keeps.upd ?_ rfl)

theorem Keeps.execPopc (e : Fin 8) (h : Hdr) (f : FmtR) (s : State) : ∃ u0, execPopc e h f s = .next u0 ∧ Keeps s u0 := by
  have kk := Keeps.refl s
  unfold Sys2Proof.Machine.execPopc; refine ⟨_, rfl, ?_⟩
  repeat' first | intro _ | with_reducible assumption | with_reducible apply Keeps.unR | with_reducible apply Keeps.ite | rfl | dsimp only
                | split | fail_if_no_progress (with_reducible refine Keeps.upd ?_ rfl)

theorem Keeps.execCmp (e : Fin 8) (h : Hdr) (f : FmtR) (s : State) : ∃ u0, execCmp e h f s = .next u0 ∧ Keeps s u0 := by
  have kk := Keeps.refl s
  unfold Sys2Proof.Machine.execCmp; refine ⟨_, rfl, ?_⟩
  repeat' first | intro _ | with_reducible assumption | with_reducible apply Keeps.putP | with_reducible apply Keeps.checked
                | with_reducible apply Keeps.issue | with_reducible apply Keeps.ite | rfl | dsimp only | split
                | fail_if_no_progress (with_reducible refine Keeps.upd ?_ rfl)

theorem Keeps.execPand (e : Fin 8) (h : Hdr) (f : FmtR) (s : State) : ∃ u0, execPand e h f s = .next u0 ∧ Keeps s u0 := by
  have kk := Keeps.refl s
  unfold Sys2Proof.Machine.execPand; refine ⟨_, rfl, ?_⟩
  repeat' first | intro _ | with_reducible assumption | with_reducible apply Keeps.predOp | with_reducible apply Keeps.ite | rfl | dsimp only
                | split | fail_if_no_progress (with_reducible refine Keeps.upd ?_ rfl)

theorem Keeps.execPor (e : Fin 8) (h : Hdr) (f : FmtR) (s : State) : ∃ u0, execPor e h f s = .next u0 ∧ Keeps s u0 := by
  have kk := Keeps.refl s
  unfold Sys2Proof.Machine.execPor; refine ⟨_, rfl, ?_⟩
  repeat' first | intro _ | with_reducible assumption | with_reducible apply Keeps.predOp | with_reducible apply Keeps.ite | rfl | dsimp only
                | split | fail_if_no_progress (with_reducible refine Keeps.upd ?_ rfl)

theorem Keeps.execPxor (e : Fin 8) (h : Hdr) (f : FmtR) (s : State) : ∃ u0, execPxor e h f s = .next u0 ∧ Keeps s u0 := by
  have kk := Keeps.refl s
  unfold Sys2Proof.Machine.execPxor; refine ⟨_, rfl, ?_⟩
  repeat' first | intro _ | with_reducible assumption | with_reducible apply Keeps.predOp | with_reducible apply Keeps.ite | rfl | dsimp only
                | split | fail_if_no_progress (with_reducible refine Keeps.upd ?_ rfl)

theorem Keeps.execMov (e : Fin 8) (h : Hdr) (f : FmtR) (s : State) : ∃ u0, execMov e h f s = .next u0 ∧ Keeps s u0 := by
  have kk := Keeps.refl s
  unfold Sys2Proof.Machine.execMov; refine ⟨_, rfl, ?_⟩
  repeat' first | intro _ | with_reducible assumption | with_reducible apply Keeps.unR | with_reducible apply Keeps.ite | rfl | dsimp only
                | split | fail_if_no_progress (with_reducible refine Keeps.upd ?_ rfl)

theorem Keeps.execSel (e : Fin 8) (h : Hdr) (f : FmtR) (s : State) : ∃ u0, execSel e h f s = .next u0 ∧ Keeps s u0 := by
  have kk := Keeps.refl s
  unfold Sys2Proof.Machine.execSel; refine ⟨_, rfl, ?_⟩
  repeat' first | intro _ | with_reducible assumption | with_reducible apply Keeps.putG | with_reducible apply Keeps.checked
                | with_reducible apply Keeps.issue | with_reducible apply Keeps.ite | rfl | dsimp only | split
                | fail_if_no_progress (with_reducible refine Keeps.upd ?_ rfl)

theorem Keeps.execMfs (e : Fin 8) (h : Hdr) (f : FmtR) (s : State) : ∃ u0, execMfs e h f s = .next u0 ∧ Keeps s u0 := by
  have kk := Keeps.refl s
  unfold Sys2Proof.Machine.execMfs; refine ⟨_, rfl, ?_⟩
  repeat' first | intro _ | with_reducible assumption | with_reducible apply Keeps.putG | with_reducible apply Keeps.issue
                | with_reducible apply Keeps.ite | rfl | dsimp only | split | fail_if_no_progress (with_reducible refine Keeps.upd ?_ rfl)

theorem Keeps.execMovv (e : Fin 8) (h : Hdr) (f : FmtR) (s : State) : ∃ u0, execMovv e h f s = .next u0 ∧ Keeps s u0 := by
  have kk := Keeps.refl s
  unfold Sys2Proof.Machine.execMovv; refine ⟨_, rfl, ?_⟩
  repeat' first | intro _ | with_reducible assumption | with_reducible apply Keeps.putLane | with_reducible apply Keeps.checked
                | with_reducible apply Keeps.issue | with_reducible apply Keeps.ite | rfl | dsimp only | split
                | fail_if_no_progress (with_reducible refine Keeps.upd ?_ rfl)

theorem Keeps.execMovg (e : Fin 8) (h : Hdr) (f : FmtR) (s : State) : ∃ u0, execMovg e h f s = .next u0 ∧ Keeps s u0 := by
  have kk := Keeps.refl s
  unfold Sys2Proof.Machine.execMovg; refine ⟨_, rfl, ?_⟩
  repeat' first | intro _ | with_reducible assumption | with_reducible apply Keeps.putG | with_reducible apply Keeps.checked
                | with_reducible apply Keeps.issue | with_reducible apply Keeps.ite | rfl | dsimp only | split
                | fail_if_no_progress (with_reducible refine Keeps.upd ?_ rfl)

theorem Keeps.execPtog (e : Fin 8) (h : Hdr) (f : FmtR) (s : State) : ∃ u0, execPtog e h f s = .next u0 ∧ Keeps s u0 := by
  have kk := Keeps.refl s
  unfold Sys2Proof.Machine.execPtog; refine ⟨_, rfl, ?_⟩
  repeat' first | intro _ | with_reducible assumption | with_reducible apply Keeps.putG | with_reducible apply Keeps.issue
                | with_reducible apply Keeps.ite | rfl | dsimp only | split | fail_if_no_progress (with_reducible refine Keeps.upd ?_ rfl)

theorem Keeps.execVadd (e : Fin 8) (h : Hdr) (f : FmtR) (s : State) : ∃ u0, execVadd e h f s = .next u0 ∧ Keeps s u0 := by
  have kk := Keeps.refl s
  unfold Sys2Proof.Machine.execVadd; refine ⟨_, rfl, ?_⟩
  repeat' first | intro _ | with_reducible assumption | with_reducible apply Keeps.binV | with_reducible apply Keeps.ite | rfl | dsimp only
                | split | fail_if_no_progress (with_reducible refine Keeps.upd ?_ rfl)

theorem Keeps.execVsub (e : Fin 8) (h : Hdr) (f : FmtR) (s : State) : ∃ u0, execVsub e h f s = .next u0 ∧ Keeps s u0 := by
  have kk := Keeps.refl s
  unfold Sys2Proof.Machine.execVsub; refine ⟨_, rfl, ?_⟩
  repeat' first | intro _ | with_reducible assumption | with_reducible apply Keeps.binV | with_reducible apply Keeps.ite | rfl | dsimp only
                | split | fail_if_no_progress (with_reducible refine Keeps.upd ?_ rfl)

theorem Keeps.execVadds (e : Fin 8) (h : Hdr) (f : FmtR) (s : State) : ∃ u0, execVadds e h f s = .next u0 ∧ Keeps s u0 := by
  have kk := Keeps.refl s
  unfold Sys2Proof.Machine.execVadds; refine ⟨_, rfl, ?_⟩
  repeat' first | intro _ | with_reducible assumption | with_reducible apply Keeps.binV | with_reducible apply Keeps.ite | rfl | dsimp only
                | split | fail_if_no_progress (with_reducible refine Keeps.upd ?_ rfl)

theorem Keeps.execVmul (e : Fin 8) (h : Hdr) (f : FmtR) (s : State) : ∃ u0, execVmul e h f s = .next u0 ∧ Keeps s u0 := by
  have kk := Keeps.refl s
  unfold Sys2Proof.Machine.execVmul; refine ⟨_, rfl, ?_⟩
  repeat' first | intro _ | with_reducible assumption | with_reducible apply Keeps.binV | with_reducible apply Keeps.ite | rfl | dsimp only
                | split | fail_if_no_progress (with_reducible refine Keeps.upd ?_ rfl)

theorem Keeps.execVmac (e : Fin 8) (h : Hdr) (f : FmtR) (s : State) : ∃ u0, execVmac e h f s = .next u0 ∧ Keeps s u0 := by
  have kk := Keeps.refl s
  unfold Sys2Proof.Machine.execVmac; refine ⟨_, rfl, ?_⟩
  repeat' first | intro _ | with_reducible assumption | with_reducible apply Keeps.checked | with_reducible apply Keeps.issue
                | with_reducible apply Keeps.lanes | with_reducible apply Keeps.ite | rfl | dsimp only | split
                | fail_if_no_progress (with_reducible refine Keeps.upd ?_ rfl)

theorem Keeps.execVmin (e : Fin 8) (h : Hdr) (f : FmtR) (s : State) : ∃ u0, execVmin e h f s = .next u0 ∧ Keeps s u0 := by
  have kk := Keeps.refl s
  unfold Sys2Proof.Machine.execVmin; refine ⟨_, rfl, ?_⟩
  repeat' first | intro _ | with_reducible assumption | with_reducible apply Keeps.binV | with_reducible apply Keeps.ite | rfl | dsimp only
                | split | fail_if_no_progress (with_reducible refine Keeps.upd ?_ rfl)

theorem Keeps.execVmax (e : Fin 8) (h : Hdr) (f : FmtR) (s : State) : ∃ u0, execVmax e h f s = .next u0 ∧ Keeps s u0 := by
  have kk := Keeps.refl s
  unfold Sys2Proof.Machine.execVmax; refine ⟨_, rfl, ?_⟩
  repeat' first | intro _ | with_reducible assumption | with_reducible apply Keeps.binV | with_reducible apply Keeps.ite | rfl | dsimp only
                | split | fail_if_no_progress (with_reducible refine Keeps.upd ?_ rfl)

theorem Keeps.execVspl (e : Fin 8) (h : Hdr) (f : FmtR) (s : State) : ∃ u0, execVspl e h f s = .next u0 ∧ Keeps s u0 := by
  have kk := Keeps.refl s
  unfold Sys2Proof.Machine.execVspl; refine ⟨_, rfl, ?_⟩
  repeat' first | intro _ | with_reducible assumption | with_reducible apply Keeps.checked | with_reducible apply Keeps.issue
                | with_reducible apply Keeps.lanes | with_reducible apply Keeps.ite | rfl | dsimp only | split
                | fail_if_no_progress (with_reducible refine Keeps.upd ?_ rfl)

theorem Keeps.execVsum (e : Fin 8) (h : Hdr) (f : FmtR) (s : State) : ∃ u0, execVsum e h f s = .next u0 ∧ Keeps s u0 := by
  have kk := Keeps.refl s
  unfold Sys2Proof.Machine.execVsum; refine ⟨_, rfl, ?_⟩
  repeat' first | intro _ | with_reducible assumption | with_reducible apply Keeps.putG | with_reducible apply Keeps.checked
                | with_reducible apply Keeps.issue | with_reducible apply Keeps.ite | rfl | dsimp only | split
                | fail_if_no_progress (with_reducible refine Keeps.upd ?_ rfl)

theorem Keeps.execVand (e : Fin 8) (h : Hdr) (f : FmtR) (s : State) : ∃ u0, execVand e h f s = .next u0 ∧ Keeps s u0 := by
  have kk := Keeps.refl s
  unfold Sys2Proof.Machine.execVand; refine ⟨_, rfl, ?_⟩
  repeat' first | intro _ | with_reducible assumption | with_reducible apply Keeps.binV | with_reducible apply Keeps.ite | rfl | dsimp only
                | split | fail_if_no_progress (with_reducible refine Keeps.upd ?_ rfl)

theorem Keeps.execVor (e : Fin 8) (h : Hdr) (f : FmtR) (s : State) : ∃ u0, execVor e h f s = .next u0 ∧ Keeps s u0 := by
  have kk := Keeps.refl s
  unfold Sys2Proof.Machine.execVor; refine ⟨_, rfl, ?_⟩
  repeat' first | intro _ | with_reducible assumption | with_reducible apply Keeps.binV | with_reducible apply Keeps.ite | rfl | dsimp only
                | split | fail_if_no_progress (with_reducible refine Keeps.upd ?_ rfl)

theorem Keeps.execVxor (e : Fin 8) (h : Hdr) (f : FmtR) (s : State) : ∃ u0, execVxor e h f s = .next u0 ∧ Keeps s u0 := by
  have kk := Keeps.refl s
  unfold Sys2Proof.Machine.execVxor; refine ⟨_, rfl, ?_⟩
  repeat' first | intro _ | with_reducible assumption | with_reducible apply Keeps.binV | with_reducible apply Keeps.ite | rfl | dsimp only
                | split | fail_if_no_progress (with_reducible refine Keeps.upd ?_ rfl)

theorem Keeps.execVshl (e : Fin 8) (h : Hdr) (f : FmtR) (s : State) : ∃ u0, execVshl e h f s = .next u0 ∧ Keeps s u0 := by
  have kk := Keeps.refl s
  unfold Sys2Proof.Machine.execVshl; refine ⟨_, rfl, ?_⟩
  repeat' first | intro _ | with_reducible assumption | with_reducible apply Keeps.unV | with_reducible apply Keeps.ite | rfl | dsimp only
                | split | fail_if_no_progress (with_reducible refine Keeps.upd ?_ rfl)

theorem Keeps.execVshr (e : Fin 8) (h : Hdr) (f : FmtR) (s : State) : ∃ u0, execVshr e h f s = .next u0 ∧ Keeps s u0 := by
  have kk := Keeps.refl s
  unfold Sys2Proof.Machine.execVshr; refine ⟨_, rfl, ?_⟩
  repeat' first | intro _ | with_reducible assumption | with_reducible apply Keeps.unV | with_reducible apply Keeps.ite | rfl | dsimp only
                | split | fail_if_no_progress (with_reducible refine Keeps.upd ?_ rfl)

theorem Keeps.execVsar (e : Fin 8) (h : Hdr) (f : FmtR) (s : State) : ∃ u0, execVsar e h f s = .next u0 ∧ Keeps s u0 := by
  have kk := Keeps.refl s
  unfold Sys2Proof.Machine.execVsar; refine ⟨_, rfl, ?_⟩
  repeat' first | intro _ | with_reducible assumption | with_reducible apply Keeps.unV | with_reducible apply Keeps.ite | rfl | dsimp only
                | split | fail_if_no_progress (with_reducible refine Keeps.upd ?_ rfl)

theorem Keeps.execVsats (e : Fin 8) (h : Hdr) (f : FmtR) (s : State) : ∃ u0, execVsats e h f s = .next u0 ∧ Keeps s u0 := by
  have kk := Keeps.refl s
  unfold Sys2Proof.Machine.execVsats; refine ⟨_, rfl, ?_⟩
  repeat' first | intro _ | with_reducible assumption | with_reducible apply Keeps.unV | with_reducible apply Keeps.ite | rfl | dsimp only
                | split | fail_if_no_progress (with_reducible refine Keeps.upd ?_ rfl)

theorem Keeps.execVcmp (e : Fin 8) (h : Hdr) (f : FmtR) (s : State) : ∃ u0, execVcmp e h f s = .next u0 ∧ Keeps s u0 := by
  have kk := Keeps.refl s
  unfold Sys2Proof.Machine.execVcmp; refine ⟨_, rfl, ?_⟩
  repeat' first | intro _ | with_reducible assumption | with_reducible apply Keeps.putG | with_reducible apply Keeps.checked
                | with_reducible apply Keeps.issue | with_reducible apply Keeps.ite | rfl | dsimp only | split
                | fail_if_no_progress (with_reducible refine Keeps.upd ?_ rfl)

theorem Keeps.execVsel (e : Fin 8) (h : Hdr) (f : FmtR) (s : State) : ∃ u0, execVsel e h f s = .next u0 ∧ Keeps s u0 := by
  have kk := Keeps.refl s
  unfold Sys2Proof.Machine.execVsel; refine ⟨_, rfl, ?_⟩
  repeat' first | intro _ | with_reducible assumption | with_reducible apply Keeps.checked | with_reducible apply Keeps.issue
                | with_reducible apply Keeps.lanes | with_reducible apply Keeps.ite | rfl | dsimp only | split
                | fail_if_no_progress (with_reducible refine Keeps.upd ?_ rfl)

theorem Keeps.execLd (e : Fin 8) (h : Hdr) (f : FmtM)  (s : State) : ∃ u0, execLd e h f s = .next u0 ∧ Keeps s u0 := by
  have kk := Keeps.refl s
  unfold Sys2Proof.Machine.execLd; refine ⟨_, rfl, ?_⟩
  repeat' first | intro _ | with_reducible assumption | with_reducible apply Keeps.spend | with_reducible apply Keeps.updEn
                | with_reducible apply Keeps.putG | with_reducible apply Keeps.checked | with_reducible apply Keeps.issueWith
                | with_reducible apply Keeps.readyIn | with_reducible apply Keeps.access | with_reducible apply Keeps.ite | rfl | dsimp only | split
                | fail_if_no_progress (with_reducible refine Keeps.upd ?_ rfl)

theorem Keeps.execSt (e : Fin 8) (h : Hdr) (f : FmtM)  (s : State) : ∃ u0, execSt e h f s = .next u0 ∧ Keeps s u0 := by
  have kk := Keeps.refl s
  unfold Sys2Proof.Machine.execSt; refine ⟨_, rfl, ?_⟩
  repeat' first | intro _ | with_reducible assumption | with_reducible apply Keeps.updEn | with_reducible apply Keeps.issue
                | with_reducible apply Keeps.memPut | with_reducible apply Keeps.access | with_reducible apply Keeps.ite | rfl | dsimp only | split
                | fail_if_no_progress (with_reducible refine Keeps.upd ?_ rfl)

theorem Keeps.execLdv (e : Fin 8) (h : Hdr) (f : FmtM)  (s : State) : ∃ u0, execLdv e h f s = .next u0 ∧ Keeps s u0 := by
  have kk := Keeps.refl s
  unfold Sys2Proof.Machine.execLdv; refine ⟨_, rfl, ?_⟩
  repeat' first | intro _ | with_reducible assumption | with_reducible apply Keeps.each | with_reducible apply Keeps.spend
                | with_reducible apply Keeps.putLane | with_reducible apply Keeps.checked | with_reducible apply Keeps.issueWith
                | with_reducible apply Keeps.readyIn | with_reducible apply Keeps.access | with_reducible apply Keeps.ite | rfl | dsimp only | split
                | fail_if_no_progress (with_reducible refine Keeps.upd ?_ rfl)

theorem Keeps.execStv (e : Fin 8) (h : Hdr) (f : FmtM)  (s : State) : ∃ u0, execStv e h f s = .next u0 ∧ Keeps s u0 := by
  have kk := Keeps.refl s
  unfold Sys2Proof.Machine.execStv; refine ⟨_, rfl, ?_⟩
  repeat' first | intro _ | with_reducible assumption | with_reducible apply Keeps.each | with_reducible apply Keeps.issue
                | with_reducible apply Keeps.memPut | with_reducible apply Keeps.access | with_reducible apply Keeps.ite | rfl | dsimp only | split
                | fail_if_no_progress (with_reducible refine Keeps.upd ?_ rfl)

theorem Keeps.execLut (e : Fin 8) (h : Hdr) (f : FmtI) (s : State) : ∃ u0, execLut e h f s = .next u0 ∧ Keeps s u0 := by
  have kk := Keeps.refl s
  unfold Sys2Proof.Machine.execLut; refine ⟨_, rfl, ?_⟩
  repeat' first | intro _ | with_reducible assumption | with_reducible apply Keeps.table | with_reducible apply Keeps.ite | rfl | dsimp only
                | split | fail_if_no_progress (with_reducible refine Keeps.upd ?_ rfl)

theorem Keeps.execLuti (e : Fin 8) (h : Hdr) (f : FmtI) (s : State) : ∃ u0, execLuti e h f s = .next u0 ∧ Keeps s u0 := by
  have kk := Keeps.refl s
  unfold Sys2Proof.Machine.execLuti; refine ⟨_, rfl, ?_⟩
  repeat' first | intro _ | with_reducible assumption | with_reducible apply Keeps.table | with_reducible apply Keeps.ite | rfl | dsimp only
                | split | fail_if_no_progress (with_reducible refine Keeps.upd ?_ rfl)

theorem Keeps.execTime (e : Fin 8) (h : Hdr) (f : FmtX) (s : State) : ∃ u0, execTime e h f s = .next u0 ∧ Keeps s u0 := by
  have kk := Keeps.refl s
  unfold Sys2Proof.Machine.execTime; refine ⟨_, rfl, ?_⟩
  repeat' first | intro _ | with_reducible assumption | with_reducible apply Keeps.spend | with_reducible apply Keeps.putG
                | with_reducible apply Keeps.issue | with_reducible apply Keeps.ite | rfl | dsimp only | split
                | fail_if_no_progress (with_reducible refine Keeps.upd ?_ rfl)

theorem Keeps.execInrec (e : Fin 8) (h : Hdr) (f : FmtX) (s : State) : ∃ u0, execInrec e h f s = .next u0 ∧ Keeps s u0 := by
  have kk := Keeps.refl s
  unfold Sys2Proof.Machine.execInrec; refine ⟨_, rfl, ?_⟩
  repeat' first | intro _ | with_reducible assumption | with_reducible apply Keeps.putG | with_reducible apply Keeps.issue
                | with_reducible apply Keeps.ite | rfl | dsimp only | split | fail_if_no_progress (with_reducible refine Keeps.upd ?_ rfl)

theorem Keeps.execToken (e : Fin 8) (h : Hdr) (f : FmtX) (s : State) : ∃ u0, execToken e h f s = .next u0 ∧ Keeps s u0 := by
  have kk := Keeps.refl s
  unfold Sys2Proof.Machine.execToken; refine ⟨_, rfl, ?_⟩
  repeat' first | intro _ | with_reducible assumption | with_reducible apply Keeps.updEn | with_reducible apply Keeps.checked
                | with_reducible apply Keeps.issue | with_reducible apply Keeps.ite | rfl | dsimp only | split
                | fail_if_no_progress (with_reducible refine Keeps.upd ?_ rfl)

theorem Keeps.execFence (e : Fin 8) (h : Hdr) (f : FmtX) (s : State) : ∃ u0, execFence e h f s = .next u0 ∧ Keeps s u0 := by
  have kk := Keeps.refl s
  unfold Sys2Proof.Machine.execFence; refine ⟨_, rfl, ?_⟩
  repeat' first | intro _ | with_reducible assumption | with_reducible apply Keeps.issueWith | with_reducible apply Keeps.holdFor
                | with_reducible apply Keeps.waitFor | with_reducible apply Keeps.ite | rfl | dsimp only | split
                | fail_if_no_progress (with_reducible refine Keeps.upd ?_ rfl)

theorem Keeps.execSpose (e : Fin 8) (h : Hdr) (f : FmtX) (s : State) : ∃ u0, execSpose e h f s = .next u0 ∧ Keeps s u0 := by
  have kk := Keeps.refl s
  unfold Sys2Proof.Machine.execSpose; refine ⟨_, rfl, ?_⟩
  repeat' first | intro _ | with_reducible assumption | with_reducible apply Keeps.checked | with_reducible apply Keeps.issue
                | with_reducible apply Keeps.spose | with_reducible apply Keeps.ite | rfl | dsimp only | split
                | fail_if_no_progress (with_reducible refine Keeps.upd ?_ rfl)

theorem Keeps.execSqry (e : Fin 8) (h : Hdr) (f : FmtX) (s : State) : ∃ u0, execSqry e h f s = .next u0 ∧ Keeps s u0 := by
  have kk := Keeps.refl s
  unfold Sys2Proof.Machine.execSqry; refine ⟨_, rfl, ?_⟩
  repeat' first | intro _ | with_reducible assumption | with_reducible apply Keeps.putG | with_reducible apply Keeps.checked
                | with_reducible apply Keeps.issue | with_reducible apply Keeps.scribeQuery | with_reducible apply Keeps.ite | rfl | dsimp only | split
                | fail_if_no_progress (with_reducible refine Keeps.upd ?_ rfl)

theorem Keeps.execSwait (e : Fin 8) (h : Hdr) (f : FmtX)  (s : State) : ∃ u0, execSwait e h f s = .next u0 ∧ Keeps s u0 := by
  have kk := Keeps.refl s
  unfold Sys2Proof.Machine.execSwait; refine ⟨_, rfl, ?_⟩
  repeat' first | intro _ | with_reducible assumption | with_reducible apply Keeps.putP | with_reducible apply Keeps.checked
                | with_reducible apply Keeps.issueWith | with_reducible apply Keeps.holdFor | with_reducible apply Keeps.waitFor
                | with_reducible apply Keeps.readyIn | with_reducible apply Keeps.ite | rfl | dsimp only | split
                | fail_if_no_progress (with_reducible refine Keeps.upd ?_ rfl)

theorem Keeps.execScribeQueryComplete (t : Nat) (ticket : Word)  (s : State) : ∃ u0, execScribeQueryComplete t ticket s = .next u0 ∧ Keeps s u0 := by
  have kk := Keeps.refl s
  unfold Sys2Proof.Machine.execScribeQueryComplete; refine ⟨_, rfl, ?_⟩
  repeat' first | intro _ | with_reducible assumption | with_reducible apply Keeps.at | with_reducible apply Keeps.queryDone
                | with_reducible apply Keeps.queryAnswers | with_reducible apply Keeps.ite | rfl | dsimp only | split
                | fail_if_no_progress (with_reducible refine Keeps.upd ?_ rfl)

theorem Keeps.execScribeQueryTimeout (t : Nat) (ticket : Word)  (s : State) : ∃ u0, execScribeQueryTimeout t ticket s = .next u0 ∧ Keeps s u0 := by
  have kk := Keeps.refl s
  unfold Sys2Proof.Machine.execScribeQueryTimeout; refine ⟨_, rfl, ?_⟩
  repeat' first | intro _ | with_reducible assumption | with_reducible apply Keeps.at | with_reducible apply Keeps.queryFailed
                | with_reducible apply Keeps.queryAnswers | with_reducible apply Keeps.ite | rfl | dsimp only | split
                | fail_if_no_progress (with_reducible refine Keeps.upd ?_ rfl)

theorem Keeps.execSmark (e : Fin 8) (h : Hdr) (f : FmtX) (s : State) : ∃ u0, execSmark e h f s = .next u0 ∧ Keeps s u0 := by
  have kk := Keeps.refl s
  unfold Sys2Proof.Machine.execSmark; refine ⟨_, rfl, ?_⟩
  repeat' first | intro _ | with_reducible assumption | with_reducible apply Keeps.checked | with_reducible apply Keeps.issue
                | with_reducible apply Keeps.smark | with_reducible apply Keeps.ite | rfl | dsimp only | split
                | fail_if_no_progress (with_reducible refine Keeps.upd ?_ rfl)

theorem Keeps.execTbegin (e : Fin 8) (h : Hdr) (f : FmtX)  (s : State) : ∃ u0, execTbegin e h f s = .next u0 ∧ Keeps s u0 := by
  have kk := Keeps.refl s
  unfold Sys2Proof.Machine.execTbegin; refine ⟨_, rfl, ?_⟩
  repeat' first | intro _ | with_reducible assumption | with_reducible apply Keeps.putP | with_reducible apply Keeps.issueWith
                | with_reducible apply Keeps.holdFor | with_reducible apply Keeps.txnBegin | with_reducible apply Keeps.ite | rfl | dsimp only | split
                | fail_if_no_progress (with_reducible refine Keeps.upd ?_ rfl)

theorem Keeps.execTcommit (e : Fin 8) (h : Hdr) (f : FmtX) (s : State) : ∃ u0, execTcommit e h f s = .next u0 ∧ Keeps s u0 := by
  have kk := Keeps.refl s
  unfold Sys2Proof.Machine.execTcommit; refine ⟨_, rfl, ?_⟩
  repeat' first | intro _ | with_reducible assumption | with_reducible apply Keeps.issueWith | with_reducible apply Keeps.holdFor
                | with_reducible apply Keeps.waitFor | with_reducible apply Keeps.tcommit | with_reducible apply Keeps.ite | rfl | dsimp only | split
                | fail_if_no_progress (with_reducible refine Keeps.upd ?_ rfl)

theorem Keeps.execTroll (e : Fin 8) (h : Hdr) (f : FmtX) (s : State) : ∃ u0, execTroll e h f s = .next u0 ∧ Keeps s u0 := by
  have kk := Keeps.refl s
  unfold Sys2Proof.Machine.execTroll; refine ⟨_, rfl, ?_⟩
  repeat' first | intro _ | with_reducible assumption | with_reducible apply Keeps.txnRollbackCmd | with_reducible apply Keeps.issueWith
                | with_reducible apply Keeps.holdFor | with_reducible apply Keeps.ite | rfl | dsimp only | split
                | fail_if_no_progress (with_reducible refine Keeps.upd ?_ rfl)

theorem Keeps.execJput (e : Fin 8) (h : Hdr) (f : FmtX) (s : State) : ∃ u0, execJput e h f s = .next u0 ∧ Keeps s u0 := by
  have kk := Keeps.refl s
  unfold Sys2Proof.Machine.execJput; refine ⟨_, rfl, ?_⟩
  repeat' first | intro _ | with_reducible assumption | with_reducible apply Keeps.spend | with_reducible apply Keeps.jput
                | with_reducible apply Keeps.putG | with_reducible apply Keeps.putP | with_reducible apply Keeps.checked | with_reducible apply Keeps.issue
                | with_reducible apply Keeps.ite | rfl | dsimp only | split | fail_if_no_progress (with_reducible refine Keeps.upd ?_ rfl)

theorem Keeps.execJsync (e : Fin 8) (h : Hdr) (f : FmtX)  (s : State) : ∃ u0, execJsync e h f s = .next u0 ∧ Keeps s u0 := by
  have kk := Keeps.refl s
  unfold Sys2Proof.Machine.execJsync; refine ⟨_, rfl, ?_⟩
  repeat' first | intro _ | with_reducible assumption | with_reducible apply Keeps.putP | with_reducible apply Keeps.checked
                | with_reducible apply Keeps.issueWith | with_reducible apply Keeps.holdFor | with_reducible apply Keeps.waitFor
                | with_reducible apply Keeps.readyIn | with_reducible apply Keeps.ite | rfl | dsimp only | split
                | fail_if_no_progress (with_reducible refine Keeps.upd ?_ rfl)

theorem Keeps.execChk (e : Fin 8) (h : Hdr) (f : FmtX) (s : State) : ∃ u0, execChk e h f s = .next u0 ∧ Keeps s u0 := by
  have kk := Keeps.refl s
  unfold Sys2Proof.Machine.execChk; refine ⟨_, rfl, ?_⟩
  repeat' first | intro _ | with_reducible assumption | with_reducible apply Keeps.checked | with_reducible apply Keeps.issue
                | with_reducible apply Keeps.ite | rfl | dsimp only | split | fail_if_no_progress (with_reducible refine Keeps.upd ?_ rfl)

theorem Keeps.execFault (e : Fin 8) (h : Hdr) (f : FmtX) (s : State) : ∃ u0, execFault e h f s = .next u0 ∧ Keeps s u0 := by
  have kk := Keeps.refl s
  unfold Sys2Proof.Machine.execFault; refine ⟨_, rfl, ?_⟩
  repeat' first | intro _ | with_reducible assumption | with_reducible apply Keeps.raise | with_reducible apply Keeps.issue
                | with_reducible apply Keeps.ite | rfl | dsimp only | split | fail_if_no_progress (with_reducible refine Keeps.upd ?_ rfl)

theorem Keeps.execBkpt (e : Fin 8) (h : Hdr) (f : FmtX) (s : State) : ∃ u0, execBkpt e h f s = .next u0 ∧ Keeps s u0 := by
  have kk := Keeps.refl s
  unfold Sys2Proof.Machine.execBkpt; refine ⟨_, rfl, ?_⟩
  repeat' first | intro _ | with_reducible assumption | with_reducible apply Keeps.lockHit | with_reducible apply Keeps.issue
                | with_reducible apply Keeps.freezeBy | with_reducible apply Keeps.ite | rfl | dsimp only | split
                | fail_if_no_progress (with_reducible refine Keeps.upd ?_ rfl)

end Sys2Proof.Machine
end

