-- ==== Sys2Proof/Laws/ExecHost.lean ====
section
/-! SUPPORT. Laws: every command of the host, of the frame and of the loader answers such a next state. -/
set_option linter.unusedTactic false
set_option linter.unreachableTactic false
namespace Sys2Proof.Machine
theorem Keeps.execGaugeMeasurement (t : Nat) (c : Fin 108) (samples : List (BitVec 16))  (s : State) :
    ∃ u0, execGaugeMeasurement t c samples s = .next u0 ∧ Keeps s u0 := by
  have kk := Keeps.refl s
  unfold Sys2Proof.Machine.execGaugeMeasurement; refine ⟨_, rfl, ?_⟩
  repeat' first | intro _ | with_reducible assumption | with_reducible apply Keeps.at | with_reducible apply Keeps.record
                | with_reducible apply Keeps.formMark | with_reducible apply Keeps.dropSearch | with_reducible apply Keeps.ite | rfl | dsimp only
                | split | fail_if_no_progress (with_reducible refine Keeps.upd ?_ rfl)

theorem Keeps.execGaugeMiss (t : Nat) (c : Fin 108) (samples : List (BitVec 16)) (s : State) :
    ∃ u0, execGaugeMiss t c samples s = .next u0 ∧ Keeps s u0 := by
  have kk := Keeps.refl s
  unfold Sys2Proof.Machine.execGaugeMiss; refine ⟨_, rfl, ?_⟩
  repeat' first | intro _ | with_reducible assumption | with_reducible apply Keeps.at | with_reducible apply Keeps.searchFails
                | with_reducible apply Keeps.dropSearch | with_reducible apply Keeps.gaugeMissed | with_reducible apply Keeps.ite | rfl | dsimp only | split
                | fail_if_no_progress (with_reducible refine Keeps.upd ?_ rfl)

theorem Keeps.execGrantExpiry (s : State) : ∃ u0, execGrantExpiry s = .next u0 ∧ Keeps s u0 := by
  have kk := Keeps.refl s
  unfold Sys2Proof.Machine.execGrantExpiry; refine ⟨_, rfl, ?_⟩
  repeat' first | intro _ | with_reducible assumption | with_reducible apply Keeps.endGrant | with_reducible apply Keeps.ite | rfl | dsimp only
                | split | fail_if_no_progress (with_reducible refine Keeps.upd ?_ rfl)

theorem Keeps.execKeyCommandComplete (s : State) : ∃ u0, execKeyCommandComplete s = .next u0 ∧ Keeps s u0 := by
  have kk := Keeps.refl s
  unfold Sys2Proof.Machine.execKeyCommandComplete; refine ⟨_, rfl, ?_⟩
  repeat' first | intro _ | with_reducible assumption | with_reducible apply Keeps.setFld | with_reducible apply Keeps.iff
                | with_reducible apply Keeps.pkDone | with_reducible apply Keeps.raise | with_reducible apply Keeps.newNonce
                | with_reducible apply Keeps.newPolicy | with_reducible apply Keeps.ite | rfl | dsimp only | split
                | fail_if_no_progress (with_reducible refine Keeps.upd ?_ rfl)

theorem Keeps.execReportComplete (t : Nat) (k : BitVec 256)  (s : State) : ∃ u0, execReportComplete t k s = .next u0 ∧ Keeps s u0 := by
  have kk := Keeps.refl s
  unfold Sys2Proof.Machine.execReportComplete; refine ⟨_, rfl, ?_⟩
  repeat' first | intro _ | with_reducible assumption | with_reducible apply Keeps.setFlag | with_reducible apply Keeps.at
                | with_reducible apply Keeps.pkDone | with_reducible apply Keeps.wrRunOf | with_reducible apply Keeps.ite | rfl | dsimp only | split
                | fail_if_no_progress (with_reducible refine Keeps.upd ?_ rfl)

theorem Keeps.execVerifyComplete (s : State) : ∃ u0, execVerifyComplete s = .next u0 ∧ Keeps s u0 := by
  have kk := Keeps.refl s
  unfold Sys2Proof.Machine.execVerifyComplete; refine ⟨_, rfl, ?_⟩
  repeat' first | intro _ | with_reducible assumption | with_reducible apply Keeps.setFlag | with_reducible apply Keeps.iff
                | with_reducible apply Keeps.pkDone | with_reducible apply Keeps.recordCheck | with_reducible apply Keeps.ite | rfl | dsimp only
                | split | fail_if_no_progress (with_reducible refine Keeps.upd ?_ rfl)

theorem Keeps.execRehashComplete (e : Fin 8) (s : State) : ∃ u0, execRehashComplete e s = .next u0 ∧ Keeps s u0 := by
  have kk := Keeps.refl s
  unfold Sys2Proof.Machine.execRehashComplete; refine ⟨_, rfl, ?_⟩
  repeat' first | intro _ | with_reducible assumption | with_reducible apply Keeps.setFld | with_reducible apply Keeps.setEn
                | with_reducible apply Keeps.raise | with_reducible apply Keeps.ite | rfl | dsimp only | split
                | fail_if_no_progress (with_reducible refine Keeps.upd ?_ rfl)

theorem Keeps.execSliceStart (e : Fin 8) (s : State) : ∃ u0, execSliceStart e s = .next u0 ∧ Keeps s u0 := by
  have kk := Keeps.refl s
  unfold Sys2Proof.Machine.execSliceStart; refine ⟨_, rfl, ?_⟩
  repeat' first | intro _ | with_reducible assumption | with_reducible apply Keeps.setFld | with_reducible apply Keeps.at
                | with_reducible apply Keeps.setEn | with_reducible apply Keeps.ite | rfl | dsimp only | split
                | fail_if_no_progress (with_reducible refine Keeps.upd ?_ rfl)

theorem Keeps.execCommitCheckComplete (t : Nat) (s : State) : ∃ u0, execCommitCheckComplete t s = .next u0 ∧ Keeps s u0 := by
  have kk := Keeps.refl s
  unfold Sys2Proof.Machine.execCommitCheckComplete; refine ⟨_, rfl, ?_⟩
  repeat' first | intro _ | with_reducible assumption | with_reducible apply Keeps.at | with_reducible apply Keeps.commitChecked
                | with_reducible apply Keeps.ite | rfl | dsimp only | split | fail_if_no_progress (with_reducible refine Keeps.upd ?_ rfl)

theorem Keeps.execTransactionTimeout (s : State) : ∃ u0, execTransactionTimeout s = .next u0 ∧ Keeps s u0 := by
  have kk := Keeps.refl s
  unfold Sys2Proof.Machine.execTransactionTimeout; refine ⟨_, rfl, ?_⟩
  repeat' first | intro _ | with_reducible assumption | with_reducible apply Keeps.txnRollback | with_reducible apply Keeps.ite | rfl
                | dsimp only | split | fail_if_no_progress (with_reducible refine Keeps.upd ?_ rfl)

theorem Keeps.execBlockStoreArrival (t : Nat) (e : Fin 8) (ph : BusPhase) (ago : Nat)  (s : State) :
    ∃ u0, execBlockStoreArrival t e ph ago s = .next u0 ∧ Keeps s u0 := by
  have kk := Keeps.refl s
  unfold Sys2Proof.Machine.execBlockStoreArrival; refine ⟨_, rfl, ?_⟩
  repeat' first | intro _ | with_reducible assumption | with_reducible apply Keeps.at | with_reducible apply Keeps.token
                | with_reducible apply Keeps.raiseDowel | with_reducible apply Keeps.updEn | with_reducible apply Keeps.arriveRanked
                | with_reducible apply Keeps.storesMoved | with_reducible apply Keeps.ite | rfl | dsimp only | split
                | fail_if_no_progress (with_reducible refine Keeps.upd ?_ rfl)

theorem Keeps.execLowHalfWrite (t : Nat) (a : BitVec 24) (v : BitVec 16) (s : State) : ∃ u0, execLowHalfWrite t a v s = .next u0 ∧ Keeps s u0 := by
  have kk := Keeps.refl s
  unfold Sys2Proof.Machine.execLowHalfWrite; refine ⟨_, rfl, ?_⟩
  repeat' first | intro _ | with_reducible assumption | with_reducible apply Keeps.at | with_reducible apply Keeps.lowWrite
                | with_reducible apply Keeps.hostHalf | with_reducible apply Keeps.ite | rfl | dsimp only | split
                | fail_if_no_progress (with_reducible refine Keeps.upd ?_ rfl)

theorem Keeps.execHighHalfWrite (t : Nat) (a : BitVec 24) (v : BitVec 16) (s : State) : ∃ u0, execHighHalfWrite t a v s = .next u0 ∧ Keeps s u0 := by
  have kk := Keeps.refl s
  unfold Sys2Proof.Machine.execHighHalfWrite; refine ⟨_, rfl, ?_⟩
  repeat' first | intro _ | with_reducible assumption | with_reducible apply Keeps.at | with_reducible apply Keeps.highWrite
                | with_reducible apply Keeps.hostHalf | with_reducible apply Keeps.ite | rfl | dsimp only | split
                | fail_if_no_progress (with_reducible refine Keeps.upd ?_ rfl)

theorem Keeps.execRegisterWrite (t : Nat) (s : State) : ∃ u0, execRegisterWrite t s = .next u0 ∧ Keeps s u0 := by
  have kk := Keeps.refl s
  unfold Sys2Proof.Machine.execRegisterWrite; refine ⟨_, rfl, ?_⟩
  repeat' first | intro _ | with_reducible assumption | with_reducible apply Keeps.popWrite | with_reducible apply Keeps.ite | rfl | dsimp only
                | split | fail_if_no_progress (with_reducible refine Keeps.upd ?_ rfl)

theorem Keeps.execLowHalfRead (a : BitVec 24) (s : State) : ∃ u0, execLowHalfRead a s = .next u0 ∧ Keeps s u0 := by
  have kk := Keeps.refl s
  unfold Sys2Proof.Machine.execLowHalfRead; refine ⟨_, rfl, ?_⟩
  repeat' first | intro _ | with_reducible assumption | with_reducible apply Keeps.hostRead | with_reducible apply Keeps.ite | rfl | dsimp only
                | split | fail_if_no_progress (with_reducible refine Keeps.upd ?_ rfl)

theorem Keeps.execHighHalfRead (a : BitVec 24) (s : State) : ∃ u0, execHighHalfRead a s = .next u0 ∧ Keeps s u0 := by
  have kk := Keeps.refl s
  unfold Sys2Proof.Machine.execHighHalfRead; refine ⟨_, rfl, ?_⟩
  repeat' first | intro _ | with_reducible assumption | with_reducible apply Keeps.hostRead | with_reducible apply Keeps.ite | rfl | dsimp only
                | split | fail_if_no_progress (with_reducible refine Keeps.upd ?_ rfl)

theorem Keeps.execRcRead (a : BitVec 24) (high : Bool) (s : State) : ∃ u0, execRcRead a high s = .next u0 ∧ Keeps s u0 := by
  have kk := Keeps.refl s
  unfold Sys2Proof.Machine.execRcRead; refine ⟨_, rfl, ?_⟩
  repeat' first | intro _ | with_reducible assumption | with_reducible apply Keeps.hostRead | with_reducible apply Keeps.ite | rfl | dsimp only
                | split | fail_if_no_progress (with_reducible refine Keeps.upd ?_ rfl)

theorem Keeps.execPageHeaderRead (p : Fin 64) (s : State) : ∃ u0, execPageHeaderRead p s = .next u0 ∧ Keeps s u0 := by
  have kk := Keeps.refl s
  unfold Sys2Proof.Machine.execPageHeaderRead; refine ⟨_, rfl, ?_⟩
  repeat' first | intro _ | with_reducible assumption | with_reducible apply Keeps.hostRead | with_reducible apply Keeps.ite | rfl | dsimp only
                | split | fail_if_no_progress (with_reducible refine Keeps.upd ?_ rfl)

theorem Keeps.execStreamRead (s : State) : ∃ u0, execStreamRead s = .next u0 ∧ Keeps s u0 := by
  have kk := Keeps.refl s
  unfold Sys2Proof.Machine.execStreamRead; refine ⟨_, rfl, ?_⟩
  repeat' first | intro _ | with_reducible assumption | with_reducible apply Keeps.streamRead | with_reducible apply Keeps.ite | rfl | dsimp only
                | split | fail_if_no_progress (with_reducible refine Keeps.upd ?_ rfl)

theorem Keeps.execStreamWrite (v : BitVec 16) (s : State) : ∃ u0, execStreamWrite v s = .next u0 ∧ Keeps s u0 := by
  have kk := Keeps.refl s
  unfold Sys2Proof.Machine.execStreamWrite; refine ⟨_, rfl, ?_⟩
  repeat' first | intro _ | with_reducible assumption | with_reducible apply Keeps.streamWrite | with_reducible apply Keeps.ite | rfl
                | dsimp only | split | fail_if_no_progress (with_reducible refine Keeps.upd ?_ rfl)

theorem Keeps.execPageCopyComplete (t : Nat) (p : Fin 64) (s : State) : ∃ u0, execPageCopyComplete t p s = .next u0 ∧ Keeps s u0 := by
  have kk := Keeps.refl s
  unfold Sys2Proof.Machine.execPageCopyComplete; refine ⟨_, rfl, ?_⟩
  repeat' first | intro _ | with_reducible assumption | with_reducible apply Keeps.at | with_reducible apply Keeps.pageCopied
                | with_reducible apply Keeps.ite | rfl | dsimp only | split | fail_if_no_progress (with_reducible refine Keeps.upd ?_ rfl)

theorem Keeps.execBeRst (t : Nat) (s : State) : ∃ u0, execBeRst t s = .next u0 ∧ Keeps s u0 := by
  have kk := Keeps.refl s
  unfold Sys2Proof.Machine.execBeRst; refine ⟨_, rfl, ?_⟩
  repeat' first | intro _ | with_reducible assumption | with_reducible apply Keeps.popWrite | with_reducible apply Keeps.ite | rfl | dsimp only
                | split | fail_if_no_progress (with_reducible refine Keeps.upd ?_ rfl)

theorem Keeps.execVerify (t : Nat) (s : State) : ∃ u0, execVerify t s = .next u0 ∧ Keeps s u0 := by
  have kk := Keeps.refl s
  unfold Sys2Proof.Machine.execVerify; refine ⟨_, rfl, ?_⟩
  repeat' first | intro _ | with_reducible assumption | with_reducible apply Keeps.popWrite | with_reducible apply Keeps.ite | rfl | dsimp only
                | split | fail_if_no_progress (with_reducible refine Keeps.upd ?_ rfl)

theorem Keeps.execBegin (t : Nat) (s : State) : ∃ u0, execBegin t s = .next u0 ∧ Keeps s u0 := by
  have kk := Keeps.refl s
  unfold Sys2Proof.Machine.execBegin; refine ⟨_, rfl, ?_⟩
  repeat' first | intro _ | with_reducible assumption | with_reducible apply Keeps.popWrite | with_reducible apply Keeps.ite | rfl | dsimp only
                | split | fail_if_no_progress (with_reducible refine Keeps.upd ?_ rfl)

theorem Keeps.execCommit (t : Nat) (s : State) : ∃ u0, execCommit t s = .next u0 ∧ Keeps s u0 := by
  have kk := Keeps.refl s
  unfold Sys2Proof.Machine.execCommit; refine ⟨_, rfl, ?_⟩
  repeat' first | intro _ | with_reducible assumption | with_reducible apply Keeps.popWrite | with_reducible apply Keeps.ite | rfl | dsimp only
                | split | fail_if_no_progress (with_reducible refine Keeps.upd ?_ rfl)

theorem Keeps.execRollback (t : Nat) (s : State) : ∃ u0, execRollback t s = .next u0 ∧ Keeps s u0 := by
  have kk := Keeps.refl s
  unfold Sys2Proof.Machine.execRollback; refine ⟨_, rfl, ?_⟩
  repeat' first | intro _ | with_reducible assumption | with_reducible apply Keeps.popWrite | with_reducible apply Keeps.ite | rfl | dsimp only
                | split | fail_if_no_progress (with_reducible refine Keeps.upd ?_ rfl)

theorem Keeps.execTxRegisterWrite (t : Nat) (s : State) : ∃ u0, execTxRegisterWrite t s = .next u0 ∧ Keeps s u0 := by
  have kk := Keeps.refl s
  unfold Sys2Proof.Machine.execTxRegisterWrite; refine ⟨_, rfl, ?_⟩
  repeat' first | intro _ | with_reducible assumption | with_reducible apply Keeps.popWrite | with_reducible apply Keeps.ite | rfl | dsimp only
                | split | fail_if_no_progress (with_reducible refine Keeps.upd ?_ rfl)

theorem Keeps.execSchedCtrlRestart (t : Nat) (s : State) : ∃ u0, execSchedCtrlRestart t s = .next u0 ∧ Keeps s u0 := by
  have kk := Keeps.refl s
  unfold Sys2Proof.Machine.execSchedCtrlRestart; refine ⟨_, rfl, ?_⟩
  repeat' first | intro _ | with_reducible assumption | with_reducible apply Keeps.popWrite | with_reducible apply Keeps.ite | rfl | dsimp only
                | split | fail_if_no_progress (with_reducible refine Keeps.upd ?_ rfl)

theorem Keeps.execAdcSwtrg (t : Nat) (s : State) : ∃ u0, execAdcSwtrg t s = .next u0 ∧ Keeps s u0 := by
  have kk := Keeps.refl s
  unfold Sys2Proof.Machine.execAdcSwtrg; refine ⟨_, rfl, ?_⟩
  repeat' first | intro _ | with_reducible assumption | with_reducible apply Keeps.popWrite | with_reducible apply Keeps.ite | rfl | dsimp only
                | split | fail_if_no_progress (with_reducible refine Keeps.upd ?_ rfl)

theorem Keeps.execAdcShunt (t : Nat) (s : State) : ∃ u0, execAdcShunt t s = .next u0 ∧ Keeps s u0 := by
  have kk := Keeps.refl s
  unfold Sys2Proof.Machine.execAdcShunt; refine ⟨_, rfl, ?_⟩
  repeat' first | intro _ | with_reducible assumption | with_reducible apply Keeps.popWrite | with_reducible apply Keeps.ite | rfl | dsimp only
                | split | fail_if_no_progress (with_reducible refine Keeps.upd ?_ rfl)

theorem Keeps.execFlatchClear (t : Nat) (s : State) : ∃ u0, execFlatchClear t s = .next u0 ∧ Keeps s u0 := by
  have kk := Keeps.refl s
  unfold Sys2Proof.Machine.execFlatchClear; refine ⟨_, rfl, ?_⟩
  repeat' first | intro _ | with_reducible assumption | with_reducible apply Keeps.popWrite | with_reducible apply Keeps.ite | rfl | dsimp only
                | split | fail_if_no_progress (with_reducible refine Keeps.upd ?_ rfl)

theorem Keeps.execUnitEnable (t : Nat) (s : State) : ∃ u0, execUnitEnable t s = .next u0 ∧ Keeps s u0 := by
  have kk := Keeps.refl s
  unfold Sys2Proof.Machine.execUnitEnable; refine ⟨_, rfl, ?_⟩
  repeat' first | intro _ | with_reducible assumption | with_reducible apply Keeps.popWrite | with_reducible apply Keeps.ite | rfl | dsimp only
                | split | fail_if_no_progress (with_reducible refine Keeps.upd ?_ rfl)

theorem Keeps.execUnitDisable (t : Nat) (s : State) : ∃ u0, execUnitDisable t s = .next u0 ∧ Keeps s u0 := by
  have kk := Keeps.refl s
  unfold Sys2Proof.Machine.execUnitDisable; refine ⟨_, rfl, ?_⟩
  repeat' first | intro _ | with_reducible assumption | with_reducible apply Keeps.popWrite | with_reducible apply Keeps.ite | rfl | dsimp only
                | split | fail_if_no_progress (with_reducible refine Keeps.upd ?_ rfl)

theorem Keeps.execLockClear (t : Nat) (s : State) : ∃ u0, execLockClear t s = .next u0 ∧ Keeps s u0 := by
  have kk := Keeps.refl s
  unfold Sys2Proof.Machine.execLockClear; refine ⟨_, rfl, ?_⟩
  repeat' first | intro _ | with_reducible assumption | with_reducible apply Keeps.popWrite | with_reducible apply Keeps.ite | rfl | dsimp only
                | split | fail_if_no_progress (with_reducible refine Keeps.upd ?_ rfl)

theorem Keeps.execLswWdtok (t : Nat) (s : State) : ∃ u0, execLswWdtok t s = .next u0 ∧ Keeps s u0 := by
  have kk := Keeps.refl s
  unfold Sys2Proof.Machine.execLswWdtok; refine ⟨_, rfl, ?_⟩
  repeat' first | intro _ | with_reducible assumption | with_reducible apply Keeps.popWrite | with_reducible apply Keeps.ite | rfl | dsimp only
                | split | fail_if_no_progress (with_reducible refine Keeps.upd ?_ rfl)

theorem Keeps.execWdexpClear (t : Nat) (s : State) : ∃ u0, execWdexpClear t s = .next u0 ∧ Keeps s u0 := by
  have kk := Keeps.refl s
  unfold Sys2Proof.Machine.execWdexpClear; refine ⟨_, rfl, ?_⟩
  repeat' first | intro _ | with_reducible assumption | with_reducible apply Keeps.popWrite | with_reducible apply Keeps.ite | rfl | dsimp only
                | split | fail_if_no_progress (with_reducible refine Keeps.upd ?_ rfl)

theorem Keeps.execStopControlled (t : Nat) (s : State) : ∃ u0, execStopControlled t s = .next u0 ∧ Keeps s u0 := by
  have kk := Keeps.refl s
  unfold Sys2Proof.Machine.execStopControlled; refine ⟨_, rfl, ?_⟩
  repeat' first | intro _ | with_reducible assumption | with_reducible apply Keeps.popWrite | with_reducible apply Keeps.ite | rfl | dsimp only
                | split | fail_if_no_progress (with_reducible refine Keeps.upd ?_ rfl)

theorem Keeps.execStopImmediate (t : Nat) (s : State) : ∃ u0, execStopImmediate t s = .next u0 ∧ Keeps s u0 := by
  have kk := Keeps.refl s
  unfold Sys2Proof.Machine.execStopImmediate; refine ⟨_, rfl, ?_⟩
  repeat' first | intro _ | with_reducible assumption | with_reducible apply Keeps.popWrite | with_reducible apply Keeps.ite | rfl | dsimp only
                | split | fail_if_no_progress (with_reducible refine Keeps.upd ?_ rfl)

theorem Keeps.execGnsSteerFr (t : Nat) (s : State) : ∃ u0, execGnsSteerFr t s = .next u0 ∧ Keeps s u0 := by
  have kk := Keeps.refl s
  unfold Sys2Proof.Machine.execGnsSteerFr; refine ⟨_, rfl, ?_⟩
  repeat' first | intro _ | with_reducible assumption | with_reducible apply Keeps.popWrite | with_reducible apply Keeps.ite | rfl | dsimp only
                | split | fail_if_no_progress (with_reducible refine Keeps.upd ?_ rfl)

theorem Keeps.execGnsSteerPh (t : Nat) (s : State) : ∃ u0, execGnsSteerPh t s = .next u0 ∧ Keeps s u0 := by
  have kk := Keeps.refl s
  unfold Sys2Proof.Machine.execGnsSteerPh; refine ⟨_, rfl, ?_⟩
  repeat' first | intro _ | with_reducible assumption | with_reducible apply Keeps.popWrite | with_reducible apply Keeps.ite | rfl | dsimp only
                | split | fail_if_no_progress (with_reducible refine Keeps.upd ?_ rfl)

theorem Keeps.execGnsSteerStep (t : Nat) (s : State) : ∃ u0, execGnsSteerStep t s = .next u0 ∧ Keeps s u0 := by
  have kk := Keeps.refl s
  unfold Sys2Proof.Machine.execGnsSteerStep; refine ⟨_, rfl, ?_⟩
  repeat' first | intro _ | with_reducible assumption | with_reducible apply Keeps.popWrite | with_reducible apply Keeps.ite | rfl | dsimp only
                | split | fail_if_no_progress (with_reducible refine Keeps.upd ?_ rfl)

theorem Keeps.execGnsTsetS (t : Nat) (s : State) : ∃ u0, execGnsTsetS t s = .next u0 ∧ Keeps s u0 := by
  have kk := Keeps.refl s
  unfold Sys2Proof.Machine.execGnsTsetS; refine ⟨_, rfl, ?_⟩
  repeat' first | intro _ | with_reducible assumption | with_reducible apply Keeps.popWrite | with_reducible apply Keeps.ite | rfl | dsimp only
                | split | fail_if_no_progress (with_reducible refine Keeps.upd ?_ rfl)

theorem Keeps.execImuTest (t : Nat) (s : State) : ∃ u0, execImuTest t s = .next u0 ∧ Keeps s u0 := by
  have kk := Keeps.refl s
  unfold Sys2Proof.Machine.execImuTest; refine ⟨_, rfl, ?_⟩
  repeat' first | intro _ | with_reducible assumption | with_reducible apply Keeps.popWrite | with_reducible apply Keeps.ite | rfl | dsimp only
                | split | fail_if_no_progress (with_reducible refine Keeps.upd ?_ rfl)

theorem Keeps.execBusQack (t : Nat) (s : State) : ∃ u0, execBusQack t s = .next u0 ∧ Keeps s u0 := by
  have kk := Keeps.refl s
  unfold Sys2Proof.Machine.execBusQack; refine ⟨_, rfl, ?_⟩
  repeat' first | intro _ | with_reducible assumption | with_reducible apply Keeps.popWrite | with_reducible apply Keeps.ite | rfl | dsimp only
                | split | fail_if_no_progress (with_reducible refine Keeps.upd ?_ rfl)

theorem Keeps.execBusTxreq (t : Nat) (s : State) : ∃ u0, execBusTxreq t s = .next u0 ∧ Keeps s u0 := by
  have kk := Keeps.refl s
  unfold Sys2Proof.Machine.execBusTxreq; refine ⟨_, rfl, ?_⟩
  repeat' first | intro _ | with_reducible assumption | with_reducible apply Keeps.popWrite | with_reducible apply Keeps.ite | rfl | dsimp only
                | split | fail_if_no_progress (with_reducible refine Keeps.upd ?_ rfl)

theorem Keeps.execBusCmdRestart (t : Nat) (s : State) : ∃ u0, execBusCmdRestart t s = .next u0 ∧ Keeps s u0 := by
  have kk := Keeps.refl s
  unfold Sys2Proof.Machine.execBusCmdRestart; refine ⟨_, rfl, ?_⟩
  repeat' first | intro _ | with_reducible assumption | with_reducible apply Keeps.popWrite | with_reducible apply Keeps.ite | rfl | dsimp only
                | split | fail_if_no_progress (with_reducible refine Keeps.upd ?_ rfl)

theorem Keeps.execPublish (t : Nat) (s : State) : ∃ u0, execPublish t s = .next u0 ∧ Keeps s u0 := by
  have kk := Keeps.refl s
  unfold Sys2Proof.Machine.execPublish; refine ⟨_, rfl, ?_⟩
  repeat' first | intro _ | with_reducible assumption | with_reducible apply Keeps.popWrite | with_reducible apply Keeps.ite | rfl | dsimp only
                | split | fail_if_no_progress (with_reducible refine Keeps.upd ?_ rfl)

theorem Keeps.execStreamGo (t : Nat) (s : State) : ∃ u0, execStreamGo t s = .next u0 ∧ Keeps s u0 := by
  have kk := Keeps.refl s
  unfold Sys2Proof.Machine.execStreamGo; refine ⟨_, rfl, ?_⟩
  repeat' first | intro _ | with_reducible assumption | with_reducible apply Keeps.popWrite | with_reducible apply Keeps.ite | rfl | dsimp only
                | split | fail_if_no_progress (with_reducible refine Keeps.upd ?_ rfl)

theorem Keeps.execStreamStop (t : Nat) (s : State) : ∃ u0, execStreamStop t s = .next u0 ∧ Keeps s u0 := by
  have kk := Keeps.refl s
  unfold Sys2Proof.Machine.execStreamStop; refine ⟨_, rfl, ?_⟩
  repeat' first | intro _ | with_reducible assumption | with_reducible apply Keeps.popWrite | with_reducible apply Keeps.ite | rfl | dsimp only
                | split | fail_if_no_progress (with_reducible refine Keeps.upd ?_ rfl)

theorem Keeps.execTruKillAssert (t : Nat) (s : State) : ∃ u0, execTruKillAssert t s = .next u0 ∧ Keeps s u0 := by
  have kk := Keeps.refl s
  unfold Sys2Proof.Machine.execTruKillAssert; refine ⟨_, rfl, ?_⟩
  repeat' first | intro _ | with_reducible assumption | with_reducible apply Keeps.popWrite | with_reducible apply Keeps.ite | rfl | dsimp only
                | split | fail_if_no_progress (with_reducible refine Keeps.upd ?_ rfl)

theorem Keeps.execTruKillRelease (t : Nat) (s : State) : ∃ u0, execTruKillRelease t s = .next u0 ∧ Keeps s u0 := by
  have kk := Keeps.refl s
  unfold Sys2Proof.Machine.execTruKillRelease; refine ⟨_, rfl, ?_⟩
  repeat' first | intro _ | with_reducible assumption | with_reducible apply Keeps.popWrite | with_reducible apply Keeps.ite | rfl | dsimp only
                | split | fail_if_no_progress (with_reducible refine Keeps.upd ?_ rfl)

theorem Keeps.execScarfGo (t : Nat) (s : State) : ∃ u0, execScarfGo t s = .next u0 ∧ Keeps s u0 := by
  have kk := Keeps.refl s
  unfold Sys2Proof.Machine.execScarfGo; refine ⟨_, rfl, ?_⟩
  repeat' first | intro _ | with_reducible assumption | with_reducible apply Keeps.popWrite | with_reducible apply Keeps.ite | rfl | dsimp only
                | split | fail_if_no_progress (with_reducible refine Keeps.upd ?_ rfl)

theorem Keeps.execReplay (t : Nat) (s : State) : ∃ u0, execReplay t s = .next u0 ∧ Keeps s u0 := by
  have kk := Keeps.refl s
  unfold Sys2Proof.Machine.execReplay; refine ⟨_, rfl, ?_⟩
  repeat' first | intro _ | with_reducible assumption | with_reducible apply Keeps.popWrite | with_reducible apply Keeps.ite | rfl | dsimp only
                | split | fail_if_no_progress (with_reducible refine Keeps.upd ?_ rfl)

theorem Keeps.execNext (t : Nat) (s : State) : ∃ u0, execNext t s = .next u0 ∧ Keeps s u0 := by
  have kk := Keeps.refl s
  unfold Sys2Proof.Machine.execNext; refine ⟨_, rfl, ?_⟩
  repeat' first | intro _ | with_reducible assumption | with_reducible apply Keeps.popWrite | with_reducible apply Keeps.ite | rfl | dsimp only
                | split | fail_if_no_progress (with_reducible refine Keeps.upd ?_ rfl)

theorem Keeps.execClear (t : Nat) (s : State) : ∃ u0, execClear t s = .next u0 ∧ Keeps s u0 := by
  have kk := Keeps.refl s
  unfold Sys2Proof.Machine.execClear; refine ⟨_, rfl, ?_⟩
  repeat' first | intro _ | with_reducible assumption | with_reducible apply Keeps.popWrite | with_reducible apply Keeps.ite | rfl | dsimp only
                | split | fail_if_no_progress (with_reducible refine Keeps.upd ?_ rfl)

theorem Keeps.execRclr (t : Nat) (s : State) : ∃ u0, execRclr t s = .next u0 ∧ Keeps s u0 := by
  have kk := Keeps.refl s
  unfold Sys2Proof.Machine.execRclr; refine ⟨_, rfl, ?_⟩
  repeat' first | intro _ | with_reducible assumption | with_reducible apply Keeps.popWrite | with_reducible apply Keeps.ite | rfl | dsimp only
                | split | fail_if_no_progress (with_reducible refine Keeps.upd ?_ rfl)

theorem Keeps.execInjectionArm (t : Nat) (s : State) : ∃ u0, execInjectionArm t s = .next u0 ∧ Keeps s u0 := by
  have kk := Keeps.refl s
  unfold Sys2Proof.Machine.execInjectionArm; refine ⟨_, rfl, ?_⟩
  repeat' first | intro _ | with_reducible assumption | with_reducible apply Keeps.popWrite | with_reducible apply Keeps.ite | rfl | dsimp only
                | split | fail_if_no_progress (with_reducible refine Keeps.upd ?_ rfl)

theorem Keeps.execRecSwcode (t : Nat) (s : State) : ∃ u0, execRecSwcode t s = .next u0 ∧ Keeps s u0 := by
  have kk := Keeps.refl s
  unfold Sys2Proof.Machine.execRecSwcode; refine ⟨_, rfl, ?_⟩
  repeat' first | intro _ | with_reducible assumption | with_reducible apply Keeps.popWrite | with_reducible apply Keeps.ite | rfl | dsimp only
                | split | fail_if_no_progress (with_reducible refine Keeps.upd ?_ rfl)

theorem Keeps.execRecFreeze (t : Nat) (s : State) : ∃ u0, execRecFreeze t s = .next u0 ∧ Keeps s u0 := by
  have kk := Keeps.refl s
  unfold Sys2Proof.Machine.execRecFreeze; refine ⟨_, rfl, ?_⟩
  repeat' first | intro _ | with_reducible assumption | with_reducible apply Keeps.popWrite | with_reducible apply Keeps.ite | rfl | dsimp only
                | split | fail_if_no_progress (with_reducible refine Keeps.upd ?_ rfl)

theorem Keeps.execRecRelease (t : Nat) (s : State) : ∃ u0, execRecRelease t s = .next u0 ∧ Keeps s u0 := by
  have kk := Keeps.refl s
  unfold Sys2Proof.Machine.execRecRelease; refine ⟨_, rfl, ?_⟩
  repeat' first | intro _ | with_reducible assumption | with_reducible apply Keeps.popWrite | with_reducible apply Keeps.ite | rfl | dsimp only
                | split | fail_if_no_progress (with_reducible refine Keeps.upd ?_ rfl)

theorem Keeps.execAttestation (t : Nat) (s : State) : ∃ u0, execAttestation t s = .next u0 ∧ Keeps s u0 := by
  have kk := Keeps.refl s
  unfold Sys2Proof.Machine.execAttestation; refine ⟨_, rfl, ?_⟩
  repeat' first | intro _ | with_reducible assumption | with_reducible apply Keeps.popWrite | with_reducible apply Keeps.ite | rfl | dsimp only
                | split | fail_if_no_progress (with_reducible refine Keeps.upd ?_ rfl)

theorem Keeps.execRevoke (t : Nat) (s : State) : ∃ u0, execRevoke t s = .next u0 ∧ Keeps s u0 := by
  have kk := Keeps.refl s
  unfold Sys2Proof.Machine.execRevoke; refine ⟨_, rfl, ?_⟩
  repeat' first | intro _ | with_reducible assumption | with_reducible apply Keeps.popWrite | with_reducible apply Keeps.ite | rfl | dsimp only
                | split | fail_if_no_progress (with_reducible refine Keeps.upd ?_ rfl)

theorem Keeps.execRequestBoot (t : Nat) (s : State) : ∃ u0, execRequestBoot t s = .next u0 ∧ Keeps s u0 := by
  have kk := Keeps.refl s
  unfold Sys2Proof.Machine.execRequestBoot; refine ⟨_, rfl, ?_⟩
  repeat' first | intro _ | with_reducible assumption | with_reducible apply Keeps.popWrite | with_reducible apply Keeps.ite | rfl | dsimp only
                | split | fail_if_no_progress (with_reducible refine Keeps.upd ?_ rfl)

theorem Keeps.execRequestIdle (t : Nat) (s : State) : ∃ u0, execRequestIdle t s = .next u0 ∧ Keeps s u0 := by
  have kk := Keeps.refl s
  unfold Sys2Proof.Machine.execRequestIdle; refine ⟨_, rfl, ?_⟩
  repeat' first | intro _ | with_reducible assumption | with_reducible apply Keeps.popWrite | with_reducible apply Keeps.ite | rfl | dsimp only
                | split | fail_if_no_progress (with_reducible refine Keeps.upd ?_ rfl)

theorem Keeps.execRequestRun (t : Nat) (s : State) : ∃ u0, execRequestRun t s = .next u0 ∧ Keeps s u0 := by
  have kk := Keeps.refl s
  unfold Sys2Proof.Machine.execRequestRun; refine ⟨_, rfl, ?_⟩
  repeat' first | intro _ | with_reducible assumption | with_reducible apply Keeps.popWrite | with_reducible apply Keeps.ite | rfl | dsimp only
                | split | fail_if_no_progress (with_reducible refine Keeps.upd ?_ rfl)

theorem Keeps.execRequestService (t : Nat) (s : State) : ∃ u0, execRequestService t s = .next u0 ∧ Keeps s u0 := by
  have kk := Keeps.refl s
  unfold Sys2Proof.Machine.execRequestService; refine ⟨_, rfl, ?_⟩
  repeat' first | intro _ | with_reducible assumption | with_reducible apply Keeps.popWrite | with_reducible apply Keeps.ite | rfl | dsimp only
                | split | fail_if_no_progress (with_reducible refine Keeps.upd ?_ rfl)

theorem Keeps.execRequestSill (t : Nat) (s : State) : ∃ u0, execRequestSill t s = .next u0 ∧ Keeps s u0 := by
  have kk := Keeps.refl s
  unfold Sys2Proof.Machine.execRequestSill; refine ⟨_, rfl, ?_⟩
  repeat' first | intro _ | with_reducible assumption | with_reducible apply Keeps.popWrite | with_reducible apply Keeps.ite | rfl | dsimp only
                | split | fail_if_no_progress (with_reducible refine Keeps.upd ?_ rfl)

theorem Keeps.execSysRst (t : Nat) (s : State) : ∃ u0, execSysRst t s = .next u0 ∧ Keeps s u0 := by
  have kk := Keeps.refl s
  unfold Sys2Proof.Machine.execSysRst; refine ⟨_, rfl, ?_⟩
  repeat' first | intro _ | with_reducible assumption | with_reducible apply Keeps.popWrite | with_reducible apply Keeps.ite | rfl | dsimp only
                | split | fail_if_no_progress (with_reducible refine Keeps.upd ?_ rfl)

theorem Keeps.execBusTxcan (t : Nat) (ph : BusPhase) (ago : Nat) (s : State) : ∃ u0, execBusTxcan t ph ago s = .next u0 ∧ Keeps s u0 := by
  have kk := Keeps.refl s
  unfold Sys2Proof.Machine.execBusTxcan; refine ⟨_, rfl, ?_⟩
  repeat' first | intro _ | with_reducible assumption | with_reducible apply Keeps.popPosted | with_reducible apply Keeps.ite | rfl | dsimp only
                | split | fail_if_no_progress (with_reducible refine Keeps.upd ?_ rfl)

theorem Keeps.execKeyEnrol (t : Nat) (stored : Bool) (s : State) : ∃ u0, execKeyEnrol t stored s = .next u0 ∧ Keeps s u0 := by
  have kk := Keeps.refl s
  unfold Sys2Proof.Machine.execKeyEnrol; refine ⟨_, rfl, ?_⟩
  repeat' first | intro _ | with_reducible assumption | with_reducible apply Keeps.popPosted | with_reducible apply Keeps.ite | rfl | dsimp only
                | split | fail_if_no_progress (with_reducible refine Keeps.upd ?_ rfl)

theorem Keeps.execKeyRevoke (t : Nat) (stored : Bool) (s : State) : ∃ u0, execKeyRevoke t stored s = .next u0 ∧ Keeps s u0 := by
  have kk := Keeps.refl s
  unfold Sys2Proof.Machine.execKeyRevoke; refine ⟨_, rfl, ?_⟩
  repeat' first | intro _ | with_reducible assumption | with_reducible apply Keeps.popPosted | with_reducible apply Keeps.ite | rfl | dsimp only
                | split | fail_if_no_progress (with_reducible refine Keeps.upd ?_ rfl)

theorem Keeps.execLoadMessageKey (t : Nat) (stored : Bool) (s : State) : ∃ u0, execLoadMessageKey t stored s = .next u0 ∧ Keeps s u0 := by
  have kk := Keeps.refl s
  unfold Sys2Proof.Machine.execLoadMessageKey; refine ⟨_, rfl, ?_⟩
  repeat' first | intro _ | with_reducible assumption | with_reducible apply Keeps.popPosted | with_reducible apply Keeps.ite | rfl | dsimp only
                | split | fail_if_no_progress (with_reducible refine Keeps.upd ?_ rfl)

theorem Keeps.execLoadHostKey (t : Nat) (stored : Bool) (s : State) : ∃ u0, execLoadHostKey t stored s = .next u0 ∧ Keeps s u0 := by
  have kk := Keeps.refl s
  unfold Sys2Proof.Machine.execLoadHostKey; refine ⟨_, rfl, ?_⟩
  repeat' first | intro _ | with_reducible assumption | with_reducible apply Keeps.popPosted | with_reducible apply Keeps.ite | rfl | dsimp only
                | split | fail_if_no_progress (with_reducible refine Keeps.upd ?_ rfl)

theorem Keeps.execRaiseRollback (t : Nat) (stored : Bool) (s : State) : ∃ u0, execRaiseRollback t stored s = .next u0 ∧ Keeps s u0 := by
  have kk := Keeps.refl s
  unfold Sys2Proof.Machine.execRaiseRollback; refine ⟨_, rfl, ?_⟩
  repeat' first | intro _ | with_reducible assumption | with_reducible apply Keeps.popPosted | with_reducible apply Keeps.ite | rfl | dsimp only
                | split | fail_if_no_progress (with_reducible refine Keeps.upd ?_ rfl)

theorem Keeps.execReleaseOwnership (t : Nat) (stored : Bool) (s : State) : ∃ u0, execReleaseOwnership t stored s = .next u0 ∧ Keeps s u0 := by
  have kk := Keeps.refl s
  unfold Sys2Proof.Machine.execReleaseOwnership; refine ⟨_, rfl, ?_⟩
  repeat' first | intro _ | with_reducible assumption | with_reducible apply Keeps.popPosted | with_reducible apply Keeps.ite | rfl | dsimp only
                | split | fail_if_no_progress (with_reducible refine Keeps.upd ?_ rfl)

theorem Keeps.execGrant (t : Nat) (stored : Bool) (s : State) : ∃ u0, execGrant t stored s = .next u0 ∧ Keeps s u0 := by
  have kk := Keeps.refl s
  unfold Sys2Proof.Machine.execGrant; refine ⟨_, rfl, ?_⟩
  repeat' first | intro _ | with_reducible assumption | with_reducible apply Keeps.popPosted | with_reducible apply Keeps.ite | rfl | dsimp only
                | split | fail_if_no_progress (with_reducible refine Keeps.upd ?_ rfl)

theorem Keeps.execSetPolicy (t : Nat) (stored : Bool) (s : State) : ∃ u0, execSetPolicy t stored s = .next u0 ∧ Keeps s u0 := by
  have kk := Keeps.refl s
  unfold Sys2Proof.Machine.execSetPolicy; refine ⟨_, rfl, ?_⟩
  repeat' first | intro _ | with_reducible assumption | with_reducible apply Keeps.popPosted | with_reducible apply Keeps.ite | rfl | dsimp only
                | split | fail_if_no_progress (with_reducible refine Keeps.upd ?_ rfl)

theorem Keeps.execHostCommand (t : Nat) (ph : BusPhase) (ago : Nat) (s : State) : ∃ u0, execHostCommand t ph ago s = .next u0 ∧ Keeps s u0 := by
  have kk := Keeps.refl s
  unfold Sys2Proof.Machine.execHostCommand; refine ⟨_, rfl, ?_⟩
  repeat' first | intro _ | with_reducible assumption | with_reducible apply Keeps.popPosted | with_reducible apply Keeps.ite | rfl | dsimp only
                | split | fail_if_no_progress (with_reducible refine Keeps.upd ?_ rfl)

theorem Keeps.execOutputCutoff (temps : List (Option (BitVec 16))) (v1 v2 hold : BitVec 16)  (s : State) :
    ∃ u0, execOutputCutoff temps v1 v2 hold s = .next u0 ∧ Keeps s u0 := by
  have kk := Keeps.refl s
  unfold Sys2Proof.Machine.execOutputCutoff; refine ⟨_, rfl, ?_⟩
  repeat' first | intro _ | with_reducible assumption | with_reducible apply Keeps.at | with_reducible apply Keeps.formExchange
                | with_reducible apply Keeps.schedLatch | with_reducible apply Keeps.decideMode | with_reducible apply Keeps.latchSupplies
                | with_reducible apply Keeps.ite | rfl | dsimp only | split | fail_if_no_progress (with_reducible refine Keeps.upd ?_ rfl)

theorem Keeps.execExchangeDeadline (s : State) : ∃ u0, execExchangeDeadline s = .next u0 ∧ Keeps s u0 := by
  have kk := Keeps.refl s
  unfold Sys2Proof.Machine.execExchangeDeadline; refine ⟨_, rfl, ?_⟩
  repeat' first | intro _ | with_reducible assumption | with_reducible apply Keeps.at | with_reducible apply Keeps.trussDeadline
                | with_reducible apply Keeps.pairWindows | with_reducible apply Keeps.schedDecide | with_reducible apply Keeps.placeRecord
                | with_reducible apply Keeps.recordWrites | with_reducible apply Keeps.ite | rfl | dsimp only | split
                | fail_if_no_progress (with_reducible refine Keeps.upd ?_ rfl)

theorem Keeps.execFrameBoundary (m : FrameSample) (s : State) : ∃ u0, execFrameBoundary m s = .next u0 ∧ Keeps s u0 := by
  have kk := Keeps.refl s
  unfold Sys2Proof.Machine.execFrameBoundary
  refine ⟨_, rfl, Keeps.ite kk ?_⟩
  extract_lets items s0 s1 s2 s3 y s4 s5 s6 z
  have k1 : Keeps s s1 := (Keeps.iff _ _ (fun t k => k.busNow _) kk.nextFrame).modeBoundary
  have k2 : Keeps s s2 := (k1.busNow m.bus).takeWaiting.trussBoundary.journalAnswers
  have k3 : Keeps s s3 := k2.txnApply.spanNow.rehashDone.gBurstSync
  clear_value s3 s2
  have k4 : Keeps s s4 := Keeps.upd k3 rfl
  clear_value s4
  have k5 : Keeps s s5 := (k4.scribeItems items).transferOutputs.pagesBoundary
  clear_value s5
  have k6 : Keeps s s6 := ((k5.gnssLatch m).capture.watchdogAll.latchInputs m.imu).injReady
  clear_value s6
  refine Keeps.ite k1 (Keeps.ite (Keeps.raise _ _ (Keeps.upd k6 rfl)) k6)

theorem Keeps.execSnapshotFlip (bad : List (Nat × Word × Byte))  (s : State) : ∃ u0, execSnapshotFlip bad s = .next u0 ∧ Keeps s u0 := by
  have kk := Keeps.refl s
  unfold Sys2Proof.Machine.execSnapshotFlip; refine ⟨_, rfl, ?_⟩
  repeat' first | intro _ | with_reducible assumption | with_reducible apply Keeps.eachOf | with_reducible apply Keeps.at
                | with_reducible apply Keeps.irq | with_reducible apply Keeps.flipImage | with_reducible apply Keeps.flipPages
                | with_reducible apply Keeps.staleWord | with_reducible apply Keeps.ite | rfl | dsimp only | split
                | fail_if_no_progress (with_reducible refine Keeps.upd ?_ rfl)

end Sys2Proof.Machine
end

