-- ==== Sys2Proof/Laws/ExecRest.lean ====
section
/-! SUPPORT. Laws: every event of the test port, faults, PWM units, Truss, Scarf, ADC and clocks answers such a next state. -/
set_option linter.unusedTactic false
set_option linter.unreachableTactic false
namespace Sys2Proof.Machine
theorem Keeps.execFaultRaise (t : Nat) (src : Fin 512) (on : Bool) (det : Word) (val : Word) (tag : Byte) (addr : Word) (s : State) :
    ∃ u0, execFaultRaise t src on det val tag addr s = .next u0 ∧ Keeps s u0 := by
  have kk := Keeps.refl s
  unfold Sys2Proof.Machine.execFaultRaise; refine ⟨_, rfl, ?_⟩
  repeat' first | intro _ | with_reducible assumption | with_reducible apply Keeps.at | with_reducible apply Keeps.raiseDowel
                | with_reducible apply Keeps.assert | with_reducible apply Keeps.release | with_reducible apply Keeps.ite | rfl | dsimp only | split
                | fail_if_no_progress (with_reducible refine Keeps.upd ?_ rfl)

theorem Keeps.execQuietPeriodExpiry (t : Nat) (s : State) : ∃ u0, execQuietPeriodExpiry t s = .next u0 ∧ Keeps s u0 := by
  have kk := Keeps.refl s
  unfold Sys2Proof.Machine.execQuietPeriodExpiry; refine ⟨_, rfl, ?_⟩
  repeat' first | intro _ | with_reducible assumption | with_reducible apply Keeps.at | with_reducible apply Keeps.quietOver
                | with_reducible apply Keeps.ite | rfl | dsimp only | split | fail_if_no_progress (with_reducible refine Keeps.upd ?_ rfl)

theorem Keeps.execRecoveryDecay (s : State) : ∃ u0, execRecoveryDecay s = .next u0 ∧ Keeps s u0 := by
  have kk := Keeps.refl s
  unfold Sys2Proof.Machine.execRecoveryDecay; refine ⟨_, rfl, ?_⟩
  repeat' first | intro _ | with_reducible assumption | with_reducible apply Keeps.setFld | with_reducible apply Keeps.ite | rfl | dsimp only | split
                | fail_if_no_progress (with_reducible refine Keeps.upd ?_ rfl)

theorem Keeps.execInjectionFire (s : State) : ∃ u0, execInjectionFire s = .next u0 ∧ Keeps s u0 := by
  have kk := Keeps.refl s
  unfold Sys2Proof.Machine.execInjectionFire; refine ⟨_, rfl, ?_⟩
  repeat' first | intro _ | with_reducible assumption | with_reducible apply Keeps.setFld | with_reducible apply Keeps.at
                | with_reducible apply Keeps.raiseAs | with_reducible apply Keeps.ite | rfl | dsimp only | split
                | fail_if_no_progress (with_reducible refine Keeps.upd ?_ rfl)

theorem Keeps.execRecordWriteComplete (s : State) : ∃ u0, execRecordWriteComplete s = .next u0 ∧ Keeps s u0 := by
  have kk := Keeps.refl s
  unfold Sys2Proof.Machine.execRecordWriteComplete; refine ⟨_, rfl, ?_⟩
  repeat' first | intro _ | with_reducible assumption | with_reducible apply Keeps.recordWritten | with_reducible apply Keeps.ite | rfl
                | dsimp only | split | fail_if_no_progress (with_reducible refine Keeps.upd ?_ rfl)

theorem Keeps.execCheckpointSigned (t : Nat) (k : BitVec 256)  (s : State) : ∃ u0, execCheckpointSigned t k s = .next u0 ∧ Keeps s u0 := by
  have kk := Keeps.refl s
  unfold Sys2Proof.Machine.execCheckpointSigned; refine ⟨_, rfl, ?_⟩
  repeat' first | intro _ | with_reducible assumption | with_reducible apply Keeps.at | with_reducible apply Keeps.sealCheckpoint
                | with_reducible apply Keeps.ite | rfl | dsimp only | split | fail_if_no_progress (with_reducible refine Keeps.upd ?_ rfl)

theorem Keeps.execSummaryDue (code : Fin 1024) (s : State) : ∃ u0, execSummaryDue code s = .next u0 ∧ Keeps s u0 := by
  have kk := Keeps.refl s
  unfold Sys2Proof.Machine.execSummaryDue; refine ⟨_, rfl, ?_⟩
  repeat' first | intro _ | with_reducible assumption | with_reducible apply Keeps.summaryDue | with_reducible apply Keeps.ite | rfl | dsimp only
                | split | fail_if_no_progress (with_reducible refine Keeps.upd ?_ rfl)

theorem Keeps.execFreezeTimeout (s : State) : ∃ u0, execFreezeTimeout s = .next u0 ∧ Keeps s u0 := by
  have kk := Keeps.refl s
  unfold Sys2Proof.Machine.execFreezeTimeout; refine ⟨_, rfl, ?_⟩
  repeat' first | intro _ | with_reducible assumption | with_reducible apply Keeps.recRelease | with_reducible apply Keeps.ite | rfl | dsimp only
                | split | fail_if_no_progress (with_reducible refine Keeps.upd ?_ rfl)

theorem Keeps.execTrussBlockReceived (t : Nat) (n : Nat) (ok : Bool) (c : TrussContent) (s : State) :
    ∃ u0, execTrussBlockReceived t n ok c s = .next u0 ∧ Keeps s u0 := by
  have kk := Keeps.refl s
  unfold Sys2Proof.Machine.execTrussBlockReceived; refine ⟨_, rfl, ?_⟩
  repeat' first | intro _ | with_reducible assumption | with_reducible apply Keeps.count | with_reducible apply Keeps.at
                | with_reducible apply Keeps.ite | rfl | dsimp only | split | fail_if_no_progress (with_reducible refine Keeps.upd ?_ rfl)

theorem Keeps.execKillInput (t : Nat) (on : Bool)  (s : State) : ∃ u0, execKillInput t on s = .next u0 ∧ Keeps s u0 := by
  have kk := Keeps.refl s
  unfold Sys2Proof.Machine.execKillInput; refine ⟨_, rfl, ?_⟩
  repeat' first | intro _ | with_reducible assumption | with_reducible apply Keeps.setFlag | with_reducible apply Keeps.each
                | with_reducible apply Keeps.atRun | with_reducible apply Keeps.openIso | with_reducible apply Keeps.truState
                | with_reducible apply Keeps.driveKill | with_reducible apply Keeps.leavePair | with_reducible apply Keeps.hold
                | with_reducible apply Keeps.ite | rfl | dsimp only | split | fail_if_no_progress (with_reducible refine Keeps.upd ?_ rfl)

theorem Keeps.execKillLineFault (t : Nat)  (s : State) : ∃ u0, execKillLineFault t s = .next u0 ∧ Keeps s u0 := by
  have kk := Keeps.refl s
  unfold Sys2Proof.Machine.execKillLineFault; refine ⟨_, rfl, ?_⟩
  repeat' first | intro _ | with_reducible assumption | with_reducible apply Keeps.setFlag | with_reducible apply Keeps.atRun
                | with_reducible apply Keeps.raise | with_reducible apply Keeps.ite | rfl | dsimp only | split
                | fail_if_no_progress (with_reducible refine Keeps.upd ?_ rfl)

theorem Keeps.execLinkLoss (t : Nat) (s : State) : ∃ u0, execLinkLoss t s = .next u0 ∧ Keeps s u0 := by
  have kk := Keeps.refl s
  unfold Sys2Proof.Machine.execLinkLoss; refine ⟨_, rfl, ?_⟩
  repeat' first | intro _ | with_reducible assumption | with_reducible apply Keeps.at | with_reducible apply Keeps.linkLost
                | with_reducible apply Keeps.ite | rfl | dsimp only | split | fail_if_no_progress (with_reducible refine Keeps.upd ?_ rfl)

theorem Keeps.execSkewFault (t : Nat) (skew : BitVec 16) (s : State) : ∃ u0, execSkewFault t skew s = .next u0 ∧ Keeps s u0 := by
  have kk := Keeps.refl s
  unfold Sys2Proof.Machine.execSkewFault; refine ⟨_, rfl, ?_⟩
  repeat' first | intro _ | with_reducible assumption | with_reducible apply Keeps.setFld | with_reducible apply Keeps.setFlag
                | with_reducible apply Keeps.at | with_reducible apply Keeps.raise | with_reducible apply Keeps.ite | rfl | dsimp only | split
                | fail_if_no_progress (with_reducible refine Keeps.upd ?_ rfl)

theorem Keeps.execTrussLinkUp (t : Nat) (j : Joiner)  (s : State) : ∃ u0, execTrussLinkUp t j s = .next u0 ∧ Keeps s u0 := by
  have kk := Keeps.refl s
  unfold Sys2Proof.Machine.execTrussLinkUp; refine ⟨_, rfl, ?_⟩
  repeat' first | intro _ | with_reducible assumption | with_reducible apply Keeps.setFld | with_reducible apply Keeps.setFlag
                | with_reducible apply Keeps.at | with_reducible apply Keeps.truState | with_reducible apply Keeps.ite | rfl | dsimp only | split
                | fail_if_no_progress (with_reducible refine Keeps.upd ?_ rfl)

theorem Keeps.execPeriodBoundary (t : Nat) (c : Fin 192)  (s : State) : ∃ u0, execPeriodBoundary t c s = .next u0 ∧ Keeps s u0 := by
  have kk := Keeps.refl s
  unfold Sys2Proof.Machine.execPeriodBoundary; refine ⟨_, rfl, ?_⟩
  repeat' first | intro _ | with_reducible assumption | with_reducible apply Keeps.at | with_reducible apply Keeps.periodBoundary
                | with_reducible apply Keeps.ite | rfl | dsimp only | split | fail_if_no_progress (with_reducible refine Keeps.upd ?_ rfl)

theorem Keeps.execDutyEdge (t : Nat) (c : Fin 192)  (s : State) : ∃ u0, execDutyEdge t c s = .next u0 ∧ Keeps s u0 := by
  have kk := Keeps.refl s
  unfold Sys2Proof.Machine.execDutyEdge; refine ⟨_, rfl, ?_⟩
  repeat' first | intro _ | with_reducible assumption | with_reducible apply Keeps.at | with_reducible apply Keeps.dutyEdge
                | with_reducible apply Keeps.ite | rfl | dsimp only | split | fail_if_no_progress (with_reducible refine Keeps.upd ?_ rfl)

theorem Keeps.execSyncEvent (t : Nat) (u : Fin 24)  (s : State) : ∃ u0, execSyncEvent t u s = .next u0 ∧ Keeps s u0 := by
  have kk := Keeps.refl s
  unfold Sys2Proof.Machine.execSyncEvent; refine ⟨_, rfl, ?_⟩
  repeat' first | intro _ | with_reducible assumption | with_reducible apply Keeps.at | with_reducible apply Keeps.syncEvent
                | with_reducible apply Keeps.ite | rfl | dsimp only | split | fail_if_no_progress (with_reducible refine Keeps.upd ?_ rfl)

theorem Keeps.execSyncinEdge (t : Nat) (i : Fin 2)  (s : State) : ∃ u0, execSyncinEdge t i s = .next u0 ∧ Keeps s u0 := by
  have kk := Keeps.refl s
  unfold Sys2Proof.Machine.execSyncinEdge; refine ⟨_, rfl, ?_⟩
  repeat' first | intro _ | with_reducible assumption | with_reducible apply Keeps.at | with_reducible apply Keeps.syncComes
                | with_reducible apply Keeps.ite | rfl | dsimp only | split | fail_if_no_progress (with_reducible refine Keeps.upd ?_ rfl)

theorem Keeps.execDeadTimeWaitEnd (c : Timed (Fin 64)) (tout : Bool) (s : State) : ∃ u0, execDeadTimeWaitEnd c tout s = .next u0 ∧ Keeps s u0 := by
  have kk := Keeps.refl s
  unfold Sys2Proof.Machine.execDeadTimeWaitEnd; refine ⟨_, rfl, ?_⟩
  repeat' first | intro _ | with_reducible assumption | with_reducible apply Keeps.at | with_reducible apply Keeps.deadEnds
                | with_reducible apply Keeps.ite | rfl | dsimp only | split | fail_if_no_progress (with_reducible refine Keeps.upd ?_ rfl)

theorem Keeps.execFaultPin (t : Nat) (n : Fin 16)  (s : State) : ∃ u0, execFaultPin t n s = .next u0 ∧ Keeps s u0 := by
  have kk := Keeps.refl s
  unfold Sys2Proof.Machine.execFaultPin; refine ⟨_, rfl, ?_⟩
  repeat' first | intro _ | with_reducible assumption | with_reducible apply Keeps.atRun | with_reducible apply Keeps.pinActive
                | with_reducible apply Keeps.ite | rfl | dsimp only | split | fail_if_no_progress (with_reducible refine Keeps.upd ?_ rfl)

theorem Keeps.execFaultPinRelease (n : Fin 16)  (s : State) : ∃ u0, execFaultPinRelease n s = .next u0 ∧ Keeps s u0 := by
  have kk := Keeps.refl s
  unfold Sys2Proof.Machine.execFaultPinRelease; refine ⟨_, rfl, ?_⟩
  repeat' first | intro _ | with_reducible assumption | with_reducible apply Keeps.pinRelease | with_reducible apply Keeps.ite | rfl | dsimp only
                | split | fail_if_no_progress (with_reducible refine Keeps.upd ?_ rfl)

theorem Keeps.execAdcTrigger (t : Nat) (trg : Fin 16)  (s : State) : ∃ u0, execAdcTrigger t trg s = .next u0 ∧ Keeps s u0 := by
  have kk := Keeps.refl s
  unfold Sys2Proof.Machine.execAdcTrigger; refine ⟨_, rfl, ?_⟩
  repeat' first | intro _ | with_reducible assumption | with_reducible apply Keeps.eachOf | with_reducible apply Keeps.at
                | with_reducible apply Keeps.adcFire | with_reducible apply Keeps.ite | rfl | dsimp only | split
                | fail_if_no_progress (with_reducible refine Keeps.upd ?_ rfl)

theorem Keeps.execCompareMatch (t : Nat) (c : Fin 192) (b : Bool)  (s : State) : ∃ u0, execCompareMatch t c b s = .next u0 ∧ Keeps s u0 := by
  have kk := Keeps.refl s
  unfold Sys2Proof.Machine.execCompareMatch; refine ⟨_, rfl, ?_⟩
  repeat' first | intro _ | with_reducible assumption | with_reducible apply Keeps.at | with_reducible apply Keeps.adcEvent
                | with_reducible apply Keeps.ite | rfl | dsimp only | split | fail_if_no_progress (with_reducible refine Keeps.upd ?_ rfl)

theorem Keeps.execAdcConversionComplete (t : Nat) (b : Bool) (codes : List (BitVec 16))  (s : State) :
    ∃ u0, execAdcConversionComplete t b codes s = .next u0 ∧ Keeps s u0 := by
  have kk := Keeps.refl s
  unfold Sys2Proof.Machine.execAdcConversionComplete; refine ⟨_, rfl, ?_⟩
  repeat' first | intro _ | with_reducible assumption | with_reducible apply Keeps.wr | with_reducible apply Keeps.at
                | with_reducible apply Keeps.recordCur | with_reducible apply Keeps.recordCut | with_reducible apply Keeps.setAdcU
                | with_reducible apply Keeps.adcGo | with_reducible apply Keeps.adcMean | with_reducible apply Keeps.adcWindow
                | with_reducible apply Keeps.ite | rfl | dsimp only | split | fail_if_no_progress (with_reducible refine Keeps.upd ?_ rfl)

theorem Keeps.execAdcReferenceCheck (t : Nat) (b : Bool) (code : BitVec 16) (s : State) :
    ∃ u0, execAdcReferenceCheck t b code s = .next u0 ∧ Keeps s u0 := by
  have kk := Keeps.refl s
  unfold Sys2Proof.Machine.execAdcReferenceCheck; refine ⟨_, rfl, ?_⟩
  repeat' first | intro _ | with_reducible assumption | with_reducible apply Keeps.setFlag | with_reducible apply Keeps.at
                | with_reducible apply Keeps.raise | with_reducible apply Keeps.setAdcU | with_reducible apply Keeps.adcGo | with_reducible apply Keeps.ite
                | rfl | dsimp only | split | fail_if_no_progress (with_reducible refine Keeps.upd ?_ rfl)

theorem Keeps.execAdcShuntOpen (t : Nat) (i : Fin 32)  (s : State) : ∃ u0, execAdcShuntOpen t i s = .next u0 ∧ Keeps s u0 := by
  have kk := Keeps.refl s
  unfold Sys2Proof.Machine.execAdcShuntOpen; refine ⟨_, rfl, ?_⟩
  repeat' first | intro _ | with_reducible assumption | with_reducible apply Keeps.at | with_reducible apply Keeps.raise
                | with_reducible apply Keeps.setShunt | with_reducible apply Keeps.tripShunt | with_reducible apply Keeps.ite | rfl | dsimp only
                | split | fail_if_no_progress (with_reducible refine Keeps.upd ?_ rfl)

theorem Keeps.execRefclkLoss (t : Nat) (s : State) : ∃ u0, execRefclkLoss t s = .next u0 ∧ Keeps s u0 := by
  have kk := Keeps.refl s
  unfold Sys2Proof.Machine.execRefclkLoss; refine ⟨_, rfl, ?_⟩
  repeat' first | intro _ | with_reducible assumption | with_reducible apply Keeps.setFlag | with_reducible apply Keeps.at
                | with_reducible apply Keeps.refUpdate | with_reducible apply Keeps.ite | rfl | dsimp only | split
                | fail_if_no_progress (with_reducible refine Keeps.upd ?_ rfl)

theorem Keeps.execRefclkReturn (t : Nat) (r25 : Bool) (s : State) : ∃ u0, execRefclkReturn t r25 s = .next u0 ∧ Keeps s u0 := by
  have kk := Keeps.refl s
  unfold Sys2Proof.Machine.execRefclkReturn; refine ⟨_, rfl, ?_⟩
  repeat' first | intro _ | with_reducible assumption | with_reducible apply Keeps.setFlag | with_reducible apply Keeps.at
                | with_reducible apply Keeps.refUpdate | with_reducible apply Keeps.ite | rfl | dsimp only | split
                | fail_if_no_progress (with_reducible refine Keeps.upd ?_ rfl)

theorem Keeps.execOscillatorFail (t : Nat)  (s : State) : ∃ u0, execOscillatorFail t s = .next u0 ∧ Keeps s u0 := by
  have kk := Keeps.refl s
  unfold Sys2Proof.Machine.execOscillatorFail; refine ⟨_, rfl, ?_⟩
  repeat' first | intro _ | with_reducible assumption | with_reducible apply Keeps.setFlag | with_reducible apply Keeps.at
                | with_reducible apply Keeps.raise | with_reducible apply Keeps.refUpdate | with_reducible apply Keeps.ite | rfl | dsimp only | split
                | fail_if_no_progress (with_reducible refine Keeps.upd ?_ rfl)

theorem Keeps.execPllRelock (t : Nat) (bus : Bool)  (s : State) : ∃ u0, execPllRelock t bus s = .next u0 ∧ Keeps s u0 := by
  have kk := Keeps.refl s
  unfold Sys2Proof.Machine.execPllRelock; refine ⟨_, rfl, ?_⟩
  repeat' first | intro _ | with_reducible assumption | with_reducible apply Keeps.setFlag | with_reducible apply Keeps.each
                | with_reducible apply Keeps.at | with_reducible apply Keeps.release | with_reducible apply Keeps.gnssRelock
                | with_reducible apply Keeps.freshen | with_reducible apply Keeps.ite | rfl | dsimp only | split
                | fail_if_no_progress (with_reducible refine Keeps.upd ?_ rfl)

theorem Keeps.execScarfPhaseComplete (t : Nat) (frame : BitVec 48) (items : List ScarfItem)  (s : State) :
    ∃ u0, execScarfPhaseComplete t frame items s = .next u0 ∧ Keeps s u0 := by
  have kk := Keeps.refl s
  unfold Sys2Proof.Machine.execScarfPhaseComplete; refine ⟨_, rfl, ?_⟩
  repeat' first | intro _ | with_reducible assumption | with_reducible apply Keeps.eachOf | with_reducible apply Keeps.at
                | with_reducible apply Keeps.settleAll | with_reducible apply Keeps.drivers | with_reducible apply Keeps.setPhase
                | with_reducible apply Keeps.scarfRegs | with_reducible apply Keeps.scarfTake | with_reducible apply Keeps.ite | rfl | dsimp only
                | split | fail_if_no_progress (with_reducible refine Keeps.upd ?_ rfl)

theorem Keeps.execProbationEnd (t : Nat) (iso : BitVec 12)  (s : State) : ∃ u0, execProbationEnd t iso s = .next u0 ∧ Keeps s u0 := by
  have kk := Keeps.refl s
  unfold Sys2Proof.Machine.execProbationEnd; refine ⟨_, rfl, ?_⟩
  repeat' first | intro _ | with_reducible assumption | with_reducible apply Keeps.at | with_reducible apply Keeps.setPhase
                | with_reducible apply Keeps.twinCommit | with_reducible apply Keeps.ite | rfl | dsimp only | split
                | fail_if_no_progress (with_reducible refine Keeps.upd ?_ rfl)

theorem Keeps.execJournalWriteComplete (t : Nat) (s : State) : ∃ u0, execJournalWriteComplete t s = .next u0 ∧ Keeps s u0 := by
  have kk := Keeps.refl s
  unfold Sys2Proof.Machine.execJournalWriteComplete; refine ⟨_, rfl, ?_⟩
  repeat' first | intro _ | with_reducible assumption | with_reducible apply Keeps.at | with_reducible apply Keeps.jrnWritten
                | with_reducible apply Keeps.journalAnswers | with_reducible apply Keeps.ite | rfl | dsimp only | split
                | fail_if_no_progress (with_reducible refine Keeps.upd ?_ rfl)

theorem Keeps.execJournalConfirmation (t : Nat) (seq : BitVec 64) (crc : Word) (s : State) :
    ∃ u0, execJournalConfirmation t seq crc s = .next u0 ∧ Keeps s u0 := by
  have kk := Keeps.refl s
  unfold Sys2Proof.Machine.execJournalConfirmation; refine ⟨_, rfl, ?_⟩
  repeat' first | intro _ | with_reducible assumption | with_reducible apply Keeps.at | with_reducible apply Keeps.jrnConfirm
                | with_reducible apply Keeps.journalAnswers | with_reducible apply Keeps.ite | rfl | dsimp only | split
                | fail_if_no_progress (with_reducible refine Keeps.upd ?_ rfl)

theorem Keeps.execMarkDrain (s : State) : ∃ u0, execMarkDrain s = .next u0 ∧ Keeps s u0 := by
  have kk := Keeps.refl s
  unfold Sys2Proof.Machine.execMarkDrain; refine ⟨_, rfl, ?_⟩
  repeat' first | intro _ | with_reducible assumption | with_reducible apply Keeps.drainMark | with_reducible apply Keeps.ite | rfl | dsimp only
                | split | fail_if_no_progress (with_reducible refine Keeps.upd ?_ rfl)

theorem Keeps.execJsyncTimeout (t : Nat) (e : Fin 8)  (s : State) : ∃ u0, execJsyncTimeout t e s = .next u0 ∧ Keeps s u0 := by
  have kk := Keeps.refl s
  unfold Sys2Proof.Machine.execJsyncTimeout; refine ⟨_, rfl, ?_⟩
  repeat' first | intro _ | with_reducible assumption | with_reducible apply Keeps.at | with_reducible apply Keeps.answerAt
                | with_reducible apply Keeps.ite | rfl | dsimp only | split | fail_if_no_progress (with_reducible refine Keeps.upd ?_ rfl)

theorem Keeps.execExtest (captured cells : List Bool)  (s : State) : ∃ u0, execExtest captured cells s = .next u0 ∧ Keeps s u0 := by
  have kk := Keeps.refl s
  unfold Sys2Proof.Machine.execExtest; refine ⟨_, rfl, ?_⟩
  repeat' first | intro _ | with_reducible assumption | with_reducible apply Keeps.setJtag | with_reducible apply Keeps.loadIr
                | with_reducible apply Keeps.bypass | with_reducible apply Keeps.ite | rfl | dsimp only | split
                | fail_if_no_progress (with_reducible refine Keeps.upd ?_ rfl)

theorem Keeps.execIdcode (s : State) : ∃ u0, execIdcode s = .next u0 ∧ Keeps s u0 := by
  have kk := Keeps.refl s
  unfold Sys2Proof.Machine.execIdcode; refine ⟨_, rfl, ?_⟩
  repeat' first | intro _ | with_reducible assumption | with_reducible apply Keeps.setJtag | with_reducible apply Keeps.loadIr
                | with_reducible apply Keeps.ite | rfl | dsimp only | split | fail_if_no_progress (with_reducible refine Keeps.upd ?_ rfl)

theorem Keeps.execSamplePreload (captured cells : List Bool)  (s : State) : ∃ u0, execSamplePreload captured cells s = .next u0 ∧ Keeps s u0 := by
  have kk := Keeps.refl s
  unfold Sys2Proof.Machine.execSamplePreload; refine ⟨_, rfl, ?_⟩
  repeat' first | intro _ | with_reducible assumption | with_reducible apply Keeps.setJtag | with_reducible apply Keeps.loadIr
                | with_reducible apply Keeps.ite | rfl | dsimp only | split | fail_if_no_progress (with_reducible refine Keeps.upd ?_ rfl)

theorem Keeps.execBypass (s : State) : ∃ u0, execBypass s = .next u0 ∧ Keeps s u0 := by
  have kk := Keeps.refl s
  unfold Sys2Proof.Machine.execBypass; refine ⟨_, rfl, ?_⟩
  repeat' first | intro _ | with_reducible assumption | with_reducible apply Keeps.loadIr | with_reducible apply Keeps.bypass
                | with_reducible apply Keeps.ite | rfl | dsimp only | split | fail_if_no_progress (with_reducible refine Keeps.upd ?_ rfl)

theorem Keeps.execFrzEnter (t : Nat)  (s : State) : ∃ u0, execFrzEnter t s = .next u0 ∧ Keeps s u0 := by
  have kk := Keeps.refl s
  unfold Sys2Proof.Machine.execFrzEnter; refine ⟨_, rfl, ?_⟩
  repeat' first | intro _ | with_reducible assumption | with_reducible apply Keeps.atRun | with_reducible apply Keeps.freezeBy
                | with_reducible apply Keeps.debugOnly | with_reducible apply Keeps.ite | rfl | dsimp only | split
                | fail_if_no_progress (with_reducible refine Keeps.upd ?_ rfl)

theorem Keeps.execFrzResume (s : State) : ∃ u0, execFrzResume s = .next u0 ∧ Keeps s u0 := by
  have kk := Keeps.refl s
  unfold Sys2Proof.Machine.execFrzResume; refine ⟨_, rfl, ?_⟩
  repeat' first | intro _ | with_reducible assumption | with_reducible apply Keeps.setSys | with_reducible apply Keeps.resume
                | with_reducible apply Keeps.debugOnly | with_reducible apply Keeps.ite | rfl | dsimp only | split
                | fail_if_no_progress (with_reducible refine Keeps.upd ?_ rfl)

theorem Keeps.execDbgSel (v : BitVec 36)  (s : State) : ∃ u0, execDbgSel v s = .next u0 ∧ Keeps s u0 := by
  have kk := Keeps.refl s
  unfold Sys2Proof.Machine.execDbgSel; refine ⟨_, rfl, ?_⟩
  repeat' first | intro _ | with_reducible assumption | with_reducible apply Keeps.setJtag | with_reducible apply Keeps.debugOnly
                | with_reducible apply Keeps.ite | rfl | dsimp only | split | fail_if_no_progress (with_reducible refine Keeps.upd ?_ rfl)

theorem Keeps.execDbgRead (s : State) : ∃ u0, execDbgRead s = .next u0 ∧ Keeps s u0 := by
  have kk := Keeps.refl s
  unfold Sys2Proof.Machine.execDbgRead; refine ⟨_, rfl, ?_⟩
  repeat' first | intro _ | with_reducible assumption | with_reducible apply Keeps.spend | with_reducible apply Keeps.setJtag
                | with_reducible apply Keeps.debugOnly | with_reducible apply Keeps.ite | rfl | dsimp only | split
                | fail_if_no_progress (with_reducible refine Keeps.upd ?_ rfl)

theorem Keeps.execTestLogicReset (s : State) : ∃ u0, execTestLogicReset s = .next u0 ∧ Keeps s u0 := by
  have kk := Keeps.refl s
  unfold Sys2Proof.Machine.execTestLogicReset; refine ⟨_, rfl, ?_⟩
  repeat' first | intro _ | with_reducible assumption | with_reducible apply Keeps.setJtag | with_reducible apply Keeps.ite | rfl | dsimp only | split
                | fail_if_no_progress (with_reducible refine Keeps.upd ?_ rfl)

end Sys2Proof.Machine
end

