-- ==== Sys2Proof/Laws/Tags.lean ====
section
/-! SUPPORT. The carried Dowel rules give the tag of the result when the operands' tags are those of the operands (R34, R58 to R60). -/
namespace Sys2Proof.Machine

theorem intact_iff (x : TW) : intact x = true ↔ x.2 = tagOf x.1 := by simp [intact]

theorem eq_newTW {x : TW} (h : intact x = true) : x = newTW x.1 := Prod.ext rfl ((intact_iff x).1 h)

@[simp] theorem intact_newTW (w : Word) : intact (newTW w) = true := by simp [intact, newTW]

theorem tag_toNat {x : TW} (h : intact x = true) : x.2.toNat = x.1.toNat % 251 := by
  rw [(intact_iff x).1 h, tagOf, BitVec.toNat_ofNat]
  have : x.1.toNat % 251 < 251 := Nat.mod_lt _ (by decide)
  omega

/-- A word with a computed tag carries the right one when the residues agree. -/
theorem tagged_eq {w : Word} {n : Nat} (h : n % 251 = w.toNat % 251) : (w, tagNat n) = newTW w := by
  simp only [newTW, tagNat, tagOf, h]

theorem addTW_eq {a b : TW} (ha : intact a = true) (hb : intact b = true) : addTW a b = newTW (a.1 + b.1) := by
  unfold addTW
  apply tagged_eq
  rw [tag_toNat ha, tag_toNat hb, BitVec.toNat_add]
  have := a.1.isLt; have := b.1.isLt
  omega

theorem subTW_eq {a b : TW} (ha : intact a = true) (hb : intact b = true) : subTW a b = newTW (a.1 - b.1) := by
  unfold subTW
  apply tagged_eq
  rw [tag_toNat ha, tag_toNat hb, BitVec.toNat_sub]
  have := a.1.isLt; have := b.1.isLt
  by_cases h : a.1.toNat < b.1.toNat <;> simp [h, b2n] <;> omega

theorem negTW_eq {a : TW} (ha : intact a = true) : negTW a = newTW (0 - a.1) := by
  by_cases h : a.1 = 0
  · simp only [negTW, newTW, h, if_true]; rfl
  · simp only [negTW, h, if_false]
    apply tagged_eq
    rw [tag_toNat ha, BitVec.toNat_sub]
    have h0 : a.1.toNat ≠ 0 := fun hc => h (BitVec.eq_of_toNat_eq hc)
    have := a.1.isLt
    have : (0 : Word).toNat = 0 := rfl
    omega

theorem mod_mul_mod (x y : Nat) : (x % 251 * (y % 251)) % 251 = x * y % 251 := (Nat.mul_mod x y 251).symm

theorem mulTW_eq {a b : TW} (ha : intact a = true) (hb : intact b = true) : mulTW a b = newTW (a.1 * b.1) := by
  unfold mulTW
  apply tagged_eq
  rw [tag_toNat ha, tag_toNat hb, BitVec.toNat_mul]
  have h := mod_mul_mod a.1.toNat b.1.toNat
  generalize a.1.toNat * b.1.toNat = p at *
  omega

theorem mulhuTW_eq {a b : TW} (ha : intact a = true) (hb : intact b = true) :
    mulhuTW a b = newTW (BitVec.ofNat 32 (a.1.toNat * b.1.toNat / 2 ^ 32)) := by
  unfold mulhuTW
  apply tagged_eq
  rw [tag_toNat ha, tag_toNat hb, BitVec.toNat_ofNat]
  have h := mod_mul_mod a.1.toNat b.1.toNat
  have hp : a.1.toNat * b.1.toNat / 2 ^ 32 < 2 ^ 32 := by
    have h1 := a.1.isLt; have h2 := b.1.isLt
    rw [Nat.div_lt_iff_lt_mul (by decide)]
    calc a.1.toNat * b.1.toNat < 2 ^ 32 * 2 ^ 32 := Nat.mul_lt_mul'' h1 h2
      _ = _ := rfl
  generalize a.1.toNat * b.1.toNat = p at *
  generalize a.1.toNat % 251 * (b.1.toNat % 251) = m at *
  have h1 : (m + 251 - p % 2 ^ 32 % 251) % 251 = p / 2 ^ 32 * 123 % 251 := by omega
  generalize m + 251 - p % 2 ^ 32 % 251 = u at *
  rw [Nat.mod_eq_of_lt hp]
  generalize p / 2 ^ 32 = q at *
  have h2 : u * 100 % 251 = q * 123 % 251 * 100 % 251 := by rw [← h1]; omega
  omega

theorem macTW_eq {d a b : TW} (hd : intact d = true) (ha : intact a = true) (hb : intact b = true) :
    macTW d a b = newTW (d.1 + a.1 * b.1) := by
  unfold macTW
  rw [mulTW_eq ha hb, addTW_eq hd (intact_newTW _)]
  rfl

theorem minTW_eq (lt : Word → Word → Bool) {a b : TW} (ha : intact a = true) (hb : intact b = true) :
    minTW lt a b = newTW (if lt b.1 a.1 then b.1 else a.1) := by
  unfold minTW; split
  · exact eq_newTW hb
  · exact eq_newTW ha

theorem maxTW_eq (lt : Word → Word → Bool) {a b : TW} (ha : intact a = true) (hb : intact b = true) :
    maxTW lt a b = newTW (if lt a.1 b.1 then b.1 else a.1) := by
  unfold maxTW; split
  · exact eq_newTW hb
  · exact eq_newTW ha

end Sys2Proof.Machine
end

