-- ==== Sys2Proof/Tests/Slice0.lean ====
section
/-! SUPPORT. The model's own tests: an ill-formed command for each check, published examples of the algorithms the spec names, a few single steps, and
for each statement with hypotheses a theorem that states and operands meet them together. -/
open Sys2Proof Sys2Proof.Machine Sys2Proof.Claims
namespace Sys2Proof.Tests

set_option Elab.async false

/-- A powered device in the mode RUN whose registers and posted words are those given. -/
def w (regs : List (Nat × Word)) (posted : List (Nat × Word)) : State :=
  { State.reset with
    sys := { State.reset.sys with mode := .run, watch := false, sillDone := false, refPresent := true }
    regs := regs.foldl (fun m x => Regs.set m x.1 x.2) State.reset.regs
    hp := { HostPort.reset with posted := posted } }

/-- The same in another mode. -/
def wIn (m : Mode) (regs : List (Nat × Word)) (posted : List (Nat × Word)) : State :=
  { w regs posted with sys := { (w regs posted).sys with mode := m } }

/-- Engine 7 runs a slice with budget left, and the device around it. -/
def e0 : Eng := { Eng.reset with state := .run, budget := 100 }
def we (x : Eng) : State := { w [] [] with eng := [(7, x)] }
def weR (regs : List (Nat × Word)) (x : Eng) : State := { w regs [] with eng := [(7, x)] }

/-- An engine whose G30 and lane 0 of V15 hold given values with their own tags. -/
def eG (v : Word) : Eng := { e0 with rf := { RegFile.zero with g := [(30, v)], gt := [(30, tagOf v)] } }
def eV (v : Word) : Eng := { e0 with rf := { RegFile.zero with v := [(120, v)], vt := [(120, tagOf v)] } }

def h0 : Hdr := ⟨false, false, 0⟩
def hP : Hdr := ⟨true, false, 0⟩
def hN : Hdr := ⟨false, true, 0⟩

/-- A command of OP 2 in the window, and the owner key that its signature verifies under. -/
def keyState2 : State :=
  { wIn .service [(Reg.PEG_KCMD 0, 0x59454B50), (Reg.PEG_KCMD 1, 0x302), (Reg.PEG_KCMD 4, 0x1), (Reg.PEG_KCMD 48, 0xF7FBA343), (Reg.PEG_KCMD 49, 0x4F6A24EB), (Reg.PEG_KCMD 50, 0xB8F9D8BB), (Reg.PEG_KCMD 51, 0xA84CBA25), (Reg.PEG_KCMD 52, 0x2EF4D593), (Reg.PEG_KCMD 53, 0xE05BF5D9), (Reg.PEG_KCMD 54, 0x44C642B), (Reg.PEG_KCMD 55, 0x7BD114D9), (Reg.PEG_KCMD 56, 0xF7FBA343), (Reg.PEG_KCMD 57, 0x4F6A24EB), (Reg.PEG_KCMD 58, 0xB8F9D8BB), (Reg.PEG_KCMD 59, 0xA84CBA25), (Reg.PEG_KCMD 60, 0x2EF4D593), (Reg.PEG_KCMD 61, 0xE05BF5D9), (Reg.PEG_KCMD 62, 0x44C642B), (Reg.PEG_KCMD 63, 0x7BD114D9), (Reg.PEG_NONCE 0, 1), (Reg.FLT_SRC 326, 0)] [(Reg.PEG_KCTL, 1)] with
    peg := { Peg.reset with owner := [(0, beBytes 64 0x2CBF7707CDA9C86C1478C3978536D4CDA76AF1118FB201711BBEA9C7F00799A583D30B103CD0BD1C2B294884340E5B3DE695B2F6667E01832EA11A8F4FF5C5EB)], hostKey := List.replicate 16 0 } }

/-- A command of OP 5 in the window, and the owner key that its signature verifies under. -/
def keyState5 : State :=
  { wIn .service [(Reg.PEG_KCMD 0, 0x59454B50), (Reg.PEG_KCMD 1, 0x305), (Reg.PEG_KCMD 4, 0x1), (Reg.PEG_KCMD 12, 0xFFFFFFFF), (Reg.PEG_KCMD 48, 0xC41C2310), (Reg.PEG_KCMD 49, 0x72B2D86A), (Reg.PEG_KCMD 50, 0x45F0D5F9), (Reg.PEG_KCMD 51, 0xE89D5F39), (Reg.PEG_KCMD 52, 0xDD120F05), (Reg.PEG_KCMD 53, 0xB16CE545), (Reg.PEG_KCMD 54, 0x7988D80D), (Reg.PEG_KCMD 55, 0x67C36F49), (Reg.PEG_KCMD 56, 0xC41C2310), (Reg.PEG_KCMD 57, 0x72B2D86A), (Reg.PEG_KCMD 58, 0x45F0D5F9), (Reg.PEG_KCMD 59, 0xE89D5F39), (Reg.PEG_KCMD 60, 0xDD120F05), (Reg.PEG_KCMD 61, 0xB16CE545), (Reg.PEG_KCMD 62, 0x7988D80D), (Reg.PEG_KCMD 63, 0x67C36F49), (Reg.PEG_NONCE 0, 1), (Reg.FLT_SRC 326, 0)] [(Reg.PEG_KCTL, 1)] with
    peg := { Peg.reset with owner := [(0, beBytes 64 0x8FCFA5700CD84A4B4BA51E14ABC638F4D67D0C365BA7C67FCD4CAE3BEB7606BDBD4D1FD7816B3B6AE3CD08E93A32AA71C02FC925E81C3E37BF15A69AE6B96A6B)], hostKey := List.replicate 16 0 } }

/-- A command of OP 6 in the window, and the owner key that its signature verifies under. -/
def keyState6 : State :=
  { wIn .service [(Reg.PEG_KCMD 0, 0x59454B50), (Reg.PEG_KCMD 1, 0x6), (Reg.PEG_KCMD 4, 0x1), (Reg.PEG_KCMD 48, 0x9DE87D4C), (Reg.PEG_KCMD 49, 0x1E826F91), (Reg.PEG_KCMD 50, 0xE3F5DFDB), (Reg.PEG_KCMD 51, 0x14D21F32), (Reg.PEG_KCMD 52, 0x4DF6B43D), (Reg.PEG_KCMD 53, 0xA0D427C0), (Reg.PEG_KCMD 54, 0xDA5ABF90), (Reg.PEG_KCMD 55, 0x71CF6118), (Reg.PEG_KCMD 56, 0x9DE87D4C), (Reg.PEG_KCMD 57, 0x1E826F91), (Reg.PEG_KCMD 58, 0xE3F5DFDB), (Reg.PEG_KCMD 59, 0x14D21F32), (Reg.PEG_KCMD 60, 0x4DF6B43D), (Reg.PEG_KCMD 61, 0xA0D427C0), (Reg.PEG_KCMD 62, 0xDA5ABF90), (Reg.PEG_KCMD 63, 0x71CF6118), (Reg.PEG_NONCE 0, 1), (Reg.FLT_SRC 326, 0)] [(Reg.PEG_KCTL, 1)] with
    peg := { Peg.reset with owner := [(0, beBytes 64 0x70E75CC355CB9E5B2745197B12A58EA52396C7DD46D06F8462E11C6D2D69BF188EB0735430797CE08E8C247305E1971DA5E35363D02A695FAF3596F21435F209)], hostKey := List.replicate 16 0 } }

/-- A command of OP 7 in the window, and the owner key that its signature verifies under. -/
def keyState7 : State :=
  { wIn .service [(Reg.PEG_KCMD 0, 0x59454B50), (Reg.PEG_KCMD 1, 0x7), (Reg.PEG_KCMD 4, 0x1), (Reg.PEG_KCMD 12, 0xFFFFFF03), (Reg.PEG_KCMD 48, 0x9B9630B4), (Reg.PEG_KCMD 49, 0x7FB80FB0), (Reg.PEG_KCMD 50, 0x6F6414ED), (Reg.PEG_KCMD 51, 0x826A65FD), (Reg.PEG_KCMD 52, 0x3D1A9F2F), (Reg.PEG_KCMD 53, 0x136D1ED5), (Reg.PEG_KCMD 54, 0xB53D755F), (Reg.PEG_KCMD 55, 0x763A2DDC), (Reg.PEG_KCMD 56, 0x9B9630B4), (Reg.PEG_KCMD 57, 0x7FB80FB0), (Reg.PEG_KCMD 58, 0x6F6414ED), (Reg.PEG_KCMD 59, 0x826A65FD), (Reg.PEG_KCMD 60, 0x3D1A9F2F), (Reg.PEG_KCMD 61, 0x136D1ED5), (Reg.PEG_KCMD 62, 0xB53D755F), (Reg.PEG_KCMD 63, 0x763A2DDC), (Reg.PEG_NONCE 0, 1), (Reg.FLT_SRC 326, 0)] [(Reg.PEG_KCTL, 1)] with
    peg := { Peg.reset with owner := [(0, beBytes 64 0xB1C3B85E6A5E762AE29DEF787205DBD4B5B65BD009FD20C7659D53B1743586D0D681D0E7128A293CE8A458D166142C85CAE0363271032659720636DCE6877980)], hostKey := List.replicate 16 0 } }

/-- A command of OP 8 in the window, and the owner key that its signature verifies under. -/
def keyState8 : State :=
  { wIn .service [(Reg.PEG_KCMD 0, 0x59454B50), (Reg.PEG_KCMD 1, 0x8), (Reg.PEG_KCMD 4, 0x1), (Reg.PEG_KCMD 12, 0x3), (Reg.PEG_KCMD 48, 0xAEDEB7FE), (Reg.PEG_KCMD 49, 0x451F7C60), (Reg.PEG_KCMD 50, 0xD0A15F8E), (Reg.PEG_KCMD 51, 0x9845FBF7), (Reg.PEG_KCMD 52, 0xDFEAD79), (Reg.PEG_KCMD 53, 0x1CD353A9), (Reg.PEG_KCMD 54, 0x475AD912), (Reg.PEG_KCMD 55, 0x8D79C56F), (Reg.PEG_KCMD 56, 0xAEDEB7FE), (Reg.PEG_KCMD 57, 0x451F7C60), (Reg.PEG_KCMD 58, 0xD0A15F8E), (Reg.PEG_KCMD 59, 0x9845FBF7), (Reg.PEG_KCMD 60, 0xDFEAD79), (Reg.PEG_KCMD 61, 0x1CD353A9), (Reg.PEG_KCMD 62, 0x475AD912), (Reg.PEG_KCMD 63, 0x8D79C56F), (Reg.PEG_NONCE 0, 1), (Reg.FLT_SRC 326, 0)] [(Reg.PEG_KCTL, 1)] with
    peg := { Peg.reset with owner := [(0, beBytes 64 0xCF1906D03967B61C6A16431EF4CCA4F91854C1B7B3A5777F83FE537E0D6804B1B71799A4E7AE9D5CCAB7CA67D2AF2E77B4BC9F85137A3E272E5A2C7828B2FFA4)], hostKey := List.replicate 16 0 } }

/-- A command of OP 3 in the window, and the owner key that its signature verifies under. -/
def keyState3 : State :=
  { wIn .service [(Reg.PEG_KCMD 0, 0x59454B50), (Reg.PEG_KCMD 1, 0x3F03), (Reg.PEG_KCMD 4, 0x1), (Reg.PEG_KCMD 16, 0xF2D1176B), (Reg.PEG_KCMD 17, 0x47422CE1), (Reg.PEG_KCMD 18, 0xE5E6BCF8), (Reg.PEG_KCMD 19, 0xF240A463), (Reg.PEG_KCMD 20, 0x817D0377), (Reg.PEG_KCMD 21, 0xA033EB2D), (Reg.PEG_KCMD 22, 0x4539A1F4), (Reg.PEG_KCMD 23, 0x96C298D8), (Reg.PEG_KCMD 24, 0xE242E34F), (Reg.PEG_KCMD 25, 0x9B7F1AFE), (Reg.PEG_KCMD 26, 0x4AEBE78E), (Reg.PEG_KCMD 27, 0x169E0F7C), (Reg.PEG_KCMD 28, 0x5733CE2B), (Reg.PEG_KCMD 29, 0xCE5E316B), (Reg.PEG_KCMD 30, 0x6840B6CB), (Reg.PEG_KCMD 31, 0xF551BF37), (Reg.PEG_KCMD 48, 0x7863D62), (Reg.PEG_KCMD 49, 0x3F13433A), (Reg.PEG_KCMD 50, 0xD272922E), (Reg.PEG_KCMD 51, 0xDD722845), (Reg.PEG_KCMD 52, 0x37F2633B), (Reg.PEG_KCMD 53, 0xB7257CC8), (Reg.PEG_KCMD 54, 0xBB886CF0), (Reg.PEG_KCMD 55, 0x8C3A47C5), (Reg.PEG_KCMD 56, 0x7863D62), (Reg.PEG_KCMD 57, 0x3F13433A), (Reg.PEG_KCMD 58, 0xD272922E), (Reg.PEG_KCMD 59, 0xDD722845), (Reg.PEG_KCMD 60, 0x37F2633B), (Reg.PEG_KCMD 61, 0xB7257CC8), (Reg.PEG_KCMD 62, 0xBB886CF0), (Reg.PEG_KCMD 63, 0x8C3A47C5), (Reg.PEG_NONCE 0, 1), (Reg.FLT_SRC 326, 0)] [(Reg.PEG_KCTL, 1)] with
    peg := { Peg.reset with owner := [(0, beBytes 64 0x8172D5A29773B28A349C5D7127B14EADC14EB983812A76419156E4DC2641765F726E3EBC0F7DA1B51E02281189FE8795E57BC8C4C853DB1A768B8568F08C3732)], hostKey := List.replicate 16 0 } }

/-- A command of OP 4 in the window, and the owner key that its signature verifies under. -/
def keyState4 : State :=
  { wIn .service [(Reg.PEG_KCMD 0, 0x59454B50), (Reg.PEG_KCMD 1, 0x4), (Reg.PEG_KCMD 4, 0x4), (Reg.PEG_KCMD 16, 0xF2D1176B), (Reg.PEG_KCMD 17, 0x47422CE1), (Reg.PEG_KCMD 18, 0xE5E6BCF8), (Reg.PEG_KCMD 19, 0xF240A463), (Reg.PEG_KCMD 20, 0x817D0377), (Reg.PEG_KCMD 21, 0xA033EB2D), (Reg.PEG_KCMD 22, 0x4539A1F4), (Reg.PEG_KCMD 23, 0x96C298D8), (Reg.PEG_KCMD 24, 0xE242E34F), (Reg.PEG_KCMD 25, 0x9B7F1AFE), (Reg.PEG_KCMD 26, 0x4AEBE78E), (Reg.PEG_KCMD 27, 0x169E0F7C), (Reg.PEG_KCMD 28, 0x5733CE2B), (Reg.PEG_KCMD 29, 0xCE5E316B), (Reg.PEG_KCMD 30, 0x6840B6CB), (Reg.PEG_KCMD 31, 0xF551BF37), (Reg.PEG_KCMD 48, 0x2398DFBE), (Reg.PEG_KCMD 49, 0x9913B1FC), (Reg.PEG_KCMD 50, 0x8826CAAC), (Reg.PEG_KCMD 51, 0xAD194238), (Reg.PEG_KCMD 52, 0xEA26290), (Reg.PEG_KCMD 53, 0xD4593F36), (Reg.PEG_KCMD 54, 0x979592B3), (Reg.PEG_KCMD 55, 0x4ADD84D4), (Reg.PEG_KCMD 56, 0x2398DFBE), (Reg.PEG_KCMD 57, 0x9913B1FC), (Reg.PEG_KCMD 58, 0x8826CAAC), (Reg.PEG_KCMD 59, 0xAD194238), (Reg.PEG_KCMD 60, 0xEA26290), (Reg.PEG_KCMD 61, 0xD4593F36), (Reg.PEG_KCMD 62, 0x979592B3), (Reg.PEG_KCMD 63, 0x4ADD84D4), (Reg.PEG_NONCE 0, 4), (Reg.FLT_SRC 326, 0)] [(Reg.PEG_KCTL, 1)] with
    peg := { Peg.reset with owner := [(0, beBytes 64 0xB6CB261CE7CE2F60F8487F7E3EF94D459134719083ECD256490C1DD763DD8C09E39F4967F77B7C2DB235B71A8B6F5BEEE3F80E0991A81B51606325ACA77E3C37)], hostKey := List.replicate 16 0 } }

/-- A command whose checks but the unwrapping of its key pass is accepted, or ends with WRAP. -/
theorem key_checks (s : State) (c : KeyCmd)
    (h : keyFormatOk c = true ∧ c.serial = serialBytes s ∧ c.nonce = nonceBytes s ∧ keyModeOk s c.op = true ∧ signerOk s c = true ∧
      ecdsaVerify (ownerKey s c.signer) (sha256 c.body) c.sig = true ∧ c.op ≠ 5 ∧ keyProtected s c = false) :
    keyResult s c true = 0 ∨ keyResult s c true = 8 := by
  obtain ⟨h1, h2, h3, h4, h5, h6, h7, h9⟩ := h
  unfold keyResult
  simp only [h1, h2, h3, h4, h5, h6, h7, h9]
  by_cases h : (c.op = 3 ∨ c.op = 4) <;> by_cases k : loadedKey s c = none <;> simp [h, k]

/-- A device that is ready to convert: the registers and posted words given, and the triggers that are due. -/
def adcState (due : List (Nat × Nat)) (regs : List (Nat × Word)) (posted : List (Nat × Word)) : State :=
  { w regs posted with adc := { Adc.reset with due := due } }

/-- All 262,144 slots of the recorder with records of severity HALT, and one of severity NOTE queued. -/
def ring : SMap (List Word) := List.replicate 262144 (0, [0, 0, 0, 0x03000000])
def fullRing : State :=
  { w [] [] with rcd := { Rec.reset with queue := [⟨0, 0, false, false, false, 0, 0, 0, 0, 0, [], false⟩], slots := ring } }

theorem ring_length : ring.length = 262144 := List.length_replicate
theorem ring_entries (x : Nat × List Word) (h : x ∈ ring) : x = (0, [0, 0, 0, 0x03000000]) := List.eq_of_mem_replicate h

/-- Samples that never move hold no bump. -/
theorem search_flat (s : State) (h : 0 < s.rf Reg.GAU_THR 16 16) (samples : List Nat) (hz : ∀ x ∈ samples, x = 0) :
    runSearch s false samples = none := by
  have flat : ∀ l : List (Nat × Nat), (∀ p ∈ l, p.2 = 0) →
      l.foldl (fun x p => Search.offStep (s.rf Reg.GAU_THR 16 16) x (p.1 + 100) p.2) ⟨false, 0, 0, 0, none⟩ = ⟨false, 0, 0, 0, none⟩ := by
    intro l
    induction l with
    | nil => intro _; rfl
    | cons p l ih =>
      intro hl
      rw [List.foldl_cons, show Search.offStep (s.rf Reg.GAU_THR 16 16) ⟨false, 0, 0, 0, none⟩ (p.1 + 100) p.2 = ⟨false, 0, 0, 0, none⟩ by
        simp [Search.offStep, hl p (List.mem_cons_self ..), Nat.ne_of_gt h]]
      exact ih fun q hq => hl q (List.mem_cons_of_mem _ hq)
  have e : samples.headD 0 = 0 := by
    cases samples with
    | nil => rfl
    | cons a l => exact hz a (List.mem_cons_self ..)
  unfold runSearch
  simp only [e, Bool.false_eq_true, if_false]
  rw [flat _ fun p hp => hz _ (List.of_mem_zip hp).2]

/-- As many samples as a search takes, none of which moves. -/
def flatSamples : List (BitVec 16) := List.replicate 19901 0
theorem flatSamples_length : flatSamples.length = 19901 := List.length_replicate
theorem flatSamples_zero (x : Nat) (h : x ∈ flatSamples.map BitVec.toNat) : x = 0 := by
  obtain ⟨y, hy, rfl⟩ := List.mem_map.mp h
  rw [List.eq_of_mem_replicate hy]; rfl

/-- A host command with the tag that the key of sixteen zero bytes gives it: set KILL. -/
def hostCmdState : State :=
  { w [(Reg.PEG_HC_ADDR, BitVec.ofNat 32 Reg.TRU_KILL), (Reg.PEG_HC_DATA, 0xA501), (Reg.PEG_HC_CTR_LO, 1), (Reg.PEG_HC_TAG_LO, 0xDE654EAB)]
      [(Reg.PEG_HC_TAG_HI, 0xD026F461)] with
    peg := { Peg.reset with hostKey := List.replicate 16 0 } }
def hostCmdTag : Word := 0xD026F461

/-- A small bank that writes none of the tables of R123, on a device with all its channels, overflows none of them. -/
theorem not_overflows (s : State) (h1 : s.txn.shadow.length + s.txn.beyond.length ≤ 4096)
    (h2 : (writesIn s 0x024000 0x028000 || writesIn s 0x074000 0x078000 || writesIn s 0x080000 0x090000 || writesIn s 0x0A9000 0x0AB000) = false)
    (h3 : ∀ i : Fin 128, (s.merged.flag (Reg.TASK_CFG i) 31 && s.merged.flag (Reg.TASK_CFG i) 27) = false)
    (h4 : ∀ n : Fin 4, writesIn s (0x081000 + 0x4000 * n) (0x083000 + 0x4000 * n) = false)
    (h5 : ∀ n q : Fin 4, s.merged.rf (Reg.BUS_QCFG n q) 0 10 ≤ 256) (h6 : ∀ n : Fin 4, s.merged.rf (Reg.BUS_TXNUM n) 0 7 ≤ 64)
    (h7 : s.sys.variant ≠ 2) : ¬ overflows s s.merged := by
  simp only [Bool.or_eq_false_iff] at h2
  rintro (h | ⟨_, i, _, _, h, _⟩ | ⟨h, _⟩ | ⟨h, _⟩ | ⟨n, h, _⟩ | ⟨n, q, h⟩ | ⟨n, h⟩ | ⟨h, _⟩ | ⟨h, _⟩)
  · omega
  · simp [h3 i] at h
  · simp [h2.1.1.1] at h
  · simp [h2.1.1.2] at h
  · simp [h4 n] at h
  · exact absurd h (by have := h5 n q; omega)
  · exact absurd h (by have := h6 n; omega)
  · simp [h2.2] at h
  · exact h7 h


/-! ### Well-formedness: an ill-formed term for each check, which it refuses -/

theorem test_wf_stamp : Instr.wf (.verify 1000000) = false ∧ Instr.wf (.verify 999999) = true := by decide
theorem test_wf_format_r : Instr.wf (.add 0 ⟨false, false, 0⟩ ⟨1, 2, 3, 0, 0, 0, 1⟩) = false := by decide
theorem test_wf_format_m : Instr.wf (.ld 0 ⟨false, false, 0⟩ ⟨1, 2, 3, 0, 0, 1, 0⟩) = false := by decide
theorem test_wf_low_half : Instr.wf (.lowHalfRead 0x10002) = false ∧ Instr.wf (.lowHalfRead 0x10001) = true := by decide
theorem test_wf_high_half : Instr.wf (.highHalfWrite 0 0x10001 0) = false := by decide
theorem test_wf_inertial : Instr.wf (.frameBoundary ⟨⟨[0], 0, false, false, true⟩, [], [], []⟩) = false := by decide
theorem test_wf_temperatures : Instr.wf (.outputCutoff [some 0] 0 0 0) = false := by decide
theorem test_wf_samples : Instr.wf (.frameValueSample [] []) = false := by decide
theorem test_wf_image_word : Instr.wf (.snapshotFlip [(0, 252, 1)]) = false ∧ Instr.wf (.snapshotFlip [(0, 252, 2)]) = true := by decide
theorem test_wf_search : Instr.wf (.gaugeMiss 1000000 0 []) = false := by decide
/-- A standard identifier has 11 bits; the data are as long as LEN says; a classic frame carries at most 8 bytes; no remote frame of the FD
format exists (R328). -/
theorem test_wf_identifier : Instr.wf (.frameReceived 0 0 ⟨false, false, false, 2048, 0, false, false, []⟩ 0) = false := by decide
theorem test_wf_data : Instr.wf (.frameReceived 0 0 ⟨false, false, false, 5, 2, false, false, [1]⟩ 0) = false := by decide
theorem test_wf_length : Instr.wf (.frameReceived 0 0 ⟨false, false, false, 5, 9, false, false, List.replicate 9 0⟩ 0) = false := by decide
theorem test_wf_remote : Instr.wf (.frameReceived 0 0 ⟨true, true, false, 5, 0, false, false, []⟩ 0) = false := by decide
theorem test_wf_self_test : Instr.wf (.bootComplete 0 ⟨6, [], false⟩) = false := by decide
theorem test_wf_key_slot : Instr.wf (.bootComplete 0 ⟨0, [(80, false)], false⟩) = false := by decide

/-! ### Algorithms the spec names: their published examples (FIPS 180-4, FIPS 197, RFC 3720, SEC 2) -/

theorem test_sha256_abc : (sha256 [0x61, 0x62, 0x63]).take 4 = [0xBA, 0x78, 0x16, 0xBF] := by decide +kernel
theorem test_aes_fips197 : aesEncrypt ((List.range 16).map (BitVec.ofNat 8)) ((List.range 16).map fun i => BitVec.ofNat 8 (17 * i)) =
    [0x69, 0xC4, 0xE0, 0xD8, 0x6A, 0x7B, 0x04, 0x30, 0xD8, 0xCD, 0xB7, 0x80, 0x70, 0xB4, 0xC5, 0x5A] := by decide +kernel
theorem test_crc32c : crc32c [0x31, 0x32, 0x33, 0x34, 0x35, 0x36, 0x37, 0x38, 0x39] = 0xE3069283 := by decide +kernel
theorem test_p256_double : (ecMul 256 2 (some g256)).map Prod.fst =
    some 0x7CF27B188D034F7E8A52380304B51AC3C08969E277F21B35A60B48FC47669978 := by decide +kernel

/-! ### Single steps on small states, with results worked out by hand from the rule named -/

/-- The state that a command answers. -/
def after (c : Instr) (s : State) : State := match exec c s with
  | .next u => u
  | _ => s

/-- R65: the sum is held to the signed range, and its tag is that of the result. -/
theorem test_adds_saturates : (after (.adds 7 h0 ⟨31, 30, 30, 0, 0, 0, 0⟩) (we (eG 0x7FFFFFFF))).gOf 7 31 = (0x7FFFFFFF, tagOf 0x7FFFFFFF) := by decide +kernel
/-- R63: the quotient truncates toward zero and the remainder takes the sign of the dividend. -/
theorem test_div_truncates :
    let u := after (.div 7 h0 ⟨31, 30, 29, 28, 0, 0, 0⟩)
      (we { e0 with rf := { RegFile.zero with g := [(29, 2), (30, 0xFFFFFFF9)], gt := [(29, 2), (30, tagOf 0xFFFFFFF9)] } })
    (u.gOf 7 31).1 = 0xFFFFFFFD ∧ (u.gOf 7 28).1 = 0xFFFFFFFF := by decide +kernel
/-- R63: a division by zero gives 0 and the dividend. -/
theorem test_divu_by_zero :
    let u := after (.divu 7 h0 ⟨31, 30, 29, 28, 0, 0, 0⟩) (we (eG 9))
    (u.gOf 7 31).1 = 0 ∧ (u.gOf 7 28).1 = 9 := by decide +kernel
/-- R63: the high word of the signed product. -/
theorem test_mulhs_sign : ((after (.mulhs 7 h0 ⟨31, 30, 30, 0, 0, 0, 0⟩) (we (eG 0x80000000))).gOf 7 31).1 = 0x40000000 := by decide +kernel
/-- R64: EXT takes the field at IMM[4:0] of width IMM[12:8] + 1. -/
theorem test_ext_field : ((after (.ext 7 h0 ⟨31, 30, 0, 0x0704⟩) (we (eG 0xABCDE))).gOf 7 31).1 = 0xCD := by decide +kernel
/-- R42: G0 reads 0 whatever is written to it. -/
theorem test_g0_discards : (after (.movi 7 h0 ⟨0, 0, 0, 5⟩) (we e0)).gOf 7 0 = (0, 0) := by decide +kernel
/-- R5, R46: a stored word lies in DMEM with its lowest byte first, and its tag with it (R34). -/
theorem test_store_little_endian :
    let u := after (.st 7 h0 ⟨30, 0, 0, 0, 0, 0, 8⟩) (we (eG 0x01020304))
    byteOf u 7 0 8 = 4 ∧ byteOf u 7 0 11 = 1 ∧ tagAt u 7 0 8 = tagOf 0x01020304 := by decide +kernel
/-- R355: the high half completes the word of the held low half, which is posted. -/
theorem test_word_is_posted :
    (after (.highHalfWrite 0 0x10006 0x1234) (after (.lowHalfWrite 0 0x10004 0x5678) (w [] []))).hp.posted = [(0x10004, 0x12345678)] := by decide +kernel
/-- R409: the count of a raise, its sticky bit and its detail. -/
theorem test_raise_is_latched :
    let u := after (.faultRaise 0 48 true 7 0 0 0) (w [] [])
    u.rd (Reg.FLT_SST 48) = 0x00000101 ∧ u.rd (Reg.FLT_SDET 48) = 7 := by decide +kernel
/-- R410: the first raise is captured: VALID, severity 1, source 48. -/
theorem test_first_raise : (after (.faultRaise 100 48 true 7 0 0 0) (w [] [])).rd Reg.FLT_FIRST = 0x90300000 := by decide +kernel
/-- R17: the frame number advances at a boundary, and the offset starts again. -/
theorem test_boundary : let u := after (.frameBoundary FrameSample.zero) { w [] [] with frame := 0xFFFFFFFFFFFF, edge := 1000 }
    u.frame = 0 ∧ u.edge = 0 := by decide +kernel

/-! ### Witnesses: for each statement with hypotheses, states and operands that meet them together -/

/-- States and operands that meet the hypotheses of every clause of `ScalarResults`. -/
theorem witness_ScalarResults :
    (∃ (p : InsnC) (s : State) (e : Fin 8) (h : Hdr) (f : FmtR),
    p ∈ carriedOperand ∧
    goes s (↑e) p.opc h f.fields = true ∧
    inTags (s.readG (↑e) f.a.toNat) ∧
    inTags (s.readG (↑e) f.b.toNat)) ∧
    (∃ (s : State) (e : Fin 8) (h : Hdr) (f : FmtR),
    inTags (s.readG (↑e) f.a.toNat) ∧
    goes s (↑e) 29 h f.fields = true) ∧
    (∃ (s : State) (e : Fin 8) (h : Hdr) (f : FmtR) (d : Word) (a : Word) (b : Word) (td : Nat) (ta : Nat) (tb : Nat) (lo : Nat),
    inTags (s.readG (↑e) f.a.toNat) ∧
    goes s (↑e) 23 h f.fields = true ∧
    (d, BitVec.ofNat 8 td) = s.readG (↑e) f.d.toNat ∧
    (a, BitVec.ofNat 8 ta) = s.readG (↑e) f.a.toNat ∧
    (b, BitVec.ofNat 8 tb) = s.readG (↑e) f.b.toNat ∧
    td < 251 ∧
    ta < 251 ∧
    tb < 251 ∧
    lo = BitVec.toNat a * BitVec.toNat b % 2 ^ 32) ∧
    (∃ (p : InsnR) (s : State) (e : Fin 8) (h : Hdr) (f : FmtR),
    p ∈ twoOperand ∧
    goes s (↑e) p.opc h f.fields = true ∧
    intact (s.readG (↑e) f.a.toNat) = true ∧
    intact (s.readG (↑e) f.b.toNat) = true) ∧
    (∃ (p : InsnR) (s : State) (e : Fin 8) (h : Hdr) (f : FmtR),
    p ∈ oneOperand ∧
    goes s (↑e) p.opc h f.fields = true ∧
    intact (s.readG (↑e) f.a.toNat) = true) :=
  ⟨⟨carriedOperand.head (List.cons_ne_nil _ _), we e0, 7, h0, ⟨31, 30, 29, 0, 0, 0, 0⟩,
    by exact ⟨(List.head_mem _), by decide +kernel, by decide +kernel, by decide +kernel⟩⟩,
   ⟨we e0, 7, h0, ⟨31, 30, 0, 0, 0, 0, 0⟩,
    by decide +kernel⟩,
   ⟨we e0, 7, h0, ⟨31, 30, 29, 0, 0, 0, 0⟩, 0, 0, 0, 0, 0, 0, 0,
    by decide +kernel⟩,
   ⟨⟨.add, 0x10, fun a b => a + b⟩, we e0, 7, h0, ⟨31, 30, 29, 0, 0, 0, 0⟩,
    by exact ⟨List.Mem.head _, by decide +kernel⟩⟩,
   ⟨⟨.abs, 0x1C, fun a _ => if a.toInt < 0 then -a else a⟩, we e0, 7, h0, ⟨31, 30, 0, 0, 0, 0, 0⟩,
    by exact ⟨List.Mem.head _, by decide +kernel⟩⟩⟩

/-- States and operands that meet the hypotheses of every clause of `ImmediateResults`. -/
theorem witness_ImmediateResults :
    (∃ (p : InsnI) (s : State) (e : Fin 8) (h : Hdr) (f : FmtI),
    p ∈ immediate ∧
    goes s (↑e) p.opc h f.fields = true ∧
    intact (s.readG (↑e) f.a.toNat) = true) :=
  ⟨⟨.addi, 0x20, fun a m => a + m⟩, we e0, 7, h0, ⟨31, 30, 0, 0xFFFFFFFF⟩,
    by exact ⟨List.Mem.head _, by decide +kernel⟩⟩

/-- States and operands that meet the hypotheses of every clause of `OtherArithmeticResults`. -/
theorem witness_OtherArithmeticResults :
    (∃ (s : State) (e : Fin 8) (h : Hdr) (f : FmtR),
    goes s (↑e) 23 h f.fields = true ∧
    intact (s.readG (↑e) f.d.toNat) = true ∧
    intact (s.readG (↑e) f.a.toNat) = true ∧
    intact (s.readG (↑e) f.b.toNat) = true) ∧
    (∃ (s : State) (e : Fin 8) (h : Hdr) (f : FmtR),
    goes s (↑e) 30 h f.fields = true ∧
    intact (s.readG (↑e) f.a.toNat) = true ∧
    intact (s.readG (↑e) f.b.toNat) = true) ∧
    (∃ (s : State) (e : Fin 8) (h : Hdr) (f : FmtR),
    goes s (↑e) 31 h f.fields = true ∧
    intact (s.readG (↑e) f.a.toNat) = true ∧
    intact (s.readG (↑e) f.b.toNat) = true) ∧
    (∃ (s : State) (e : Fin 8) (h : Hdr) (g : FmtI),
    goes s (↑e) 34 h g.fields = true) ∧
    (∃ (s : State) (e : Fin 8) (h : Hdr) (g : FmtI),
    goes s (↑e) 45 h g.fields = true ∧
    intact (s.readG (↑e) g.d.toNat) = true ∧
    intact (s.readG (↑e) g.a.toNat) = true) :=
  ⟨⟨we e0, 7, h0, ⟨0, 0, 0, 0, 0, 0, 0⟩,
    by decide +kernel⟩,
   ⟨we e0, 7, h0, ⟨0, 0, 0, 0, 0, 0, 0⟩,
    by decide +kernel⟩,
   ⟨we e0, 7, h0, ⟨0, 0, 0, 0, 0, 0, 0⟩,
    by decide +kernel⟩,
   ⟨we e0, 7, h0, ⟨0, 0, 0, 0⟩,
    by decide +kernel⟩,
   ⟨we e0, 7, h0, ⟨0, 0, 0, 0⟩,
    by decide +kernel⟩⟩

/-- States and operands that meet the hypotheses of every clause of `PredicateAndMoveResults`. -/
theorem witness_PredicateAndMoveResults :
    (∃ (s : State) (e : Fin 8) (h : Hdr) (f : FmtR),
    goes s (↑e) 64 h f.fields = true ∧
    intact (s.readG (↑e) f.a.toNat) = true ∧
    intact (s.readG (↑e) f.b.toNat) = true) ∧
    (∃ (s : State) (e : Fin 8) (h : Hdr) (g : FmtI),
    goes s (↑e) 43 h g.fields = true ∧
    intact (s.readG (↑e) g.a.toNat) = true) ∧
    (∃ (s : State) (e : Fin 8) (h : Hdr) (f : FmtR),
    goes s (↑e) 65 h f.fields = true) ∧
    (∃ (s : State) (e : Fin 8) (h : Hdr) (f : FmtR),
    goes s (↑e) 66 h f.fields = true) ∧
    (∃ (s : State) (e : Fin 8) (h : Hdr) (f : FmtR),
    goes s (↑e) 67 h f.fields = true) ∧
    (∃ (s : State) (e : Fin 8) (h : Hdr) (f : FmtR),
    goes s (↑e) 81 h f.fields = true ∧
    inTags (s.readG (↑e) f.a.toNat) ∧
    inTags (s.readG (↑e) f.b.toNat)) ∧
    (∃ (s : State) (e : Fin 8) (h : Hdr) (f : FmtR),
    goes s (↑e) 82 h f.fields = true) ∧
    (∃ (s : State) (e : Fin 8) (h : Hdr) (f : FmtR),
    goes s (↑e) 85 h f.fields = true) ∧
    (∃ (s : State) (e : Fin 8) (h : Hdr) (f : FmtR),
    goes s (↑e) 80 h f.fields = true ∧
    inTags (s.readG (↑e) f.a.toNat)) ∧
    (∃ (s : State) (e : Fin 8) (h : Hdr) (f : FmtR),
    goes s (↑e) 84 h f.fields = true ∧
    inTags (s.readLane (↑e) f.a.toNat f.mod.toNat)) ∧
    (∃ (s : State) (e : Fin 8) (h : Hdr) (f : FmtR),
    goes s (↑e) 83 h f.fields = true ∧
    inTags (s.readG (↑e) f.a.toNat)) :=
  ⟨⟨we e0, 7, h0, ⟨0, 0, 0, 0, 0, 0, 0⟩,
    by decide +kernel⟩,
   ⟨we e0, 7, h0, ⟨0, 0, 0, 0⟩,
    by decide +kernel⟩,
   ⟨we e0, 7, h0, ⟨7, 6, 5, 0, 0, 1, 0⟩,
    by decide +kernel⟩,
   ⟨we e0, 7, h0, ⟨7, 6, 5, 0, 0, 1, 0⟩,
    by decide +kernel⟩,
   ⟨we e0, 7, h0, ⟨0, 0, 0, 0, 0, 0, 0⟩,
    by decide +kernel⟩,
   ⟨we e0, 7, h0, ⟨0, 0, 0, 0, 0, 0, 0⟩,
    by decide +kernel⟩,
   ⟨we e0, 7, h0, ⟨0, 0, 0, 0, 0, 0, 0⟩,
    by decide +kernel⟩,
   ⟨we e0, 7, h0, ⟨0, 0, 0, 0, 0, 0, 0⟩,
    by decide +kernel⟩,
   ⟨we e0, 7, h0, ⟨0, 0, 0, 0, 0, 0, 0⟩,
    by decide +kernel⟩,
   ⟨we e0, 7, h0, ⟨0, 0, 0, 0, 0, 0, 0⟩,
    by decide +kernel⟩,
   ⟨we e0, 7, h0, ⟨0, 0, 0, 0, 0, 0, 0⟩,
    by decide +kernel⟩⟩

/-- States and operands that meet the hypotheses of every clause of `AllVectorResults`. -/
theorem witness_AllVectorResults :
    (∃ (p : InsnR) (s : State) (e : Fin 8) (h : Hdr) (f : FmtR),
    p ∈ twoVector ∧
    goes s (↑e) p.opc h f.fields = true ∧
    lanesIntact s (↑e) f.a.toNat f.mask ∧
    lanesIntact s (↑e) f.b.toNat f.mask) ∧
    (∃ (p : InsnR) (s : State) (e : Fin 8) (h : Hdr) (f : FmtR),
    p ∈ oneVector ∧
    goes s (↑e) p.opc h f.fields = true ∧
    lanesIntact s (↑e) f.a.toNat f.mask) ∧
    (∃ (s : State) (e : Fin 8) (h : Hdr) (f : FmtR),
    goes s (↑e) 132 h f.fields = true ∧
    lanesIntact s (↑e) f.d.toNat f.mask ∧
    lanesIntact s (↑e) f.a.toNat f.mask ∧
    lanesIntact s (↑e) f.b.toNat f.mask) ∧
    (∃ (s : State) (e : Fin 8) (h : Hdr) (f : FmtR),
    goes s (↑e) 135 h f.fields = true ∧
    intact (s.readG (↑e) f.a.toNat) = true) ∧
    (∃ (s : State) (e : Fin 8) (h : Hdr) (f : FmtR),
    goes s (↑e) 152 h f.fields = true ∧
    intact (s.readG (↑e) f.c.toNat) = true ∧
    lanesIntact s (↑e) f.a.toNat f.mask ∧
    lanesIntact s (↑e) f.b.toNat f.mask) ∧
    (∃ (s : State) (e : Fin 8) (h : Hdr) (f : FmtR),
    goes s (↑e) 136 h f.fields = true ∧
    lanesIntact s (↑e) f.a.toNat 255) ∧
    (∃ (s : State) (e : Fin 8) (h : Hdr) (f : FmtR),
    goes s (↑e) 151 h f.fields = true ∧
    lanesIntact s (↑e) f.a.toNat f.mask ∧
    lanesIntact s (↑e) f.b.toNat f.mask) :=
  ⟨⟨⟨.vadd, 0x80, fun a b => a + b⟩, we e0, 7, h0, ⟨15, 14, 13, 0, 0xFF, 0, 0⟩,
    by exact ⟨List.Mem.head _, by decide +kernel⟩⟩,
   ⟨⟨.vshl, 0x93, fun a m => a <<< (m.toNat % 32)⟩, we e0, 7, h0, ⟨15, 14, 0, 0, 0xFF, 31, 0⟩,
    by exact ⟨List.Mem.head _, by decide +kernel⟩⟩,
   ⟨we e0, 7, h0, ⟨15, 14, 13, 0, 0xFF, 0, 0⟩,
    by decide +kernel⟩,
   ⟨we e0, 7, h0, ⟨15, 31, 0, 0, 0x80, 0, 0⟩,
    by decide +kernel⟩,
   ⟨we e0, 7, h0, ⟨15, 14, 13, 0, 0xFF, 0, 0⟩,
    by decide +kernel⟩,
   ⟨we e0, 7, h0, ⟨31, 15, 0, 0, 0xFF, 0, 0⟩,
    by decide +kernel⟩,
   ⟨we e0, 7, h0, ⟨31, 15, 0, 0, 0xFF, 0, 0⟩,
    by decide +kernel⟩⟩

/-- States and operands that meet the hypotheses of every clause of `LoadAndStoreResults`. -/
theorem witness_LoadAndStoreResults :
    (∃ (s : State) (e : Fin 8) (h : Hdr) (f : FmtM) (o : Nat),
    intact (s.readG (↑e) f.a.toNat) = true ∧
    intact (s.readG (↑e) f.b.toNat) = true ∧
    o = regionOffset (s.readG (↑e) f.a.toNat).1 (s.readG (↑e) f.b.toNat).1 f.shift.toNat f.offset ∧
    goes s (↑e) 96 h f.fields = true ∧
    accessOk f.space.toNat o false = true ∧
    f.space.toNat < 2 ∧
    BitVec.toNat (memWord s (↑e) f.space.toNat o).2 < 251) ∧
    (∃ (s : State) (e : Fin 8) (h : Hdr) (f : FmtM) (o : Nat),
    intact (s.readG (↑e) f.a.toNat) = true ∧
    intact (s.readG (↑e) f.b.toNat) = true ∧
    o = regionOffset (s.readG (↑e) f.a.toNat).1 (s.readG (↑e) f.b.toNat).1 f.shift.toNat f.offset ∧
    goes s (↑e) 96 h f.fields = true ∧
    accessOk f.space.toNat o false = true ∧
    f.space.toNat = 2 ∧
    (s.en ↑e).stores = []) ∧
    (∃ (s : State) (e : Fin 8) (h : Hdr) (f : FmtM) (o : Nat),
    intact (s.readG (↑e) f.a.toNat) = true ∧
    intact (s.readG (↑e) f.b.toNat) = true ∧
    o = regionOffset (s.readG (↑e) f.a.toNat).1 (s.readG (↑e) f.b.toNat).1 f.shift.toNat f.offset ∧
    goes s (↑e) 96 h f.fields = true ∧
    accessOk f.space.toNat o false = true ∧
    f.space.toNat = 2 ∧
    (s.en ↑e).stores ≠ [] ∧
    f.d ≠ 0) ∧
    (∃ (s : State) (e : Fin 8) (h : Hdr) (f : FmtM) (o : Nat),
    intact (s.readG (↑e) f.a.toNat) = true ∧
    intact (s.readG (↑e) f.b.toNat) = true ∧
    o = regionOffset (s.readG (↑e) f.a.toNat).1 (s.readG (↑e) f.b.toNat).1 f.shift.toNat f.offset ∧
    goes s (↑e) 98 h f.fields = true ∧
    accessOk f.space.toNat o true = true ∧
    (∀ n < 8, BitVec.toNat (memWord s (↑e) f.space.toNat (o + 4 * n)).2 < 251)) ∧
    (∃ (s : State) (e : Fin 8) (h : Hdr) (f : FmtM) (o : Nat),
    intact (s.readG (↑e) f.a.toNat) = true ∧
    intact (s.readG (↑e) f.b.toNat) = true ∧
    o = regionOffset (s.readG (↑e) f.a.toNat).1 (s.readG (↑e) f.b.toNat).1 f.shift.toNat f.offset ∧
    goes s (↑e) 97 h f.fields = true ∧
    intact (s.readG (↑e) f.d.toNat) = true ∧
    accessOk f.space.toNat o false = true ∧
    f.space.toNat < 2) ∧
    (∃ (s : State) (e : Fin 8) (h : Hdr) (f : FmtM) (o : Nat),
    intact (s.readG (↑e) f.a.toNat) = true ∧
    intact (s.readG (↑e) f.b.toNat) = true ∧
    o = regionOffset (s.readG (↑e) f.a.toNat).1 (s.readG (↑e) f.b.toNat).1 f.shift.toNat f.offset ∧
    goes s (↑e) 97 h f.fields = true ∧
    intact (s.readG (↑e) f.d.toNat) = true ∧
    accessOk f.space.toNat o false = true ∧
    f.space.toNat = 2) ∧
    (∃ (s : State) (e : Fin 8) (h : Hdr) (f : FmtM) (o : Nat),
    intact (s.readG (↑e) f.a.toNat) = true ∧
    intact (s.readG (↑e) f.b.toNat) = true ∧
    o = regionOffset (s.readG (↑e) f.a.toNat).1 (s.readG (↑e) f.b.toNat).1 f.shift.toNat f.offset ∧
    goes s (↑e) 99 h f.fields = true ∧
    lanesIntact s (↑e) f.d.toNat 255 ∧
    accessOk f.space.toNat o true = true) :=
  ⟨⟨we e0, 7, h0, ⟨31, 30, 29, 7, 0, 0, 0x1FFFC⟩, 0x1FFFC,
    by decide +kernel⟩,
   ⟨we e0, 7, h0, ⟨31, 30, 29, 7, 2, 0, 0x10000⟩, 0x10000,
    by decide +kernel⟩,
   ⟨we { e0 with stores := [⟨0x10000, 0, 0, 0, none⟩] }, 7, h0, ⟨31, 30, 29, 7, 2, 0, 0x10000⟩, 0x10000,
    by decide +kernel⟩,
   ⟨we e0, 7, h0, ⟨15, 30, 29, 7, 0, 0, 0x1FFE0⟩, 0x1FFE0,
    by decide +kernel⟩,
   ⟨we e0, 7, h0, ⟨15, 30, 29, 7, 0, 0, 0x1FFE0⟩, 0x1FFE0,
    by decide +kernel⟩,
   ⟨we e0, 7, h0, ⟨31, 30, 29, 7, 2, 0, 0xFFFFC⟩, 0xFFFFC,
    by decide +kernel⟩,
   ⟨we e0, 7, h0, ⟨15, 30, 29, 7, 0, 0, 0x1FFE0⟩, 0x1FFE0,
    by decide +kernel⟩⟩

/-- States and operands that meet the hypotheses of every clause of `TableResults`. -/
theorem witness_TableResults :
    (∃ (s : State) (e : Fin 8) (h : Hdr) (f : FmtI) (n : Nat) (x : Int) (y : Nat → Word),
    intact (s.readG (↑e) f.a.toNat) = true ∧
    x = BitVec.toInt (s.readG (↑e) f.a.toNat).1 ∧
    f.imm.toNat % 4 = 0 ∧
    goes s (↑e) 112 h f.fields = true ∧
    1 ≤ n ∧
    n ≤ 256 ∧
    f.imm.toNat + 4 + 4 * n ≤ 131072 ∧
    memWord s (↑e) 0 f.imm.toNat = newTW (BitVec.ofNat 32 n) ∧
    (∀ k < n, memWord s (↑e) 0 (f.imm.toNat + 4 + 4 * k) = newTW (y k))) ∧
    (∃ (s : State) (e : Fin 8) (h : Hdr) (f : FmtI) (n : Nat) (sh : Nat) (x : Int) (y : Nat → Word) (x0 : Word),
    intact (s.readG (↑e) f.a.toNat) = true ∧
    x = BitVec.toInt (s.readG (↑e) f.a.toNat).1 ∧
    f.imm.toNat % 4 = 0 ∧
    goes s (↑e) 113 h f.fields = true ∧
    2 ≤ n ∧
    n ≤ 257 ∧
    sh ≤ 24 ∧
    f.imm.toNat + 8 + 4 * n ≤ 131072 ∧
    memWord s (↑e) 0 f.imm.toNat = newTW (BitVec.ofNat 32 (n + sh * 2 ^ 16)) ∧
    memWord s (↑e) 0 (f.imm.toNat + 4) = newTW x0 ∧
    (∀ k < n, memWord s (↑e) 0 (f.imm.toNat + 8 + 4 * k) = newTW (y k))) :=
  ⟨⟨we { e0 with dmem := [(0x1FBFD, 1)], dmemTag := [(0x1FBFC, tagOf 256)] }, 7, h0, ⟨31, 30, 0, 0x1FBFC⟩, 256, 0, fun _ => 0,
    by decide +kernel⟩,
   ⟨we { e0 with dmem := [(0x1FBF4, 1), (0x1FBF5, 1), (0x1FBF6, 24)], dmemTag := [(0x1FBF4, tagOf 0x180101)] }, 7, h0, ⟨31, 30, 0, 0x1FBF4⟩, 257, 24, 0, fun _ => 0, 0,
    by decide +kernel⟩⟩

/-- States and operands that meet the hypotheses of every clause of `IssueAdvances`. -/
theorem witness_IssueAdvances :
    (∃ (s : State) (e : Fin 8) (opc : Nat) (h : Hdr) (f : Fields),
    issuesNow s (↑e) opc h f = true ∧
    (s.en ↑e).old = none ∧
    h.pair = true) ∧
    (∃ (s : State) (e : Fin 8) (opc : Nat) (h : Hdr) (f : Fields),
    issuesNow s (↑e) opc h f = true ∧
    ((s.en ↑e).old.isSome = true ∨ h.pair = false) ∧
    (s.en ↑e).loops = []) ∧
    (∃ (s : State) (e : Fin 8) (opc : Nat) (h : Hdr) (f : Fields) (l : Loop) (ls : List Loop),
    issuesNow s (↑e) opc h f = true ∧
    ((s.en ↑e).old.isSome = true ∨ h.pair = false) ∧
    (s.en ↑e).loops = l :: ls ∧
    l.depth = (s.en ↑e).ret.length ∧
    l.stop = (s.en ↑e).pc ∧
    1 < l.left) ∧
    (∃ (s : State) (e : Fin 8) (opc : Nat) (h : Hdr) (f : Fields) (l : Loop) (ls : List Loop),
    issuesNow s (↑e) opc h f = true ∧
    ((s.en ↑e).old.isSome = true ∨ h.pair = false) ∧
    (s.en ↑e).loops = l :: ls ∧
    l.depth = (s.en ↑e).ret.length ∧
    l.stop = (s.en ↑e).pc ∧
    l.left ≤ 1 ∧
    (∀ (k : Machine.Loop) (ks : List Machine.Loop), ls = k :: ks → k.depth ≠ (s.en ↑e).ret.length ∨ k.stop ≠ (s.en ↑e).pc)) ∧
    (∃ (s : State) (e : Fin 8) (opc : Nat) (h : Hdr) (f : Fields) (l : Loop) (ls : List Loop) (k : Loop) (ks : List Loop),
    issuesNow s (↑e) opc h f = true ∧
    ((s.en ↑e).old.isSome = true ∨ h.pair = false) ∧
    (s.en ↑e).loops = l :: ls ∧
    l.depth = (s.en ↑e).ret.length ∧
    l.stop = (s.en ↑e).pc ∧
    l.left ≤ 1 ∧
    ls = k :: ks ∧
    k.depth = (s.en ↑e).ret.length ∧
    k.stop = (s.en ↑e).pc ∧
    1 < k.left) ∧
    (∃ (s : State) (e : Fin 8) (opc : Nat) (h : Hdr) (f : Fields) (l : Loop) (ls : List Loop),
    issuesNow s (↑e) opc h f = true ∧
    ((s.en ↑e).old.isSome = true ∨ h.pair = false) ∧
    (s.en ↑e).loops = l :: ls ∧
    (l.depth ≠ (s.en ↑e).ret.length ∨ l.stop ≠ (s.en ↑e).pc)) :=
  ⟨⟨{ we { e0 with imem := [(1, 0x1000000000000000)] } with sched := { Sched.reset with image := some ⟨0, 0, 2, [], []⟩ } }, 7, 0x10, hP, { Fields.zero with d := 31, a := 30, b := 29 },
    by decide +kernel⟩,
   ⟨we e0, 7, 0x10, h0, { Fields.zero with d := 31, a := 30, b := 29 },
    by decide +kernel⟩,
   ⟨we { e0 with pc := 5, loops := [⟨0, 5, 65535, 0⟩] }, 7, 0x10, h0, { Fields.zero with d := 31, a := 30, b := 29 }, ⟨0, 5, 65535, 0⟩, [],
    by decide +kernel⟩,
   ⟨we { e0 with pc := 5, loops := [⟨0, 5, 1, 0⟩] }, 7, 0x10, h0, { Fields.zero with d := 31, a := 30, b := 29 }, ⟨0, 5, 1, 0⟩, [],
    by refine ⟨?_, ?_, ?_, ?_, ?_, ?_, (fun _ _ h => nomatch h)⟩ <;> decide +kernel⟩,
   ⟨we { e0 with pc := 5, loops := [⟨0, 5, 1, 0⟩, ⟨0, 5, 2, 0⟩] }, 7, 0x10, h0, { Fields.zero with d := 31, a := 30, b := 29 }, ⟨0, 5, 1, 0⟩, [⟨0, 5, 2, 0⟩], ⟨0, 5, 2, 0⟩, [],
    by decide +kernel⟩,
   ⟨we { e0 with pc := 4, loops := [⟨0, 5, 65535, 0⟩] }, 7, 0x10, h0, { Fields.zero with d := 31, a := 30, b := 29 }, ⟨0, 5, 65535, 0⟩, [],
    by decide +kernel⟩⟩

/-- States and operands that meet the hypotheses of every clause of `ControlResults`. -/
theorem witness_ControlResults :
    (∃ (s : State) (e : Fin 8) (h : Hdr) (f : FmtC),
    goes s (↑e) 0 h f.fields = true) ∧
    (∃ (s : State) (e : Fin 8) (h : Hdr) (f : FmtC),
    issuesNow s (↑e) 1 h f.fields = true) ∧
    (∃ (s : State) (e : Fin 8) (h : Hdr) (f : FmtC),
    goes s (↑e) 2 h f.fields = true ∧
    (s.en ↑e).ret.length < 8) ∧
    (∃ (s : State) (e : Fin 8) (h : Hdr) (f : FmtC),
    issuesNow s (↑e) 2 h f.fields = true ∧
    predTrue s (↑e) h = false) ∧
    (∃ (s : State) (e : Fin 8) (h : Hdr) (f : FmtC) (r : Nat) (rs : List Nat),
    issuesNow s (↑e) 3 h f.fields = true ∧
    (s.en ↑e).ret = (r + 1) :: rs ∧
    (∀ l ∈ (s.en ↑e).loops, l.depth = rs.length → l.stop ≠ r)) ∧
    (∃ (s : State) (e : Fin 8) (h : Hdr) (f : FmtC) (n : Nat),
    issuesNow s (↑e) 4 h f.fields = true ∧
    intact (s.readG (↑e) f.a.toNat) = true ∧
    (n = if f.a = 0 then f.bound.toNat else min (BitVec.toNat (s.readG (↑e) f.a.toNat).1) f.bound.toNat) ∧
    0 < n ∧
    (s.en ↑e).loops.length < 4) ∧
    (∃ (s : State) (e : Fin 8) (h : Hdr) (f : FmtC) (n : Nat),
    issuesNow s (↑e) 4 h f.fields = true ∧
    intact (s.readG (↑e) f.a.toNat) = true ∧
    (n = if f.a = 0 then f.bound.toNat else min (BitVec.toNat (s.readG (↑e) f.a.toNat).1) f.bound.toNat) ∧
    n = 0 ∧
    (∀ l ∈ (s.en ↑e).loops, l.depth = (s.en ↑e).ret.length → l.stop ≠ f.aux.toNat)) ∧
    (∃ (s : State) (e : Fin 8) (h : Hdr) (f : FmtC),
    issuesNow s (↑e) 5 h f.fields = true ∧
    intact (s.readG (↑e) f.a.toNat) = true) ∧
    (∃ (s : State) (e : Fin 8) (h : Hdr) (f : FmtC),
    goes s (↑e) 6 h f.fields = true) :=
  ⟨⟨we e0, 7, h0, ⟨0, 0, 0, 0⟩,
    by decide +kernel⟩,
   ⟨we e0, 7, h0, ⟨0, 0, 32767, 0⟩,
    by decide +kernel⟩,
   ⟨we e0, 7, h0, ⟨0, 0, 0, 0⟩,
    by decide +kernel⟩,
   ⟨we e0, 7, hN, ⟨0, 0, 32767, 0⟩,
    by decide +kernel⟩,
   ⟨we { e0 with ret := [8] }, 7, h0, ⟨0, 0, 0, 0⟩, 7, [],
    by decide +kernel⟩,
   ⟨we { eG 70000 with loops := [⟨0, 9, 1, 0⟩, ⟨0, 9, 1, 0⟩, ⟨0, 9, 1, 0⟩] }, 7, h0, ⟨30, 65535, 0, 32767⟩, 65535,
    by decide +kernel⟩,
   ⟨we e0, 7, h0, ⟨30, 65535, 0, 32767⟩, 0,
    by decide +kernel⟩,
   ⟨we e0, 7, h0, ⟨30, 256, 0, 0⟩,
    by decide +kernel⟩,
   ⟨we e0, 7, h0, ⟨0, 0, 0, 0⟩,
    by decide +kernel⟩⟩

/-- States and operands that meet the hypotheses of every clause of `FrameAndSystemResults`. -/
theorem witness_FrameAndSystemResults :
    (∃ (s : State) (e : Fin 8) (h : Hdr) (f : FmtX),
    goes s (↑e) 176 h f.fields = true) ∧
    (∃ (s : State) (e : Fin 8) (h : Hdr) (f : FmtX),
    goes s (↑e) 177 h f.fields = true) ∧
    (∃ (s : State) (e : Fin 8) (h : Hdr) (f : FmtX),
    goes s (↑e) 178 h f.fields = true ∧
    intact (s.readG (↑e) f.a.toNat) = true) ∧
    (∃ (s : State) (e : Fin 8) (h : Hdr) (f : FmtX),
    goes s (↑e) 179 h f.fields = true ∧
    (s.en ↑e).stores = []) ∧
    (∃ (s : State) (e : Fin 8) (h : Hdr) (f : FmtX),
    goes s (↑e) 179 h f.fields = true ∧
    (s.en ↑e).stores ≠ []) ∧
    (∃ (s : State) (e : Fin 8) (h : Hdr) (f : FmtX),
    goes s (↑e) 224 h f.fields = true ∧
    intact (s.readG (↑e) f.a.toNat) = true) ∧
    (∃ (s : State) (e : Fin 8) (h : Hdr) (f : FmtX),
    goes s (↑e) 225 h f.fields = true) ∧
    (∃ (s : State) (e : Fin 8) (h : Hdr) (f : FmtX),
    goes s (↑e) 226 h f.fields = true ∧
    s.flag Reg.PEG_STAT 9 = true) ∧
    (∃ (s : State) (e : Fin 8) (h : Hdr) (f : FmtX),
    goes s (↑e) 226 h f.fields = true ∧
    s.flag Reg.PEG_STAT 9 = false) :=
  ⟨⟨we e0, 7, h0, ⟨0, 0, 0, 0, 0⟩,
    by decide +kernel⟩,
   ⟨we e0, 7, h0, ⟨0, 0, 0, 0, 0⟩,
    by decide +kernel⟩,
   ⟨we e0, 7, h0, ⟨0, 0, 0, 0, 0⟩,
    by decide +kernel⟩,
   ⟨we e0, 7, h0, ⟨0, 0, 0, 0, 0⟩,
    by decide +kernel⟩,
   ⟨we { e0 with stores := [⟨0x10000, 0, 0, 0, none⟩] }, 7, h0, ⟨0, 0, 0, 0, 0⟩,
    by decide +kernel⟩,
   ⟨we e0, 7, h0, ⟨0, 0, 0, 0, 0⟩,
    by decide +kernel⟩,
   ⟨we e0, 7, h0, ⟨0, 0, 0, 0, 0⟩,
    by decide +kernel⟩,
   ⟨weR [(Reg.PEG_STAT, 0x200)] e0, 7, h0, ⟨0, 0, 0, 0, 0⟩,
    by decide +kernel⟩,
   ⟨we e0, 7, h0, ⟨0, 0, 0, 0, 0⟩,
    by decide +kernel⟩⟩

/-- States and operands that meet the hypotheses of every clause of `ScribeResults`. -/
theorem witness_ScribeResults :
    (∃ (s : State) (u : State) (e : Fin 8) (h : Hdr) (f : FmtX) (z : Int),
    goes s (↑e) 192 h f.fields = true ∧
    lanesIntact s (↑e) f.a.toNat 255 ∧
    u = atIssue s (↑e) 192 h f.fields ∧
    z = BitVec.toInt (s.readLane (↑e) f.a.toNat 7).1 ∧
    (z < -16000000 ∨ 0 < z)) ∧
    (∃ (s : State) (u : State) (e : Fin 8) (h : Hdr) (f : FmtX) (z : Int),
    goes s (↑e) 192 h f.fields = true ∧
    lanesIntact s (↑e) f.a.toNat 255 ∧
    u = atIssue s (↑e) 192 h f.fields ∧
    z = BitVec.toInt (s.readLane (↑e) f.a.toNat 7).1 ∧
    -16000000 ≤ z ∧
    z ≤ 0 ∧
    (∃ p ps, s.scr.poses = p :: ps ∧ ↑s.base + z ≤ p.at_)) ∧
    (∃ (s : State) (u : State) (e : Fin 8) (h : Hdr) (f : FmtX) (z : Int),
    goes s (↑e) 192 h f.fields = true ∧
    lanesIntact s (↑e) f.a.toNat 255 ∧
    u = atIssue s (↑e) 192 h f.fields ∧
    z = BitVec.toInt (s.readLane (↑e) f.a.toNat 7).1 ∧
    -16000000 ≤ z ∧
    z ≤ 0 ∧
    (∀ (p : Pose) (ps : List Pose), s.scr.poses = p :: ps → p.at_ < ↑s.base + z)) ∧
    (∃ (s : State) (e : Fin 8) (h : Hdr) (f : FmtX) (a : Nat) (n : Nat) (o : Nat),
    goes s (↑e) 193 h f.fields = true ∧
    intact (s.readG (↑e) f.a.toNat) = true ∧
    intact (s.readG (↑e) f.b.toNat) = true ∧
    a = BitVec.toNat (s.readG (↑e) f.a.toNat).1 ∧
    n = f.imm.toNat % 512 ∧
    o = BitVec.toNat (s.readG (↑e) f.b.toNat).1 % 2 ^ 29 ∧
    (256 < s.rf Reg.SCR_STAT 16 9 + n ∨ 256 < a + n ∨ o % 16 ≠ 0 ∨ 4194304 < o + 16 * n)) ∧
    (∃ (s : State) (e : Fin 8) (h : Hdr) (f : FmtX) (a : Nat) (n : Nat) (o : Nat),
    goes s (↑e) 193 h f.fields = true ∧
    intact (s.readG (↑e) f.a.toNat) = true ∧
    intact (s.readG (↑e) f.b.toNat) = true ∧
    a = BitVec.toNat (s.readG (↑e) f.a.toNat).1 ∧
    n = f.imm.toNat % 512 ∧
    o = BitVec.toNat (s.readG (↑e) f.b.toNat).1 % 2 ^ 29 ∧
    s.rf Reg.SCR_STAT 16 9 + n ≤ 256 ∧
    a + n ≤ 256 ∧
    o % 16 = 0 ∧
    o + 16 * n ≤ 4194304) ∧
    (∃ (s : State) (e : Fin 8) (h : Hdr) (f : FmtX) (k : Word),
    goes s (↑e) 194 h f.fields = true ∧
    intact (s.readG (↑e) f.a.toNat) = true ∧
    k = (s.readG (↑e) f.a.toNat).1 ∧
    (k = 0 ∨ k ∉ s.scr.started)) ∧
    (∃ (s : State) (e : Fin 8) (h : Hdr) (f : FmtX) (k : Word),
    goes s (↑e) 194 h f.fields = true ∧
    intact (s.readG (↑e) f.a.toNat) = true ∧
    k = (s.readG (↑e) f.a.toNat).1 ∧
    k ≠ 0 ∧
    k ∈ s.scr.started ∧
    k ∈ s.scr.done) ∧
    (∃ (s : State) (e : Fin 8) (h : Hdr) (f : FmtX) (k : Word),
    goes s (↑e) 194 h f.fields = true ∧
    intact (s.readG (↑e) f.a.toNat) = true ∧
    k = (s.readG (↑e) f.a.toNat).1 ∧
    k ≠ 0 ∧
    k ∈ s.scr.started ∧
    k ∉ s.scr.done ∧
    ((∀ q ∈ s.scr.queries, q.ticket = k → q.frame ≠ s.frame) ∨ SMap.get 0 s.scr.bounds (BitVec.toNat k) < (atIssue s (↑e) 194 h f.fields).now)) ∧
    (∃ (s : State) (e : Fin 8) (h : Hdr) (f : FmtX) (k : Word),
    goes s (↑e) 194 h f.fields = true ∧
    intact (s.readG (↑e) f.a.toNat) = true ∧
    k = (s.readG (↑e) f.a.toNat).1 ∧
    k ≠ 0 ∧
    k ∈ s.scr.started ∧
    k ∉ s.scr.done ∧
    (∃ q ∈ s.scr.queries, q.ticket = k ∧ q.frame = s.frame) ∧
    (atIssue s (↑e) 194 h f.fields).now ≤ SMap.get 0 s.scr.bounds (BitVec.toNat k)) ∧
    (∃ (s : State) (u : State) (e : Fin 8) (h : Hdr) (f : FmtX) (k : Nat) (on : Bool) (at_ : Int),
    goes s (↑e) 195 h f.fields = true ∧
    lanesIntact s (↑e) f.a.toNat 31 ∧
    u = atIssue s (↑e) 195 h f.fields ∧
    k = BitVec.toNat (s.readLane (↑e) f.a.toNat 0).1 ∧
    on = BitVec.getLsbD (s.readLane (↑e) f.a.toNat 1).1 0 ∧
    at_ = ↑s.base + (BitVec.setWidth 16 (s.readLane (↑e) f.a.toNat 3).1 ++ (s.readLane (↑e) f.a.toNat 2).1 - s.frame).toInt * ↑s.period + ↑(BitVec.toNat (s.readLane (↑e) f.a.toNat 4).1 + ((if markSrc s k = 0 then delayInUse s k on else 0) + addOn s k on) * 10000) ∧
    256 ≤ k) ∧
    (∃ (s : State) (u : State) (e : Fin 8) (h : Hdr) (f : FmtX) (k : Nat) (on : Bool) (at_ : Int),
    goes s (↑e) 195 h f.fields = true ∧
    lanesIntact s (↑e) f.a.toNat 31 ∧
    u = atIssue s (↑e) 195 h f.fields ∧
    k = BitVec.toNat (s.readLane (↑e) f.a.toNat 0).1 ∧
    on = BitVec.getLsbD (s.readLane (↑e) f.a.toNat 1).1 0 ∧
    at_ = ↑s.base + (BitVec.setWidth 16 (s.readLane (↑e) f.a.toNat 3).1 ++ (s.readLane (↑e) f.a.toNat 2).1 - s.frame).toInt * ↑s.period + ↑(BitVec.toNat (s.readLane (↑e) f.a.toNat 4).1 + ((if markSrc s k = 0 then delayInUse s k on else 0) + addOn s k on) * 10000) ∧
    k < 256 ∧
    2 ≤ markSrc s k) ∧
    (∃ (s : State) (u : State) (e : Fin 8) (h : Hdr) (f : FmtX) (k : Nat) (on : Bool) (at_ : Int),
    goes s (↑e) 195 h f.fields = true ∧
    lanesIntact s (↑e) f.a.toNat 31 ∧
    u = atIssue s (↑e) 195 h f.fields ∧
    k = BitVec.toNat (s.readLane (↑e) f.a.toNat 0).1 ∧
    on = BitVec.getLsbD (s.readLane (↑e) f.a.toNat 1).1 0 ∧
    at_ = ↑s.base + (BitVec.setWidth 16 (s.readLane (↑e) f.a.toNat 3).1 ++ (s.readLane (↑e) f.a.toNat 2).1 - s.frame).toInt * ↑s.period + ↑(BitVec.toNat (s.readLane (↑e) f.a.toNat 4).1 + ((if markSrc s k = 0 then delayInUse s k on else 0) + addOn s k on) * 10000) ∧
    k < 256 ∧
    markSrc s k < 2 ∧
    markingOn s = true ∧
    s.scr.accepted < 512 ∧
    (s.marking k).delivering ≠ on ∧
    (∀ (p : Pose), s.scr.poses.getLast? = some p → p.at_ ≤ at_) ∧
    (∀ (l : Int), lastMarked (s.marking k) = some l → l ≤ at_)) :=
  ⟨⟨we { e0 with scribe := true, rf := { RegFile.zero with v := [(127, 1)], vt := [(127, tagOf 1)] } }, _, 7, h0, ⟨0, 15, 0, 0, 0⟩, 1,
    by refine ⟨?_, ?_, rfl, ?_, ?_⟩ <;> decide +kernel⟩,
   ⟨{ we { e0 with scribe := true } with scr := { Scribe.reset with poses := [⟨0, 0, 0, 0, 0, 0, 0, 0, 0⟩] } }, _, 7, h0, ⟨0, 15, 0, 0, 0⟩, 0,
    by refine ⟨?_, ?_, rfl, ?_, ?_, ?_, (⟨_, _, rfl, by decide +kernel⟩)⟩ <;> decide +kernel⟩,
   ⟨we { e0 with scribe := true, rf := { RegFile.zero with v := [(127, (-16000000))], vt := [(127, tagOf (-16000000))] } }, _, 7, h0, ⟨0, 15, 0, 0, 0⟩, -16000000,
    by refine ⟨?_, ?_, rfl, ?_, ?_, ?_, (fun _ _ h => nomatch h)⟩ <;> decide +kernel⟩,
   ⟨we { eG 1 with scribe := true }, 7, h0, ⟨31, 30, 29, 0, 256⟩, 1, 256, 0,
    by decide +kernel⟩,
   ⟨we { e0 with scribe := true }, 7, h0, ⟨31, 30, 29, 0, 256⟩, 0, 256, 0,
    by decide +kernel⟩,
   ⟨we { e0 with scribe := true }, 7, h0, ⟨7, 30, 0, 0, 0⟩, 0,
    by decide +kernel⟩,
   ⟨{ we { eG 5 with scribe := true } with scr := { Scribe.reset with started := [5], done := [5] } }, 7, h0, ⟨7, 30, 0, 0, 0⟩, 5,
    by decide +kernel⟩,
   ⟨{ we { eG 5 with scribe := true } with scr := { Scribe.reset with started := [5] } }, 7, h0, ⟨7, 30, 0, 0, 0⟩, 5,
    by decide +kernel⟩,
   ⟨{ we { eG 5 with scribe := true } with scr := { Scribe.reset with started := [5], queries := [⟨5, 0, 0, 0, 0, ⟨0, 0, 0, 0, 0, 0, 0, 0, 0⟩, false, []⟩], bounds := [(5, 1000000)] } }, 7, h0, ⟨7, 30, 0, 0, 0⟩, 5,
    by decide +kernel⟩,
   ⟨we { e0 with scribe := true, rf := { RegFile.zero with v := [(120, 256)], vt := [(120, tagOf 256)] } }, _, 7, h0, ⟨0, 15, 0, 0, 0⟩, 256, false, _,
    by refine ⟨?_, ?_, rfl, ?_, ?_, rfl, ?_⟩ <;> decide +kernel⟩,
   ⟨{ weR [(Reg.OUT_CFG 255, 0x10000)] { e0 with scribe := true, rf := { RegFile.zero with v := [(120, 255)], vt := [(120, tagOf 255)] } } with frame := 0 }, _, 7, h0, ⟨0, 15, 0, 0, 0⟩, 255, false, _,
    by refine ⟨?_, ?_, rfl, ?_, ?_, rfl, ?_, ?_⟩ <;> decide +kernel⟩,
   ⟨we { e0 with scribe := true, rf := { RegFile.zero with v := [(120, 255), (121, 1)], vt := [(120, tagOf 255), (121, tagOf 1)] } }, _, 7, h0, ⟨0, 15, 0, 0, 0⟩, 255, true, _,
    by refine ⟨?_, ?_, rfl, ?_, ?_, rfl, ?_, ?_, ?_, ?_, ?_, (fun _ h => nomatch h), (fun _ h => nomatch h)⟩ <;> decide +kernel⟩⟩

/-- States and operands that meet the hypotheses of every clause of `TransactionAndJournalInstructions`. -/
theorem witness_TransactionAndJournalInstructions :
    (∃ (s : State) (e : Fin 8) (h : Hdr) (f : FmtX) (me : Holder),
    me = Holder.engines (s.en ↑e).task ∧
    s.clocked = true ∧
    s.sys.mode ≠ Mode.boot ∧
    goes s (↑e) 208 h f.fields = true ∧
    s.txn.state = TxnState.free) ∧
    (∃ (s : State) (e : Fin 8) (h : Hdr) (f : FmtX) (me : Holder),
    me = Holder.engines (s.en ↑e).task ∧
    s.clocked = true ∧
    s.sys.mode ≠ Mode.boot ∧
    goes s (↑e) 208 h f.fields = true ∧
    (s.txn.state = TxnState.opened ∨ s.txn.state = TxnState.checking) ∧
    s.txn.holder = me) ∧
    (∃ (s : State) (e : Fin 8) (h : Hdr) (f : FmtX) (me : Holder),
    me = Holder.engines (s.en ↑e).task ∧
    s.clocked = true ∧
    s.sys.mode ≠ Mode.boot ∧
    goes s (↑e) 208 h f.fields = true ∧
    s.txn.state ≠ TxnState.free ∧
    (s.txn.state = TxnState.pending ∨ s.txn.holder ≠ me) ∧
    (∀ (r : Nat), openRank (atIssue s (↑e) 208 h f.fields) = some r → r ≤ 2 + ↑e)) ∧
    (∃ (s : State) (e : Fin 8) (h : Hdr) (f : FmtX) (me : Holder) (r : Nat),
    me = Holder.engines (s.en ↑e).task ∧
    s.clocked = true ∧
    s.sys.mode ≠ Mode.boot ∧
    goes s (↑e) 208 h f.fields = true ∧
    s.txn.holder ≠ me ∧
    openRank (atIssue s (↑e) 208 h f.fields) = some r ∧
    2 + ↑e < r) ∧
    (∃ (s : State) (e : Fin 8) (h : Hdr) (f : FmtX) (me : Holder),
    me = Holder.engines (s.en ↑e).task ∧
    s.clocked = true ∧
    s.sys.mode ≠ Mode.boot ∧
    goes s (↑e) 209 h f.fields = true ∧
    (s.en ↑e).stores = [] ∧
    s.txn.state = TxnState.opened ∧
    s.txn.holder = me) ∧
    (∃ (s : State) (e : Fin 8) (h : Hdr) (f : FmtX) (me : Holder) (st : Nat),
    me = Holder.engines (s.en ↑e).task ∧
    s.clocked = true ∧
    s.sys.mode ≠ Mode.boot ∧
    goes s (↑e) 209 h f.fields = true ∧
    (s.en ↑e).stores = [] ∧
    (st = if s.txn.state = TxnState.free then 3 else if s.txn.holder ≠ me then 2 else 10) ∧
    (s.txn.state ≠ TxnState.opened ∨ s.txn.holder ≠ me)) ∧
    (∃ (s : State) (e : Fin 8) (h : Hdr) (f : FmtX) (me : Holder),
    me = Holder.engines (s.en ↑e).task ∧
    s.clocked = true ∧
    s.sys.mode ≠ Mode.boot ∧
    goes s (↑e) 209 h f.fields = true ∧
    (s.en ↑e).stores ≠ []) ∧
    (∃ (s : State) (e : Fin 8) (h : Hdr) (f : FmtX) (me : Holder),
    me = Holder.engines (s.en ↑e).task ∧
    s.clocked = true ∧
    s.sys.mode ≠ Mode.boot ∧
    goes s (↑e) 210 h f.fields = true ∧
    s.txn.state = TxnState.opened ∧
    s.txn.holder = me) ∧
    (∃ (s : State) (e : Fin 8) (h : Hdr) (f : FmtX) (me : Holder),
    me = Holder.engines (s.en ↑e).task ∧
    s.clocked = true ∧
    s.sys.mode ≠ Mode.boot ∧
    goes s (↑e) 210 h f.fields = true ∧
    (s.txn.state ≠ TxnState.opened ∨ s.txn.holder ≠ me)) ∧
    (∃ (s : State) (e : Fin 8) (h : Hdr) (f : FmtX) (ty : Nat) (n : Nat),
    goes s (↑e) 211 h f.fields = true ∧
    ty = f.imm.toNat % 2 ^ 16 ∧
    n = f.imm.toNat / 2 ^ 16 % 16 ∧
    (∀ k < n, k < 8 → intact (s.readLane (↑e) f.a.toNat k) = true) ∧
    (ty < 65280 ∨ ty = 65535) ∧
    jrnFull s = false) ∧
    (∃ (s : State) (e : Fin 8) (h : Hdr) (f : FmtX) (ty : Nat) (n : Nat),
    goes s (↑e) 211 h f.fields = true ∧
    ty = f.imm.toNat % 2 ^ 16 ∧
    n = f.imm.toNat / 2 ^ 16 % 16 ∧
    (∀ k < n, k < 8 → intact (s.readLane (↑e) f.a.toNat k) = true) ∧
    (ty < 65280 ∨ ty = 65535) ∧
    jrnFull s = true) ∧
    (∃ (s : State) (e : Fin 8) (h : Hdr) (f : FmtX) (ty : Nat) (n : Nat),
    goes s (↑e) 211 h f.fields = true ∧
    ty = f.imm.toNat % 2 ^ 16 ∧
    n = f.imm.toNat / 2 ^ 16 % 16 ∧
    (∀ k < n, k < 8 → intact (s.readLane (↑e) f.a.toNat k) = true) ∧
    65280 ≤ ty ∧
    ty ≠ 65535) ∧
    (∃ (s : State) (e : Fin 8) (h : Hdr) (f : FmtX),
    goes s (↑e) 212 h f.fields = true ∧
    intact (s.readG (↑e) f.a.toNat) = true ∧
    jsyncDone s (s.readG (↑e) f.a.toNat).1 = true) ∧
    (∃ (s : State) (e : Fin 8) (h : Hdr) (f : FmtX),
    goes s (↑e) 212 h f.fields = true ∧
    intact (s.readG (↑e) f.a.toNat) = true ∧
    jsyncDone s (s.readG (↑e) f.a.toNat).1 = false) :=
  ⟨⟨we e0, 7, h0, ⟨7, 0, 0, 0, 0⟩, .engines 0,
    by decide +kernel⟩,
   ⟨{ we e0 with txn := { Txn.reset with state := .opened, holder := .engines 0 } }, 7, h0, ⟨0, 0, 0, 0, 0⟩, .engines 0,
    by decide +kernel⟩,
   ⟨{ we e0 with txn := { Txn.reset with state := .opened, holder := .engines 1 } }, 7, h0, ⟨7, 0, 0, 0, 0⟩, .engines 0,
    by decide +kernel⟩,
   ⟨{ w [] [] with eng := [(0, e0)], txn := { Txn.reset with state := .opened, holder := .engines 1, begins := [⟨9, .engines 1, none⟩] } }, 0, h0, ⟨7, 0, 0, 0, 0⟩, .engines 0, 9,
    by decide +kernel⟩,
   ⟨{ we e0 with txn := { Txn.reset with state := .opened, holder := .engines 0 } }, 7, h0, ⟨0, 0, 0, 0, 0⟩, .engines 0,
    by decide +kernel⟩,
   ⟨{ we e0 with txn := { Txn.reset with state := .opened, holder := .engines 1 } }, 7, h0, ⟨31, 0, 0, 0, 0⟩, .engines 0, 2,
    by decide +kernel⟩,
   ⟨we { e0 with stores := [⟨0x10000, 0, 0, 0, none⟩] }, 7, h0, ⟨31, 0, 0, 0, 0⟩, .engines 0,
    by decide +kernel⟩,
   ⟨{ we e0 with txn := { Txn.reset with state := .opened, holder := .engines 0 } }, 7, h0, ⟨0, 0, 0, 0, 0⟩, .engines 0,
    by decide +kernel⟩,
   ⟨we e0, 7, h0, ⟨0, 0, 0, 0, 0⟩, .engines 0,
    by decide +kernel⟩,
   ⟨we e0, 7, h0, ⟨31, 15, 7, 0, 0x8FEFF⟩, 0xFEFF, 8,
    by decide +kernel⟩,
   ⟨{ we e0 with jrn := { Jrn.reset with head := 65536, opened := [0] } }, 7, h0, ⟨31, 15, 7, 0, 0x1FFFF⟩, 0xFFFF, 1,
    by decide +kernel⟩,
   ⟨we e0, 7, h0, ⟨31, 15, 7, 0, 0x1FF00⟩, 0xFF00, 1,
    by decide +kernel⟩,
   ⟨{ we e0 with jrn := { Jrn.reset with head := 1, ring := [(0, [0, 0, 0, 0, 0, 0, 0, 0, 0, 0, 0, 0, 0, 0, 0, 0])] } }, 7, h0, ⟨7, 30, 0, 0, 0⟩,
    by decide +kernel⟩,
   ⟨we e0, 7, h0, ⟨7, 0, 0, 0, 0⟩,
    by decide +kernel⟩⟩

/-- States and operands that meet the hypotheses of every clause of `SuppressedAndAbandoned`. -/
theorem witness_SuppressedAndAbandoned :
    (∃ (p : InsnR) (s : State) (e : Fin 8) (h : Hdr) (f : FmtR),
    p ∈ twoOperand ++ oneOperand ∧
    issuesNow s (↑e) p.opc h f.fields = true ∧
    predTrue s (↑e) h = false) ∧
    (∃ (s : State) (e : Fin 8) (h : Hdr) (f : FmtR),
    goes s (↑e) 48 h f.fields = true ∧
    valueBad (s.readG (↑e) f.a.toNat) = true ∧
    s.clocked = true ∧
    s.sys.mode ≠ Mode.boot ∧
    s.flag (Reg.FLT_SRC (32 + ↑e)) 3 = false) ∧
    (∃ (s : State) (e : Fin 8) (f : FmtR),
    (s.en ↑e).state = EngState.run ∧
    (s.en ↑e).wait = EngWait.none ∧
    (s.en ↑e).old = none ∧
    (s.en ↑e).loads = [] ∧
    (s.en ↑e).imemErr = [] ∧
    s.clocked = true ∧
    s.txn.state = TxnState.free ∧
    s.sys.mode ≠ Mode.boot ∧
    s.flag (Reg.FLT_SRC (48 + ↑e)) 3 = false ∧
    f.zero ≠ 0) ∧
    (∃ (s : State) (e : Fin 8) (h : Hdr) (g : FmtX) (r : IsaRow),
    (s.en ↑e).state = EngState.run ∧
    (s.en ↑e).wait = EngWait.none ∧
    (s.en ↑e).old = none ∧
    (s.en ↑e).loads = [] ∧
    (s.en ↑e).imemErr = [] ∧
    s.clocked = true ∧
    s.txn.state = TxnState.free ∧
    s.sys.mode ≠ Mode.boot ∧
    s.flag (Reg.FLT_SRC (48 + ↑e)) 3 = false ∧
    Isa.row? 192 = some r ∧
    legalHere s (s.en ↑e) r h g.fields = true ∧
    (s.en ↑e).scribe = false) ∧
    (∃ (s : State) (e : Fin 8) (h : Hdr) (f : FmtR) (r : IsaRow),
    (s.en ↑e).state = EngState.run ∧
    (s.en ↑e).wait = EngWait.none ∧
    (s.en ↑e).old = none ∧
    (s.en ↑e).loads = [] ∧
    (s.en ↑e).imemErr = [] ∧
    s.clocked = true ∧
    s.txn.state = TxnState.free ∧
    s.sys.mode ≠ Mode.boot ∧
    s.flag (Reg.FLT_SRC (48 + ↑e)) 3 = false ∧
    Isa.row? 16 = some r ∧
    legalHere s (s.en ↑e) r h f.fields = true ∧
    (s.en ↑e).budget ≤ (s.en ↑e).issueAt r h f.fields) ∧
    (∃ (s : State) (e : Fin 8),
    (s.en ↑e).state = EngState.run ∧
    (s.en ↑e).wait = EngWait.none ∧
    (s.en ↑e).old = none ∧
    s.clocked = true ∧
    s.txn.state = TxnState.free ∧
    s.sys.mode ≠ Mode.boot ∧
    s.flag (Reg.FLT_SRC (48 + ↑e)) 3 = false ∧
    2 ≤ SMap.get 0 (s.en ↑e).imemErr (s.en ↑e).pc) ∧
    (∃ (s : State) (e : Fin 8) (h : Hdr) (f : FmtR),
    (s.en ↑e).old = none ∧
    h.pair = false ∧
    SMap.get 0 (s.en ↑e).imemErr (s.en ↑e).pc = 1 ∧
    goes (s.setEn (↑e) { s.en ↑e with imemErr := [] }) (↑e) 16 h f.fields = true ∧
    intact (s.readG (↑e) f.a.toNat) = true ∧
    intact (s.readG (↑e) f.b.toNat) = true) :=
  ⟨⟨⟨.add, 0x10, fun a b => a + b⟩, we e0, 7, hN, ⟨31, 30, 29, 0, 0, 0, 0⟩,
    by exact ⟨List.Mem.head _, by decide +kernel⟩⟩,
   ⟨weR [(Reg.FLT_SRC 39, 0)] { e0 with rf := { RegFile.zero with gt := [(30, 250)] } }, 7, h0, ⟨31, 30, 29, 0, 0, 0, 0⟩,
    by decide +kernel⟩,
   ⟨weR [(Reg.FLT_SRC 55, 0)] e0, 7, ⟨31, 30, 29, 0, 0, 0, 0xFFFF⟩,
    by decide +kernel⟩,
   ⟨weR [(Reg.FLT_SRC 55, 0)] e0, 7, h0, ⟨0, 15, 0, 0, 0⟩, Isa.rx 0xC0 1 .no .vr .no 0,
    by decide +kernel⟩,
   ⟨weR [(Reg.FLT_SRC 55, 0)] { e0 with budget := 0 }, 7, h0, ⟨31, 30, 29, 0, 0, 0, 0⟩, Isa.rr 0x10 1 .gw .gr .gr .no true 0 false,
    by decide +kernel⟩,
   ⟨weR [(Reg.FLT_SRC 55, 0)] { e0 with imemErr := [(0, 2)] }, 7,
    by decide +kernel⟩,
   ⟨we { e0 with imemErr := [(0, 1)] }, 7, h0, ⟨31, 30, 29, 0, 0, 0, 0⟩,
    by decide +kernel⟩⟩

/-- States and operands that meet the hypotheses of every clause of `StepTakesTheFront`. -/
theorem witness_StepTakesTheFront :
    (∃ (s : State) (c : Instr) (cs : List Instr),
    s.pending = c :: cs) ∧
    (∃ (s : State),
    s.pending = []) :=
  ⟨⟨{ w [] [] with pending := [.frzResume] }, .frzResume, [],
    by decide +kernel⟩,
   ⟨w [] [],
    by decide +kernel⟩⟩

/-- States and operands that meet the hypotheses of every clause of `EveryStepKeepsTheCanonicalForm`. -/
theorem witness_EveryStepKeepsTheCanonicalForm :
    (∃ (s : State),
    s.canonical = true) :=
  ⟨w [] [],
    by decide +kernel⟩

/-- States and operands that meet the hypotheses of every clause of `ResetLeaves`. -/
theorem witness_ResetLeaves :
    (∃ (a : Nat),
    a ≠ Reg.PEG_CERTLEN) :=
  ⟨0,
    by decide +kernel⟩

/-- States and operands that meet the hypotheses of every clause of `RaiseLatchesItsSource`. -/
theorem witness_RaiseLatchesItsSource :
    (∃ (s : State) (src : Fin 512),
    collectorOn s = true ∧
    reports s ↑src) ∧
    (∃ (src : Fin 512),
    (Flt.resetSev? ↑src).isSome = true ∧
    levelSource ↑src = true) ∧
    (∃ (s : State) (src : Fin 512) (v : Word) (rest : List (Nat × Word)),
    front s (Reg.FLT_SST ↑src) v rest) :=
  ⟨⟨w [] [], 48,
    by decide +kernel⟩,
   ⟨(Fin.ofNat 512 (((List.range 512).filter (fun n => levelSource n && (Flt.resetSev? n).isSome)).headD 0)),
    by decide +kernel⟩,
   ⟨w [] [(Reg.FLT_SST 511, 1)], 511, 1, [],
    by decide +kernel⟩⟩

/-- States and operands that meet the hypotheses of every clause of `DisabledRaiseAndRelease`. -/
theorem witness_DisabledRaiseAndRelease :
    (∃ (s : State) (src : Fin 512),
    collectorOn s = true ∧
    (Flt.resetSev? ↑src).isSome = true ∧
    levelSource ↑src = false ∧
    srcEnabled s ↑src = false ∧
    Option.map (fun x => x.src) s.flt.inj ≠ some ↑src) ∧
    (∃ (src : Fin 512),
    (Flt.resetSev? ↑src).isSome = true ∧
    levelSource ↑src = true) :=
  ⟨⟨w [(Reg.FLT_SRC 48, 0)] [], 48,
    by decide +kernel⟩,
   ⟨(Fin.ofNat 512 (((List.range 512).filter (fun n => levelSource n && (Flt.resetSev? n).isSome)).headD 0)),
    by decide +kernel⟩⟩

/-- States and operands that meet the hypotheses of every clause of `FirstRaiseIsCaptured`. -/
theorem witness_FirstRaiseIsCaptured :
    (∃ (s : State) (src : Fin 512),
    collectorOn s = true ∧
    reports s ↑src ∧
    srcEnabled s ↑src = true) :=
  ⟨w [] [], 48,
    by decide +kernel⟩

/-- States and operands that meet the hypotheses of every clause of `RaiseBeginsItsReaction`. -/
theorem witness_RaiseBeginsItsReaction :
    (∃ (s : State) (src : Fin 512),
    collectorOn s = true ∧
    reports s ↑src ∧
    srcEnabled s ↑src = true ∧
    1 ≤ srcSev s ↑src) ∧
    (∃ (s : State) (src : Fin 512) (det : Word) (e : Nat),
    collectorOn s = true ∧
    reports s ↑src ∧
    srcEnabled s ↑src = true ∧
    s.flag (Reg.FLT_SRC ↑src) 3 = true ∧
    detailEngine (↑src) det = some e) :=
  ⟨⟨w [] [], 48,
    by decide +kernel⟩,
   ⟨w [(Reg.FLT_SRC 48, 0x80000008)] [], 48, 0, 0,
    by decide +kernel⟩⟩

/-- States and operands that meet the hypotheses of every clause of `ReactionsEndAndAreCounted`. -/
theorem witness_ReactionsEndAndAreCounted :
    (∃ (s : State),
    collectorOn s = true ∧
    s.flt.reaction ≠ 0 ∧
    (s.flt.halt = true ∨ heldBySource s = true ∨ endsByItself s = false ∨ s.flt.quiet < s.rf Reg.FLT_QUIET 0 13 * 100)) ∧
    (∃ (s : State),
    collectorOn s = true ∧
    s.flt.reaction ≠ 0 ∧
    s.flt.halt = false ∧
    heldBySource s = false ∧
    endsByItself s = true ∧
    s.rf Reg.FLT_QUIET 0 13 * 100 ≤ s.flt.quiet ∧
    s.flt.reaction = 1) ∧
    (∃ (s : State),
    collectorOn s = true ∧
    s.flt.reaction ≠ 0 ∧
    s.flt.halt = false ∧
    heldBySource s = false ∧
    endsByItself s = true ∧
    s.rf Reg.FLT_QUIET 0 13 * 100 ≤ s.flt.quiet ∧
    2 ≤ s.flt.reaction ∧
    (s.rf Reg.FLT_RCFG 0 8 = 0 ∨ s.rf Reg.FLT_RCNT 0 8 + 1 < s.rf Reg.FLT_RCFG 0 8)) ∧
    (∃ (s : State),
    collectorOn s = true ∧
    s.flt.reaction ≠ 0 ∧
    s.flt.halt = false ∧
    heldBySource s = false ∧
    endsByItself s = true ∧
    s.rf Reg.FLT_QUIET 0 13 * 100 ≤ s.flt.quiet ∧
    2 ≤ s.flt.reaction ∧
    s.rf Reg.FLT_RCFG 0 8 ≠ 0 ∧
    s.rf Reg.FLT_RCFG 0 8 ≤ s.rf Reg.FLT_RCNT 0 8 + 1) ∧
    (∃ (s : State) (v : Word) (rest : List (Nat × Word)),
    front s Reg.FLT_CTRL v rest ∧
    collectorOn s = true ∧
    bit v 0 = true ∧
    bit v 1 = false ∧
    fld v 8 8 = 165) ∧
    (∃ (s : State) (v : Word) (rest : List (Nat × Word)),
    front s Reg.FLT_CTRL v rest ∧
    collectorOn s = true ∧
    bit v 1 = true ∧
    bit v 0 = false ∧
    fld v 8 8 = 165) ∧
    (∃ (s : State) (v : Word) (rest : List (Nat × Word)),
    front s Reg.FLT_CTRL v rest ∧
    collectorOn s = true ∧
    fld v 8 8 ≠ 165 ∧
    bit v 0 = true) ∧
    (∃ (s : State) (v : Word) (rest : List (Nat × Word)),
    front s Reg.FLT_CTRL v rest ∧
    collectorOn s = true ∧
    fld v 8 8 ≠ 165 ∧
    bit v 1 = true) ∧
    (∃ (s : State),
    collectorOn s = true ∧
    s.flt.reaction = 0 ∧
    s.rf Reg.FLT_RCFG 8 16 ≠ 0 ∧
    s.rf Reg.FLT_RCFG 8 16 * 600000 ≤ s.flt.calm) :=
  ⟨⟨{ w [] [] with flt := { Flt.reset with reaction := 1 } },
    by decide +kernel⟩,
   ⟨{ w [] [] with flt := { Flt.reset with reaction := 1, quiet := 1000000 } },
    by decide +kernel⟩,
   ⟨{ w [] [] with flt := { Flt.reset with reaction := 2, quiet := 1000000 } },
    by decide +kernel⟩,
   ⟨{ w [(Reg.FLT_RCFG, 1)] [] with flt := { Flt.reset with reaction := 2, quiet := 1000000 } },
    by decide +kernel⟩,
   ⟨w [] [(Reg.FLT_CTRL, 0xa501)], 0xa501, [],
    by decide +kernel⟩,
   ⟨w [] [(Reg.FLT_CTRL, 0xa502)], 0xa502, [],
    by decide +kernel⟩,
   ⟨w [] [(Reg.FLT_CTRL, 0x1)], 0x1, [],
    by decide +kernel⟩,
   ⟨w [] [(Reg.FLT_CTRL, 0x2)], 0x2, [],
    by decide +kernel⟩,
   ⟨{ w [] [] with flt := { Flt.reset with calm := 36000000 } },
    by decide +kernel⟩⟩

/-- States and operands that meet the hypotheses of every clause of `FaultInjection`. -/
theorem witness_FaultInjection :
    (∃ (s : State) (v : Word) (rest : List (Nat × Word)),
    front s Reg.FLT_INJ v rest ∧
    bit v 31 = true ∧
    (s.flag Reg.FLT_CFG 0 = false ∨ Flt.resetSev? (fld v 20 9) = none ∨ srcEnabled s (fld v 20 9) = false ∨ s.period ≤ fld v 0 20 ∨ s.flt.inj ≠ none ∨ s.sys.mode = Mode.boot)) ∧
    (∃ (s : State) (v : Word) (rest : List (Nat × Word)),
    front s Reg.FLT_INJ v rest ∧
    bit v 31 = true ∧
    s.flag Reg.FLT_CFG 0 = true ∧
    (Flt.resetSev? (fld v 20 9)).isSome = true ∧
    srcEnabled s (fld v 20 9) = true ∧
    fld v 0 20 < s.period ∧
    s.flt.inj = none ∧
    s.sys.mode ≠ Mode.boot ∧
    2 ≤ s.flt.reaction) ∧
    (∃ (s : State) (v : Word) (rest : List (Nat × Word)),
    front s Reg.FLT_INJ v rest ∧
    bit v 31 = true ∧
    s.flag Reg.FLT_CFG 0 = true ∧
    (Flt.resetSev? (fld v 20 9)).isSome = true ∧
    srcEnabled s (fld v 20 9) = true ∧
    fld v 0 20 < s.period ∧
    s.flt.inj = none ∧
    s.sys.mode ≠ Mode.boot ∧
    s.flt.reaction < 2) ∧
    (∃ (s : State) (src : Fin 512) (i : Inject),
    collectorOn s = true ∧
    reports s ↑src ∧
    s.flt.inj = some i) ∧
    (∃ (s : State) (i : Inject),
    s.flt.inj = some i ∧
    i.ready = true ∧
    collectorOn s = true ∧
    i.src < 512) :=
  ⟨⟨w [(Reg.FLT_CFG, 0)] [(Reg.FLT_INJ, 0x80000000)], 0x80000000, [],
    by decide +kernel⟩,
   ⟨{ w [(Reg.FLT_CFG, 1)] [(Reg.FLT_INJ, 0x8300C34F)] with flt := { Flt.reset with reaction := 2 } }, 0x8300C34F, [],
    by decide +kernel⟩,
   ⟨w [(Reg.FLT_CFG, 1)] [(Reg.FLT_INJ, 0x8300C34F)], 0x8300C34F, [],
    by decide +kernel⟩,
   ⟨{ w [] [] with flt := { Flt.reset with inj := some ⟨48, 0, 0, true⟩ } }, 48, ⟨48, 0, 0, true⟩,
    by decide +kernel⟩,
   ⟨{ w [] [] with flt := { Flt.reset with inj := some ⟨48, 0, 0, true⟩ } }, ⟨48, 0, 0, true⟩,
    by decide +kernel⟩⟩

/-- States and operands that meet the hypotheses of every clause of `CutoffDecidesTheMode`. -/
theorem witness_CutoffDecidesTheMode :
    (∃ (s : State),
    s.clocked = true ∧
    s.sys.mode ≠ Mode.boot ∧
    comingMode s = Mode.boot) :=
  ⟨{ w [] [] with sys := { (w [] []).sys with decided := some (.boot, 1) } },
    by decide +kernel⟩

/-- States and operands that meet the hypotheses of every clause of `FrameBoundaryAdvances`. -/
theorem witness_FrameBoundaryAdvances :
    (∃ (s : State),
    s.clocked = true) ∧
    (∃ (s : State),
    runsOn s) :=
  ⟨⟨w [] [],
    by decide +kernel⟩,
   ⟨w [] [],
    by decide +kernel⟩⟩

/-- States and operands that meet the hypotheses of every clause of `CutoffDeadlineAndFlip`. -/
theorem witness_CutoffDeadlineAndFlip :
    (∃ (s : State),
    s.clocked = true ∧
    s.edge + 6000 ≤ s.period) ∧
    (∃ (s : State),
    s.clocked = true ∧
    s.edge + 1000 ≤ s.period) ∧
    (∃ (s : State),
    s.clocked = true ∧
    s.edge ≤ 100) :=
  ⟨⟨{ w [] [] with edge := 100 },
    by decide +kernel⟩,
   ⟨{ w [] [] with edge := 100 },
    by decide +kernel⟩,
   ⟨{ w [] [] with edge := 100 },
    by decide +kernel⟩⟩

/-- States and operands that meet the hypotheses of every clause of `PlacedSlicesNeverOverlap`. -/
theorem witness_PlacedSlicesNeverOverlap :
    (∃ (engineOf : Nat → Nat) (budgets : List Nat) (period : Nat) (l : List Task) (p : Placed) (q : Placed) (t : Task),
    (List.map (fun x => x.num) l).Nodup ∧
    p ∈ (placeAll engineOf budgets period l).slices ∧
    q ∈ (placeAll engineOf budgets period l).slices ∧
    t ∈ l ∧
    p.task = t.num ∧
    t.dep ≠ 255 ∧
    q.task = t.dep) :=
  ⟨fun k => if k = 2 then 7 else 0, [1000, 1000], 100000, [⟨1, 0, false, false, 0, 0, 255, 0, 1, 0, 1, 0, 0, 0, 0⟩, ⟨2, 0, false, false, 7, 1, 1, 1, 1, 0, 1, 0, 0, 0, 0⟩], ⟨7, 2, 1, 0, 1014, 2020⟩, ⟨0, 1, 0, 0, 0, 1006⟩, ⟨2, 0, false, false, 7, 1, 1, 1, 1, 0, 1, 0, 0, 0, 0⟩,
    by decide +kernel⟩

/-- States and operands that meet the hypotheses of every clause of `SliceStarts`. -/
theorem witness_SliceStarts :
    (∃ (s : State) (e : Fin 8) (p : Placed) (im : Image),
    nextSlice s ↑e = some p ∧
    s.sched.image = some im ∧
    (s.en ↑e).state = EngState.idle ∧
    s.clocked = true ∧
    p.task < 128) :=
  ⟨{ we { Eng.reset with state := .idle } with sched := { Sched.reset with plan := [⟨7, 127, 0, 0, 0, 10⟩], image := some ⟨0, 0, 1, [(0, 0)], []⟩ } }, 7, ⟨7, 127, 0, 0, 0, 10⟩, ⟨0, 0, 1, [(0, 0)], []⟩,
    by decide +kernel⟩

/-- States and operands that meet the hypotheses of every clause of `BudgetExhausts`. -/
theorem witness_BudgetExhausts :
    (∃ (s : State) (e : Fin 8),
    (s.en ↑e).state = EngState.run ∧
    s.clocked = true ∧
    s.txn.state = TxnState.free ∧
    s.flag (Reg.FLT_SRC (48 + ↑e)) 3 = false) :=
  ⟨weR [(Reg.FLT_SRC 55, 0)] e0, 7,
    by decide +kernel⟩

/-- States and operands that meet the hypotheses of every clause of `EngineResetsAndProgramChecks`. -/
theorem witness_EngineResetsAndProgramChecks :
    (∃ (s : State) (v : Word) (rest : List (Nat × Word)),
    front s Reg.BE_RST v rest ∧
    fld v 8 8 = 165) ∧
    (∃ (s : State) (v : Word) (rest : List (Nat × Word)),
    front s Reg.BE_RST v rest ∧
    fld v 8 8 ≠ 165) ∧
    (∃ (s : State) (e : Fin 8) (im : Image),
    (s.en ↑e).state = EngState.rehash ∧
    (s.en ↑e).rehashed = false ∧
    s.clocked = true ∧
    s.sched.image = some im ∧
    (s.en ↑e).imemErr = [] ∧
    sha256 (insnBytes (List.map (fun k => SMap.get 0 (s.en ↑e).imem k) (List.range im.ninsn))) = s.peg.isecHash) ∧
    (∃ (s : State) (e : Fin 8) (im : Image),
    (s.en ↑e).state = EngState.rehash ∧
    (s.en ↑e).rehashed = false ∧
    s.clocked = true ∧
    s.sched.image = some im ∧
    (sha256 (insnBytes (List.map (fun k => SMap.get 0 (s.en ↑e).imem k) (List.range im.ninsn))) ≠ s.peg.isecHash ∨ ∃ q ∈ (s.en ↑e).imemErr, q.1 < im.ninsn ∧ 2 ≤ q.2)) ∧
    (∃ (s : State) (v : Word) (rest : List (Nat × Word)),
    front s Reg.PROG_BANK v rest ∧
    (fld v 16 2 = 1 ∨ fld v 16 2 = 2) ∧
    s.solo = true) ∧
    (∃ (s : State) (b : Nat) (r : Reject),
    s.sched.verify = some (b, r) ∧
    b < 2 ∧
    s.clocked = true) ∧
    (∃ (s : State) (v : Word) (rest : List (Nat × Word)),
    front s Reg.SCHED_CTRL v rest ∧
    bit v 0 = true) :=
  ⟨⟨w [] [(Reg.BE_RST, 0xA5FF)], 0xA5FF, [],
    by decide +kernel⟩,
   ⟨w [] [(Reg.BE_RST, 0xA4FF)], 0xA4FF, [],
    by decide +kernel⟩,
   ⟨{ weR [] { Eng.reset with state := .rehash } with sched := { Sched.reset with image := some ⟨0, 0, 0, [], []⟩ }, peg := { Peg.reset with isecHash := sha256 [] } }, 7, ⟨0, 0, 0, [], []⟩,
    by decide +kernel⟩,
   ⟨{ weR [(Reg.FLT_SRC 63, 0)] { Eng.reset with state := .rehash } with sched := { Sched.reset with image := some ⟨0, 0, 0, [], []⟩ }, peg := { Peg.reset with isecHash := [] } }, 7, ⟨0, 0, 0, [], []⟩,
    by decide +kernel⟩,
   ⟨w [] [(Reg.PROG_BANK, 0x20000)], 0x20000, [],
    by decide +kernel⟩,
   ⟨{ w [] [] with sched := { Sched.reset with verify := some (1, Reject.none) } }, 1, Reject.none,
    by decide +kernel⟩,
   ⟨w [] [(Reg.SCHED_CTRL, 1)], 1, [],
    by decide +kernel⟩⟩

/-- States and operands that meet the hypotheses of every clause of `TransactionCommands`. -/
theorem witness_TransactionCommands :
    (∃ (s : State) (v : Word) (rest : List (Nat × Word)),
    front s Reg.TXN_CTRL v rest ∧
    fld v 16 2 = 1 ∧
    s.solo = true ∧
    s.sys.mode ≠ Mode.boot ∧
    fld v 0 16 ≠ 0 ∧
    s.txn.state = TxnState.free) ∧
    (∃ (s : State) (v : Word) (rest : List (Nat × Word)),
    front s Reg.TXN_CTRL v rest ∧
    fld v 16 2 = 1 ∧
    s.solo = true ∧
    s.sys.mode ≠ Mode.boot ∧
    fld v 0 16 ≠ 0 ∧
    (s.txn.state = TxnState.opened ∨ s.txn.state = TxnState.checking) ∧
    s.txn.holder = Holder.host (fld v 0 16)) ∧
    (∃ (s : State) (t : Nat) (v : Word) (rest : List (Nat × Word)),
    front s Reg.TXN_CTRL v rest ∧
    fld v 16 2 = 1 ∧
    s.solo = true ∧
    s.sys.mode ≠ Mode.boot ∧
    fld v 0 16 ≠ 0 ∧
    s.txn.state ≠ TxnState.free ∧
    (s.txn.state = TxnState.pending ∨ s.txn.holder ≠ Holder.host (fld v 0 16)) ∧
    (∀ (r : Nat), openRank (s.at t) = some r → r ≤ 1)) ∧
    (∃ (s : State) (t : Nat) (v : Word) (rest : List (Nat × Word)) (r : Nat),
    front s Reg.TXN_CTRL v rest ∧
    fld v 16 2 = 1 ∧
    s.solo = true ∧
    s.sys.mode ≠ Mode.boot ∧
    fld v 0 16 ≠ 0 ∧
    s.txn.state ≠ TxnState.free ∧
    (s.txn.state = TxnState.pending ∨ s.txn.holder ≠ Holder.host (fld v 0 16)) ∧
    openRank (s.at t) = some r ∧
    1 < r) ∧
    (∃ (s : State) (v : Word) (rest : List (Nat × Word)),
    front s Reg.TXN_CTRL v rest ∧
    fld v 16 2 = 1 ∧
    s.solo = true ∧
    s.sys.mode ≠ Mode.boot ∧
    fld v 0 16 = 0) ∧
    (∃ (s : State) (v : Word) (rest : List (Nat × Word)),
    front s Reg.TXN_CTRL v rest ∧
    fld v 16 2 = 1 ∧
    s.solo = true ∧
    s.sys.mode = Mode.boot) ∧
    (∃ (s : State) (v : Word) (rest : List (Nat × Word)),
    front s Reg.TXN_CTRL v rest ∧
    s.solo = true ∧
    s.sys.mode ≠ Mode.boot ∧
    fld v 16 2 = 2 ∧
    s.txn.state = TxnState.opened ∧
    s.txn.holder = Holder.host (fld v 0 16)) ∧
    (∃ (s : State) (v : Word) (rest : List (Nat × Word)),
    front s Reg.TXN_CTRL v rest ∧
    s.solo = true ∧
    s.sys.mode ≠ Mode.boot ∧
    fld v 16 2 = 3 ∧
    s.txn.state = TxnState.opened ∧
    s.txn.holder = Holder.host (fld v 0 16)) ∧
    (∃ (s : State) (v : Word) (rest : List (Nat × Word)),
    front s Reg.TXN_CTRL v rest ∧
    s.solo = true ∧
    s.sys.mode ≠ Mode.boot ∧
    (s.txn.state = TxnState.checking ∨ s.txn.state = TxnState.pending) ∧
    s.txn.holder = Holder.host (fld v 0 16) ∧
    fld v 16 2 = 2) ∧
    (∃ (s : State) (v : Word) (rest : List (Nat × Word)),
    front s Reg.TXN_CTRL v rest ∧
    s.solo = true ∧
    s.sys.mode ≠ Mode.boot ∧
    (s.txn.state = TxnState.checking ∨ s.txn.state = TxnState.pending) ∧
    s.txn.holder = Holder.host (fld v 0 16) ∧
    fld v 16 2 = 3) ∧
    (∃ (s : State) (v : Word) (rest : List (Nat × Word)),
    front s Reg.TXN_CTRL v rest ∧
    s.solo = true ∧
    s.sys.mode ≠ Mode.boot ∧
    s.txn.state ≠ TxnState.free ∧
    s.txn.holder ≠ Holder.host (fld v 0 16) ∧
    fld v 16 2 = 2) ∧
    (∃ (s : State) (v : Word) (rest : List (Nat × Word)),
    front s Reg.TXN_CTRL v rest ∧
    s.solo = true ∧
    s.sys.mode ≠ Mode.boot ∧
    s.txn.state ≠ TxnState.free ∧
    s.txn.holder ≠ Holder.host (fld v 0 16) ∧
    fld v 16 2 = 3) ∧
    (∃ (s : State) (v : Word) (rest : List (Nat × Word)),
    front s Reg.TXN_CTRL v rest ∧
    s.solo = true ∧
    s.sys.mode ≠ Mode.boot ∧
    s.txn.state = TxnState.free ∧
    fld v 16 2 = 2) ∧
    (∃ (s : State) (v : Word) (rest : List (Nat × Word)),
    front s Reg.TXN_CTRL v rest ∧
    s.solo = true ∧
    s.sys.mode ≠ Mode.boot ∧
    s.txn.state = TxnState.free ∧
    fld v 16 2 = 3) ∧
    (∃ (s : State) (t : Nat) (v : Word) (rest : List (Nat × Word)) (p : Nat × Instr),
    front s Reg.TXN_CTRL v rest ∧
    s.solo = false ∧
    p ∈ [(1, Instr.begin t), (2, Instr.commit t), (3, Instr.rollback t)] ∧
    fld v 16 2 = p.1 ∧
    s.isLead = true) ∧
    (∃ (s : State) (t : Nat) (v : Word) (rest : List (Nat × Word)) (p : Nat × Instr),
    front s Reg.TXN_CTRL v rest ∧
    s.solo = false ∧
    p ∈ [(1, Instr.begin t), (2, Instr.commit t), (3, Instr.rollback t)] ∧
    fld v 16 2 = p.1 ∧
    s.isLead = false) ∧
    (∃ (s : State) (v : Word),
    s.clocked = true ∧
    s.edge + 1000 ≤ s.period ∧
    s.solo = true ∧
    s.tru.probation = 0 ∧
    s.sys.mode ∈ [Mode.idle, Mode.run, Mode.limp, Mode.safe, Mode.service] ∧
    s.inrec.cur = [{ kind := RecKind.txnWrite, data := [Reg.TXN_CTRL, BitVec.toNat v, 0] }] ∧
    fld v 16 2 = 1 ∧
    fld v 0 16 ≠ 0 ∧
    s.txn.state = TxnState.free) ∧
    (∃ (s : State) (v : Word),
    s.clocked = true ∧
    s.edge + 1000 ≤ s.period ∧
    s.solo = true ∧
    s.tru.probation = 0 ∧
    s.sys.mode ∈ [Mode.idle, Mode.run, Mode.limp, Mode.safe, Mode.service] ∧
    s.inrec.cur = [{ kind := RecKind.txnWrite, data := [Reg.TXN_CTRL, BitVec.toNat v, 0] }] ∧
    s.txn.state = TxnState.opened ∧
    s.txn.holder = Holder.twin (fld v 0 16) ∧
    fld v 16 2 = 2) ∧
    (∃ (s : State) (v : Word),
    s.clocked = true ∧
    s.edge + 1000 ≤ s.period ∧
    s.solo = true ∧
    s.tru.probation = 0 ∧
    s.sys.mode ∈ [Mode.idle, Mode.run, Mode.limp, Mode.safe, Mode.service] ∧
    s.inrec.cur = [{ kind := RecKind.txnWrite, data := [Reg.TXN_CTRL, BitVec.toNat v, 0] }] ∧
    s.txn.state = TxnState.opened ∧
    s.txn.holder = Holder.twin (fld v 0 16) ∧
    fld v 16 2 = 3) ∧
    (∃ (s : State) (v : Word) (k : Nat),
    s.clocked = true ∧
    s.edge + 1000 ≤ s.period ∧
    s.solo = true ∧
    s.tru.probation = 0 ∧
    s.sys.mode ∈ [Mode.idle, Mode.run, Mode.limp, Mode.safe, Mode.service] ∧
    s.inrec.cur = [{ kind := RecKind.txnWrite, data := [Reg.TXN_CTRL, BitVec.toNat v, 0] }] ∧
    s.txn.state ≠ TxnState.free ∧
    s.txn.holder = Holder.twin k ∧
    k ≠ fld v 0 16 ∧
    (fld v 16 2 = 2 ∨ fld v 16 2 = 3)) ∧
    (∃ (s : State) (a : Nat) (v : Word) (r : RegRow) (k : Nat),
    s.clocked = true ∧
    s.edge + 1000 ≤ s.period ∧
    s.solo = true ∧
    s.tru.probation = 0 ∧
    s.inrec.cur = [{ kind := RecKind.txnWrite, data := [a, BitVec.toNat v, 0] }] ∧
    Reg.row? a = some r ∧
    r.tx ≠ 0 ∧
    r.rw = 0 ∧
    r.w1c = 0 ∧
    r.wo = 0 ∧
    s.txn.state = TxnState.opened ∧
    s.txn.holder = Holder.twin k ∧
    s.txn.shadow.length < 4096) ∧
    (∃ (s : State) (a : Nat) (v : Word) (r : RegRow),
    s.clocked = true ∧
    s.edge + 1000 ≤ s.period ∧
    s.solo = true ∧
    s.tru.probation = 0 ∧
    s.inrec.cur = [{ kind := RecKind.txnWrite, data := [a, BitVec.toNat v, 0] }] ∧
    Reg.row? a = some r ∧
    r.tx ≠ 0 ∧
    r.rw = 0 ∧
    r.w1c = 0 ∧
    r.wo = 0 ∧
    s.txn.state ≠ TxnState.opened) :=
  ⟨⟨{ w [] [(Reg.TXN_CTRL, 0x1FFFF)] with txn := { Txn.reset with state := .free, holder := .none } }, 0x1FFFF, [],
    by decide +kernel⟩,
   ⟨{ w [] [(Reg.TXN_CTRL, 0x1FFFF)] with txn := { Txn.reset with state := .checking, holder := .host 0xFFFF } }, 0x1FFFF, [],
    by decide +kernel⟩,
   ⟨{ w [] [(Reg.TXN_CTRL, 0x1FFFF)] with txn := { Txn.reset with state := .opened, holder := .host 1 } }, 0, 0x1FFFF, [],
    by decide +kernel⟩,
   ⟨{ w [] [(Reg.TXN_CTRL, 0x1FFFF)] with txn := { Txn.reset with state := .opened, holder := .engines 1, begins := [⟨9, .engines 1, none⟩] } }, 0, 0x1FFFF, [], 9,
    by decide +kernel⟩,
   ⟨{ w [] [(Reg.TXN_CTRL, 0x10000)] with txn := { Txn.reset with state := .free, holder := .none } }, 0x10000, [],
    by decide +kernel⟩,
   ⟨{ wIn .boot [] [(Reg.TXN_CTRL, 0x10001)] with txn := { Txn.reset with state := .free, holder := .none } }, 0x10001, [],
    by decide +kernel⟩,
   ⟨{ w [] [(Reg.TXN_CTRL, 0x20001)] with txn := { Txn.reset with state := .opened, holder := .host 1 } }, 0x20001, [],
    by decide +kernel⟩,
   ⟨{ w [] [(Reg.TXN_CTRL, 0x30001)] with txn := { Txn.reset with state := .opened, holder := .host 1 } }, 0x30001, [],
    by decide +kernel⟩,
   ⟨{ w [] [(Reg.TXN_CTRL, 0x20001)] with txn := { Txn.reset with state := .checking, holder := .host 1 } }, 0x20001, [],
    by decide +kernel⟩,
   ⟨{ w [] [(Reg.TXN_CTRL, 0x30001)] with txn := { Txn.reset with state := .pending, holder := .host 1 } }, 0x30001, [],
    by decide +kernel⟩,
   ⟨{ w [] [(Reg.TXN_CTRL, 0x20002)] with txn := { Txn.reset with state := .opened, holder := .host 1 } }, 0x20002, [],
    by decide +kernel⟩,
   ⟨{ w [] [(Reg.TXN_CTRL, 0x30002)] with txn := { Txn.reset with state := .opened, holder := .host 1 } }, 0x30002, [],
    by decide +kernel⟩,
   ⟨{ w [] [(Reg.TXN_CTRL, 0x20001)] with txn := { Txn.reset with state := .free, holder := .none } }, 0x20001, [],
    by decide +kernel⟩,
   ⟨{ w [] [(Reg.TXN_CTRL, 0x30001)] with txn := { Txn.reset with state := .free, holder := .none } }, 0x30001, [],
    by decide +kernel⟩,
   ⟨w [(Reg.SYS_FRMSTAT, 0), (Reg.TRU_STAT, 0x10)] [(Reg.TXN_CTRL, 0x1FFFF)], 0, 0x1FFFF, [], (1, .begin 0),
    by decide +kernel⟩,
   ⟨w [(Reg.SYS_FRMSTAT, 0), (Reg.TRU_STAT, 0)] [(Reg.TXN_CTRL, 0x1FFFF)], 0, 0x1FFFF, [], (1, .begin 0),
    by decide +kernel⟩,
   ⟨{ w [] [] with inrec := { InRec.reset with cur := [⟨.txnWrite, [Reg.TXN_CTRL, 131071, 0]⟩] }, txn := { Txn.reset with state := .free } }, 0x1FFFF,
    by decide +kernel⟩,
   ⟨{ w [] [] with inrec := { InRec.reset with cur := [⟨.txnWrite, [Reg.TXN_CTRL, 196607, 0]⟩] }, txn := { Txn.reset with state := .opened, holder := .twin 0xFFFF } }, 0x2FFFF,
    by decide +kernel⟩,
   ⟨{ w [] [] with inrec := { InRec.reset with cur := [⟨.txnWrite, [Reg.TXN_CTRL, 262143, 0]⟩] }, txn := { Txn.reset with state := .opened, holder := .twin 0xFFFF } }, 0x3FFFF,
    by decide +kernel⟩,
   ⟨{ w [] [] with inrec := { InRec.reset with cur := [⟨.txnWrite, [Reg.TXN_CTRL, 196607, 0]⟩] }, txn := { Txn.reset with state := .opened, holder := .twin 1 } }, 0x2FFFF, 1,
    by decide +kernel⟩,
   ⟨{ w [] [] with inrec := { InRec.reset with cur := [⟨.txnWrite, [Reg.SYS_FRMCFG, 2, 0]⟩] }, txn := { Txn.reset with state := .opened, holder := .twin 1 } }, Reg.SYS_FRMCFG, 2, (Reg.row? Reg.SYS_FRMCFG).get (by decide +kernel), 1,
    by decide +kernel⟩,
   ⟨{ w [] [] with inrec := { InRec.reset with cur := [⟨.txnWrite, [Reg.SYS_FRMCFG, 2, 0]⟩] }, txn := { Txn.reset with state := .free } }, Reg.SYS_FRMCFG, 2, (Reg.row? Reg.SYS_FRMCFG).get (by decide +kernel),
    by decide +kernel⟩⟩

/-- States and operands that meet the hypotheses of every clause of `ShadowWritesAndCommitCheck`. -/
theorem witness_ShadowWritesAndCommitCheck :
    (∃ (s : State) (a : Nat) (v : Word) (rest : List (Nat × Word)) (r : RegRow),
    front s a v rest ∧
    s.solo = true ∧
    Reg.row? a = some r ∧
    r.tx ≠ 0 ∧
    r.rw = 0 ∧
    r.w1c = 0 ∧
    r.wo = 0 ∧
    (∀ x ∈ s.sys.arrived, x.rank ≤ 8)) ∧
    (∃ (s : State) (a : Nat) (v : Word) (rest : List (Nat × Word)) (r : RegRow),
    front s a v rest ∧
    s.solo = false ∧
    Reg.row? a = some r ∧
    r.tx ≠ 0 ∧
    r.rw = 0 ∧
    r.w1c = 0 ∧
    r.wo = 0) ∧
    (∃ (s : State),
    s.txn.state = TxnState.checking ∧
    s.clocked = true ∧
    s.txn.digOk = false) ∧
    (∃ (s : State),
    s.txn.state = TxnState.checking ∧
    s.clocked = true ∧
    s.txn.digOk = true ∧
    overflows s s.merged) ∧
    (∃ (s : State),
    s.txn.state = TxnState.checking ∧
    s.clocked = true ∧
    s.txn.digOk = true ∧
    (¬overflows s s.merged) ∧
    outOfRange s s.merged) ∧
    (∃ (s : State),
    s.txn.state = TxnState.checking ∧
    s.clocked = true ∧
    s.txn.digOk = true ∧
    (¬overflows s s.merged) ∧
    rangeCheck s s.merged = true ∧
    wrongMode s s.merged) ∧
    (∃ (s : State),
    s.txn.state = TxnState.checking ∧
    s.clocked = true ∧
    s.txn.digOk = true ∧
    (¬overflows s s.merged) ∧
    rangeCheck s s.merged = true ∧
    modeCheck s s.merged = true ∧
    writesIn s 74752 76800 = true ∧
    s.sched.image.isSome = true ∧
    (∃ k ∈ tasks s.merged, k.cls = 0 ∧ (placeAll (fun n => s.merged.rf (Reg.TASK_CFG n) 24 3) (imageBudgets s) s.merged.period (List.filter (fun x => decide (x.cls = 0)) (tasks s.merged))).has k.num = false)) ∧
    (∃ (s : State),
    s.txn.state = TxnState.checking ∧
    s.clocked = true ∧
    s.txn.digOk = true ∧
    (¬overflows s s.merged) ∧
    rangeCheck s s.merged = true ∧
    modeCheck s s.merged = true ∧
    writesIn s 74752 76800 = false ∧
    s.rd Reg.SYS_FRMCFG = s.merged.rd Reg.SYS_FRMCFG) ∧
    (∃ (s : State) (t : Nat),
    s.txn.state = TxnState.checking ∧
    s.clocked = true ∧
    commitVerdict { s with edge := (s.at t).edge } = none) ∧
    (∃ (s : State) (t : Nat) (v : Verdict),
    s.txn.state = TxnState.checking ∧
    s.clocked = true ∧
    commitVerdict { s with edge := (s.at t).edge } = some v) ∧
    (∃ (s : State),
    s.txn.state = TxnState.opened ∧
    10000 ≤ s.txn.idle ∧
    s.clocked = true) :=
  ⟨⟨w [] [(Reg.SYS_FRMCFG, 2)], Reg.SYS_FRMCFG, 2, [], (Reg.row? Reg.SYS_FRMCFG).get (by decide +kernel),
    by decide +kernel⟩,
   ⟨w [(Reg.SYS_FRMSTAT, 0)] [(Reg.SYS_FRMCFG, 2)], Reg.SYS_FRMCFG, 2, [], (Reg.row? Reg.SYS_FRMCFG).get (by decide +kernel),
    by decide +kernel⟩,
   ⟨{ w [] [] with txn := { Txn.reset with state := .checking, holder := .host 1, digOk := false } },
    by decide +kernel⟩,
   ⟨{ w [] [] with txn := { Txn.reset with state := .checking, holder := .host 1, digOk := true, shadow := [], beyond := List.replicate 4097 0 } },
    by exact ⟨by decide +kernel, by decide +kernel, by decide +kernel, (Or.inl (by decide +kernel))⟩⟩,
   ⟨{ w [] [] with txn := { Txn.reset with state := .checking, holder := .host 1, digOk := true, shadow := [(Reg.SYS_FRMCFG, 6)] } },
    by exact ⟨by decide +kernel, by decide +kernel, by decide +kernel, (not_overflows _ (by decide +kernel) (by decide +kernel) (by decide +kernel) (by decide +kernel) (by decide +kernel) (by decide +kernel) (by decide +kernel)), (Or.inl ⟨6, by decide +kernel, by decide +kernel⟩)⟩⟩,
   ⟨{ w [] [] with txn := { Txn.reset with state := .checking, holder := .host 1, digOk := true, shadow := [(Reg.SYS_FRMCFG, 2)] } },
    by refine ⟨?_, ?_, ?_, (not_overflows _ (by decide +kernel) (by decide +kernel) (by decide +kernel) (by decide +kernel) (by decide +kernel) (by decide +kernel) (by decide +kernel)), ?_, (Or.inl ⟨by decide +kernel, by decide +kernel, Or.inl (by decide +kernel)⟩)⟩ <;> decide +kernel⟩,
   ⟨{ w [] [] with sched := { Sched.reset with image := some ⟨0, 0, 1, [(0, 0x00FFFFFF)], []⟩ }, txn := { Txn.reset with state := .checking, holder := .host 1, digOk := true, shadow := [(Reg.TASK_CFG 0, 0x8000FF00), (Reg.TASK_TIME 0, 0x100)] } },
    by refine ⟨?_, ?_, ?_, (not_overflows _ (by decide +kernel) (by decide +kernel) (by decide +kernel) (by decide +kernel) (by decide +kernel) (by decide +kernel) (by decide +kernel)), ?_, ?_, ?_, ?_, ?_⟩ <;> decide +kernel⟩,
   ⟨{ w [] [] with txn := { Txn.reset with state := .checking, holder := .host 1, digOk := true, shadow := [(Reg.FLT_QUIET, 1)] } },
    by refine ⟨?_, ?_, ?_, (not_overflows _ (by decide +kernel) (by decide +kernel) (by decide +kernel) (by decide +kernel) (by decide +kernel) (by decide +kernel) (by decide +kernel)), ?_, ?_, ?_, ?_⟩ <;> decide +kernel⟩,
   ⟨{ w [] [] with txn := { Txn.reset with state := .checking, holder := .host 1 } }, 0,
    by decide +kernel⟩,
   ⟨{ w [] [] with txn := { Txn.reset with state := .checking, holder := .host 1, digOk := false } }, 0, .plain .auth,
    by decide +kernel⟩,
   ⟨{ w [] [] with txn := { Txn.reset with state := .opened, holder := .host 1, idle := 10000 } },
    by decide +kernel⟩⟩

/-- States and operands that meet the hypotheses of every clause of `WaitsEnd`. -/
theorem witness_WaitsEnd :
    (∃ (s : State) (t : Nat) (q : Query) (k : Word),
    s.clocked = true ∧
    queryOf s k = some q ∧
    q.bound ≤ (s.at t).now) ∧
    (∃ (s : State) (t : Nat) (e : Fin 8) (p : Nat) (q : Word) (bound : Nat),
    s.clocked = true ∧
    (s.en ↑e).wait = EngWait.journal p q bound ∧
    p < 8 ∧
    bound ≤ (s.at t).now) ∧
    (∃ (s : State) (e : Fin 8) (x : BlockStore) (xs : List BlockStore) (c : Fin 192),
    s.clocked = true ∧
    (s.en ↑e).stores = x :: xs ∧
    x.addr = Reg.PWM_DUTY ↑c ∧
    x.token = none) :=
  ⟨⟨{ w [] [] with scr := { Scribe.reset with queries := [⟨5, 0, 0, 0, 0, ⟨0, 0, 0, 0, 0, 0, 0, 0, 0⟩, false, []⟩] } }, 0, ⟨5, 0, 0, 0, 0, ⟨0, 0, 0, 0, 0, 0, 0, 0, 0⟩, false, []⟩, 5,
    by decide +kernel⟩,
   ⟨we { e0 with wait := .journal 7 0 0 }, 0, 7, 7, 0, 0,
    by decide +kernel⟩,
   ⟨we { e0 with stores := [⟨Reg.PWM_DUTY 191, 5, 5, 0, none⟩] }, 7, ⟨Reg.PWM_DUTY 191, 5, 5, 0, none⟩, [], 191,
    by decide +kernel⟩⟩

/-- States and operands that meet the hypotheses of every clause of `SearchesTriggersAndConversions`. -/
theorem witness_SearchesTriggersAndConversions :
    (∃ (s : State) (c : Fin 108) (samples : List (BitVec 16)) (g : GSearch) (m : Nat),
    s.clocked = true ∧
    List.find? (fun x => decide (x.ch = ↑c)) s.gauge.searches = some g ∧
    runSearch s g.onEdge (List.map BitVec.toNat samples) = some m) ∧
    (∃ (s : State) (c : Fin 108) (samples : List (BitVec 16)) (g : GSearch),
    s.clocked = true ∧
    List.find? (fun x => decide (x.ch = ↑c)) s.gauge.searches = some g ∧
    runSearch s g.onEdge (List.map BitVec.toNat samples) = none ∧
    19901 ≤ samples.length) ∧
    (∃ (s : State) (t : Nat) (k : Fin 16),
    adcRuns s = true ∧
    ((s.at t).now, ↑k) ∈ s.adc.due) ∧
    (∃ (s : State) (v : Word) (rest : List (Nat × Word)),
    front s Reg.ADC_SWTRG v rest ∧
    adcRuns s = true ∧
    List.filter (fun n => bit v n) (adcTriggers s 3 fun _ => true) = []) ∧
    (∃ (s : State) (k : Fin 16) (v : Word) (rest : List (Nat × Word)) (i : Nat) (b : Bool),
    front s Reg.ADC_SWTRG v rest ∧
    adcRuns s = true ∧
    List.filter (fun n => bit v n) (adcTriggers s 3 fun _ => true) = [↑k] ∧
    startsOn s (↑k) i b ∧
    divEvent s ↑k) ∧
    (∃ (s : State) (k : Fin 16) (v : Word) (rest : List (Nat × Word)),
    front s Reg.ADC_SWTRG v rest ∧
    adcRuns s = true ∧
    List.filter (fun n => bit v n) (adcTriggers s 3 fun _ => true) = [↑k] ∧
    (¬divEvent s ↑k)) ∧
    (∃ (s : State) (t : Nat) (c : Fin 192) (x : Bool),
    adcRuns s = true ∧
    compareNow (s.at t) (↑c) x = true ∧
    (adcTriggers s 1 fun sel => decide (sel % 512 = ↑c + if x = true then 256 else 0)) = []) ∧
    (∃ (s : State) (t : Nat) (k : Fin 16) (c : Fin 192) (x : Bool) (i : Nat) (b : Bool),
    adcRuns s = true ∧
    compareNow (s.at t) (↑c) x = true ∧
    (adcTriggers s 1 fun sel => decide (sel % 512 = ↑c + if x = true then 256 else 0)) = [↑k] ∧
    startsOn s (↑k) i b ∧
    divEvent s ↑k) ∧
    (∃ (s : State) (t : Nat) (k : Fin 16) (c : Fin 192) (x : Bool),
    adcRuns s = true ∧
    compareNow (s.at t) (↑c) x = true ∧
    (adcTriggers s 1 fun sel => decide (sel % 512 = ↑c + if x = true then 256 else 0)) = [↑k] ∧
    (¬divEvent s ↑k)) ∧
    (∃ (s : State) (b : Bool) (codes : List (BitVec 16)) (c : AdcConv),
    adcRuns s = true ∧
    (s.adcU b).cur = some c ∧
    c.input < 32 ∧
    codes.length = 2 ^ fld c.cfg 4 2) ∧
    (∃ (s : State) (b : Bool),
    adcRuns s = true ∧
    (s.adcU b).refDue = true ∧
    (s.adcU b).cur = none ∧
    (s.adcU b).fs = []) ∧
    (∃ (s : State) (i : Fin 32),
    adcRuns s = true ∧
    s.rf (Reg.ADC_INCFG ↑i) 0 2 = 2 ∧
    s.flag Reg.ADC_SHUNT ↑i = false) ∧
    (∃ (s : State) (v : Word) (rest : List (Nat × Word)),
    front s Reg.ADC_SHUNT v rest ∧
    adcRuns s = true) ∧
    (∃ (s : State),
    runsOn s ∧
    s.txn.state ≠ TxnState.pending) :=
  ⟨⟨{ w [] [] with gauge := ⟨[⟨107, true, 0, 0, false⟩]⟩ }, 107, [1000, 0, 1000], ⟨107, true, 0, 0, false⟩, 101,
    by decide +kernel⟩,
   ⟨{ w [] [] with gauge := ⟨[⟨107, false, 0, 0, false⟩]⟩ }, 107, flatSamples, ⟨107, false, 0, 0, false⟩,
    by exact ⟨by decide +kernel, by decide +kernel, (search_flat _ (by decide +kernel) _ flatSamples_zero), (Nat.le_of_eq flatSamples_length.symm)⟩⟩,
   ⟨adcState [(0, 15)] [(Reg.ADC_TRGSRC 15, 0x1000000), (Reg.ADC_CTRL, 1), (Reg.ADC_TRGLIST 15, 15), (Reg.ADC_INCFG 15, 0)] [], 0, 15,
    by decide +kernel⟩,
   ⟨w [] [(Reg.ADC_SWTRG, 0x8000)], 0x8000, [],
    by decide +kernel⟩,
   ⟨adcState [] [(Reg.ADC_TRGSRC 15, 0x8D000000), (Reg.ADC_CTRL, 1), (Reg.ADC_TRGLIST 15, 15), (Reg.ADC_INCFG 15, 0)] [(Reg.ADC_SWTRG, 0x8000)], 15, 0x8000, [], 15, false,
    by decide +kernel⟩,
   ⟨adcState [] [(Reg.ADC_TRGSRC 15, 0x8D000000), (Reg.ADC_CTRL, 1), (Reg.ADC_TRGLIST 15, 0x2000F), (Reg.ADC_INCFG 15, 0)] [(Reg.ADC_SWTRG, 0x8000)], 15, 0x8000, [],
    by decide +kernel⟩,
   ⟨{ w [(Reg.PWM_CMPB 191, 1)] [] with pwm := { Pwm.reset with ch := [(191, { PwmCh.reset with running := true, per := 100, began := -1 })] } }, 0, 191, true,
    by decide +kernel⟩,
   ⟨{ adcState [] [(Reg.ADC_TRGSRC 15, 0x850001BF), (Reg.ADC_CTRL, 1), (Reg.ADC_TRGLIST 15, 15), (Reg.ADC_INCFG 15, 0), (Reg.PWM_CMPB 191, 1)] [] with pwm := { Pwm.reset with ch := [(191, { PwmCh.reset with running := true, per := 100, began := -1 })] } }, 0, 15, 191, true, 15, false,
    by decide +kernel⟩,
   ⟨{ adcState [] [(Reg.ADC_TRGSRC 15, 0x850001BF), (Reg.ADC_CTRL, 1), (Reg.ADC_TRGLIST 15, 0x2000F), (Reg.ADC_INCFG 15, 0), (Reg.PWM_CMPB 191, 1)] [] with pwm := { Pwm.reset with ch := [(191, { PwmCh.reset with running := true, per := 100, began := -1 })] } }, 0, 15, 191, true,
    by decide +kernel⟩,
   ⟨{ w [] [] with adc := { Adc.reset with b := { AdcUnit.reset with cur := some ⟨31, 0, false, 0, 0, false, [], ⟨0, false, false, false, [], 0⟩⟩ } } }, true, [0xFFFF], ⟨31, 0, false, 0, 0, false, [], ⟨0, false, false, false, [], 0⟩⟩,
    by decide +kernel⟩,
   ⟨{ w [] [] with adc := { Adc.reset with b := { AdcUnit.reset with refDue := true } } }, true,
    by decide +kernel⟩,
   ⟨w [(Reg.ADC_INCFG 31, 2), (Reg.ADC_SHUNT, 0)] [], 31,
    by decide +kernel⟩,
   ⟨w [] [(Reg.ADC_SHUNT, 0xFFFFFFFF)], 0xFFFFFFFF, [],
    by decide +kernel⟩,
   ⟨w [] [(Reg.ADC_SWTRG, 0x8000)],
    by decide +kernel⟩⟩

/-- States and operands that meet the hypotheses of every clause of `CarriersAndPwmUnits`. -/
theorem witness_CarriersAndPwmUnits :
    (∃ (s : State) (t : Nat) (c : Fin 192),
    pwmRuns s = true ∧
    periodOver (s.at t) ↑c = true ∧
    (↑c % 2 = 0 ∨ 64 ≤ ↑c ∨ s.flag (Reg.PWM_CHCFG ↑c) 19 = false)) ∧
    (∃ (s : State) (t : Nat) (c : Fin 192),
    pwmRuns s = true ∧
    periodOver (s.at t) ↑c = true ∧
    ↑c % 2 = 1 ∧
    ↑c < 64 ∧
    s.flag (Reg.PWM_CHCFG ↑c) 19 = true) ∧
    (∃ (s : State) (t : Nat) (c : Fin 192),
    pwmRuns s = true ∧
    (s.pch ↑c).running = true ∧
    pairOdd s ↑c = false ∧
    (s.pch ↑c).refresh ≠ 2 ∧
    (s.pch ↑c).level = false ∧
    (s.pch ↑c).onFrom < (s.pch ↑c).onTo ∧
    pwmCounter (s.at t) ↑c = ↑(s.pch ↑c).onFrom) ∧
    (∃ (s : State) (t : Nat) (c : Fin 192),
    pwmRuns s = true ∧
    (s.pch ↑c).running = true ∧
    pairOdd s ↑c = false ∧
    (s.pch ↑c).refresh ≠ 2 ∧
    (s.pch ↑c).level = true ∧
    (s.pch ↑c).onTo < (s.pch ↑c).per ∧
    pwmCounter (s.at t) ↑c = ↑(s.pch ↑c).onTo) ∧
    (∃ (s : State) (t : Nat) (c : Fin 192),
    pwmRuns s = true ∧
    (s.pch ↑c).running = true ∧
    pairOdd s ↑c = false ∧
    (s.pch ↑c).refresh = 2 ∧
    (s.at t).now = (s.pch ↑c).phaseAt + s.rf (Reg.PWM_UTIME (↑c / 8)) 13 11) ∧
    (∃ (s : State) (t : Nat) (k : Fin 24),
    pwmRuns s = true ∧
    syncDue (s.at t) ↑k = true) ∧
    (∃ (s : State) (i : Fin 2),
    pwmRuns s = true ∧
    s.sys.viogFloat = false ∧
    s.rf (Reg.PWM_USYNC (8 * ↑i)) 24 2 = 2) ∧
    (∃ (s : State) (i : Fin 2),
    pwmRuns s = true ∧
    s.sys.viogFloat = false ∧
    s.rf (Reg.PWM_USYNC (8 * ↑i)) 24 2 ≠ 2) ∧
    (∃ (s : State),
    s.sys.viogFloat = true) ∧
    (∃ (s : State) (t : Nat) (c : Fin 64) (tout : Bool),
    pwmRuns s = true ∧
    pairEven s ↑c = true ∧
    (s.pch ↑c).dead = true ∧
    deadUntil (s.at t) (↑c) tout ≤ (s.at t).now) ∧
    (∃ (s : State),
    s.sys.mode ≠ Mode.sill ∧
    s.sys.viogFloat = false) ∧
    (∃ (s : State) (k : Fin 24) (v : Word) (rest : List (Nat × Word)),
    front s (Reg.PWM_UFSTAT ↑k) v rest ∧
    bit v 0 = true) ∧
    (∃ (s : State) (k : Fin 24) (v : Word) (rest : List (Nat × Word)),
    front s (Reg.PWM_UCTRL ↑k) v rest ∧
    pwmRuns s = true ∧
    bit v 0 = true ∧
    s.flag (Reg.PWM_UCTRL ↑k) 0 = false) ∧
    (∃ (s : State) (k : Fin 24) (v : Word) (rest : List (Nat × Word)),
    front s (Reg.PWM_UCTRL ↑k) v rest ∧
    pwmRuns s = true ∧
    bit v 0 = false) :=
  ⟨⟨{ w [] [] with pwm := { Pwm.reset with ch := [(191, { PwmCh.reset with running := true })] } }, 0, 191,
    by decide +kernel⟩,
   ⟨{ w [(Reg.PWM_CHCFG 63, 0x80000)] [] with pwm := { Pwm.reset with ch := [(63, { PwmCh.reset with running := true })] } }, 0, 63,
    by decide +kernel⟩,
   ⟨{ w [] [] with pwm := { Pwm.reset with ch := [(191, { PwmCh.reset with running := true, onFrom := 5, onTo := 6, began := -5 })] } }, 0, 191,
    by decide +kernel⟩,
   ⟨{ w [] [] with pwm := { Pwm.reset with ch := [(191, { PwmCh.reset with running := true, level := true, onTo := 6, per := 10, began := -6 })] } }, 0, 191,
    by decide +kernel⟩,
   ⟨{ w [(Reg.PWM_UTIME 7, 0)] [] with pwm := { Pwm.reset with ch := [(62, { PwmCh.reset with running := true, refresh := 2 })] } }, 0, 62,
    by decide +kernel⟩,
   ⟨{ w [] [] with pwm := { Pwm.reset with sync := [(23, [(0, 0)])] } }, 0, 23,
    by decide +kernel⟩,
   ⟨w [(Reg.PWM_USYNC 8, 0x02000000)] [], 1,
    by decide +kernel⟩,
   ⟨w [] [], 15,
    by decide +kernel⟩,
   ⟨{ w [] [] with sys := { (w [] []).sys with viogFloat := true } },
    by decide +kernel⟩,
   ⟨{ w [(Reg.PWM_DT 62, 0)] [] with pwm := { Pwm.reset with ch := [(62, { PwmCh.reset with dead := true }), (63, { PwmCh.reset with cfg := 0x00080000 })] } }, 0, 62, true,
    by decide +kernel⟩,
   ⟨w [] [],
    by decide +kernel⟩,
   ⟨w [] [(Reg.PWM_UFSTAT 23, 1)], 23, 1, [],
    by decide +kernel⟩,
   ⟨w [] [(Reg.PWM_UCTRL 23, 1)], 23, 1, [],
    by decide +kernel⟩,
   ⟨w [(Reg.PWM_UCTRL 23, 1)] [(Reg.PWM_UCTRL 23, 0)], 23, 0, [],
    by decide +kernel⟩⟩

/-- States and operands that meet the hypotheses of every clause of `ChannelsFollowAndProtect`. -/
theorem witness_ChannelsFollowAndProtect :
    (∃ (s : State) (c : Fin 108) (w : Word),
    (s.lch ↑c).wait = some w ∧
    s.clocked = true) ∧
    (∃ (s : State) (t : Nat) (c : Fin 108),
    offTested { s with edge := (s.at t).edge } ↑c = true ∧
    olMode s ↑c = 1 ∧
    (s.lch ↑c).olRun = 0) ∧
    (∃ (s : State) (t : Nat) (c : Fin 108) (above : Bool),
    offTested { s with edge := (s.at t).edge } ↑c = true ∧
    olMode s ↑c = 2 ∧
    s.frame.toNat % 2 = 0 ∧
    above = true ∧ (s.lch ↑c).olRun = 4) ∧
    (∃ (s : State) (t : Nat) (c : Fin 108) (above : Bool),
    offTested { s with edge := (s.at t).edge } ↑c = true ∧
    olMode s ↑c = 2 ∧
    s.frame.toNat % 2 = 0 ∧
    (¬(above = true ∧ (s.lch ↑c).olRun = 4))) ∧
    (∃ (s : State) (t : Nat) (c : Fin 108) (above : Bool),
    offTested { s with edge := (s.at t).edge } ↑c = true ∧
    olMode s ↑c = 2 ∧
    s.frame.toNat % 2 = 1 ∧
    above = true ∧ (s.lch ↑c).stbRun = 4) ∧
    (∃ (s : State) (t : Nat) (c : Fin 108) (above : Bool),
    offTested { s with edge := (s.at t).edge } ↑c = true ∧
    olMode s ↑c = 2 ∧
    s.frame.toNat % 2 = 1 ∧
    (¬(above = true ∧ (s.lch ↑c).stbRun = 4))) ∧
    (∃ (s : State) (c : Fin 108),
    s.flag (Reg.CH_STAT ↑c) 1 = true ∧
    (s.lch ↑c).inrush = false ∧
    s.flag (Reg.CH_STAT ↑c) 3 = false ∧
    (srcEnabled s (80 + bankOf ↑c) = true → srcSev s (80 + bankOf ↑c) < 2)) ∧
    (∃ (s : State) (c : Fin 108),
    s.sys.mode ≠ Mode.sill ∧
    chAbsent s ↑c = false ∧
    s.flag (Reg.CH_STAT ↑c) 3 = false) ∧
    (∃ (s : State) (c : Fin 108),
    s.flag (Reg.CH_STAT ↑c) 3 = true) ∧
    (∃ (s : State) (t : Nat) (c : Fin 108),
    s.flag (Reg.CH_STAT ↑c) 4 = true ∧
    s.flag (Reg.CH_STAT ↑c) 3 = false ∧
    s.clocked = true ∧
    (s.at t).now < (s.lch ↑c).retryAt + fld (s.lch ↑c).rty 16 10 * 1000000) ∧
    (∃ (s : State) (t : Nat) (c : Fin 108),
    s.flag (Reg.CH_STAT ↑c) 4 = true ∧
    s.flag (Reg.CH_STAT ↑c) 3 = false ∧
    s.clocked = true ∧
    (s.lch ↑c).retryAt + fld (s.lch ↑c).rty 16 10 * 1000000 ≤ (s.at t).now) ∧
    (∃ (s : State) (t : Nat) (c : Fin 108),
    s.clocked = true ∧
    s.flag (Reg.CH_STAT ↑c) 1 = true ∧
    (s.lch ↑c).onAt + fld (s.lch ↑c).rty 0 16 * 10000000 ≤ (s.at t).now) ∧
    (∃ (s : State) (t : Nat) (c : Fin 108),
    s.clocked = true ∧
    (s.at t).now < (s.lch ↑c).onAt + fld (s.lch ↑c).rty 0 16 * 10000000) ∧
    (∃ (s : State) (t : Nat) (c : Fin 108),
    s.clocked = true ∧
    (s.lch ↑c).onAt + fld (s.lch ↑c).inr 24 8 * 1000000 ≤ (s.at t).now) ∧
    (∃ (s : State) (t : Nat) (c : Fin 108),
    s.clocked = true ∧
    (s.at t).now < (s.lch ↑c).onAt + fld (s.lch ↑c).inr 24 8 * 1000000) ∧
    (∃ (s : State) (c : Fin 108) (v : Word) (rest : List (Nat × Word)),
    front s (Reg.CH_STAT ↑c) v rest ∧
    bit v 5 = true) :=
  ⟨⟨{ w [] [] with lsw := { Lsw.reset with ch := [(107, { LswCh.reset with wait := some 1 })] } }, 107, 1,
    by decide +kernel⟩,
   ⟨w [(Reg.CH_CFG 107, 0x1000), (Reg.BSTAT 11, 1)] [], 0, 107,
    by decide +kernel⟩,
   ⟨{ w [(Reg.CH_CFG 107, 0x2000), (Reg.BSTAT 11, 1)] [] with lsw := { Lsw.reset with ch := [(107, { LswCh.reset with olRun := 4 })] } }, 0, 107, true,
    by decide +kernel⟩,
   ⟨w [(Reg.CH_CFG 107, 0x2000), (Reg.BSTAT 11, 1)] [], 0, 107, true,
    by decide +kernel⟩,
   ⟨{ w [(Reg.CH_CFG 107, 0x2000), (Reg.BSTAT 11, 1)] [] with frame := 1, lsw := { Lsw.reset with ch := [(107, { LswCh.reset with stbRun := 4 })] } }, 0, 107, true,
    by decide +kernel⟩,
   ⟨{ w [(Reg.CH_CFG 107, 0x2000), (Reg.BSTAT 11, 1)] [] with frame := 1, lsw := { Lsw.reset with ch := [(107, { LswCh.reset with stbRun := 4 })] } }, 0, 107, false,
    by decide +kernel⟩,
   ⟨w [(Reg.CH_STAT 107, 2)] [], 107,
    by decide +kernel⟩,
   ⟨w [] [], 0,
    by decide +kernel⟩,
   ⟨w [(Reg.CH_STAT 107, 8)] [], 107,
    by decide +kernel⟩,
   ⟨w [(Reg.CH_STAT 107, 16)] [], 0, 107,
    by decide +kernel⟩,
   ⟨{ w [(Reg.CH_STAT 107, 0x10)] [] with lsw := { Lsw.reset with ch := [(107, { LswCh.reset with rty := 0 })] } }, 0, 107,
    by decide +kernel⟩,
   ⟨{ w [(Reg.CH_STAT 107, 2)] [] with lsw := { Lsw.reset with ch := [(107, { LswCh.reset with rty := 0 })] } }, 0, 107,
    by decide +kernel⟩,
   ⟨w [] [], 0, 2,
    by decide +kernel⟩,
   ⟨w [] [], 0, 2,
    by decide +kernel⟩,
   ⟨{ w [] [] with lsw := { Lsw.reset with ch := [(107, { LswCh.reset with inr := 0xFF000000 })] } }, 0, 107,
    by decide +kernel⟩,
   ⟨w [] [(Reg.CH_STAT 107, 32)], 107, 32, [],
    by decide +kernel⟩⟩

/-- States and operands that meet the hypotheses of every clause of `BanksFollowTheirSupply`. -/
theorem witness_BanksFollowTheirSupply :
    (∃ (s : State) (b : Fin 12),
    (s.bank ↑b).isoCmd = true ∧
    s.flag (Reg.BSTAT ↑b) 0 = false) ∧
    (∃ (s : State) (b : Fin 12),
    (s.bank ↑b).isoCmd = false ∧
    s.flag (Reg.BSTAT ↑b) 0 = true) ∧
    (∃ (s : State) (b : Fin 12),
    (s.bank ↑b).isoBad = true) ∧
    (∃ (s : State) (b : Fin 12),
    diagOn s = true ∧
    (s.bank ↑b).isoBad = false) ∧
    (∃ (s : State) (v : Word) (rest : List (Nat × Word)),
    front s Reg.LSW_WDTOK v rest) ∧
    (∃ (s : State) (b : Fin 12) (v : Word) (rest : List (Nat × Word)),
    front s (Reg.BSTAT ↑b) v rest ∧
    bit v 2 = true) ∧
    (∃ (s : State) (b : Fin 12),
    runsOn s ∧
    comingMode s ≠ Mode.service ∧
    s.txn.state ≠ TxnState.pending ∧
    s.flag (Reg.BCFG ↑b) 8 = true ∧
    (s.bank ↑b).fresh = false) :=
  ⟨⟨{ w [] [] with lsw := { Lsw.reset with bank := [(11, { Bank.reset with isoCmd := true })] } }, 11,
    by decide +kernel⟩,
   ⟨w [(Reg.BSTAT 11, 1)] [], 11,
    by decide +kernel⟩,
   ⟨{ w [] [] with lsw := { Lsw.reset with bank := [(11, { Bank.reset with isoBad := true })] } }, 11,
    by decide +kernel⟩,
   ⟨w [] [], 11,
    by decide +kernel⟩,
   ⟨w [] [(Reg.LSW_WDTOK, 0xFFFFFFFF)], 0xFFFFFFFF, [],
    by decide +kernel⟩,
   ⟨w [] [(Reg.BSTAT 11, 4)], 11, 4, [],
    by decide +kernel⟩,
   ⟨w [(Reg.BCFG 11, 0x100)] [], 11,
    by decide +kernel⟩⟩

/-- States and operands that meet the hypotheses of every clause of `AxesStopStepAndLatch`. -/
theorem witness_AxesStopStepAndLatch :
    (∃ (s : State) (a : Fin 16),
    s.rf (Reg.AX_CFG ↑a) 28 3 = 3 ∧
    (s.axs ↑a).inc.isSome = true ∧
    s.rf (Reg.AX_CFG ↑a) 16 4 ≤ (s.axs ↑a).repeats) ∧
    (∃ (s : State) (a : Fin 8),
    s.flag (Reg.AX_STALL ↑a) 31 = true ∧
    0 < (s.axs ↑a).stallRun ∧
    s.rf (Reg.AX_STALL ↑a) 16 8 ≤ (s.axs ↑a).stallRun) ∧
    (∃ (s : State) (t : Nat) (a : Fin 8),
    axisStill s ↑a = true ∧
    s.rf (Reg.PT_CFG ↑a) 28 2 = 1 ∧
    (s.axs ↑a).restAt + 100000000 ≤ (s.at t).now) ∧
    (∃ (s : State) (t : Nat) (a : Fin 16),
    8 ≤ ↑a ∧
    s.flag (Reg.AX_CFG ↑a) 25 = false ∧
    axisOn s ↑a = true ∧
    stepsOwed (s.at t) ↑a ≠ 0 ∧
    nextStepAt s ↑a ≤ (s.at t).now ∧
    (s.axs ↑a).dir ≠ decide (0 < stepsOwed (s.at t) ↑a)) ∧
    (∃ (s : State) (t : Nat) (a : Fin 16),
    8 ≤ ↑a ∧
    s.flag (Reg.AX_CFG ↑a) 25 = false ∧
    axisOn s ↑a = true ∧
    stepsOwed (s.at t) ↑a ≠ 0 ∧
    nextStepAt s ↑a ≤ (s.at t).now ∧
    (s.axs ↑a).dir = decide (0 < stepsOwed (s.at t) ↑a) ∧
    (s.at t).now < (s.axs ↑a).dirAt + 200) ∧
    (∃ (s : State) (t : Nat) (a : Fin 16),
    8 ≤ ↑a ∧
    s.flag (Reg.AX_CFG ↑a) 25 = false ∧
    axisOn s ↑a = true ∧
    stepsOwed (s.at t) ↑a ≠ 0 ∧
    nextStepAt s ↑a ≤ (s.at t).now ∧
    (s.axs ↑a).dir = decide (0 < stepsOwed (s.at t) ↑a) ∧
    (s.axs ↑a).dirAt + 200 ≤ (s.at t).now) ∧
    (∃ (s : State) (a : Fin 16) (n : Fin 16) (level : Bool),
    s.sys.mode ≠ Mode.sill ∧
    s.flag (Reg.AX_REF ↑a) 31 = true ∧
    s.rf (Reg.AX_REF ↑a) 19 2 = 0 ∧
    s.rf (Reg.AX_REF ↑a) 0 5 = ↑n ∧
    s.flag (Reg.AX_REF ↑a) 28 ≠ level ∧
    s.lsw.din.getLsbD ↑n ≠ level ∧
    s.flag (Reg.AX_STAT ↑a) 6 = false ∧
    (s.axs ↑a).refAt = none) ∧
    (∃ (s : State) (t : Nat) (a : Fin 16),
    s.flag (Reg.AX_REF ↑a) 31 = true ∧
    s.flag (Reg.AX_STAT ↑a) 6 = false ∧
    axisRuns s = true ∧
    (s.axs ↑a).refAt = some (s.at t).now) ∧
    (∃ (s : State) (a : Fin 16) (v : Word) (rest : List (Nat × Word)),
    front s (Reg.AX_CMD ↑a) v rest ∧
    fld v 0 2 = 1) ∧
    (∃ (s : State) (a : Fin 16) (v : Word) (rest : List (Nat × Word)),
    front s (Reg.AX_CMD ↑a) v rest ∧
    fld v 0 2 = 2) ∧
    (∃ (s : State) (a : Fin 16) (bank : List (Nat × Word)),
    s.clocked = true ∧
    s.sys.mode = Mode.run ∧
    comingMode s = Mode.run ∧
    s.txn.state ≠ TxnState.pending ∧
    s.solo = true ∧
    s.tru.takeArm = false ∧
    s.tru.isoCommit = none ∧
    s.tru.joinAt = none ∧
    s.tru.hold = false ∧
    s.flt.waiting = [] ∧
    s.sched.justShed = [] ∧
    s.flag (Reg.AX_CFG ↑a) 31 = true ∧
    s.rf (Reg.AX_CFG ↑a) 28 3 = 3 ∧
    0 < s.rf (Reg.AX_CFG ↑a) 8 8 ∧
    (s.frame + 1).toNat % s.rf (Reg.AX_CFG ↑a) 8 8 = s.rf (Reg.AX_CFG ↑a) 0 8 ∧
    (s.axs ↑a).stopping = false ∧
    (s.axs ↑a).newPset = none ∧
    (s.axs ↑a).newLim = none ∧
    (s.axs ↑a).newInc = none ∧
    List.filter (fun y => decide (327680 ≤ y.1) && decide ((y.1 - 327680) / 128 = a.val)) s.stNext = bank) :=
  ⟨⟨{ w [(Reg.AX_CFG 15, 0x300F0000)] [] with mot := { Motion.reset with ax := [(15, { Axis.reset with inc := some 0, repeats := 15 })] } }, 15,
    by decide +kernel⟩,
   ⟨{ w [(Reg.AX_STALL 7, 0x80FF0000)] [] with mot := { Motion.reset with ax := [(7, { Axis.reset with stallRun := 255 })] } }, 7,
    by decide +kernel⟩,
   ⟨{ w [(Reg.PT_CFG 7, 0x10000000)] [] with base := 100000000 }, 0, 7,
    by decide +kernel⟩,
   ⟨{ w [(Reg.AX_CFG 15, 0x90000000)] [] with mot := { Motion.reset with ax := [(15, { Axis.reset with stepAt := 1, dir := true })] } }, 0, 15,
    by decide +kernel⟩,
   ⟨{ w [(Reg.AX_CFG 15, 0x90000000)] [] with mot := { Motion.reset with ax := [(15, { Axis.reset with stepAt := 1 })] } }, 0, 15,
    by decide +kernel⟩,
   ⟨{ w [(Reg.AX_CFG 15, 0x90000000)] [] with mot := { Motion.reset with ax := [(15, { Axis.reset with stepAt := 1 })] } }, 200, 15,
    by decide +kernel⟩,
   ⟨w [(Reg.AX_REF 15, 0x8000000F)] [], 15, 15, true,
    by decide +kernel⟩,
   ⟨{ w [(Reg.AX_REF 15, 0x80000000)] [] with mot := { Motion.reset with ax := [(15, { Axis.reset with refAt := some 0 })] } }, 0, 15,
    by decide +kernel⟩,
   ⟨w [(Reg.AX_STAT 15, 1)] [(Reg.AX_CMD 15, 1)], 15, 1, [],
    by decide +kernel⟩,
   ⟨w [(Reg.AX_STAT 15, 1)] [(Reg.AX_CMD 15, 2)], 15, 2, [],
    by decide +kernel⟩,
   ⟨w [(Reg.AX_CFG 15, 0xB0000100)] [], 15, [],
    by decide +kernel⟩⟩

/-- States and operands that meet the hypotheses of every clause of `PortsAndFeedback`. -/
theorem witness_PortsAndFeedback :
    (∃ (s : State) (p : Fin 8) (flags : BitVec 8),
    s.sys.mode ≠ Mode.sill ∧
    flags ≠ 0 ∧
    s.rf (Reg.PT_CFG ↑p) 28 2 ≠ 0) ∧
    (∃ (s : State) (p : Fin 8),
    s.rf (Reg.PT_CFG ↑p) 28 2 = 1 ∧
    s.flag (Reg.PT_CFG ↑p) 31 = true ∧
    pwmRuns s = true) ∧
    (∃ (s : State) (m : Nat) (n : Fin 24),
    fbRuns s = true ∧
    s.flag (Reg.FB_CFG ↑n) 31 = true ∧
    m ≤ s.rf (Reg.FB_CFG ↑n) 20 4) ∧
    (∃ (s : State) (t : Nat) (m : Nat) (n : Fin 24) (a : Bool) (b : Bool),
    s.rf (Reg.FB_CFG ↑n) 20 4 < m ∧
    fbRuns s = true ∧
    s.flag (Reg.FB_CFG ↑n) 31 = true ∧
    s.rf (Reg.FB_CFG ↑n) 28 3 = 4 ∧
    a ≠ s.flag (Reg.FB_STAT ↑n) 8 ∧
    (∀ (t0 : Nat), (s.fbk ↑n).edgeA = some t0 → t0 + (s.rf (Reg.FB_CFG ↑n) 20 4 + 1) * 4 * 2 ^ s.rf (Reg.FB_CFG ↑n) 17 3 ≤ (s.at t).now) ∧
    b = s.flag (Reg.FB_STAT ↑n) 9) ∧
    (∃ (s : State) (t : Nat) (m : Nat) (n : Fin 24) (a : Bool) (b : Bool),
    s.rf (Reg.FB_CFG ↑n) 20 4 < m ∧
    fbRuns s = true ∧
    s.flag (Reg.FB_CFG ↑n) 31 = true ∧
    s.rf (Reg.FB_CFG ↑n) 28 3 = 4 ∧
    a ≠ s.flag (Reg.FB_STAT ↑n) 8 ∧
    (∀ (t0 : Nat), (s.fbk ↑n).edgeA = some t0 → t0 + (s.rf (Reg.FB_CFG ↑n) 20 4 + 1) * 4 * 2 ^ s.rf (Reg.FB_CFG ↑n) 17 3 ≤ (s.at t).now) ∧
    b ≠ s.flag (Reg.FB_STAT ↑n) 9 ∧
    (∀ (t0 : Nat), (s.fbk ↑n).edgeB = some t0 → t0 + (s.rf (Reg.FB_CFG ↑n) 20 4 + 1) * 4 * 2 ^ s.rf (Reg.FB_CFG ↑n) 17 3 ≤ (s.at t).now)) ∧
    (∃ (s : State) (t : Nat) (m : Nat) (n : Fin 24) (a : Bool) (b : Bool) (z : Bool) (t0 : Nat),
    s.rf (Reg.FB_CFG ↑n) 20 4 < m ∧
    fbRuns s = true ∧
    s.flag (Reg.FB_CFG ↑n) 31 = true ∧
    s.rf (Reg.FB_CFG ↑n) 28 3 = 4 ∧
    a ≠ s.flag (Reg.FB_STAT ↑n) 8 ∧
    (s.fbk ↑n).edgeA = some t0 ∧
    (s.at t).now < t0 + (s.rf (Reg.FB_CFG ↑n) 20 4 + 1) * 4 * 2 ^ s.rf (Reg.FB_CFG ↑n) 17 3 ∧
    b = s.flag (Reg.FB_STAT ↑n) 9 ∧
    z = s.flag (Reg.FB_STAT ↑n) 10) ∧
    (∃ (s : State) (n : Fin 24),
    (s.fbk ↑n).indexDue = false) ∧
    (∃ (s : State) (n : Fin 24),
    fbRuns s = true ∧
    s.flag (Reg.FB_CFG ↑n) 31 = true ∧
    s.rf (Reg.FB_CFG ↑n) 25 2 ≠ 0 ∧
    (s.fbk ↑n).indexDue = true) ∧
    (∃ (s : State) (t : Nat) (n : Fin 24),
    fbRuns s = true ∧
    s.flag (Reg.FB_CFG ↑n) 31 = true ∧
    s.rf (Reg.FB_CFG ↑n) 28 3 = 6 ∧
    staleAt (s.fbk ↑n) ≤ (s.at t).now) ∧
    (∃ (s : State) (n : Fin 24) (e0 : Nat) (e1 : Nat) (es : List Nat),
    fbRuns s = true ∧
    s.flag (Reg.FB_CFG ↑n) 31 = true ∧
    s.rf (Reg.FB_CFG ↑n) 28 3 = 6 ∧
    (s.fbk ↑n).edges = e0 :: e1 :: es) ∧
    (∃ (s : State) (t : Nat) (n : Fin 24),
    fbRuns s = true ∧
    s.flag (Reg.FB_CFG ↑n) 31 = true ∧
    s.rf (Reg.FB_CFG ↑n) 28 3 = 6 ∧
    (s.at t).now < staleAt (s.fbk ↑n)) ∧
    (∃ (s : State) (n : Fin 24),
    fbRuns s = true ∧
    s.flag (Reg.FB_CFG ↑n) 31 = true ∧
    s.rf (Reg.FB_CFG ↑n) 28 3 = 7 ∧
    (s.frame - (s.fbk ↑n).gateFrom).toNat < s.rf (Reg.FB_CFG ↑n) 0 8) ∧
    (∃ (s : State) (n : Fin 24),
    fbRuns s = true ∧
    s.flag (Reg.FB_CFG ↑n) 31 = true ∧
    s.rf (Reg.FB_CFG ↑n) 28 3 = 7 ∧
    s.rf (Reg.FB_CFG ↑n) 0 8 ≤ (s.frame - (s.fbk ↑n).gateFrom).toNat) ∧
    (∃ (s : State) (p : Fin 8) (sin : BitVec 16) (cos : BitVec 16) (q : Nat),
    fbRuns s = true ∧
    s.flag (Reg.SC_CFG ↑p) 31 = true ∧
    ((sin.toInt * sin.toInt + cos.toInt * cos.toInt) / 32768).toNat = q) ∧
    (∃ (s : State) (p : Fin 8),
    fbRuns s = true ∧
    (s.scp ↑p).out = false ∧
    s.rf (Reg.SC_CFG ↑p) 16 4 + 1 ≤ (s.scp ↑p).run) :=
  ⟨⟨w [(Reg.PT_CFG 7, 0x10000000)] [], 7, 255,
    by decide +kernel⟩,
   ⟨w [(Reg.PT_CFG 7, 0x90000000)] [], 7,
    by decide +kernel⟩,
   ⟨w [(Reg.FB_CFG 23, 0x80F00000)] [], 15, 23,
    by decide +kernel⟩,
   ⟨w [(Reg.FB_CFG 23, 0xC0F00000)] [], 0, 16, 23, true, false,
    by refine ⟨?_, ?_, ?_, ?_, ?_, (fun _ h => nomatch h), ?_⟩ <;> decide +kernel⟩,
   ⟨w [(Reg.FB_CFG 23, 0xC0F00000)] [], 0, 16, 23, true, true,
    by refine ⟨?_, ?_, ?_, ?_, ?_, (fun _ h => nomatch h), ?_, (fun _ h => nomatch h)⟩ <;> decide +kernel⟩,
   ⟨{ w [(Reg.FB_CFG 23, 0xC0F00000)] [] with mot := { Motion.reset with fb := [(23, { Fbk.reset with edgeA := some 0 })] } }, 63, 16, 23, true, false, false, 0,
    by decide +kernel⟩,
   ⟨w [(Reg.SC_CFG 7, 0x80000000)] [], 7,
    by decide +kernel⟩,
   ⟨{ w [(Reg.FB_CFG 23, 0x82000000)] [] with mot := { Motion.reset with fb := [(23, { Fbk.reset with indexDue := true })] } }, 23,
    by decide +kernel⟩,
   ⟨{ w [(Reg.FB_CFG 23, 0xE0000000)] [] with mot := { Motion.reset with fb := [(23, { Fbk.reset with edges := [0] })] }, base := 4290000000 }, 0, 23,
    by decide +kernel⟩,
   ⟨{ w [(Reg.FB_CFG 23, 0xE0000000)] [] with mot := { Motion.reset with fb := [(23, { Fbk.reset with edges := [5, 3] })] } }, 23, 5, 3, [],
    by decide +kernel⟩,
   ⟨{ w [(Reg.FB_CFG 23, 0xE0000000)] [] with mot := { Motion.reset with fb := [(23, { Fbk.reset with edges := [0] })] } }, 0, 23,
    by decide +kernel⟩,
   ⟨w [(Reg.FB_CFG 23, 0xF0000001)] [], 23,
    by decide +kernel⟩,
   ⟨w [(Reg.FB_CFG 23, 0xF0000000)] [], 23,
    by decide +kernel⟩,
   ⟨w [(Reg.SC_CFG 7, 0x80000000)] [], 7, 0, 0, 0,
    by decide +kernel⟩,
   ⟨{ w [(Reg.SC_CFG 7, 0x000F0000)] [] with mot := { Motion.reset with sc := [(7, { Sc.reset with run := 16 })] } }, 7,
    by decide +kernel⟩⟩

/-- States and operands that meet the hypotheses of every clause of `GnssChannelsFollowTheirSignals`. -/
theorem witness_GnssChannelsFollowTheirSignals :
    (∃ (s : State) (t : Nat) (n : Fin 288) (dop : BitVec 32) (code : Nat),
    gnssOn s = true ∧
    inSearch (s.at t) (↑n) dop.toInt code = true) ∧
    (∃ (s : State) (n : Fin 288) (dop : BitVec 32),
    gnssOn s = true ∧
    gState s ↑n = 1 ∧
    1000 * (s.gch ↑n).win < (dop.toInt - 1000 * (s.gch ↑n).centre).natAbs) ∧
    (∃ (s : State) (n : Fin 288) (dop : BitVec 32),
    gnssOn s = true ∧
    gState s ↑n = 4 ∧
    500000 < (dop.toInt - (s.gch ↑n).dop).natAbs) ∧
    (∃ (s : State) (t : Nat) (n : Fin 288),
    gnssOn s = true ∧
    gState s ↑n = 2 ∧
    (s.at t).now ≤ (s.gch ↑n).enteredAt + 200000000) ∧
    (∃ (s : State) (t : Nat) (n : Fin 288),
    gnssOn s = true ∧
    gState s ↑n = 2 ∧
    ((s.gch ↑n).back = 1 ∨ (s.gch ↑n).back = 4) ∧
    (s.gch ↑n).enteredAt + 200000000 ≤ (s.at t).now) ∧
    (∃ (s : State) (t : Nat) (n : Fin 288),
    gnssOn s = true ∧
    gState s ↑n = 2 ∧
    (s.at t).now < (s.gch ↑n).enteredAt + 200000000) ∧
    (∃ (s : State) (t : Nat) (n : Fin 288) (low : Nat),
    gnssOn s = true ∧
    gState s ↑n = 3 ∧
    (s.gch ↑n).lowSince = some low ∧
    low + 500000000 ≤ (s.at t).now) ∧
    (∃ (s : State) (n : Fin 288),
    gnssOn s = true ∧
    gState s ↑n = 3 ∧
    (s.gch ↑n).lowSince = none) ∧
    (∃ (s : State) (n : Fin 288),
    gnssOn s = true ∧
    gState s ↑n = 3 ∧
    (s.gch ↑n).sync = true) ∧
    (∃ (s : State) (t : Nat) (n : Fin 288),
    gnssOn s = true ∧
    gState s ↑n = 4 ∧
    (s.gch ↑n).enteredAt + s.rf (Reg.GCH_TRK ↑n) 16 8 * 1000000000 ≤ (s.at t).now) ∧
    (∃ (s : State) (t : Nat) (n : Fin 288),
    gnssOn s = true ∧
    gState s ↑n = 4 ∧
    (s.at t).now < (s.gch ↑n).enteredAt + s.rf (Reg.GCH_TRK ↑n) 16 8 * 1000000000) ∧
    (∃ (s : State),
    burstMode s = true ∧
    s.flag Reg.GNS_STAT 1 = false ∧
    inBurst (s.burstEdge true) = true) ∧
    (∃ (s : State),
    gnssOn s = true ∧
    s.flag Reg.GNS_STAT 1 = true ∧
    inBurst (s.burstEdge false) = false) ∧
    (∃ (s : State) (a : Fin 3),
    gnssPart s = true ∧
    s.flag (Reg.ANT_STAT ↑a) 2 = true ∧
    SMap.get false s.gns.openDone ↑a = false) ∧
    (∃ (s : State) (a : Fin 3),
    gnssPart s = true ∧
    s.flag (Reg.ANT_STAT ↑a) 2 = true ∧
    SMap.get false s.gns.openDone ↑a = true) ∧
    (∃ (s : State) (a : Fin 3),
    gnssPart s = true ∧
    s.rf (Reg.ANT_CFG ↑a) 0 2 ≠ 0) :=
  ⟨⟨w [(Reg.CLK_STAT, 0x80), (Reg.GCH_STAT 287, 1)] [], 0, 287, 0, 0,
    by decide +kernel⟩,
   ⟨w [(Reg.CLK_STAT, 0x80), (Reg.GCH_STAT 287, 1)] [], 287, 0x7FFFFFFF,
    by decide +kernel⟩,
   ⟨w [(Reg.CLK_STAT, 0x80), (Reg.GCH_STAT 287, 4)] [], 287, 500001,
    by decide +kernel⟩,
   ⟨w [(Reg.CLK_STAT, 0x80), (Reg.GCH_STAT 287, 2)] [], 0, 287,
    by decide +kernel⟩,
   ⟨{ w [(Reg.CLK_STAT, 0x80), (Reg.GCH_STAT 287, 2)] [] with base := 200000000, gns := { Gnss.reset with ch := [(287, { Gch.reset with back := 4 })] } }, 0, 287,
    by decide +kernel⟩,
   ⟨w [(Reg.CLK_STAT, 0x80), (Reg.GCH_STAT 287, 2)] [], 0, 287,
    by decide +kernel⟩,
   ⟨{ w [(Reg.CLK_STAT, 0x80), (Reg.GCH_STAT 287, 3)] [] with base := 500000000, gns := { Gnss.reset with ch := [(287, { Gch.reset with lowSince := some 0 })] } }, 0, 287, 0,
    by decide +kernel⟩,
   ⟨{ w [(Reg.CLK_STAT, 0x80), (Reg.GCH_STAT 287, 3)] [] with gns := { Gnss.reset with ch := [(287, { Gch.reset with sync := true })] } }, 287,
    by decide +kernel⟩,
   ⟨{ w [(Reg.CLK_STAT, 0x80), (Reg.GCH_STAT 287, 3)] [] with gns := { Gnss.reset with ch := [(287, { Gch.reset with sync := true })] } }, 287,
    by decide +kernel⟩,
   ⟨{ w [(Reg.CLK_STAT, 0x80), (Reg.GCH_STAT 287, 4), (Reg.GCH_TRK 287, 0)] [] with base := 0, gns := { Gnss.reset with ch := [(287, { Gch.reset with found := true })] } }, 0, 287,
    by decide +kernel⟩,
   ⟨w [(Reg.CLK_STAT, 0x80), (Reg.GCH_STAT 287, 4)] [], 0, 287,
    by decide +kernel⟩,
   ⟨wIn .idle [(Reg.CLK_STAT, 0x80), (Reg.GNS_CTRL, 3)] [],
    by decide +kernel⟩,
   ⟨{ w [(Reg.CLK_STAT, 0x80), (Reg.GNS_STAT, 2)] [] with gns := { Gnss.reset with rt := 500000000000000000000 } },
    by decide +kernel⟩,
   ⟨w [(Reg.CLK_STAT, 0x80), (Reg.ANT_STAT 2, 4)] [], 2,
    by decide +kernel⟩,
   ⟨{ w [(Reg.CLK_STAT, 0x80), (Reg.ANT_STAT 2, 4)] [] with gns := { Gnss.reset with openDone := [(2, true)] } }, 2,
    by decide +kernel⟩,
   ⟨w [(Reg.CLK_STAT, 0x80), (Reg.ANT_CFG 2, 3)] [], 2,
    by decide +kernel⟩⟩

/-- States and operands that meet the hypotheses of every clause of `ReceiverTimeIsSteered`. -/
theorem witness_ReceiverTimeIsSteered :
    (∃ (s : State) (v : Word) (rest : List (Nat × Word)),
    gnssOn s = true ∧
    front s Reg.GNS_STEER_FR v rest) ∧
    (∃ (s : State) (v : Word) (rest : List (Nat × Word)),
    gnssOn s = true ∧
    front s Reg.GNS_STEER_PH v rest ∧
    bit v 31 = false) ∧
    (∃ (s : State) (v : Word) (rest : List (Nat × Word)),
    gnssOn s = true ∧
    front s Reg.GNS_STEER_PH v rest ∧
    bit v 31 = true ∧
    s.flag Reg.GNS_CTRL 2 = true ∧
    tState s ≠ 0) ∧
    (∃ (s : State) (v : Word) (rest : List (Nat × Word)),
    gnssOn s = true ∧
    front s Reg.GNS_TSET_S v rest) ∧
    (∃ (s : State) (t : Nat),
    gnssOn s = true ∧
    s.flag Reg.GNS_TSTAT 3 = true ∧
    rtUpTo s.gns.stepDue ((s.at t).rtSync.gns.rt / 10 ^ 12 + 2) = true) ∧
    (∃ (s : State) (t : Nat),
    gnssOn s = true ∧
    tState s = 3 ∧
    s.gns.resid.natAbs ≤ s.rf Reg.GNS_TCFG 16 8 * ((s.at t).now - s.gns.at_) * 1000) ∧
    (∃ (s : State) (t : Nat) (p : Nat),
    gnssOn s = true ∧
    (tState s = 1 ∨ tState s = 3) ∧
    s.gns.phAt = some p ∧
    p + s.rf Reg.GNS_TCFG 24 8 * 1000000000 ≤ (s.at t).now) ∧
    (∃ (s : State) (t : Nat) (m : Nat),
    gnssOn s = true ∧
    s.flag Reg.GNS_TPCFG 31 = true ∧
    tState s ≠ 0 ∧
    rtMultiple (s.at t).rtSync (2 * halfPeriod s) = m ∧
    rtNear (s.at t).rtSync (2 * halfPeriod s) 5 = true ∧
    (∀ (l : Nat), s.gns.lastPulse = some l → rtUpTo m l = false) ∧
    (s.gns.lastPulse = none → rtPassed s m = false)) ∧
    (∃ (s : State),
    gnssOn s = true ∧
    tState s = 0) :=
  ⟨⟨w [(Reg.CLK_STAT, 0x80), (Reg.GNS_TSTAT, 0)] [(Reg.GNS_STEER_FR, 5)], 5, [],
    by decide +kernel⟩,
   ⟨w [(Reg.CLK_STAT, 0x80), (Reg.GNS_TSTAT, 0)] [(Reg.GNS_STEER_PH, 1000000000)], 1000000000, [],
    by decide +kernel⟩,
   ⟨w [(Reg.CLK_STAT, 0x80), (Reg.GNS_TSTAT, 1), (Reg.GNS_CTRL, 4)] [(Reg.GNS_STEER_PH, 0x80000001)], 0x80000001, [],
    by decide +kernel⟩,
   ⟨w [(Reg.CLK_STAT, 0x80), (Reg.GNS_TSTAT, 0)] [(Reg.GNS_TSET_S, 604799)], 604799, [],
    by decide +kernel⟩,
   ⟨w [(Reg.CLK_STAT, 0x80), (Reg.GNS_TSTAT, 8)] [], 0,
    by decide +kernel⟩,
   ⟨w [(Reg.CLK_STAT, 0x80), (Reg.GNS_TSTAT, 3)] [], 0,
    by decide +kernel⟩,
   ⟨{ w [(Reg.CLK_STAT, 0x80), (Reg.GNS_TSTAT, 1), (Reg.GNS_TCFG, 0)] [] with gns := { Gnss.reset with phAt := some 0 } }, 0, 0,
    by decide +kernel⟩,
   ⟨w [(Reg.CLK_STAT, 0x80), (Reg.GNS_TSTAT, 1), (Reg.GNS_TPCFG, 0x80000000)] [], 0, 0,
    by decide +kernel⟩,
   ⟨w [(Reg.CLK_STAT, 0x80), (Reg.GNS_TSTAT, 8)] [],
    by decide +kernel⟩⟩

/-- States and operands that meet the hypotheses of every clause of `EpochsAndInertialUnit`. -/
theorem witness_EpochsAndInertialUnit :
    (∃ (s : State) (t : Nat),
    gnssEn s = true ∧
    (burstMode s = true → s.flag Reg.GNS_STAT 1 = true) ∧
    rtNear (s.at t).rtSync (epochNs s) 2 = true ∧
    (∀ (l : Nat), s.gns.lastEpoch = some l → rtUpTo (rtMultiple (s.at t).rtSync (epochNs s)) l = false) ∧
    rtPassed s (rtMultiple (s.at t).rtSync (epochNs s)) = false) ∧
    (∃ (s : State) (t : Nat) (ws : List Word),
    gnssOn s = true ∧
    ((s.at t).now, ws) ∈ s.gns.latched ∧
    (List.map (fun x => x.1) s.gns.latched).Nodup) ∧
    (∃ (s : State),
    runsOn s) ∧
    (∃ (s : State),
    s.clocked = true ∧
    s.flag Reg.IMU_STAT 5 = true) ∧
    (∃ (s : State),
    s.clocked = true ∧
    s.flag Reg.IMU_CFG 31 = true) ∧
    (∃ (s : State) (v : Word) (rest : List (Nat × Word)),
    front s Reg.IMU_TEST v rest ∧
    bit v 0 = true ∧
    (s.sys.mode = Mode.idle ∨ s.sys.mode = Mode.safe ∨ s.sys.mode = Mode.service)) ∧
    (∃ (s : State) (v : Word) (rest : List (Nat × Word)),
    front s Reg.IMU_TEST v rest ∧
    bit v 0 = true ∧
    (s.sys.mode = Mode.run ∨ s.sys.mode = Mode.limp)) :=
  ⟨⟨w [(Reg.CLK_STAT, 0x80), (Reg.GNS_CTRL, 1)] [], 0,
    by decide +kernel⟩,
   ⟨{ w [(Reg.CLK_STAT, 0x80)] [] with gns := { Gnss.reset with latched := [(0, []), (5, [])] } }, 0, [],
    by decide +kernel⟩,
   ⟨w [(Reg.IMU_STAT, 0x20)] [],
    by decide +kernel⟩,
   ⟨w [(Reg.IMU_STAT, 0x20)] [],
    by decide +kernel⟩,
   ⟨w [(Reg.IMU_CFG, 0x80000000)] [],
    by decide +kernel⟩,
   ⟨wIn .service [] [(Reg.IMU_TEST, 1)], 1, [],
    by decide +kernel⟩,
   ⟨wIn .limp [] [(Reg.IMU_TEST, 1)], 1, [],
    by decide +kernel⟩⟩

/-- States and operands that meet the hypotheses of every clause of `BusRequestsCancelsAndAcknowledgements`. -/
theorem witness_BusRequestsCancelsAndAcknowledgements :
    (∃ (s : State) (k : Nat) (n : Fin 4) (rest : List (Nat × Word)),
    k < 64 ∧
    k < s.rf (Reg.BUS_TXNUM ↑n) 0 7 ∧
    busMode s = true ∧
    s.flag (Reg.BUS_CFG ↑n) 0 = true ∧
    (s.txEnt (↑n) k).stage = TxStage.none ∧
    front s (if k < 32 then Reg.BUS_TXREQ_LO ↑n else Reg.BUS_TXREQ_HI ↑n) (BitVec.ofNat 32 (2 ^ (k % 32))) rest ∧
    badHeader s (↑n) (Mem.ld s.fmem (txEntryAt s (↑n) k)) (Mem.ld s.fmem (txEntryAt s (↑n) k + 4)) = true) ∧
    (∃ (s : State) (k : Nat) (n : Fin 4) (rest : List (Nat × Word)) (x : Nat),
    k < 64 ∧
    k < s.rf (Reg.BUS_TXNUM ↑n) 0 7 ∧
    busMode s = true ∧
    s.flag (Reg.BUS_CFG ↑n) 0 = true ∧
    (s.txEnt (↑n) k).stage = TxStage.none ∧
    front s (if k < 32 then Reg.BUS_TXREQ_LO ↑n else Reg.BUS_TXREQ_HI ↑n) (BitVec.ofNat 32 (2 ^ (k % 32))) rest ∧
    badHeader s (↑n) (Mem.ld s.fmem (txEntryAt s (↑n) k)) (Mem.ld s.fmem (txEntryAt s (↑n) k + 4)) = false ∧
    badTag s (txEntryAt s (↑n) k) 20 = some x) ∧
    (∃ (s : State) (k : Nat) (n : Fin 4) (rest : List (Nat × Word)),
    k < 64 ∧
    k < s.rf (Reg.BUS_TXNUM ↑n) 0 7 ∧
    busMode s = true ∧
    s.flag (Reg.BUS_CFG ↑n) 0 = true ∧
    (s.txEnt (↑n) k).stage = TxStage.none ∧
    front s (if k < 32 then Reg.BUS_TXREQ_LO ↑n else Reg.BUS_TXREQ_HI ↑n) (BitVec.ofNat 32 (2 ^ (k % 32))) rest ∧
    badHeader s (↑n) (Mem.ld s.fmem (txEntryAt s (↑n) k)) (Mem.ld s.fmem (txEntryAt s (↑n) k + 4)) = false ∧
    badTag s (txEntryAt s (↑n) k) 20 = none) ∧
    (∃ (s : State) (t : Nat) (n : Fin 4) (k : Fin 64),
    busMode s = true ∧
    (s.txEnt ↑n ↑k).stage = TxStage.timed ∧
    untilStamp (s.at t) ((s.txEnt ↑n ↑k).hdr.getD 2 0) ≤ 0) ∧
    (∃ (s : State) (t : Nat) (n : Fin 4) (k : Fin 64),
    busMode s = true ∧
    (s.txEnt ↑n ↑k).stage = TxStage.timed ∧
    0 < untilStamp (s.at t) ((s.txEnt ↑n ↑k).hdr.getD 2 0)) ∧
    (∃ (s : State) (k : Nat) (n : Fin 4) (rest : List (Nat × Word)),
    k < 64 ∧
    front s (if k < 32 then Reg.BUS_TXCAN_LO ↑n else Reg.BUS_TXCAN_HI ↑n) (BitVec.ofNat 32 (2 ^ (k % 32))) rest ∧
    ((s.txEnt (↑n) k).stage = TxStage.pending ∨ (s.txEnt (↑n) k).stage = TxStage.timed)) ∧
    (∃ (s : State) (t : Nat) (k : Nat) (ago : Nat) (n : Fin 4) (rest : List (Nat × Word)),
    k < 64 ∧
    front s (if k < 32 then Reg.BUS_TXCAN_LO ↑n else Reg.BUS_TXCAN_HI ↑n) (BitVec.ofNat 32 (2 ^ (k % 32))) rest ∧
    busOffer (popped s t rest) (↑n) ago = some (Offer.entry k)) ∧
    (∃ (s : State) (n : Fin 4) (q : Fin 4) (v : Word) (rest : List (Nat × Word)),
    front s (Reg.BUS_QACK ↑n ↑q) v rest ∧
    fld v 0 10 ≤ SMap.get 0 (s.bctl ↑n).owned ↑q ∧
    0 < s.rf (Reg.BUS_QCFG ↑n ↑q) 0 10) ∧
    (∃ (s : State) (n : Fin 4) (q : Fin 4) (v : Word) (rest : List (Nat × Word)),
    front s (Reg.BUS_QACK ↑n ↑q) v rest ∧
    SMap.get 0 (s.bctl ↑n).owned ↑q < fld v 0 10) ∧
    (∃ (s : State) (n : Fin 4) (v : Word) (rest : List (Nat × Word)),
    front s (Reg.BUS_CMD ↑n) v rest ∧
    bit v 0 = true ∧
    s.rf (Reg.BUS_STAT ↑n) 0 2 = 2) ∧
    (∃ (s : State) (n : Fin 4) (v : Word) (rest : List (Nat × Word)),
    front s (Reg.BUS_CMD ↑n) v rest ∧
    bit v 0 = true ∧
    s.rf (Reg.BUS_STAT ↑n) 0 2 ≠ 2) :=
  ⟨⟨{ w [(Reg.CLK_STAT, 0x40), (Reg.BUS_CFG 3, 1), (Reg.BUS_TXNUM 3, 64)] [(Reg.BUS_TXREQ_LO 3, 0x80000000)] with fmem := [(2484, 65)] }, 31, 3, [],
    by decide +kernel⟩,
   ⟨{ w [(Reg.CLK_STAT, 0x40), (Reg.BUS_CFG 3, 1), (Reg.BUS_TXNUM 3, 64)] [(Reg.BUS_TXREQ_HI 3, 0x80000000)] with fmemTag := [(5040, 1)] }, 63, 3, [], 5040,
    by decide +kernel⟩,
   ⟨w [(Reg.CLK_STAT, 0x40), (Reg.BUS_CFG 3, 1), (Reg.BUS_TXNUM 3, 64)] [(Reg.BUS_TXREQ_LO 3, 0x80000000)], 31, 3, [],
    by decide +kernel⟩,
   ⟨{ w [(Reg.CLK_STAT, 0x40), (Reg.BUS_CFG 3, 1)] [] with bus := { Buses.reset with ctl := [(3, { BusCtl.reset with tx := [(63, { TxEnt.reset with stage := .timed })] })] } }, 0, 3, 63,
    by decide +kernel⟩,
   ⟨{ w [(Reg.CLK_STAT, 0x40), (Reg.BUS_CFG 3, 1)] [] with bus := { Buses.reset with ctl := [(3, { BusCtl.reset with tx := [(63, { TxEnt.reset with stage := .timed, hdr := [0, 0, 1] })] })] } }, 0, 3, 63,
    by decide +kernel⟩,
   ⟨{ w [(Reg.CLK_STAT, 0x40), (Reg.BUS_CFG 3, 1)] [(Reg.BUS_TXCAN_LO 3, 0x80000000)] with bus := { Buses.reset with ctl := [(3, { BusCtl.reset with tx := [(31, { TxEnt.reset with stage := .timed })] })] } }, 31, 3, [],
    by decide +kernel⟩,
   ⟨{ w [(Reg.CLK_STAT, 0x40), (Reg.BUS_CFG 3, 1)] [(Reg.BUS_TXCAN_LO 3, 0x80000000)] with bus := { Buses.reset with ctl := [(3, { BusCtl.reset with tx := [(31, { TxEnt.reset with stage := .onBus })] })] } }, 0, 31, 0, 3, [],
    by decide +kernel⟩,
   ⟨{ w [(Reg.CLK_STAT, 0x40), (Reg.BUS_CFG 3, 1), (Reg.BUS_QCFG 3 3, 1023)] [(Reg.BUS_QACK 3 3, 1023)] with bus := { Buses.reset with ctl := [(3, { BusCtl.reset with owned := [(3, 1023)] })] } }, 3, 3, 1023, [],
    by decide +kernel⟩,
   ⟨w [(Reg.CLK_STAT, 0x40), (Reg.BUS_CFG 3, 1)] [(Reg.BUS_QACK 3 3, 1)], 3, 3, 1, [],
    by decide +kernel⟩,
   ⟨w [(Reg.CLK_STAT, 0x40), (Reg.BUS_CFG 3, 1), (Reg.BUS_STAT 3, 2)] [(Reg.BUS_CMD 3, 1)], 3, 1, [],
    by decide +kernel⟩,
   ⟨w [(Reg.CLK_STAT, 0x40), (Reg.BUS_CFG 3, 1)] [(Reg.BUS_CMD 3, 1)], 3, 1, [],
    by decide +kernel⟩⟩

/-- States and operands that meet the hypotheses of every clause of `BusTransmissionAndErrors`. -/
theorem witness_BusTransmissionAndErrors :
    (∃ (s : State) (t : Nat) (ago : Nat) (k : Nat) (n : Fin 4),
    k < 64 ∧
    busTalks ((s.at t).busWas (↑n) ago) ↑n = true ∧
    busOffer ((s.at t).busWas (↑n) ago) (↑n) ago = some (Offer.entry k) ∧
    s.rf (Reg.BUS_STAT ↑n) 0 2 = 0) ∧
    (∃ (s : State) (t : Nat) (ago : Nat) (n : Fin 4) (ide : Bool) (id : BitVec 29),
    busTalks ((s.at t).busWas (↑n) ago) ↑n = true ∧
    busOffer ((s.at t).busWas (↑n) ago) (↑n) ago = some Offer.reference ∧
    ((s.at t).busWas (↑n) ago).rf (Reg.BUS_REF ↑n) 30 2 = 2 ∧
    isRefId ((s.at t).busWas (↑n) ago) (↑n) ide id.toNat = true) ∧
    (∃ (s : State) (n : Fin 4),
    busMode s = true ∧
    s.rf (Reg.BUS_STAT ↑n) 0 2 = 2 ∧
    s.flag (Reg.BUS_STAT ↑n) 3 = true) ∧
    (∃ (s : State) (n : Fin 4),
    busMode s = true ∧
    s.flag (Reg.BUS_CFG ↑n) 0 = true) ∧
    (∃ (s : State) (n : Fin 4),
    busRuns s ↑n = true ∧
    1 ≤ s.rf (Reg.BUS_REF ↑n) 30 2 ∧
    0 < s.rf (Reg.BUS_REFT ↑n) 20 12 ∧
    s.frame.toNat % s.rf (Reg.BUS_REFT ↑n) 20 12 = 0) ∧
    (∃ (s : State) (n : Fin 4),
    busRuns s ↑n = true ∧
    1 ≤ s.rf (Reg.BUS_REF ↑n) 30 2 ∧
    s.rf (Reg.BUS_REF ↑n) 30 2 = 2 ∧
    2 ≤ (s.bctl ↑n).missed) :=
  ⟨⟨{ w [(Reg.CLK_STAT, 0x40), (Reg.BUS_CFG 3, 1)] [] with bus := { Buses.reset with ctl := [(3, { BusCtl.reset with tx := [(63, { TxEnt.reset with stage := .onBus })] })] } }, 0, 0, 63, 3,
    by decide +kernel⟩,
   ⟨{ w [(Reg.CLK_STAT, 0x40), (Reg.BUS_CFG 3, 1), (Reg.BUS_REF 3, 0x80000000)] [] with bus := { Buses.reset with ctl := [(3, { BusCtl.reset with refReq := true })] } }, 0, 0, 3, false, 7,
    by decide +kernel⟩,
   ⟨w [(Reg.CLK_STAT, 0x40), (Reg.BUS_CFG 3, 1), (Reg.BUS_STAT 3, 0xA)] [], 3,
    by decide +kernel⟩,
   ⟨w [(Reg.CLK_STAT, 0x40), (Reg.BUS_CFG 3, 1), (Reg.FLT_SRC 267, 0)] [], 3,
    by decide +kernel⟩,
   ⟨w [(Reg.CLK_STAT, 0x40), (Reg.BUS_CFG 3, 1), (Reg.BUS_REF 3, 0x40000000), (Reg.BUS_REFT 3, 0x00100000)] [], 3,
    by decide +kernel⟩,
   ⟨{ w [(Reg.CLK_STAT, 0x40), (Reg.BUS_CFG 3, 1), (Reg.BUS_REF 3, 0x80000000)] [] with bus := { Buses.reset with ctl := [(3, { BusCtl.reset with missed := 2 })] } }, 3,
    by decide +kernel⟩⟩

/-- States and operands that meet the hypotheses of every clause of `BusFramesReceived`. -/
theorem witness_BusFramesReceived :
    (∃ (s : State) (was : State) (t : Nat) (ago : Nat) (n : Fin 4) (f : CanFrame) (j : Nat) (q : Fin 4),
    (s.at t).busWas (↑n) ago = was ∧
    busRuns was ↑n = true ∧
    s.flag (Reg.BUS_CFG ↑n) 7 = false ∧
    firstFilter was (↑n) f = some j ∧
    was.rf (Reg.FLT_CTL (↑n) j) 24 3 = ↑q + 1 ∧
    was.flag (Reg.FLT_CTL (↑n) j) 27 = false ∧
    SMap.get 0 (s.bctl ↑n).owned ↑q < s.rf (Reg.BUS_QCFG ↑n ↑q) 0 10) ∧
    (∃ (s : State) (was : State) (t : Nat) (ago : Nat) (n : Fin 4) (f : CanFrame) (j : Nat) (q : Fin 4),
    (s.at t).busWas (↑n) ago = was ∧
    busRuns was ↑n = true ∧
    s.flag (Reg.BUS_CFG ↑n) 7 = false ∧
    firstFilter was (↑n) f = some j ∧
    was.rf (Reg.FLT_CTL (↑n) j) 24 3 = ↑q + 1 ∧
    was.flag (Reg.FLT_CTL (↑n) j) 27 = false ∧
    s.rf (Reg.BUS_QCFG ↑n ↑q) 0 10 ≤ SMap.get 0 (s.bctl ↑n).owned ↑q) ∧
    (∃ (s : State) (was : State) (t : Nat) (ago : Nat) (n : Fin 4) (f : CanFrame) (q : Fin 4),
    (s.at t).busWas (↑n) ago = was ∧
    busRuns was ↑n = true ∧
    s.flag (Reg.BUS_CFG ↑n) 7 = false ∧
    firstFilter was (↑n) f = none ∧
    was.rf (Reg.BUS_CFG ↑n) 9 3 = ↑q + 1 ∧
    SMap.get 0 (s.bctl ↑n).owned ↑q < s.rf (Reg.BUS_QCFG ↑n ↑q) 0 10) ∧
    (∃ (s : State) (was : State) (t : Nat) (ago : Nat) (n : Fin 4) (f : CanFrame) (j : Nat) (slot : Nat) (q : Fin 4) (cand : Nat),
    (s.at t).busWas (↑n) ago = was ∧
    busRuns was ↑n = true ∧
    s.flag (Reg.BUS_CFG ↑n) 7 = false ∧
    firstFilter was (↑n) f = some j ∧
    was.rf (Reg.FLT_CTL (↑n) j) 24 3 = ↑q + 1 ∧
    was.flag (Reg.FLT_CTL (↑n) j) 27 = true ∧
    was.rf (Reg.FLT_CTL (↑n) j) 16 6 = slot ∧
    authCheck s (BitVec.toNat (was.rd (Reg.BUS_AUTH ↑n))) slot f = some cand ∧
    SMap.get 0 (s.bctl ↑n).owned ↑q < s.rf (Reg.BUS_QCFG ↑n ↑q) 0 10) ∧
    (∃ (s : State) (was : State) (t : Nat) (ago : Nat) (n : Fin 4) (f : CanFrame) (j : Nat) (slot : Nat) (q : Fin 4),
    (s.at t).busWas (↑n) ago = was ∧
    busRuns was ↑n = true ∧
    s.flag (Reg.BUS_CFG ↑n) 7 = false ∧
    firstFilter was (↑n) f = some j ∧
    was.rf (Reg.FLT_CTL (↑n) j) 24 3 = ↑q + 1 ∧
    was.flag (Reg.FLT_CTL (↑n) j) 27 = true ∧
    was.rf (Reg.FLT_CTL (↑n) j) 16 6 = slot ∧
    authCheck s (BitVec.toNat (was.rd (Reg.BUS_AUTH ↑n))) slot f = none) ∧
    (∃ (s : State) (was : State) (t : Nat) (ago : Nat) (n : Fin 4) (f : CanFrame),
    (s.at t).busWas (↑n) ago = was ∧
    busRuns was ↑n = true ∧
    s.flag (Reg.BUS_CFG ↑n) 7 = false ∧
    firstFilter was (↑n) f = none ∧
    was.rf (Reg.BUS_CFG ↑n) 9 3 = 0) ∧
    (∃ (s : State) (was : State) (t : Nat) (ago : Nat) (n : Fin 4) (f : CanFrame),
    (s.at t).busWas (↑n) ago = was ∧
    busRuns was ↑n = true ∧
    s.flag (Reg.BUS_CFG ↑n) 7 = false ∧
    isReference was (↑n) f = true) ∧
    (∃ (s : State) (t : Nat) (ago : Nat) (n : Fin 4) (f : CanFrame) (k : Nat) (e : TxEnt),
    busRuns ((s.at t).busWas (↑n) ago) ↑n = true ∧
    s.flag (Reg.BUS_CFG ↑n) 7 = true ∧
    s.follower = true ∧
    (k, e) ∈ (s.bctl ↑n).tx ∧
    k < 64 ∧
    sameFrame e f = true) ∧
    (∃ (s : State) (n : Fin 4),
    busRuns s ↑n = true) ∧
    (∃ (s : State) (n : Fin 4),
    busMode s = true ∧
    (s.bctl ↑n).closing = true) :=
  ⟨⟨w [(Reg.CLK_STAT, 0x40), (Reg.BUS_CFG 3, 1), (Reg.FLT_CTL 3 255, 0x84000000), (Reg.FLT_ID1 3 255, 0x7FF), (Reg.FLT_ID2 3 255, 0x7FF), (Reg.BUS_QCFG 3 3, 1)] [], _, 0, 0, 3, ⟨false, false, false, 0x7FF, 8, false, false, [0, 0, 0, 0, 0, 0, 0, 0]⟩, 255, 3,
    by refine ⟨rfl, ?_, ?_, ?_, ?_, ?_, ?_⟩ <;> decide +kernel⟩,
   ⟨{ w [(Reg.CLK_STAT, 0x40), (Reg.BUS_CFG 3, 1), (Reg.FLT_CTL 3 255, 0x84000000), (Reg.FLT_ID1 3 255, 0x7FF), (Reg.FLT_ID2 3 255, 0x7FF), (Reg.BUS_QCFG 3 3, 1)] [] with bus := { Buses.reset with ctl := [(3, { BusCtl.reset with owned := [(3, 1)], ovf := [(3, true)] })] } }, _, 0, 0, 3, ⟨false, false, false, 0x7FF, 8, false, false, [0, 0, 0, 0, 0, 0, 0, 0]⟩, 255, 3,
    by refine ⟨rfl, ?_, ?_, ?_, ?_, ?_, ?_⟩ <;> decide +kernel⟩,
   ⟨w [(Reg.CLK_STAT, 0x40), (Reg.BUS_CFG 3, 0x801), (Reg.BUS_QCFG 3 3, 1)] [], _, 0, 0, 3, ⟨false, false, false, 0x7FF, 8, false, false, [0, 0, 0, 0, 0, 0, 0, 0]⟩, 3,
    by refine ⟨rfl, ?_, ?_, ?_, ?_, ?_⟩ <;> decide +kernel⟩,
   ⟨{ w [(Reg.CLK_STAT, 0x40), (Reg.BUS_CFG 3, 3), (Reg.BUS_AUTH 3, 1), (Reg.FLT_CTL 3 255, 0x8C3F0000), (Reg.FLT_ID1 3 255, 0x7FF), (Reg.FLT_ID2 3 255, 0x7FF), (Reg.BUS_QCFG 3 3, 1)] [] with bus := { Buses.reset with keys := [(63, List.replicate 16 0)] } }, _, 0, 0, 3, ⟨true, false, false, 0x7FF, 12, false, false, [0, 0, 0, 0, 1, 0, 0, 0, 159, 74, 78, 207]⟩, 255, 63, 3, 1,
    by refine ⟨rfl, ?_, ?_, ?_, ?_, ?_, ?_, ?_, ?_⟩ <;> decide +kernel⟩,
   ⟨w [(Reg.CLK_STAT, 0x40), (Reg.BUS_CFG 3, 3), (Reg.BUS_AUTH 3, 1), (Reg.FLT_CTL 3 255, 0x8C3F0000), (Reg.FLT_ID1 3 255, 0x7FF), (Reg.FLT_ID2 3 255, 0x7FF), (Reg.BUS_QCFG 3 3, 1)] [], _, 0, 0, 3, ⟨true, false, false, 0x7FF, 12, false, false, [0, 0, 0, 0, 1, 0, 0, 0, 159, 74, 78, 207]⟩, 255, 63, 3,
    by refine ⟨rfl, ?_, ?_, ?_, ?_, ?_, ?_, ?_⟩ <;> decide +kernel⟩,
   ⟨w [(Reg.CLK_STAT, 0x40), (Reg.BUS_CFG 3, 1)] [], _, 0, 0, 3, ⟨false, false, false, 0x7FF, 8, false, false, [0, 0, 0, 0, 0, 0, 0, 0]⟩,
    by refine ⟨rfl, ?_, ?_, ?_, ?_⟩ <;> decide +kernel⟩,
   ⟨w [(Reg.CLK_STAT, 0x40), (Reg.BUS_CFG 3, 1), (Reg.BUS_REF 3, 0x400007FF)] [], _, 0, 0, 3, ⟨false, false, false, 0x7FF, 8, false, false, [0, 0, 0, 0, 0, 0, 0, 0]⟩,
    by exact ⟨rfl, by decide +kernel, by decide +kernel, by decide +kernel⟩⟩,
   ⟨{ w [(Reg.CLK_STAT, 0x40), (Reg.BUS_CFG 3, 0x81), (Reg.SYS_FRMSTAT, 0)] [] with bus := { Buses.reset with ctl := [(3, { BusCtl.reset with tx := [(63, { TxEnt.reset with stage := .pending, hdr := [0x7FF, 8], data := [0, 0, 0, 0, 0, 0, 0, 0] })] })] } }, 0, 0, 3, ⟨false, false, false, 0x7FF, 8, false, false, [0, 0, 0, 0, 0, 0, 0, 0]⟩, 63, { TxEnt.reset with stage := .pending, hdr := [0x7FF, 8], data := [0, 0, 0, 0, 0, 0, 0, 0] },
    by decide +kernel⟩,
   ⟨w [(Reg.CLK_STAT, 0x40), (Reg.BUS_CFG 3, 1)] [], 3,
    by decide +kernel⟩,
   ⟨{ w [(Reg.CLK_STAT, 0x40)] [] with bus := { Buses.reset with ctl := [(3, { BusCtl.reset with closing := true })] } }, 3,
    by decide +kernel⟩⟩

/-- States and operands that meet the hypotheses of every clause of `HostWordsArePostedAndArrive`. -/
theorem witness_HostWordsArePostedAndArrive :
    (∃ (s : State) (a : BitVec 24),
    s.clocked = true ∧
    s.sys.viohFloat = false ∧
    a.toNat < 1048576 ∧
    (s.hp.held = none ∨ ∃ x, s.hp.held = some (wordAddr a, x))) ∧
    (∃ (s : State) (a : BitVec 24) (b : Nat) (x : BitVec 16),
    s.clocked = true ∧
    s.sys.viohFloat = false ∧
    a.toNat < 1048576 ∧
    s.hp.held = some (b, x) ∧
    b ≠ wordAddr a) ∧
    (∃ (s : State) (a : BitVec 24) (x : BitVec 16),
    s.clocked = true ∧
    s.sys.viohFloat = false ∧
    a.toNat < 1048576 ∧
    s.hp.held = some (wordAddr a, x) ∧
    s.hp.posted.length < 64) ∧
    (∃ (s : State) (a : BitVec 24) (x : BitVec 16),
    s.clocked = true ∧
    s.sys.viohFloat = false ∧
    a.toNat < 1048576 ∧
    s.hp.held = some (wordAddr a, x) ∧
    64 ≤ s.hp.posted.length) ∧
    (∃ (s : State) (a : BitVec 24),
    s.sys.mode = Mode.freeze ∧
    s.sys.powerFail = false ∧
    s.sys.viohFloat = false ∧
    a.toNat < 1048576) ∧
    (∃ (s : State),
    s.clocked = true ∧
    s.sys.viohFloat = true) ∧
    (∃ (s : State) (a : Nat) (v : Word) (rest : List (Nat × Word)) (r : RegRow),
    front s a v rest ∧
    Reg.row? a = some r ∧
    (∀ x ∈ s.sys.arrived, x.rank ≤ 8) ∧
    a ∈ [Reg.HP_IEN, Reg.HP_ISTAT, Reg.HP_SADR, Reg.HP_SLEN, Reg.SIL_CFG, Reg.SIL_WTIMER, Reg.FLT_INJDET, Reg.REC_RDSTART, Reg.REC_SWDETAIL, Reg.PEG_HC_ADDR, Reg.BUS_WAKE, Reg.ADC_STAT]) ∧
    (∃ (s : State) (a : Nat) (v : Word) (rest : List (Nat × Word)),
    front s a v rest ∧
    Reg.row? a = none ∧
    isCancel a = false) ∧
    (∃ (s : State) (v : Word) (rest : List (Nat × Word)),
    s.clocked = true ∧
    hauth s = true ∧
    s.hp.posted = (Reg.FLT_CTRL, v) :: rest) :=
  ⟨⟨w [] [], 0xFFFFC,
    by exact ⟨by decide +kernel, by decide +kernel, by decide +kernel, Or.inl rfl⟩⟩,
   ⟨{ w [] [] with hp := { HostPort.reset with held := some (65536, 1) } }, 0xFFFFC, 65536, 1,
    by decide +kernel⟩,
   ⟨{ w [] [] with hp := { HostPort.reset with held := some (1048572, 1), posted := List.replicate 63 (65536, 0) } }, 0xFFFFE, 1,
    by decide +kernel⟩,
   ⟨{ w [] [] with hp := { HostPort.reset with held := some (1048572, 1), posted := List.replicate 64 (65536, 0) } }, 0xFFFFE, 1,
    by decide +kernel⟩,
   ⟨wIn .freeze [] [], 0xFFFFE,
    by decide +kernel⟩,
   ⟨{ w [] [] with sys := { (w [] []).sys with viohFloat := true } },
    by decide +kernel⟩,
   ⟨w [] [(Reg.HP_IEN, 1)], Reg.HP_IEN, 1, [], (Reg.row? Reg.HP_IEN).get (by decide +kernel),
    by decide +kernel⟩,
   ⟨w [] [(0xFFFFC, 1)], 0xFFFFC, 1, [],
    by decide +kernel⟩,
   ⟨w [(Reg.PEG_CFG, 1), (Reg.FLT_SRC 323, 0)] [(Reg.FLT_CTRL, 0xA501)], 0xA501, [],
    by decide +kernel⟩⟩

/-- States and operands that meet the hypotheses of every clause of `HostReadsReturnTheImage`. -/
theorem witness_HostReadsReturnTheImage :
    (∃ (s : State) (a : BitVec 24) (x : BitVec 16),
    portOn s = true ∧
    s.sys.mode ≠ Mode.freeze ∧
    a.toNat < 1048576 ∧
    wordAddr a ≠ Reg.HP_SSTAT ∧
    wordAddr a ≠ Reg.HP_SPOS ∧
    s.hp.latch = some (wordAddr a, x)) ∧
    (∃ (s : State) (a : BitVec 24),
    portOn s = true ∧
    s.sys.mode ≠ Mode.freeze ∧
    a.toNat < 1048576 ∧
    wordAddr a ≠ Reg.HP_SSTAT ∧
    wordAddr a ≠ Reg.HP_SPOS ∧
    (∀ (x : BitVec 16), s.hp.latch ≠ some (wordAddr a, x))) ∧
    (∃ (s : State) (a : BitVec 24) (n : Fin 4),
    s.clocked = true ∧
    s.sys.viohFloat = false ∧
    wordAddr a = Reg.BUS_CNT ↑n ∧
    (∀ x ∈ s.hp.stuck, x.1 ≠ Reg.BUS_CNT ↑n)) :=
  ⟨⟨{ w [] [] with hp := { HostPort.reset with latch := some (1048572, 0xFFFF) } }, 0xFFFFE, 0xFFFF,
    by decide +kernel⟩,
   ⟨w [] [], 63,
    by decide +kernel⟩,
   ⟨w [] [], BitVec.ofNat 24 (Reg.BUS_CNT 3), 3,
    by decide +kernel⟩⟩

/-- States and operands that meet the hypotheses of every clause of `PublishesAndStreams`. -/
theorem witness_PublishesAndStreams :
    (∃ (s : State) (p : Nat) (rest : List (Nat × Word)),
    p < 64 ∧
    front s (if p < 32 then Reg.HP_PUB_LO else Reg.HP_PUB_HI) (BitVec.ofNat 32 (2 ^ (p % 32))) rest ∧
    s.flag (Reg.HP_PCFG p) 31 = true ∧
    s.sys.mode ≠ Mode.boot) ∧
    (∃ (s : State) (p : Fin 64) (c : PageCopy) (rest : List (Nat × PageCopy)),
    s.clocked = true ∧
    s.hp.copying = (↑p, c) :: rest) ∧
    (∃ (s : State) (v : Word) (rest : List (Nat × Word)),
    front s Reg.HP_SCTL v rest ∧
    bit v 0 = true ∧
    goError s (fld v 4 3) (bit v 1) (BitVec.toNat (s.rd Reg.HP_SADR)) (BitVec.toNat (s.rd Reg.HP_SLEN)) = 0 ∧
    fld v 4 3 ≠ 4) ∧
    (∃ (s : State) (v : Word) (rest : List (Nat × Word)),
    front s Reg.HP_SCTL v rest ∧
    bit v 0 = true ∧
    goError s (fld v 4 3) (bit v 1) (BitVec.toNat (s.rd Reg.HP_SADR)) (BitVec.toNat (s.rd Reg.HP_SLEN)) = 0 ∧
    fld v 4 3 = 4) ∧
    (∃ (s : State) (v : Word) (rest : List (Nat × Word)),
    front s Reg.HP_SCTL v rest ∧
    bit v 0 = true ∧
    goError s (fld v 4 3) (bit v 1) (BitVec.toNat (s.rd Reg.HP_SADR)) (BitVec.toNat (s.rd Reg.HP_SLEN)) ≠ 0) ∧
    (∃ (s : State) (v : Word) (rest : List (Nat × Word)) (x : Stream),
    front s Reg.HP_SCTL v rest ∧
    bit v 8 = true ∧
    bit v 0 = false ∧
    s.hp.stream = some x ∧
    x.busy = true) ∧
    (∃ (s : State) (x : Stream) (h : BitVec 16 × Option Word) (r : List (BitVec 16 × Option Word)),
    portOn s = true ∧
    s.sys.mode ≠ Mode.freeze ∧
    s.hp.stream = some x ∧
    x.write = false ∧
    x.buf = h :: r) ∧
    (∃ (s : State),
    portOn s = true ∧
    s.sys.mode ≠ Mode.freeze ∧
    s.hp.stream = none) ∧
    (∃ (s : State) (x : Stream),
    portOn s = true ∧
    s.sys.mode ≠ Mode.freeze ∧
    s.hp.stream = some x ∧
    x.busy = true ∧
    x.write = true ∧
    0 < x.room ∧
    x.half = none) ∧
    (∃ (s : State) (x : Stream) (lo : BitVec 16),
    portOn s = true ∧
    s.sys.mode ≠ Mode.freeze ∧
    s.hp.stream = some x ∧
    x.busy = true ∧
    x.write = true ∧
    0 < x.room ∧
    x.half = some lo ∧
    x.space = 0) :=
  ⟨⟨w [(Reg.HP_PCFG 31, 0x80000000)] [(Reg.HP_PUB_LO, 0x80000000)], 31, [],
    by decide +kernel⟩,
   ⟨{ w [] [] with hp := { HostPort.reset with copying := [(63, ⟨0, none, []⟩)] } }, 63, ⟨0, none, []⟩, [],
    by decide +kernel⟩,
   ⟨w [(Reg.HP_SLEN, 4)] [(Reg.HP_SCTL, 1)], 1, [],
    by decide +kernel⟩,
   ⟨w [] [(Reg.HP_SCTL, 0x41)], 0x41, [],
    by decide +kernel⟩,
   ⟨w [] [(Reg.HP_SCTL, 1)], 1, [],
    by decide +kernel⟩,
   ⟨{ w [] [(Reg.HP_SCTL, 0x100)] with hp := { (w [] [(Reg.HP_SCTL, 0x100)]).hp with stream := some ⟨true, 0, false, 0, 4, 0, none, [], 0⟩ } }, 0x100, [], ⟨true, 0, false, 0, 4, 0, none, [], 0⟩,
    by decide +kernel⟩,
   ⟨{ w [] [] with hp := { HostPort.reset with stream := some ⟨true, 3, false, 0, 4, 0, none, [(1, none)], 0⟩ } }, ⟨true, 3, false, 0, 4, 0, none, [(1, none)], 0⟩, (1, none), [],
    by decide +kernel⟩,
   ⟨w [] [],
    by decide +kernel⟩,
   ⟨{ w [] [] with hp := { HostPort.reset with stream := some ⟨true, 0, true, 0, 8, 0, none, [], 1⟩ } }, ⟨true, 0, true, 0, 8, 0, none, [], 1⟩,
    by decide +kernel⟩,
   ⟨{ w [] [] with hp := { HostPort.reset with stream := some ⟨true, 0, true, 0, 8, 0, some 1, [], 1⟩ } }, ⟨true, 0, true, 0, 8, 0, some 1, [], 1⟩, 1,
    by decide +kernel⟩⟩

/-- States and operands that meet the hypotheses of every clause of `TrussLinkAndExchange`. -/
theorem witness_TrussLinkAndExchange :
    (∃ (s : State),
    trussRuns s = true ∧
    s.flag Reg.TRU_STAT 6 = true ∧
    killed s = false ∧
    s.tru.passed = false) ∧
    (∃ (s : State),
    trussRuns s = true ∧
    s.flag Reg.TRU_STAT 6 = true ∧
    killed s = false ∧
    s.tru.passed = true) ∧
    (∃ (s : State),
    s.clocked = true) ∧
    (∃ (s : State),
    s.sys.mode ≠ Mode.sill ∧
    s.sys.mode ≠ Mode.freeze ∧
    s.flag Reg.TRU_STAT 6 = true ∧
    s.solo = true ∧
    killed s = true) ∧
    (∃ (s : State),
    s.sys.mode = Mode.boot ∧
    s.sys.powerFail = false ∧
    s.sys.bootDone.isSome = true ∧
    s.sched.image.isSome = true ∧
    killed s = false ∧
    s.solo = true) ∧
    (∃ (s : State),
    s.follower = true ∧
    trussRuns s = true) ∧
    (∃ (s : State) (j : Joiner),
    trussRuns s = true ∧
    killed s = false ∧
    s.solo = true ∧
    j.side ≠ s.sys.tside ∧
    j.leads = true) ∧
    (∃ (s : State) (j : Joiner),
    trussRuns s = true ∧
    killed s = false ∧
    s.solo = true ∧
    j.side = s.sys.tside) ∧
    (∃ (s : State) (j : Joiner),
    trussRuns s = true ∧
    killed s = false ∧
    s.solo = true ∧
    j.side ≠ s.sys.tside ∧
    j.leads = false ∧
    s.tru.pairedOnce = false ∧
    s.isLead = false) :=
  ⟨⟨w [(Reg.TRU_CFG, 1), (Reg.TRU_STAT, 0x40)] [],
    by decide +kernel⟩,
   ⟨{ w [(Reg.TRU_CFG, 1), (Reg.TRU_STAT, 0x40)] [] with tru := { Truss.reset with passed := true } },
    by decide +kernel⟩,
   ⟨w [(Reg.TRU_CFG, 1)] [],
    by decide +kernel⟩,
   ⟨w [(Reg.TRU_STAT, 0x240)] [],
    by decide +kernel⟩,
   ⟨{ { wIn .boot [] [] with sys := { (wIn .boot [] []).sys with bootDone := some .idle } } with sched := { Sched.reset with image := some ⟨0, 0, 0, [], []⟩ } },
    by decide +kernel⟩,
   ⟨w [(Reg.TRU_CFG, 1), (Reg.TRU_STAT, 0), (Reg.FLT_SRC 289, 0), (Reg.SYS_FRMSTAT, 0)] [],
    by decide +kernel⟩,
   ⟨w [(Reg.TRU_CFG, 1)] [], ⟨true, 0, [], [], [], 0, true, true, 0⟩,
    by decide +kernel⟩,
   ⟨w [(Reg.TRU_CFG, 1)] [], ⟨false, 0, [], [], [], 0, true, true, 0⟩,
    by decide +kernel⟩,
   ⟨w [(Reg.TRU_CFG, 1)] [], ⟨true, 0, [], [], [], 0, true, false, 0⟩,
    by decide +kernel⟩⟩

/-- States and operands that meet the hypotheses of every clause of `KillAndScarf`. -/
theorem witness_KillAndScarf :
    (∃ (s : State),
    s.sys.mode ≠ Mode.sill) ∧
    (∃ (s : State) (v : Word) (rest : List (Nat × Word)),
    front s Reg.TRU_KILL v rest ∧
    bit v 0 = true) ∧
    (∃ (s : State) (v : Word) (rest : List (Nat × Word)),
    front s Reg.TRU_KILL v rest ∧
    bit v 0 = false) ∧
    (∃ (s : State) (v : Word) (rest : List (Nat × Word)) (j : Joiner),
    front s Reg.TRU_SCARF v rest ∧
    bit v 0 = true ∧
    trussRuns s = true ∧
    s.solo = true ∧
    s.isLead = true ∧
    s.flag Reg.TRU_STAT 6 = true ∧
    scarfPhase s = 0 ∧
    s.tru.joiner = some j ∧
    j.ready = true) ∧
    (∃ (s : State),
    trussRuns s = true ∧
    s.solo = true ∧
    s.flag Reg.TRU_STAT 6 = true ∧
    killed s = false ∧
    scarfPhase s < 5 ∧
    s.isLead = true ∧
    1 ≤ scarfPhase s) ∧
    (∃ (s : State) (j : Joiner) (a : Nat) (r : RegRow),
    trussRuns s = true ∧
    s.solo = true ∧
    s.flag Reg.TRU_STAT 6 = true ∧
    killed s = false ∧
    scarfPhase s < 5 ∧
    s.isLead = false ∧
    s.tru.joiner = some j ∧
    j.leads = true ∧
    Reg.row? a = some r ∧
    s.txn.state = TxnState.free ∧
    (∀ (b : Fin 12), a ≠ Reg.BCFG ↑b) ∧
    (s.sys.variant = 1 → ¬(458752 ≤ a ∧ a < 524288))) ∧
    (∃ (s : State),
    scarfPhase s = 5 ∧
    s.tru.probation = 1 ∧
    trussRuns s = true ∧
    s.isLead = true) ∧
    (∃ (s : State),
    scarfPhase s = 5 ∧
    s.tru.probation = 1 ∧
    trussRuns s = true ∧
    s.isLead = false) :=
  ⟨⟨w [(Reg.FLT_SRC 291, 0)] [],
    by decide +kernel⟩,
   ⟨w [] [(Reg.TRU_KILL, 0xA501)], 0xA501, [],
    by decide +kernel⟩,
   ⟨w [] [(Reg.TRU_KILL, 0xA500)], 0xA500, [],
    by decide +kernel⟩,
   ⟨{ w [(Reg.TRU_CFG, 1), (Reg.TRU_STAT, 0x50)] [(Reg.TRU_SCARF, 1)] with tru := { Truss.reset with joiner := some ⟨true, 0, [], [], [], 0, true, false, 0⟩ } }, 1, [], ⟨true, 0, [], [], [], 0, true, false, 0⟩,
    by decide +kernel⟩,
   ⟨w [(Reg.TRU_CFG, 1), (Reg.TRU_STAT, 0x50), (Reg.TRU_SCARF, 0x400)] [],
    by decide +kernel⟩,
   ⟨{ w [(Reg.TRU_CFG, 1), (Reg.TRU_STAT, 0x40)] [] with tru := { Truss.reset with joiner := some ⟨true, 0, [], [], [], 0, true, true, 0⟩ } }, ⟨true, 0, [], [], [], 0, true, true, 0⟩, Reg.FLT_QUIET, (Reg.row? Reg.FLT_QUIET).get (by decide +kernel),
    by decide +kernel⟩,
   ⟨{ w [(Reg.TRU_CFG, 1), (Reg.TRU_STAT, 0x10), (Reg.TRU_SCARF, 0x500)] [] with tru := { Truss.reset with probation := 1 } },
    by decide +kernel⟩,
   ⟨{ w [(Reg.TRU_CFG, 1), (Reg.TRU_SCARF, 0x500)] [] with tru := { Truss.reset with probation := 1 } },
    by decide +kernel⟩⟩

/-- States and operands that meet the hypotheses of every clause of `JournalWritesConfirmsAndReplays`. -/
theorem witness_JournalWritesConfirmsAndReplays :
    (∃ (s : State) (q : Nat) (ws : List Word) (rest : List (Nat × List Word)),
    journalOn s = true ∧
    s.sys.powerFail = false ∧
    s.jrn.writing = (q, ws) :: rest) ∧
    (∃ (s : State) (q : BitVec 64) (crc : Word),
    trussRuns s = true ∧
    s.solo = false ∧
    s.jrn.writing = [] ∧
    inRing s q.toNat = true ∧
    (SMap.get [] s.jrn.ring (q.toNat % 65536)).getD 15 0 = crc) ∧
    (∃ (s : State) (q : BitVec 64) (crc : Word),
    trussRuns s = true ∧
    s.solo = false ∧
    s.jrn.writing = [] ∧
    inRing s q.toNat = true ∧
    (SMap.get [] s.jrn.ring (q.toNat % 65536)).getD 15 0 ≠ crc) ∧
    (∃ (s : State) (m : JMark) (ms : List JMark),
    journalOn s = true ∧
    s.sys.powerFail = false ∧
    s.jrn.marks = m :: ms ∧
    jrnFull s = true) ∧
    (∃ (s : State) (m : JMark) (ms : List JMark),
    journalOn s = true ∧
    s.sys.powerFail = false ∧
    s.jrn.marks = m :: ms ∧
    jrnFull s = false) ∧
    (∃ (s : State) (v : Word) (rest : List (Nat × Word)),
    front s Reg.JRN_RCTL v rest ∧
    bit v 0 = true ∧
    bit v 1 = false ∧
    s.jrn.marks = [] ∧
    s.jrn.writing = [] ∧
    (∀ x ∈ s.jrn.ring, entryOk x.2 = true)) ∧
    (∃ (s : State) (v : Word) (rest : List (Nat × Word)) (k : Nat) (q : Nat),
    front s Reg.JRN_RCTL v rest ∧
    bit v 0 = true ∧
    bit v 1 = false ∧
    s.jrn.marks = [] ∧
    s.jrn.writing = [] ∧
    (List.map (fun x => x.1) s.jrn.ring).Nodup ∧
    (∀ x ∈ s.jrn.ring, x.1 < 65536) ∧
    ringHead s.jrn.ring = q ∧
    k ∈ List.map (fun x => x.1) s.jrn.ring ∧
    entryOk (SMap.get [] s.jrn.ring k) = false ∧
    validEntries s.jrn.ring ≠ [] ∧
    (∃ i < 65536, k = (q + i) % 65536 ∧ ∀ j ≤ i, (q + j) % 65536 ∈ List.map (fun x => x.1) s.jrn.ring ∧ entryOk (SMap.get [] s.jrn.ring ((q + j) % 65536)) = false)) ∧
    (∃ (s : State) (v : Word) (rest : List (Nat × Word)) (k : Nat) (q : Nat),
    front s Reg.JRN_RCTL v rest ∧
    bit v 0 = true ∧
    bit v 1 = false ∧
    s.jrn.marks = [] ∧
    s.jrn.writing = [] ∧
    (List.map (fun x => x.1) s.jrn.ring).Nodup ∧
    (∀ x ∈ s.jrn.ring, x.1 < 65536) ∧
    ringHead s.jrn.ring = q ∧
    k ∈ List.map (fun x => x.1) s.jrn.ring ∧
    entryOk (SMap.get [] s.jrn.ring k) = false ∧
    validEntries s.jrn.ring ≠ [] ∧
    (∃ i < 65536, k = (q + i) % 65536 ∧ ∃ j < i, ¬((q + j) % 65536 ∈ List.map (fun x => x.1) s.jrn.ring ∧ entryOk (SMap.get [] s.jrn.ring ((q + j) % 65536)) = false))) ∧
    (∃ (s : State) (v : Word) (rest : List (Nat × Word)),
    front s Reg.JRN_RCTL v rest ∧
    bit v 0 = false ∧
    bit v 1 = true) :=
  ⟨⟨{ w [] [] with jrn := { Jrn.reset with head := 1, writing := [(0, [0, 0, 0, 0, 0, 0, 0, 0, 0, 0, 0, 0, 0, 0, 0, 0])] } }, 0, [0, 0, 0, 0, 0, 0, 0, 0, 0, 0, 0, 0, 0, 0, 0, 0], [],
    by decide +kernel⟩,
   ⟨{ w [(Reg.TRU_CFG, 1), (Reg.SYS_FRMSTAT, 0)] [] with jrn := { Jrn.reset with head := 1, ring := [(0, [0, 0, 0, 0, 0, 0, 0, 0, 0, 0, 0, 0, 0, 0, 0, 0])] } }, 0, 0,
    by decide +kernel⟩,
   ⟨{ w [(Reg.TRU_CFG, 1), (Reg.SYS_FRMSTAT, 0), (Reg.FLT_SRC 293, 0)] [] with jrn := { Jrn.reset with head := 1, ring := [(0, [0, 0, 0, 0, 0, 0, 0, 0, 0, 0, 0, 0, 0, 0, 0, 0])] } }, 0, 1,
    by decide +kernel⟩,
   ⟨{ w [] [] with jrn := { Jrn.reset with head := 65536, opened := [0], marks := [⟨0, 0, 0, false, 0⟩] } }, ⟨0, 0, 0, false, 0⟩, [],
    by decide +kernel⟩,
   ⟨{ w [] [] with jrn := { Jrn.reset with head := 65536, opened := [1], marks := [⟨0, 0, 0, false, 0⟩] } }, ⟨0, 0, 0, false, 0⟩, [],
    by decide +kernel⟩,
   ⟨w [] [(Reg.JRN_RCTL, 1)], 1, [],
    by decide +kernel⟩,
   ⟨{ w [] [(Reg.JRN_RCTL, 1)] with jrn := { Jrn.reset with head := 1, ring := [(0, jrnWords 0 1 0 0 []), (1, [1])] } }, 1, [], 1, 1,
    by refine ⟨?_, ?_, ?_, ?_, ?_, ?_, ?_, ?_, ?_, ?_, ?_, (⟨0, by decide +kernel⟩)⟩ <;> decide +kernel⟩,
   ⟨{ w [] [(Reg.JRN_RCTL, 1)] with jrn := { Jrn.reset with head := 1, ring := [(0, jrnWords 0 1 0 0 []), (65535, [1])] } }, 1, [], 65535, 1,
    by refine ⟨?_, ?_, ?_, ?_, ?_, ?_, ?_, ?_, ?_, ?_, ?_, (⟨65534, by decide +kernel, by decide +kernel, 0, by decide +kernel⟩)⟩ <;> decide +kernel⟩,
   ⟨w [] [(Reg.JRN_RCTL, 2)], 2, [],
    by decide +kernel⟩⟩

/-- States and operands that meet the hypotheses of every clause of `RecorderWritesItsRecords`. -/
theorem witness_RecorderWritesItsRecords :
    (∃ (s : State) (q : QRec) (qs : List QRec),
    recorderOn s = true ∧
    s.rcd.queue = q :: qs ∧
    s.rcd.overdue = [] ∧
    s.rcd.lost = 0 ∧
    List.length s.rcd.slots < 262144 ∧
    q.sev < 2 ∧
    q.code ≠ 515 ∧
    q.code ≠ 516 ∧
    s.rf Reg.REC_CFG 16 16 = 0) ∧
    (∃ (s : State) (q : QRec) (qs : List QRec),
    recorderOn s = true ∧
    s.rcd.queue = q :: qs ∧
    s.rcd.overdue = [] ∧
    s.rcd.lost = 0 ∧
    262144 ≤ List.length s.rcd.slots ∧
    (∀ x ∈ s.rcd.slots, q.sev < slotSev x.2)) ∧
    (∃ (s : State) (w : SigWait) (ws : List SigWait),
    recorderOn s = true ∧
    s.rcd.sigs = w :: ws ∧
    s.peg.serving = some PkJob.checkpoint ∧
    s.rcd.queue.length + s.rcd.overdue.length + 2 ≤ 64) ∧
    (∃ (s : State) (w : SigWait) (ws : List SigWait),
    recorderOn s = true ∧
    s.rcd.sigs = w :: ws ∧
    s.peg.serving ≠ some PkJob.checkpoint) ∧
    (∃ (s : State) (k : Fin 1024),
    recorderOn s = true ∧
    (SMap.get Bucket.none s.rcd.buckets ↑k).run = true ∧
    0 < (SMap.get Bucket.none s.rcd.buckets ↑k).count ∧
    (SMap.get Bucket.none s.rcd.buckets ↑k).summed + 10000 ≤ s.sys.optime ∧
    s.rcd.queue.length + s.rcd.overdue.length < 64) ∧
    (∃ (s : State) (v : Word) (rest : List (Nat × Word)),
    front s Reg.REC_SWCODE v rest ∧
    fld v 0 10 < 768) ∧
    (∃ (s : State) (v : Word) (rest : List (Nat × Word)),
    front s Reg.REC_SWCODE v rest ∧
    768 ≤ fld v 0 10 ∧
    (∀ i < 8, SMap.get 0 s.rcd.swTag i = tagOf (s.rd (Reg.REC_SWDATA i))) ∧
    recLimited s (fld v 0 10) = false ∧
    (SMap.get Bucket.none s.rcd.buckets (fld v 0 10)).run = false ∧
    s.rcd.queue.length + s.rcd.overdue.length < 64) ∧
    (∃ (s : State) (v : Word) (rest : List (Nat × Word)),
    front s Reg.REC_SWCODE v rest ∧
    768 ≤ fld v 0 10 ∧
    (∀ i < 8, SMap.get 0 s.rcd.swTag i = tagOf (s.rd (Reg.REC_SWDATA i))) ∧
    recLimited s (fld v 0 10) = false ∧
    (SMap.get Bucket.none s.rcd.buckets (fld v 0 10)).run = true ∧
    0 < (SMap.get Bucket.none s.rcd.buckets (fld v 0 10)).count ∧
    s.rcd.queue.length + s.rcd.overdue.length + 2 ≤ 64) ∧
    (∃ (s : State) (v : Word) (rest : List (Nat × Word)),
    front s Reg.REC_CTL v rest ∧
    bit v 0 = true ∧
    bit v 1 = false ∧
    s.rf Reg.REC_CFG 0 1 = 0) ∧
    (∃ (s : State) (v : Word) (rest : List (Nat × Word)),
    front s Reg.REC_CTL v rest ∧
    bit v 0 = true ∧
    bit v 1 = false ∧
    s.rf Reg.REC_CFG 0 1 = 1) ∧
    (∃ (s : State) (v : Word) (rest : List (Nat × Word)),
    front s Reg.REC_CTL v rest ∧
    bit v 0 = false ∧
    bit v 1 = true) ∧
    (∃ (s : State),
    recorderOn s = true ∧
    s.rf Reg.REC_CFG 8 8 * 10000 ≤ s.rcd.frozen) :=
  ⟨⟨{ w [(Reg.REC_CFG, 0)] [] with rcd := { Rec.reset with queue := [⟨0, 1, false, false, false, 0, 0, 0, 0, 0, [], false⟩] } }, ⟨0, 1, false, false, false, 0, 0, 0, 0, 0, [], false⟩, [],
    by decide +kernel⟩,
   ⟨fullRing, ⟨0, 0, false, false, false, 0, 0, 0, 0, 0, [], false⟩, [],
    by exact ⟨by decide +kernel, rfl, rfl, rfl, Nat.le_of_eq ring_length.symm, fun _ h => ring_entries _ h ▸ by decide +kernel⟩⟩,
   ⟨{ w [] [] with rcd := { Rec.reset with sigs := [⟨0, 0, []⟩] }, peg := { Peg.reset with serving := some .checkpoint } }, ⟨0, 0, []⟩, [],
    by decide +kernel⟩,
   ⟨{ w [] [] with rcd := { Rec.reset with sigs := [⟨0, 0, []⟩] } }, ⟨0, 0, []⟩, [],
    by decide +kernel⟩,
   ⟨{ w [] [] with sys := { (w [] []).sys with optime := 10000 }, rcd := { Rec.reset with buckets := [(1023, { Bucket.none with run := true, count := 1 })] } }, 1023,
    by decide +kernel⟩,
   ⟨w [] [(Reg.REC_SWCODE, 767)], 767, [],
    by decide +kernel⟩,
   ⟨w [] [(Reg.REC_SWCODE, 1023)], 1023, [],
    by decide +kernel⟩,
   ⟨{ w [] [(Reg.REC_SWCODE, 1023)] with rcd := { Rec.reset with buckets := [(1023, { Bucket.none with run := true, count := 1 })] } }, 1023, [],
    by decide +kernel⟩,
   ⟨w [] [(Reg.REC_CTL, 1)], 1, [],
    by decide +kernel⟩,
   ⟨w [(Reg.REC_CFG, 1)] [(Reg.REC_CTL, 1)], 1, [],
    by decide +kernel⟩,
   ⟨w [] [(Reg.REC_CTL, 2)], 2, [],
    by decide +kernel⟩,
   ⟨w [(Reg.REC_CFG, 1)] [(Reg.REC_CTL, 1)],
    by decide +kernel⟩⟩

/-- States and operands that meet the hypotheses of every clause of `KeyCommandsTakeEffect`. -/
theorem witness_KeyCommandsTakeEffect :
    (∃ (s : State) (t : Nat) (stored : Bool) (v : Word) (rest : List (Nat × Word)) (p : Nat × Instr),
    keyResult s (window s) stored ≠ 0 ∧
    p ∈ [(1, Instr.keyEnrol t stored), (2, Instr.keyRevoke t stored), (3, Instr.loadMessageKey t stored), (4, Instr.loadHostKey t stored), (5, Instr.raiseRollback t stored), (6, Instr.releaseOwnership t stored), (7, Instr.grant t stored), (8, Instr.setPolicy t stored)] ∧
    keyGoes s v rest p.1) ∧
    (∃ (s : State) (stored : Bool) (v : Word) (rest : List (Nat × Word)),
    keyResult s (window s) stored = 0 ∧
    keyGoes s v rest 1) ∧
    (∃ (s : State) (stored : Bool) (v : Word) (rest : List (Nat × Word)),
    keyResult s (window s) stored = 0 ∧
    keyGoes s v rest 2) ∧
    (∃ (s : State) (stored : Bool) (v : Word) (rest : List (Nat × Word)),
    keyResult s (window s) stored = 0 ∧
    keyGoes s v rest 5) ∧
    (∃ (s : State) (stored : Bool) (v : Word) (rest : List (Nat × Word)),
    keyResult s (window s) stored = 0 ∧
    keyGoes s v rest 6) ∧
    (∃ (s : State) (stored : Bool) (v : Word) (rest : List (Nat × Word)),
    keyResult s (window s) stored = 0 ∧
    keyGoes s v rest 7) ∧
    (∃ (s : State) (stored : Bool) (v : Word) (rest : List (Nat × Word)),
    keyResult s (window s) stored = 0 ∧
    keyGoes s v rest 8) ∧
    (∃ (s : State) (stored : Bool) (v : Word) (rest : List (Nat × Word)),
    (keyResult s (window s) stored = 0 ∨ keyResult s (window s) stored = 8) ∧
    keyGoes s v rest 3) ∧
    (∃ (s : State) (stored : Bool) (v : Word) (rest : List (Nat × Word)),
    (keyResult s (window s) stored = 0 ∨ keyResult s (window s) stored = 8) ∧
    keyGoes s v rest 4) :=
  ⟨⟨wIn .service [(Reg.PEG_KCMD 1, 1)] [(Reg.PEG_KCTL, 1)], 0, true, 1, [], (1, .keyEnrol 0 true),
    by decide +kernel⟩,
   ⟨wIn .service [(Reg.PEG_KCMD 0, 0x59454B50), (Reg.PEG_KCMD 1, 0xFF0001), (Reg.PEG_KCMD 31, 0x1000000), (Reg.FLT_SRC 326, 0)] [(Reg.PEG_KCTL, 1)], true, 1, [],
    by decide +kernel⟩,
   ⟨keyState2, true, 1, [],
    by decide +kernel⟩,
   ⟨keyState5, true, 1, [],
    by decide +kernel⟩,
   ⟨keyState6, true, 1, [],
    by decide +kernel⟩,
   ⟨keyState7, true, 1, [],
    by decide +kernel⟩,
   ⟨keyState8, true, 1, [],
    by decide +kernel⟩,
   ⟨keyState3, true, 1, [],
    by exact ⟨key_checks _ _ (by decide +kernel), by decide +kernel⟩⟩,
   ⟨keyState4, true, 1, [],
    by exact ⟨key_checks _ _ (by decide +kernel), by decide +kernel⟩⟩⟩

/-- States and operands that meet the hypotheses of every clause of `PegAnswersAndDelivers`. -/
theorem witness_PegAnswersAndDelivers :
    (∃ (s : State) (r : Nat) (op : Nat) (slot : Nat),
    s.peg.running = some (r, op, slot) ∧
    s.sys.mode ≠ Mode.freeze ∧
    (s.peg.keyWaits = true → s.peg.serving = some PkJob.key)) ∧
    (∃ (s : State),
    s.peg.keyWaits = true ∧
    s.peg.serving ≠ some PkJob.key) ∧
    (∃ (s : State) (e : Nat),
    s.peg.granted = true ∧
    s.peg.grantEnd = some e ∧
    e ≤ s.sys.optime ∧
    s.sys.mode ≠ Mode.freeze) ∧
    (∃ (s : State) (v : Word) (rest : List (Nat × Word)),
    s.peg.granted = true ∧
    front s Reg.PEG_GRANT v rest ∧
    bit v 8 = true) ∧
    (∃ (s : State) (v : Word) (rest : List (Nat × Word)),
    front s Reg.PEG_ACTL v rest ∧
    bit v 0 = true ∧
    s.flag Reg.PEG_ASTAT 0 = false ∧
    s.sys.mode ≠ Mode.boot ∧
    s.flag Reg.PEG_STAT 5 = true) ∧
    (∃ (s : State) (v : Word) (rest : List (Nat × Word)),
    front s Reg.PEG_ACTL v rest ∧
    bit v 0 = true ∧
    s.flag Reg.PEG_ASTAT 0 = false ∧
    s.sys.mode ≠ Mode.boot ∧
    s.flag Reg.PEG_STAT 5 = false) ∧
    (∃ (s : State) (ws : List Word),
    s.peg.report = some ws ∧
    s.sys.mode ≠ Mode.freeze ∧
    s.peg.serving ≠ some PkJob.report) ∧
    (∃ (s : State) (ws : List Word),
    s.peg.report = some ws ∧
    s.sys.mode ≠ Mode.freeze ∧
    s.peg.serving = some PkJob.report) ∧
    (∃ (s : State) (t : Nat) (v : Word) (rest : List (Nat × Word)),
    front s Reg.PEG_HC_TAG_HI v rest ∧
    s.sys.mode ≠ Mode.boot ∧
    (s.at t).now < s.peg.hcUntil) ∧
    (∃ (s : State) (t : Nat) (v : Word) (rest : List (Nat × Word)),
    front s Reg.PEG_HC_TAG_HI v rest ∧
    s.sys.mode ≠ Mode.boot ∧
    s.peg.hcUntil ≤ (s.at t).now ∧
    hostCmdResult s v ≠ 1) ∧
    (∃ (s : State) (t : Nat) (v : Word) (rest : List (Nat × Word)),
    front s Reg.PEG_HC_TAG_HI v rest ∧
    s.sys.mode ≠ Mode.boot ∧
    s.peg.hcUntil ≤ (s.at t).now ∧
    hostCmdResult s v = 1 ∧
    s.rf Reg.PEG_HC_ADDR 0 24 = Reg.TRU_KILL ∧
    fld (s.rd Reg.PEG_HC_DATA) 8 8 = 165) :=
  ⟨⟨{ w [(Reg.FLT_SRC 322, 0)] [] with peg := { Peg.reset with running := some (0, 8, 63) } }, 0, 8, 63,
    by decide +kernel⟩,
   ⟨{ w [] [] with peg := { Peg.reset with keyWaits := true } },
    by decide +kernel⟩,
   ⟨{ w [(Reg.FLT_SRC 326, 0), (Reg.PEG_GRANT, 3)] [] with peg := { Peg.reset with granted := true, grantEnd := some 0 } }, 0,
    by decide +kernel⟩,
   ⟨{ w [(Reg.FLT_SRC 326, 0), (Reg.PEG_GRANT, 3)] [(Reg.PEG_GRANT, 0x100)] with peg := { Peg.reset with granted := true } }, 0x100, [],
    by decide +kernel⟩,
   ⟨w [(Reg.PEG_STAT, 0x20)] [(Reg.PEG_ACTL, 1)], 1, [],
    by decide +kernel⟩,
   ⟨w [] [(Reg.PEG_ACTL, 1)], 1, [],
    by decide +kernel⟩,
   ⟨{ w [] [] with peg := { Peg.reset with report := some [] } }, [],
    by decide +kernel⟩,
   ⟨{ w [] [] with peg := { Peg.reset with report := some [], serving := some .report } }, [],
    by decide +kernel⟩,
   ⟨{ w [] [(Reg.PEG_HC_TAG_HI, 0)] with peg := { Peg.reset with hcUntil := 1 } }, 0, 0, [],
    by decide +kernel⟩,
   ⟨w [(Reg.FLT_SRC 323, 0)] [(Reg.PEG_HC_TAG_HI, 0)], 0, 0, [],
    by decide +kernel⟩,
   ⟨hostCmdState, 0, hostCmdTag, [],
    by decide +kernel⟩⟩

/-- States and operands that meet the hypotheses of every clause of `ModeRequests`. -/
theorem witness_ModeRequests :
    (∃ (s : State) (t : Nat) (v : Word) (rest : List (Nat × Word)) (p : Nat × Instr),
    p ∈ [(2, Instr.requestIdle t), (3, Instr.requestRun t), (7, Instr.requestService t)] ∧
    requests s v rest p.1 ∧
    requestOk s p.1 = true) ∧
    (∃ (s : State) (v : Word) (rest : List (Nat × Word)),
    requests s v rest 1 ∧
    requestOk s 1 = true) ∧
    (∃ (s : State) (v : Word) (rest : List (Nat × Word)),
    requests s v rest 0 ∧
    requestOk s 0 = true) ∧
    (∃ (s : State) (t : Nat) (v : Word) (rest : List (Nat × Word)) (p : Nat × Instr),
    p ∈ [(0, Instr.requestSill t), (1, Instr.requestBoot t), (2, Instr.requestIdle t), (3, Instr.requestRun t), (7, Instr.requestService t)] ∧
    requests s v rest p.1 ∧
    requestOk s p.1 = false) ∧
    (∃ (s : State) (t : Nat) (v : Word) (rest : List (Nat × Word)) (p : Nat × Instr),
    p ∈ [(0, Instr.requestSill t), (1, Instr.requestBoot t), (2, Instr.requestIdle t), (3, Instr.requestRun t), (7, Instr.requestService t)] ∧
    front s Reg.SYS_MODEREQ v rest ∧
    fld v 0 3 = p.1 ∧
    s.solo = true ∧
    fld v 8 8 ≠ 165) ∧
    (∃ (s : State) (t : Nat) (v : Word) (rest : List (Nat × Word)) (p : Nat × Instr),
    p ∈ [(0, Instr.requestSill t), (1, Instr.requestBoot t), (2, Instr.requestIdle t), (3, Instr.requestRun t), (7, Instr.requestService t)] ∧
    front s Reg.SYS_MODEREQ v rest ∧
    fld v 0 3 = p.1 ∧
    s.solo = false ∧
    s.isLead = true) ∧
    (∃ (s : State) (t : Nat) (v : Word) (rest : List (Nat × Word)) (p : Nat × Instr),
    p ∈ [(0, Instr.requestSill t), (1, Instr.requestBoot t), (2, Instr.requestIdle t), (3, Instr.requestRun t), (7, Instr.requestService t)] ∧
    front s Reg.SYS_MODEREQ v rest ∧
    fld v 0 3 = p.1 ∧
    s.follower = true ∧
    fld v 8 8 = 165) ∧
    (∃ (s : State),
    s.clocked = true ∧
    target s ≠ 2) ∧
    (∃ (s : State),
    s.clocked = true ∧
    target s ≠ 3) ∧
    (∃ (s : State),
    s.clocked = true ∧
    target s ≠ 7) ∧
    (∃ (s : State) (m : Nat),
    s.clocked = true ∧
    m ∈ [2, 3, 7] ∧
    target s = m) :=
  ⟨⟨w [] [(Reg.SYS_MODEREQ, 0xA502)], 0, 0xA502, [], (2, .requestIdle 0),
    by decide +kernel⟩,
   ⟨w [] [(Reg.SYS_MODEREQ, 0xA501)], 0xA501, [],
    by decide +kernel⟩,
   ⟨wIn .idle [] [(Reg.SYS_MODEREQ, 0xA500)], 0xA500, [],
    by decide +kernel⟩,
   ⟨w [(Reg.FLT_SRC 307, 0)] [(Reg.SYS_MODEREQ, 0xA500)], 0, 0xA500, [], (0, .requestSill 0),
    by decide +kernel⟩,
   ⟨w [] [(Reg.SYS_MODEREQ, 0xA400)], 0, 0xA400, [], (0, .requestSill 0),
    by decide +kernel⟩,
   ⟨w [(Reg.SYS_FRMSTAT, 0), (Reg.TRU_STAT, 0x10)] [(Reg.SYS_MODEREQ, 0xA500)], 0, 0xA500, [], (0, .requestSill 0),
    by decide +kernel⟩,
   ⟨w [(Reg.SYS_FRMSTAT, 0)] [(Reg.SYS_MODEREQ, 0xA500)], 0, 0xA500, [], (0, .requestSill 0),
    by decide +kernel⟩,
   ⟨w [(Reg.SYS_MODE, 0x300)] [],
    by decide +kernel⟩,
   ⟨w [] [],
    by decide +kernel⟩,
   ⟨w [] [],
    by decide +kernel⟩,
   ⟨w [(Reg.SYS_MODE, 0x700)] [], 7,
    by decide +kernel⟩⟩

/-- States and operands that meet the hypotheses of every clause of `SystemResetKeepsWhatItMust`. -/
theorem witness_SystemResetKeepsWhatItMust :
    (∃ (s : State) (t : Nat) (p : Nat × Instr),
    s.clocked = true ∧
    s.canonical = true ∧
    p ∈ [(3, Instr.sysRst t), (5, Instr.pllUnlock t Pll.core), (5, Instr.pllUnlock t Pll.edge), (5, Instr.pllUnlock t Pll.mem)] ∧
    (p.1 = 3 → ∃ v rest, front s Reg.SYS_RST v rest ∧ fld v 8 8 = 165 ∧ bit v 0 = true)) :=
  ⟨w [] [(Reg.SYS_RST, 0xA501)], 0, (3, .sysRst 0),
    by exact ⟨by decide +kernel, by decide +kernel, List.Mem.head _, fun _ => ⟨0xA501, [], by decide +kernel⟩⟩⟩

/-- States and operands that meet the hypotheses of every clause of `SillWakeAndBoot`. -/
theorem witness_SillWakeAndBoot :
    (∃ (s : State),
    s.clocked = true ∧
    s.sys.mode ∈ [Mode.idle, Mode.run, Mode.limp, Mode.safe, Mode.service] ∧
    comingMode s = Mode.sill) ∧
    (∃ (s : State),
    s.sys.mode = Mode.boot ∧
    s.sys.powerFail = false ∧
    (Option.map (fun x => x.1) s.sys.decided).getD (s.sys.bootDone.getD Mode.boot) = Mode.service) ∧
    (∃ (s : State),
    s.sys.mode = Mode.sill ∧
    s.sys.sillDone = false ∧
    s.sys.powerFail = false ∧
    s.sys.wakeLatched = none) ∧
    (∃ (s : State),
    s.clocked = true ∧
    s.sys.savedOptime + 100000 ≤ s.sys.optime) ∧
    (∃ (s : State),
    s.sys.savedPcyc < 2 ^ 24) ∧
    (∃ (s : State),
    s.sys.powerFail = false ∧
    s.sys.watch = true ∧
    s.sys.ign = true) ∧
    (∃ (s : State) (active : Bool),
    s.sys.powerFail = false ∧
    s.sys.watch = false ∧
    s.sys.mode ≠ Mode.sill ∧
    active ≠ s.sys.ign) ∧
    (∃ (s : State) (p : Nat × Instr),
    s.sys.powerFail = false ∧
    s.sys.watch = false ∧
    s.sys.mode = Mode.sill ∧
    s.sys.sillDone = true ∧
    p ∈ [(1, Instr.ignDebounceExpiry), (2, Instr.wakeUpPattern), (3, Instr.wakeTimerExpiry)] ∧
    (p.1 = 1 → s.sys.ign = true ∧ s.sys.ignSeenLow = true ∧ s.flag Reg.SIL_CFG 0 = true) ∧
    (p.1 = 2 → s.flag Reg.BUS_WAKE 0 = true) ∧
    (p.1 = 3 → s.flag Reg.SIL_CFG 2 = true ∧ 0 < s.rf Reg.SIL_WTIMER 0 24)) ∧
    (∃ (s : State),
    s.clocked = true ∧
    s.flag Reg.SIL_STAT 1 = true ∧
    s.sys.keyOff = false ∧
    0 < s.rf Reg.SIL_CFG 16 16 ∧
    s.rf Reg.SIL_CFG 16 16 * 10000 ≤ s.sys.koRun) ∧
    (∃ (s : State),
    s.sys.mode = Mode.boot ∧
    s.sys.bootDone = none ∧
    s.sys.powerFail = false) :=
  ⟨⟨{ w [] [] with sys := { (w [] []).sys with decided := some (.sill, 0) } },
    by decide +kernel⟩,
   ⟨{ wIn .boot [] [] with sys := { (wIn .boot [] []).sys with bootDone := some .service } },
    by decide +kernel⟩,
   ⟨{ State.reset with sys := { State.reset.sys with watch := false, sillDone := false } },
    by decide +kernel⟩,
   ⟨{ w [] [] with sys := { (w [] []).sys with optime := 100000 } },
    by decide +kernel⟩,
   ⟨w [] [],
    by decide +kernel⟩,
   ⟨State.reset,
    by decide +kernel⟩,
   ⟨w [] [], false,
    by decide +kernel⟩,
   ⟨{ w [(Reg.SIL_CFG, 5), (Reg.BUS_WAKE, 1), (Reg.SIL_WTIMER, 0xFFFFFF)] [] with sys := { State.reset.sys with watch := false, ignSeenLow := true } }, (1, .ignDebounceExpiry),
    by decide +kernel⟩,
   ⟨{ w [(Reg.FLT_SRC 308, 0), (Reg.SIL_STAT, 2), (Reg.SIL_CFG, 0x10000)] [] with sys := { (w [(Reg.FLT_SRC 308, 0), (Reg.SIL_STAT, 2), (Reg.SIL_CFG, 0x10000)] []).sys with koRun := 10000 } },
    by decide +kernel⟩,
   ⟨wIn .boot [(Reg.FLT_SRC 320, 0)] [],
    by decide +kernel⟩⟩

/-- States and operands that meet the hypotheses of every clause of `FreezeAndTestPort`. -/
theorem witness_FreezeAndTestPort :
    (∃ (s : State),
    s.sys.mode ≠ Mode.sill ∧
    s.sys.powerFail = false ∧
    s.sys.mode ≠ Mode.freeze ∧
    s.flag Reg.SYS_CFG 0 = true ∧
    s.sys.viogFloat = false) ∧
    (∃ (s : State),
    s.sys.mode ≠ Mode.sill ∧
    s.sys.powerFail = false ∧
    s.sys.mode ≠ Mode.freeze ∧
    (s.flag Reg.SYS_CFG 0 = false ∨ s.sys.viogFloat = true)) ∧
    (∃ (s : State),
    s.sys.mode ≠ Mode.sill ∧
    s.sys.powerFail = false ∧
    s.sys.mode ≠ Mode.freeze ∧
    debugGranted s = true ∧
    s.sys.viogFloat = false) ∧
    (∃ (s : State),
    s.sys.mode = Mode.freeze ∧
    s.sys.powerFail = false ∧
    s.sys.viogFloat = false ∧
    s.flag Reg.SYS_CFG 0 = true) ∧
    (∃ (s : State),
    s.sys.mode = Mode.freeze ∧
    s.sys.powerFail = false ∧
    s.sys.viogFloat = false ∧
    s.sys.frzPin = true ∧
    debugGranted s = true) ∧
    (∃ (s : State),
    s.sys.mode = Mode.freeze ∧
    s.sys.powerFail = false ∧
    s.sys.viogFloat = false ∧
    s.sys.frzDbg = true) ∧
    (∃ (s : State),
    s.sys.mode = Mode.freeze ∧
    s.sys.powerFail = false ∧
    s.sys.viogFloat = false ∧
    s.sys.frzDbg = false) ∧
    (∃ (s : State),
    s.sys.mode = Mode.freeze ∧
    s.sys.powerFail = false ∧
    s.sys.viogFloat = false ∧
    s.sys.frzPin = false ∧
    debugGranted s = true) ∧
    (∃ (s : State),
    s.sys.mode ≠ Mode.sill ∧
    s.sys.viogFloat = false ∧
    (s.sys.mode = Mode.service ∨ s.sys.mode = Mode.freeze)) ∧
    (∃ (s : State),
    s.sys.mode ≠ Mode.sill ∧
    s.sys.viogFloat = false ∧
    s.sys.mode ≠ Mode.service ∧
    s.sys.mode ≠ Mode.freeze) ∧
    (∃ (s : State) (t : Nat) (x : BitVec 36) (captured : List Bool) (cells : List Bool) (c : Instr),
    (s.sys.mode = Mode.sill ∨ s.sys.viogFloat = true) ∧
    c ∈ [Instr.extest captured cells, Instr.idcode, Instr.samplePreload captured cells, Instr.frzEnter t, Instr.frzResume, Instr.dbgSel x, Instr.dbgRead, Instr.bypass]) ∧
    (∃ (s : State) (ofs : Nat),
    debugGranted s = true ∧
    s.sys.viogFloat = false ∧
    s.sys.mode = Mode.freeze ∧
    ofs < 4194304 ∧
    ofs % 4 = 0 ∧
    s.jtag.sel = BitVec.ofNat 36 (536870912 + ofs)) ∧
    (∃ (s : State) (t : Nat) (x : BitVec 36) (p : BitVec 8 × Instr),
    debugGranted s = false ∧
    s.sys.mode ≠ Mode.sill ∧
    s.sys.viogFloat = false ∧
    p ∈ [(35, Instr.dbgRead), (34, Instr.dbgSel x), (32, Instr.frzEnter t), (33, Instr.frzResume)]) :=
  ⟨⟨w [] [],
    by decide +kernel⟩,
   ⟨w [(Reg.SYS_CFG, 0)] [],
    by decide +kernel⟩,
   ⟨w [(Reg.PEG_STAT, 0x200)] [],
    by decide +kernel⟩,
   ⟨wIn .freeze [] [],
    by decide +kernel⟩,
   ⟨{ wIn .freeze [(Reg.PEG_STAT, 0x200)] [] with sys := { (wIn .freeze [] []).sys with frzPin := true } },
    by decide +kernel⟩,
   ⟨{ wIn .freeze [(Reg.PEG_STAT, 0x200)] [] with sys := { (wIn .freeze [] []).sys with frzDbg := true } },
    by decide +kernel⟩,
   ⟨wIn .freeze [] [],
    by decide +kernel⟩,
   ⟨{ wIn .freeze [(Reg.PEG_STAT, 0x200)] [] with jtag := { Jtag.reset with sel := 0x203FFFFC } },
    by decide +kernel⟩,
   ⟨wIn .freeze [] [],
    by decide +kernel⟩,
   ⟨w [] [],
    by decide +kernel⟩,
   ⟨wIn .sill [] [], 0, 0, [], [], .idcode,
    by decide +kernel⟩,
   ⟨{ wIn .freeze [(Reg.PEG_STAT, 0x200)] [] with jtag := { Jtag.reset with sel := 0x203FFFFC } }, 4194300,
    by decide +kernel⟩,
   ⟨w [] [], 0, 0, (0x23, .dbgRead),
    by decide +kernel⟩⟩

/-- States and operands that meet the hypotheses of every clause of `ClocksFollowTheirReferences`. -/
theorem witness_ClocksFollowTheirReferences :
    (∃ (s : State),
    s.clocked = true ∧
    s.sys.variant ≠ 1 ∧
    s.sys.refPresent = true ∧
    s.rf Reg.CLK_STAT 0 2 ≤ 1) ∧
    (∃ (s : State),
    s.clocked = true ∧
    s.sys.variant ≠ 1 ∧
    s.sys.tcxoGood = true ∧
    s.rf Reg.CLK_STAT 0 2 = 2 ∧
    (s.sys.refPresent = false ∨ s.rf Reg.CLK_CFG 0 2 ≠ 0)) ∧
    (∃ (s : State),
    s.clocked = true ∧
    s.sys.variant ≠ 1 ∧
    s.flag Reg.CLK_STAT 7 = true) ∧
    (∃ (s : State),
    s.clocked = true ∧
    s.sys.variant ≠ 1 ∧
    s.flag Reg.CLK_STAT 6 = true) ∧
    (∃ (s : State) (bus : Bool),
    s.clocked = true ∧
    s.sys.variant ≠ 1 ∧
    s.flag Reg.CLK_STAT (if bus = true then 6 else 7) = false) ∧
    (∃ (s : State) (t : Nat) (c : Instr),
    s.clocked = true ∧
    s.sys.variant = 1 ∧
    c ∈ [Instr.refclkLoss t, Instr.refclkReturn t false, Instr.refclkReturn t true, Instr.oscillatorFail t, Instr.pllUnlock t Pll.gnss, Instr.pllRelock t false]) ∧
    (∃ (s : State),
    s.clocked = true ∧
    s.sys.variant = 1 ∧
    s.flag Reg.CLK_STAT 6 = false) :=
  ⟨⟨w [] [],
    by decide +kernel⟩,
   ⟨w [(Reg.FLT_SRC 304, 0), (Reg.CLK_STAT, 2), (Reg.CLK_CFG, 1)] [],
    by decide +kernel⟩,
   ⟨w [(Reg.FLT_SRC 305, 0), (Reg.CLK_STAT, 0x80)] [],
    by decide +kernel⟩,
   ⟨w [(Reg.FLT_SRC 305, 0), (Reg.CLK_STAT, 0x40)] [],
    by decide +kernel⟩,
   ⟨w [] [], true,
    by decide +kernel⟩,
   ⟨{ w [] [] with sys := { (w [] []).sys with variant := 1 } }, 0, .refclkLoss 0,
    by exact ⟨by decide +kernel, by decide +kernel, List.Mem.head _⟩⟩,
   ⟨{ w [(Reg.CLK_STAT, 0)] [] with sys := { (w [(Reg.CLK_STAT, 0)] []).sys with variant := 1 } },
    by decide +kernel⟩⟩

/-- States and operands that meet the hypotheses of every clause of `SuppliesAndTemperatures`. -/
theorem witness_SuppliesAndTemperatures :
    (∃ (s : State) (second : Bool) (st : FeedState),
    supervised s = true ∧
    s.rf Reg.PWR_STAT (2 * b2n second) 2 ≠ st.code) ∧
    (∃ (s : State) (t : Nat),
    powerFailDue (s.at t) = true) ∧
    (∃ (s : State) (v : BitVec 16),
    supervised s = true ∧
    v.toNat ≤ 3000) ∧
    (∃ (s : State) (v : BitVec 16),
    supervised s = true ∧
    3000 < v.toNat) ∧
    (∃ (s : State) (v : BitVec 16),
    supervised s = true ∧
    vioBad v = true) ∧
    (∃ (s : State) (p : Fin 128) (r : Option (BitVec 16)),
    s.sys.mode ≠ Mode.sill ∧
    s.sys.powerFail = false ∧
    pointAbsent s ↑p = false ∧
    ↑p ∉ s.sys.tpBad ∧
    (∀ (x : BitVec 16), r = some x → x.toInt < -440 ∨ 1600 < x.toInt)) ∧
    (∃ (s : State) (p : Fin 128) (r : Option (BitVec 16)) (x : BitVec 16),
    s.sys.mode ≠ Mode.sill ∧
    s.sys.powerFail = false ∧
    pointAbsent s ↑p = false ∧
    ↑p ∉ s.sys.tpBad ∧
    r = some x ∧
    -440 ≤ x.toInt ∧
    x.toInt ≤ 1600) ∧
    (∃ (s : State) (x : List (BitVec 16)),
    s.sys.mode ≠ Mode.sill ∧
    s.sys.powerFail = false ∧
    (∃ p < 8, p ∉ s.sys.tpBad ∧ ↑(s.rf Reg.PWR_TCFG 0 16) < (x.getD p 0).toInt)) ∧
    (∃ (s : State) (x : List (BitVec 16)),
    s.sys.mode ≠ Mode.sill ∧
    s.sys.powerFail = false ∧
    (∃ p < 8, p ∉ s.sys.tpBad) ∧
    (∀ p < 8, p ∉ s.sys.tpBad → (x.getD p 0).toInt ≤ ↑(s.rf Reg.PWR_TCFG 0 16))) ∧
    (∃ (s : State) (x : List (BitVec 16)) (k : Fin 3),
    s.sys.mode ≠ Mode.sill ∧
    s.sys.powerFail = false ∧
    validOf s ↑k ≠ [] ∧
    ↑(s.rf Reg.PWR_TCFG 0 16) * ↑(validOf s ↑k).length < (List.map (fun p => (x.getD p 0).toInt) (validOf s ↑k)).sum) ∧
    (∃ (s : State) (x : List (BitVec 16)) (k : Fin 3),
    s.sys.mode ≠ Mode.sill ∧
    s.sys.powerFail = false ∧
    validOf s ↑k ≠ [] ∧
    (List.map (fun p => (x.getD p 0).toInt) (validOf s ↑k)).sum ≤ ↑(s.rf Reg.PWR_TCFG 0 16) * ↑(validOf s ↑k).length) ∧
    (∃ (s : State),
    s.sys.mode ≠ Mode.sill ∧
    s.sys.powerFail = false ∧
    s.sys.variant = 2) ∧
    (∃ (s : State) (x : List (BitVec 16)),
    s.sys.mode ≠ Mode.sill ∧
    s.sys.powerFail = false ∧
    (∃ p < 8, p ∉ s.sys.tpBad ∧ 1200 < (x.getD p 0).toInt)) ∧
    (∃ (s : State) (x : List (BitVec 16)) (k : Fin 2),
    s.sys.mode ≠ Mode.sill ∧
    s.sys.powerFail = false ∧
    (∃ p < 8, p ∉ s.sys.tpBad) ∧
    (∀ p < 8, p ∉ s.sys.tpBad → (x.getD p 0).toInt + 32 ≤ if k = 1 then 1200 else ↑(s.rf Reg.PWR_TCFG 0 16))) ∧
    (∃ (s : State) (x : List (BitVec 16)) (k : Fin 2),
    s.sys.mode ≠ Mode.sill ∧
    s.sys.powerFail = false ∧
    (∃ p < 8, p ∉ s.sys.tpBad) ∧
    (∃ p < 8, p ∉ s.sys.tpBad ∧ (if k = 1 then 1200 else ↑(s.rf Reg.PWR_TCFG 0 16)) < (x.getD p 0).toInt + 32)) ∧
    (∃ (s : State) (x : List (BitVec 16)),
    s.sys.mode ≠ Mode.sill ∧
    s.sys.powerFail = false ∧
    (∀ (k : Fin 3), s.sys.variant = 2 ∧ k = 1 ∨ validOf s ↑k ≠ [] ∧ (List.map (fun p => (x.getD p 0).toInt) (validOf s ↑k)).sum ≤ (↑(s.rf Reg.PWR_TCFG 0 16) - 32) * ↑(validOf s ↑k).length)) :=
  ⟨⟨w [(Reg.FLT_SRC 297, 0), (Reg.FLT_SRC 299, 0), (Reg.FLT_SRC 300, 0)] [], true, .low,
    by decide +kernel⟩,
   ⟨w [(Reg.PWR_STAT, 0xA)] [], 0,
    by decide +kernel⟩,
   ⟨w [] [], 2,
    by decide +kernel⟩,
   ⟨w [] [], 3001,
    by decide +kernel⟩,
   ⟨w [] [], 2,
    by decide +kernel⟩,
   ⟨w [] [], 127, none,
    by refine ⟨?_, ?_, ?_, ?_, (fun _ h => nomatch h)⟩ <;> decide +kernel⟩,
   ⟨w [] [], 127, some 1600, 1600,
    by decide +kernel⟩,
   ⟨w [] [], [0x7FFF],
    by decide +kernel⟩,
   ⟨w [] [], [1120],
    by decide +kernel⟩,
   ⟨w [] [], List.replicate 128 1121, 2,
    by decide +kernel⟩,
   ⟨w [] [], List.replicate 128 1120, 2,
    by decide +kernel⟩,
   ⟨{ w [] [] with sys := { (w [] []).sys with variant := 2 } },
    by decide +kernel⟩,
   ⟨w [] [], [1201],
    by decide +kernel⟩,
   ⟨w [] [], [1168], 1,
    by decide +kernel⟩,
   ⟨w [] [], [1169], 1,
    by decide +kernel⟩,
   ⟨w [] [], List.replicate 128 1088,
    by decide +kernel⟩⟩

end Sys2Proof.Tests
end

section
/-! The start of a slice (R45, R87). First the laws of a register field that is written and read, then the state that SLICE_START leaves. -/
namespace Sys2Proof.Machine

/-! ### Fields of a register -/

theorem testBit_fld (w : Word) (lo n i : Nat) : (fld w lo n).testBit i = (decide (i < n) && w.getLsbD (lo + i)) := by
  simp [fld, Nat.testBit_mod_two_pow, Nat.testBit_div_two_pow, BitVec.getLsbD, Nat.add_comm]

/-- `put` replaces the bits of its field, the others stay. -/
theorem getLsbD_put (w : Word) {lo n : Nat} (v i : Nat) (h : lo + n ≤ 32) :
    (put w lo n v).getLsbD i = if lo ≤ i ∧ i < lo + n then v.testBit (i - lo) else w.getLsbD i := by
  simp only [put, BitVec.getLsbD_or, BitVec.getLsbD_and, BitVec.getLsbD_not, BitVec.getLsbD_ofNat, Nat.testBit_mul_two_pow,
    Nat.testBit_two_pow_sub_one, Nat.testBit_mod_two_pow]
  by_cases hi : lo ≤ i ∧ i < lo + n
  · have h32 : i < 32 := by omega
    have hn : i - lo < n := by omega
    simp [hi, h32, hn]
  · by_cases hlo : lo ≤ i
    · have hn : ¬ i - lo < n := by omega
      simpa [hi, hn] using fun hw => BitVec.lt_of_getLsbD hw
    · simpa [hlo] using fun hw => BitVec.lt_of_getLsbD hw

theorem fld_put_same (w : Word) {lo n : Nat} (v : Nat) (h : lo + n ≤ 32) : fld (put w lo n v) lo n = v % 2 ^ n := by
  refine Nat.eq_of_testBit_eq fun i => ?_
  rw [testBit_fld, getLsbD_put _ _ _ h, Nat.testBit_mod_two_pow]
  by_cases hi : i < n <;> simp [hi]

theorem State.rf_setFld_same (s : State) (a : Nat) {lo n : Nat} (v : Nat) (h : lo + n ≤ 32) :
    (s.setFld a lo n v).rf a lo n = v % 2 ^ n := by
  rw [State.rf, State.rd_setFld, if_pos rfl, fld_put_same _ _ h]

theorem State.rf_setFld_ne (s : State) {a b : Nat} (lo n v lo' n' : Nat) (h : b ≠ a) :
    (s.setFld a lo n v).rf b lo' n' = s.rf b lo' n' := by
  rw [State.rf, State.rd_setFld, if_neg h, State.rf]

/-- The status registers of the tasks lie below those of the engines. -/
theorem Reg.BE_STAT_ne_TASK_STAT (e : Nat) {t : Nat} (h : t < 128) : Reg.BE_STAT e ≠ Reg.TASK_STAT t := by
  simp only [Reg.BE_STAT, Reg.TASK_STAT]; omega

/-- An event's own instant changes nothing but the present instant. -/
theorem State.at_eq_edge (s : State) (t : Nat) : ∃ n, s.at t = { s with edge := n } := by
  unfold State.at
  split
  · exact ⟨t, rfl⟩
  · exact ⟨s.edge, rfl⟩

/-! ### The state at the start of a slice -/

/-- Engine `e` at the start of slice `p` with the slice table's `entry` (R43, R45, R87). -/
def Eng.sliceStarted (x : Eng) (e : Nat) (p : Placed) (entry : Word × Word) (scribe : Bool) : Eng :=
  { x with rf := RegFile.zero, old := none, state := .run, pc := sliceEntry entry, ret := [], loops := [],
           slice := BitVec.ofNat 32 (e * 2 ^ 16 + p.seq % 2 ^ 8 * 2 ^ 8 + p.task), budget := sliceBudget entry, scribe := scribe,
           cyc := 0, startEdge := 2 * p.start + 8, ready := [], divAt := 0, wait := .none, loads := [] }

/-- Engine `e` has started, and BE_STAT and TASK_STAT show the task and the frame. -/
def State.sliceStarted (s : State) (e : Nat) (p : Placed) (entry : Word × Word) : State :=
  (((s.at (2 * p.start)).setEn e ((s.en e).sliceStarted e p entry (s.flag (Reg.TASK_CFG p.task) 27))).setFld
    (Reg.BE_STAT e) 16 8 p.task).setFld (Reg.TASK_STAT p.task) 0 16 (s.frame.toNat % 2 ^ 16)

/-- SLICE_START of an engine that is idle, with its clock running and a slice left in the frame: beside the start itself only the scheduler's
own record of the frame differs. -/
theorem exec_sliceStart_of_idle {s : State} {e : Fin 8} {p : Placed} {im : Image} (hp : nextSlice s e = some p)
    (him : s.sched.image = some im) (hidle : (s.en e).state = .idle) (hclk : s.clocked = true) :
    ∃ sc, exec (.sliceStart e) s = .next { s.sliceStarted e p (im.slices.getD p.slice (0, 0)) with sched := sc } := by
  have hgo : ¬ ((s.en e).state ≠ .idle ∨ ¬ s.clocked = true) := by simp [hidle, hclk]
  change ∃ sc, execSliceStart e s = _
  simp only [execSliceStart, hp, him, if_neg hgo, State.setEn_frame, State.at_frame]
  exact ⟨_, rfl⟩

section
variable (s : State) (e : Nat) (p : Placed) (entry : Word × Word)

theorem State.sliceStarted_en_same :
    (s.sliceStarted e p entry).en e = (s.en e).sliceStarted e p entry (s.flag (Reg.TASK_CFG p.task) 27) := by
  rw [State.sliceStarted, State.setFld_en, State.setFld_en, State.en_setEn_same]

theorem State.sliceStarted_en_ne {k : Nat} (h : k ≠ e) : (s.sliceStarted e p entry).en k = s.en k := by
  rw [State.sliceStarted, State.setFld_en, State.setFld_en, State.en_setEn_ne _ _ h, State.at_en]

theorem State.sliceStarted_rd_ne {a : Nat} (hb : a ≠ Reg.BE_STAT e) (ht : a ≠ Reg.TASK_STAT p.task) :
    (s.sliceStarted e p entry).rd a = s.rd a := by
  rw [State.sliceStarted, State.rd_setFld, if_neg ht, State.rd_setFld, if_neg hb, State.setEn_rd, State.at_rd]

theorem State.sliceStarted_BE_STAT_task (h : p.task < 128) : (s.sliceStarted e p entry).rf (Reg.BE_STAT e) 16 8 = p.task := by
  rw [State.sliceStarted, State.rf_setFld_ne _ _ _ _ _ _ (Reg.BE_STAT_ne_TASK_STAT e h), State.rf_setFld_same _ _ _ (by decide)]
  omega

theorem State.sliceStarted_TASK_STAT_frame :
    (s.sliceStarted e p entry).rf (Reg.TASK_STAT p.task) 0 16 = s.frame.toNat % 2 ^ 16 := by
  rw [State.sliceStarted, State.rf_setFld_same _ _ _ (by decide), Nat.mod_mod]

/-- Nothing but the instant, the registers and the engines differs. -/
theorem State.sliceStarted_frame : ∃ n r g, s.sliceStarted e p entry = { s with edge := n, regs := r, eng := g } := by
  obtain ⟨n, hn⟩ := s.at_eq_edge (2 * p.start)
  rw [State.sliceStarted, hn]
  exact ⟨n, _, _, rfl⟩

end

end Sys2Proof.Machine

namespace Sys2Proof.Proofs
open Sys2Proof.Machine

/-- Settles O28: the state that SLICE_START leaves is `State.sliceStarted` but for the scheduler's record, and its laws give
the engine, the status registers and the frame. -/
theorem sliceStarts : Obligations.SliceStarts := by
  intro s e p im hp him hidle hclk htask
  obtain ⟨sc, hexec⟩ := exec_sliceStart_of_idle hp him hidle hclk
  generalize im.slices.getD p.slice (0, 0) = entry at hexec ⊢
  have hen : State.en { s.sliceStarted e p entry with sched := sc } e
      = (s.en e).sliceStarted e p entry (s.flag (Reg.TASK_CFG p.task) 27) := s.sliceStarted_en_same e p entry
  refine ⟨_, hexec, ?_⟩
  rw [hen]
  refine ⟨rfl, rfl, rfl, rfl, rfl, rfl, rfl, rfl, rfl,
    s.sliceStarted_BE_STAT_task e p entry htask, s.sliceStarted_TASK_STAT_frame e p entry,
    fun k hk => s.sliceStarted_en_ne e p entry (Fin.val_ne_of_ne hk),
    fun a hb ht => s.sliceStarted_rd_ne e p entry hb ht, ?_⟩
  obtain ⟨n, r, g, hs⟩ := s.sliceStarted_frame e p entry
  rw [hs]

end Sys2Proof.Proofs
end

section
/-! What a raise leaves alone in the collector's source registers (R407 to R409), operation by operation. -/
namespace Sys2Proof.Machine

/-! ### Bits of a register -/

theorem fld_put_of_disjoint (w : Word) {lo n lo' n' : Nat} (v : Nat) (h : lo + n ≤ 32) (hd : lo' + n' ≤ lo ∨ lo + n ≤ lo') :
    fld (put w lo n v) lo' n' = fld w lo' n' := by
  refine Nat.eq_of_testBit_eq fun i => ?_
  rw [testBit_fld, testBit_fld, getLsbD_put _ _ _ h]
  by_cases hi : i < n'
  · rw [if_neg (by omega)]
  · simp [hi]

theorem bit_put_same (w : Word) {i : Nat} (b : Bool) (h : i < 32) : bit (put w i 1 (b2n b)) i = b := by
  rw [bit, getLsbD_put _ _ _ h, if_pos ⟨Nat.le_refl i, Nat.lt_succ_self i⟩, Nat.sub_self]
  cases b <;> rfl

theorem bit_put_of_disjoint (w : Word) {lo n i : Nat} (v : Nat) (h : lo + n ≤ 32) (hd : i < lo ∨ lo + n ≤ i) :
    bit (put w lo n v) i = bit w i := by
  rw [bit, getLsbD_put _ _ _ h, if_neg (by omega), bit]

theorem State.flag_eq_of_rd_eq {s t : State} {a : Nat} (i : Nat) (h : t.rd a = s.rd a) : t.flag a i = s.flag a i := by
  rw [State.flag, h, State.flag]

theorem State.rf_eq_of_rd_eq {s t : State} {a : Nat} (lo n : Nat) (h : t.rd a = s.rd a) : t.rf a lo n = s.rf a lo n := by
  rw [State.rf, h, State.rf]

/-! ### The registers of the sources -/

/-- FLT_SRC, FLT_SST and FLT_SDET of the 512 sources (R431). -/
def sourceReg (a : Nat) : Prop := Reg.FLT_SRC 0 ≤ a ∧ a < Reg.FLT_SDET 512

theorem sourceReg_FLT_SST {src : Nat} (h : src < 512) : sourceReg (Reg.FLT_SST src) := by
  simp only [sourceReg, Reg.FLT_SRC, Reg.FLT_SST, Reg.FLT_SDET]; omega

theorem sourceReg_FLT_SDET {src : Nat} (h : src < 512) : sourceReg (Reg.FLT_SDET src) := by
  simp only [sourceReg, Reg.FLT_SRC, Reg.FLT_SDET]; omega

theorem not_sourceReg_of_lt {a : Nat} (h : a < 0x0A1000) : ¬ sourceReg a := by
  simp only [sourceReg, Reg.FLT_SRC, Reg.FLT_SDET]; omega

theorem not_sourceReg_of_ge {a : Nat} (h : 0x0A3800 ≤ a) : ¬ sourceReg a := by
  simp only [sourceReg, Reg.FLT_SRC, Reg.FLT_SDET]; omega

/-- `t` comes after `s` with the registers of the sources, the sources asserted, and the mode and supplies as they were. -/
structure KeepsSources (s t : State) : Prop where
  rd : ∀ a, sourceReg a → t.rd a = s.rd a
  sys : t.sys = s.sys
  asserted : t.flt.asserted = s.flt.asserted

namespace KeepsSources
variable {s0 s t : State}

theorem refl (s : State) : KeepsSources s s := ⟨fun _ _ => rfl, rfl, rfl⟩

theorem upd (k : KeepsSources s0 s) (h : (t.regs, t.sys, t.flt.asserted) = (s.regs, s.sys, s.flt.asserted)) : KeepsSources s0 t := by
  obtain ⟨hr, hs, ha⟩ : t.regs = s.regs ∧ t.sys = s.sys ∧ t.flt.asserted = s.flt.asserted := by simpa using h
  exact ⟨fun a h => by rw [← k.rd a h, State.rd, hr, State.rd], hs.trans k.sys, ha.trans k.asserted⟩

theorem ite {c : Prop} [Decidable c] (ks : KeepsSources s0 s) (kt : KeepsSources s0 t) : KeepsSources s0 (if c then s else t) := by
  split <;> assumption

theorem each {n : Nat} {f : Nat → State → State} (hf : ∀ i < n, ∀ t, KeepsSources s0 t → KeepsSources s0 (f i t))
    (k : KeepsSources s0 s) : KeepsSources s0 (each n f s) := by
  induction n with
  | zero => exact k
  | succ n ih => exact hf n (Nat.lt_succ_self n) _ (ih fun i hi => hf i (Nat.lt_succ_of_lt hi))

theorem wr (k : KeepsSources s0 s) {a : Nat} (v : Word) (h : ¬ sourceReg a) : KeepsSources s0 (s.wr a v) :=
  ⟨fun b hb => (s.rd_wr_ne v fun e => h (by rwa [← e])).trans (k.rd b hb), k.sys, k.asserted⟩

theorem setFld (k : KeepsSources s0 s) {a : Nat} (lo n v : Nat) (h : ¬ sourceReg a) : KeepsSources s0 (s.setFld a lo n v) := k.wr _ h

theorem setFlag (k : KeepsSources s0 s) {a : Nat} (i : Nat) (b : Bool) (h : ¬ sourceReg a) : KeepsSources s0 (s.setFlag a i b) := k.wr _ h

theorem count (k : KeepsSources s0 s) {a : Nat} (lo n j : Nat) (h : ¬ sourceReg a) : KeepsSources s0 (s.count a lo n j) := k.wr _ h

theorem irq (k : KeepsSources s0 s) (i : Nat) : KeepsSources s0 (s.irq i) := k.setFlag i true (not_sourceReg_of_lt (by decide))

/-! ### Loads and learning -/

theorem edgeMark (k : KeepsSources s0 s) (o : Nat) (on : Bool) (i : Instant) : KeepsSources s0 (s.edgeMark o on i) := k.upd rfl

theorem searchFails (k : KeepsSources s0 s) (g : GSearch) : KeepsSources s0 (s.searchFails g) := by
  unfold State.searchFails
  split
  · exact (k.edgeMark _ _ _).ite k
  · exact k

theorem gaugeAbort (k : KeepsSources s0 s) {c : Nat} (hc : c < lswChannels) : KeepsSources s0 (s.gaugeAbort c) := by
  have hc : c < 108 := hc
  have hcnt : ¬ sourceReg (Reg.GAU_CNT c) := not_sourceReg_of_lt (by simp only [Reg.GAU_CNT]; omega)
  have hlast : ¬ sourceReg (Reg.GAU_LAST c) := not_sourceReg_of_lt (by simp only [Reg.GAU_LAST]; omega)
  unfold State.gaugeAbort
  split
  · have kd : KeepsSources s0 (s.dropSearch c) := k.upd rfl
    exact ((kd.count _ _ _ hcnt).wr _ hlast).searchFails _
  · exact k

theorem markEdge (k : KeepsSources s0 s) (c : Nat) (on : Bool) : KeepsSources s0 (s.markEdge c on) := by
  unfold State.markEdge
  split
  · exact (k.edgeMark _ _ _).ite k
  · exact k

theorem gaugeEdge (k : KeepsSources s0 s) {c : Nat} (hc : c < lswChannels) (on mark : Bool) : KeepsSources s0 (s.gaugeEdge c on mark) := by
  unfold State.gaugeEdge
  extract_lets u
  have ka : KeepsSources s0 u := k.gaugeAbort hc
  split
  · exact ka
  · extract_lets u'
    have k' : KeepsSources s0 u' := (ka.edgeMark _ _ _).ite ka
    exact ite (k'.upd rfl) ((k'.edgeMark _ _ _).ite k')

theorem follow (k : KeepsSources s0 s) {c : Nat} (hc : c < lswChannels) (was inp out : Bool) : KeepsSources s0 (s.follow c was inp out) := by
  unfold State.follow
  extract_lets x fed lvl s1 _ s2 mark own s3
  have k1 : KeepsSources s0 s1 := (k.gaugeAbort hc).ite k
  have k2 : KeepsSources s0 s2 := k1.upd rfl
  have k3 : KeepsSources s0 s3 := k2.ite (k2.gaugeEdge hc _ _)
  exact (k3.markEdge _ _).ite k3

theorem settle (k : KeepsSources s0 s) {c : Nat} (hc : c < lswChannels) : KeepsSources s0 (s.settle c) := by
  have hstat : ¬ sourceReg (Reg.CH_STAT c) := not_sourceReg_of_lt (by simp only [Reg.CH_STAT, lswChannels] at *; omega)
  unfold State.settle
  extract_lets st inp out uv st' held s1 s2
  have k1 : KeepsSources s0 s1 := (k.wr _ hstat).follow hc _ _ _
  have k2 : KeepsSources s0 s2 := (k1.gaugeAbort hc).ite k1
  exact k2.ite (ite (k2.upd rfl) (k2.upd rfl))

/-! ### Axes and PWM units -/

theorem axisRest (k : KeepsSources s0 s) {a : Nat} (ha : a < 8) : KeepsSources s0 (s.axisRest a) := by
  unfold State.axisRest
  refine setFlag ?_ _ _ (not_sourceReg_of_lt (by simp only [Reg.AX_STAT]; omega))
  split
  · unfold State.useLimits
    have kx : KeepsSources s0 (s.setAxs a { s.axs a with plan := none, defLim := none }) := k.upd rfl
    refine (((kx.wr _ ?_).wr _ ?_).wr _ ?_).wr _ ?_ <;>
      exact not_sourceReg_of_lt (by simp only [Reg.AX_VMAX, Reg.AX_AMAX, Reg.AX_DMAX, Reg.AX_JMAX]; omega)
  · exact k

theorem stopNow (k : KeepsSources s0 s) {a : Nat} (ha : a < 8) : KeepsSources s0 (s.stopNow a) := by
  unfold State.stopNow
  extract_lets p x s1 s2
  have k1 : KeepsSources s0 s1 := k.upd rfl
  have k2 : KeepsSources s0 s2 := by
    refine axisRest (wr (wr (wr k1 _ ?_) _ ?_) _ ?_) ha <;>
      exact not_sourceReg_of_lt (by simp only [Reg.AX_POS_LO, Reg.AX_POS_HI, Reg.AX_VEL]; omega)
  exact k2.ite (k2.setFld _ _ _ (not_sourceReg_of_lt (by simp only [Reg.AX_STAT]; omega)))

theorem driver (k : KeepsSources s0 s) {a : Nat} (ha : a < 8) : KeepsSources s0 (s.driver a) := by
  have hstat : ¬ sourceReg (Reg.AX_STAT a) := not_sourceReg_of_lt (by simp only [Reg.AX_STAT]; omega)
  unfold State.driver
  extract_lets down s1
  have k1 : KeepsSources s0 s1 := (k.stopNow ha).setFlag _ _ hstat
  exact k.ite (ite (k1.ite (k1.setFlag _ _ hstat)) (k.setFlag _ _ hstat))

theorem forceUnit (k : KeepsSources s0 s) {u : Nat} (hu : u < 24) (cause first : Nat) : KeepsSources s0 (s.forceUnit u cause first) := by
  unfold State.forceUnit
  extract_lets a set
  have kset : KeepsSources s0 set := k.wr _ (not_sourceReg_of_lt (by simp only [a, Reg.PWM_UFSTAT]; omega))
  exact ite (kset.ite k) (kset.upd rfl)

/-! ### The reaction -/

theorem haltIsolators (k : KeepsSources s0 s) : KeepsSources s0 s.haltIsolators :=
  k.each fun _ _ _ kt => ite (kt.upd rfl) kt

theorem enterSafeState (k : KeepsSources s0 s) : KeepsSources s0 s.enterSafeState := by
  have kf : KeepsSources s0 (Machine.each 24 (fun u t => if t.flag (Reg.PWM_UFLT u) 31 then t.forceUnit u 2 0 else t) s) :=
    k.each fun _ hu _ kt => ite (kt.forceUnit hu 2 0) kt
  have kd := kf.each (n := 8) fun _ ha _ kt => kt.driver ha
  exact kd.each fun _ hc _ kt => kt.settle hc

theorem react (k : KeepsSources s0 s) (inj : Bool) (src sev : Nat) (det : Word) (payload : List Word) :
    KeepsSources s0 (s.react inj src sev det payload) := by
  unfold State.react
  extract_lets f old new _ s1 s2
  have k1 : KeepsSources s0 s1 := k.upd rfl
  have k2 : KeepsSources s0 s2 := k1.enterSafeState.ite k1
  exact k.ite (k2.haltIsolators.ite k2)

/-! ### Records -/

theorem enqueue (k : KeepsSources s0 s) (q : QRec) : KeepsSources s0 (s.enqueue q) := by
  unfold State.enqueue
  refine ite (k.upd rfl) (ite (k.upd rfl) ?_)
  extract_lets t
  have kt : KeepsSources s0 t := k.upd rfl
  exact (kt.setFlag _ _ (not_sourceReg_of_ge (by decide))).count _ _ _ (not_sourceReg_of_ge (by decide))

theorem setBucket (k : KeepsSources s0 s) (c : Nat) (b : Bucket) : KeepsSources s0 (s.setBucket c b) := k.upd rfl

theorem summaryNext (k : KeepsSources s0 s) (c : Nat) (b : Bucket) : KeepsSources s0 (s.summaryNext c b) :=
  ite (k.upd rfl) (k.upd rfl)

theorem passQ (k : KeepsSources s0 s) (q : QRec) (cost : Nat) : KeepsSources s0 (s.passQ q cost) := by
  unfold State.passQ
  extract_lets c b s1
  have k1 : KeepsSources s0 s1 := (k.enqueue _).ite k
  exact (k.enqueue q).ite ((k1.setBucket _ _).enqueue q)

theorem putQ (k : KeepsSources s0 s) (q : QRec) : KeepsSources s0 (s.putQ q) := by
  unfold State.putQ
  extract_lets c b b1
  exact (k.passQ _ _).ite ((k.passQ _ _).ite ((k.setBucket _ _).ite ((k.summaryNext c b1).setBucket _ _)))

/-! ### The engine that a raise stops, and the injection that it overtakes -/

theorem txnResult (k : KeepsSources s0 s) (st : TxnStatus) (table unit limit count : Nat) :
    KeepsSources s0 (s.txnResult st table unit limit count) := by
  have hstat : ¬ sourceReg Reg.TXN_STAT := not_sourceReg_of_lt (by decide)
  unfold State.txnResult
  extract_lets s1 s2
  have k1 : KeepsSources s0 s1 := k.setFld _ _ _ hstat
  have k2 : KeepsSources s0 s2 :=
    ite (((k1.setFld _ _ _ hstat).setFld _ _ _ hstat).wr _ (not_sourceReg_of_lt (by decide))) k1
  exact k2.irq 2

theorem txnDropTask (k : KeepsSources s0 s) (task : Nat) : KeepsSources s0 (s.txnDropTask task) := by
  have kf : KeepsSources s0 s.txnFree := k.upd rfl
  exact ite ((kf.txnResult _ _ _ _ _).putQ _) k

theorem engineStop (k : KeepsSources s0 s) {e : Nat} (he : e < 8) : KeepsSources s0 (s.engineStop e) := by
  have hstat : ¬ sourceReg (Reg.BE_STAT e) := not_sourceReg_of_lt (by simp only [Reg.BE_STAT]; omega)
  have herr : ¬ sourceReg (Reg.BE_ERR e) := not_sourceReg_of_lt (by simp only [Reg.BE_ERR]; omega)
  unfold State.engineStop
  extract_lets x s1
  have k1 : KeepsSources s0 s1 := (((k.setFlag _ _ hstat).count _ _ _ herr).txnDropTask _).ite k
  exact k.ite (k1.upd rfl)

theorem cancelInjection (k : KeepsSources s0 s) (record : Bool) : KeepsSources s0 (s.cancelInjection record) := by
  unfold State.cancelInjection
  split
  · exact k
  · extract_lets _ s1
    have ki : KeepsSources s0 { s with flt := { s.flt with inj := none } } := k.upd rfl
    have k1 : KeepsSources s0 s1 := ki.setFld _ _ _ (not_sourceReg_of_lt (by decide))
    exact (k1.putQ _).ite k1

theorem captureFirst (k : KeepsSources s0 s) (src sev : Nat) (det : Word) (inj : Bool) :
    KeepsSources s0 (s.captureFirst src sev det inj) := by
  unfold State.captureFirst
  refine k.ite (wr (wr (wr (wr k _ ?_) _ ?_) _ ?_) _ ?_) <;> exact not_sourceReg_of_lt (by decide)

end KeepsSources

theorem detailEngine_lt {src e : Nat} {det : Word} (h : detailEngine src det = some e) : e < 8 := by
  unfold detailEngine at h
  split at h
  · obtain rfl := Option.some.inj h
    exact Nat.mod_lt _ (by decide)
  · cases h

/-- Once a raise has latched its count, sticky bit and detail, the rest of it leaves the registers of the sources alone (R409 to R412, R520). -/
theorem State.raiseOne_keepsSources {s : State} (on : collectorOn s = true) (inj : Bool) (src : Nat) (det : Word) (dowel : List Word) :
    KeepsSources (s.latchRaise src det) (s.raiseOne inj src det dowel) := by
  unfold State.raiseOne
  rw [if_neg (by simp [on])]
  extract_lets s1 sev pay s2 s3 s4 q s5 s6
  have k1 : KeepsSources s1 s1 := .refl s1
  refine KeepsSources.ite ((k1.cancelInjection _).ite k1) ?_
  have k3 : KeepsSources s1 s3 := (k1.captureFirst _ _ _ _).react _ _ _ _ _
  have k4 : KeepsSources s1 s4 := by
    unfold s4
    split
    · exact (k3.engineStop (detailEngine_lt ‹_›)).ite k3
    · exact k3
  have k5 : KeepsSources s1 s5 := (k4.putQ _).ite k4
  have k6 : KeepsSources s1 s6 := (k5.irq _).ite k5
  split
  · exact k6.ite ((k6.cancelInjection _).ite k6)
  · exact k6

end Sys2Proof.Machine
end

section
/-! Raises of a source and its sticky bit (R409): what one raise latches, what the engine fault of ERST adds (R90, R520), the host's write
of 1, and the first capture (R410). -/
namespace Sys2Proof.Machine

/-! ### One raise -/

theorem State.latchRaise_rd_SST (s : State) (src : Nat) (det : Word) :
    (s.latchRaise src det).rd (Reg.FLT_SST src)
      = put (put (s.rd (Reg.FLT_SST src)) 8 8 (satAdd 8 (s.rf (Reg.FLT_SST src) 8 8) 1)) 0 1 (b2n true) := by
  have hne : Reg.FLT_SST src ≠ Reg.FLT_SDET src := by simp only [Reg.FLT_SST, Reg.FLT_SDET]; omega
  rw [State.latchRaise, State.rd_wr_ne _ _ hne, State.rd_setFlag, if_pos rfl, State.rd_count, if_pos rfl]

theorem State.latchRaise_rd_of_ne (s : State) {src a : Nat} (det : Word) (hst : a ≠ Reg.FLT_SST src) (hdet : a ≠ Reg.FLT_SDET src) :
    (s.latchRaise src det).rd a = s.rd a := by
  rw [State.latchRaise, State.rd_wr_ne _ _ hdet, State.rd_setFlag, if_neg hst, State.rd_count, if_neg hst]

/-- `u` comes after a raise of `src` in `s`, in which nothing else of the sources has changed (R409). -/
structure Latched (s : State) (src : Nat) (det : Word) (u : State) : Prop where
  sticky : u.flag (Reg.FLT_SST src) 0 = true
  level : u.flag (Reg.FLT_SST src) 1 = s.flag (Reg.FLT_SST src) 1
  count : u.rf (Reg.FLT_SST src) 8 8 = min 255 (s.rf (Reg.FLT_SST src) 8 8 + 1)
  detail : u.rd (Reg.FLT_SDET src) = det
  others : ∀ a, sourceReg a → a ≠ Reg.FLT_SST src → a ≠ Reg.FLT_SDET src → u.rd a = s.rd a
  collector : collectorOn u = collectorOn s
  asserted : u.flt.asserted = s.flt.asserted

theorem State.raiseOne_latched {s : State} (on : collectorOn s = true) (inj : Bool) {src : Nat} (hsrc : src < 512) (det : Word)
    (dowel : List Word) : Latched s src det (s.raiseOne inj src det dowel) := by
  obtain ⟨hrd, hsys, hasserted⟩ := s.raiseOne_keepsSources on inj src det dowel
  have hst := (hrd _ (sourceReg_FLT_SST hsrc)).trans (s.latchRaise_rd_SST src det)
  refine ⟨?_, ?_, ?_, ?_, fun a ha hs hd => (hrd a ha).trans (s.latchRaise_rd_of_ne det hs hd), ?_, hasserted⟩
  · rw [State.flag, hst, bit_put_same _ _ (by decide)]
  · rw [State.flag, hst, bit_put_of_disjoint _ _ (by decide) (by decide), bit_put_of_disjoint _ _ (by decide) (by decide), State.flag]
  · rw [State.rf, hst, fld_put_of_disjoint _ _ (by decide) (by decide), fld_put_same _ _ (by decide)]
    simp only [satAdd]; omega
  · exact (hrd _ (sourceReg_FLT_SDET hsrc)).trans (State.rd_wr_same _ _ _)
  · rw [collectorOn, hsys]; rfl

theorem Latched.rd_of_ne {s u : State} {src k : Nat} {det : Word} (h : Latched s k det u) (hk : k < 512) (hsrc : src < 512) (hne : src ≠ k) :
    u.rd (Reg.FLT_SST src) = s.rd (Reg.FLT_SST src) ∧ u.rd (Reg.FLT_SDET src) = s.rd (Reg.FLT_SDET src) := by
  refine ⟨h.others _ (sourceReg_FLT_SST hsrc) ?_ ?_, h.others _ (sourceReg_FLT_SDET hsrc) ?_ ?_⟩ <;>
    (simp only [Reg.FLT_SST, Reg.FLT_SDET]; omega)

/-! ### A raise with the engine fault of its ERST -/

theorem erstCuts_lt {s : State} {src e : Nat} {det : Word} (h : erstCuts s src det = some e) : e < 8 := by
  unfold erstCuts at h
  split at h
  · split at h
    · obtain rfl := Option.some.inj h
      exact detailEngine_lt ‹_›
    · cases h
  · cases h

theorem State.raiseAs_of_no_cut {s : State} {inj : Bool} {src : Nat} {det : Word} {dowel : List Word} (h : erstCuts s src det = none) :
    s.raiseAs inj src det dowel = s.raiseOne inj src det dowel := by
  rw [State.raiseAs, h]

theorem State.raiseAs_of_cut {s : State} {inj : Bool} {src e : Nat} {det : Word} {dowel : List Word} (h : erstCuts s src det = some e) :
    s.raiseAs inj src det dowel = (s.raiseOne inj src det dowel).raiseOne false (48 + e) (engineFault e 0) [] := by
  rw [State.raiseAs, h]

/-- A raise that cuts off a slice is one of its source and then one of that engine's fault. -/
theorem State.raiseAs_latched_of_cut {s : State} (on : collectorOn s = true) {inj : Bool} {src e : Nat} (hsrc : src < 512) {det : Word}
    {dowel : List Word} (h : erstCuts s src det = some e) :
    ∃ m, Latched s src det m ∧ Latched m (48 + e) (engineFault e 0) (s.raiseAs inj src det dowel) := by
  have he := erstCuts_lt h
  have hm := s.raiseOne_latched on inj hsrc det dowel
  rw [State.raiseAs_of_cut h]
  exact ⟨_, hm, State.raiseOne_latched (hm.collector.trans on) false (by omega) _ _⟩

/-- R409, R90: what a raise and the engine fault that it may bring leave in the registers of the sources. -/
structure RaiseLatches (s : State) (src : Nat) (det : Word) (u : State) : Prop where
  sticky : u.flag (Reg.FLT_SST src) 0 = true
  level : u.flag (Reg.FLT_SST src) 1 = s.flag (Reg.FLT_SST src) 1
  asserted : u.flt.asserted = s.flt.asserted
  source : (∀ e, erstCuts s src det = some e → src ≠ 48 + e) →
    u.rf (Reg.FLT_SST src) 8 8 = min 255 (s.rf (Reg.FLT_SST src) 8 8 + 1) ∧ u.rd (Reg.FLT_SDET src) = det
  engine : ∀ e, erstCuts s src det = some e → u.flag (Reg.FLT_SST (48 + e)) 0 = true ∧
    u.rd (Reg.FLT_SDET (48 + e)) = engineFault e 0 ∧
    u.rf (Reg.FLT_SST (48 + e)) 8 8 = min 255 (s.rf (Reg.FLT_SST (48 + e)) 8 8 + (if src = 48 + e then 2 else 1))

theorem State.raiseAs_latches {s : State} (on : collectorOn s = true) (inj : Bool) {src : Nat} (hsrc : src < 512) (det : Word)
    (dowel : List Word) : RaiseLatches s src det (s.raiseAs inj src det dowel) := by
  cases hcut : erstCuts s src det with
  | none =>
    have hu := s.raiseOne_latched on inj hsrc det dowel
    rw [← State.raiseAs_of_no_cut hcut] at hu
    exact ⟨hu.sticky, hu.level, hu.asserted, fun _ => ⟨hu.count, hu.detail⟩, fun e he => by rw [hcut] at he; cases he⟩
  | some e =>
    have he := erstCuts_lt hcut
    obtain ⟨m, hm, hu⟩ := s.raiseAs_latched_of_cut on (inj := inj) (dowel := dowel) hsrc hcut
    have hasserted := hu.asserted.trans hm.asserted
    by_cases heq : src = 48 + e
    · subst heq
      refine ⟨hu.sticky, hu.level.trans hm.level, hasserted, fun h => absurd rfl (h e hcut), fun e' he' => ?_⟩
      obtain rfl : e = e' := Option.some.inj (hcut.symm.trans he')
      refine ⟨hu.sticky, hu.detail, ?_⟩
      rw [hu.count, hm.count, if_pos rfl]
      omega
    · obtain ⟨hst, hdet⟩ := hu.rd_of_ne (by omega) hsrc heq
      refine ⟨(State.flag_eq_of_rd_eq 0 hst).trans hm.sticky, (State.flag_eq_of_rd_eq 1 hst).trans hm.level, hasserted,
        fun _ => ⟨(State.rf_eq_of_rd_eq 8 8 hst).trans hm.count, hdet.trans hm.detail⟩, fun e' he' => ?_⟩
      obtain rfl : e = e' := Option.some.inj (hcut.symm.trans he')
      have hfault := (hm.rd_of_ne hsrc (by omega) (Ne.symm heq)).1
      exact ⟨hu.sticky, hu.detail, by rw [hu.count, if_neg heq, State.rf_eq_of_rd_eq 8 8 hfault]⟩

/-! ### What a block reports (R407) -/

/-- The detail of a level source names no engine, so its ERST cuts off no slice. -/
theorem erstCuts_of_levelSource (s : State) {src : Nat} (det : Word) (h : levelSource src = true) : erstCuts s src det = none := by
  have hno : ¬ (src < 16 ∨ (32 ≤ src ∧ src < 40) ∨ (48 ≤ src ∧ src < 64)) := by
    simp only [levelSource, Bool.or_eq_true, Bool.and_eq_true, decide_eq_true_eq, List.contains_eq_mem, List.mem_cons, List.not_mem_nil,
      or_false] at h
    omega
  rw [erstCuts, detailEngine, if_neg hno]

theorem mem_insertNat (n : Nat) (l : List Nat) : n ∈ insertNat n l := by
  induction l with
  | nil => exact List.mem_singleton_self n
  | cons x xs ih =>
    unfold insertNat
    split
    · exact List.mem_cons_self
    · split
      · subst n; exact List.mem_cons_self
      · exact List.mem_cons_of_mem x ih

theorem exec_faultRaise_pulse {src : Fin 512} (hsev : (Flt.resetSev? src).isSome = true) (hlevel : levelSource src = false) (t : Nat)
    (det val : Word) (tag : Byte) (addr : Word) (s : State) :
    exec (.faultRaise t src true det val tag addr) s = .next ((s.at t).raiseDowel src det val tag addr) := by
  obtain ⟨sev, hsev⟩ := Option.isSome_iff_exists.mp hsev
  change execFaultRaise t src true det val tag addr s = _
  simp [execFaultRaise, hsev, hlevel]

theorem exec_faultRaise_level {src : Fin 512} (hsev : (Flt.resetSev? src).isSome = true) (hlevel : levelSource src = true) (t : Nat)
    (on : Bool) (det val : Word) (tag : Byte) (addr : Word) (s : State) :
    exec (.faultRaise t src on det val tag addr) s = .next (if on then (s.at t).assert src det else (s.at t).release src) := by
  obtain ⟨sev, hsev⟩ := Option.isSome_iff_exists.mp hsev
  change execFaultRaise t src on det val tag addr s = _
  simp [execFaultRaise, hsev, hlevel]

/-- The level source `src` has become asserted, before its raise. -/
def State.asserting (s : State) (src : Nat) : State :=
  ({ s with flt := { s.flt with asserted := insertNat src s.flt.asserted } }).setFlag (Reg.FLT_SST src) 1 true

theorem State.assert_of_not_mem {s : State} {src : Nat} (on : collectorOn s = true) (h : src ∉ s.flt.asserted) (det : Word) :
    s.assert src det = (s.asserting src).raiseAs false src det [] := by
  have hon : collectorOn (s.asserting src) = true := on
  rw [State.assert, if_neg (by simpa using h)]
  exact if_pos hon

theorem State.asserting_rf_SST (s : State) (src lo n : Nat) (h : 2 ≤ lo) :
    (s.asserting src).rf (Reg.FLT_SST src) lo n = s.rf (Reg.FLT_SST src) lo n := by
  rw [State.rf, State.asserting, State.rd_setFlag, if_pos rfl, fld_put_of_disjoint _ _ (by decide) (.inr h)]
  rfl

theorem State.asserting_SST_asserted (s : State) (src : Nat) : (s.asserting src).flag (Reg.FLT_SST src) 1 = true := by
  rw [State.flag, State.asserting, State.rd_setFlag, if_pos rfl, bit_put_same _ _ (by decide)]

theorem State.release_SST_sticky (s : State) (src : Nat) : (s.release src).flag (Reg.FLT_SST src) 0 = s.flag (Reg.FLT_SST src) 0 := by
  rw [State.flag, State.release, State.rd_setFlag, if_pos rfl, bit_put_of_disjoint _ _ (by decide) (by decide)]
  rfl

theorem State.not_mem_release_asserted (s : State) (src : Nat) : src ∉ (s.release src).flt.asserted := by
  simp [State.release]

/-! ### The host's write to FLT_SST (R7, R409) -/

/-- The row of FLT_SST: COUNT is RC, ASSERTED is RO, STICKY is W1C (R431). -/
def Reg.sstRow : RegRow := ⟨0xA2000, 512, 0x4, 1, 4, 0x0#32, 0x0#32, 0x1#32, 0xFF00#32, 0x2#32, 0x0#32, 0x0#32, false⟩

theorem Reg.row?_FLT_SST (src : Fin 512) : Reg.row? (Reg.FLT_SST src) = some Reg.sstRow := by
  decide +revert +kernel

theorem plainWord_sstRow (old v : Word) : plainWord Reg.sstRow old v = old &&& ~~~(v &&& 1#32) := by
  change ((old &&& ~~~0#32) ||| (v &&& 0#32)) &&& ~~~(v &&& 1#32) = _
  rw [BitVec.and_zero, BitVec.or_zero, BitVec.not_zero, BitVec.and_allOnes]

theorem bit_plainWord_sstRow (old v : Word) : bit (plainWord Reg.sstRow old v) 0 = (bit old 0 && !bit v 0) := by
  simp [plainWord_sstRow, bit]

theorem fld_plainWord_sstRow (old v : Word) {lo : Nat} (n : Nat) (h : 1 ≤ lo) :
    fld (plainWord Reg.sstRow old v) lo n = fld old lo n := by
  refine Nat.eq_of_testBit_eq fun i => ?_
  have hbit : (v &&& 1#32).getLsbD (lo + i) = false := by
    rw [BitVec.getLsbD_and, BitVec.getLsbD_one, decide_eq_false (by omega : ¬ lo + i = 0), Bool.and_false, Bool.and_false]
  rw [testBit_fld, testBit_fld, plainWord_sstRow, BitVec.getLsbD_and, BitVec.getLsbD_not, hbit]
  cases hold : old.getLsbD (lo + i) with
  | false => simp
  | true => simp [BitVec.lt_of_getLsbD hold]

theorem orderShows_of_sstRow {a : Nat} (ha : 0x0A2000 ≤ a ∧ a < 0x0A2800) (hrow : Reg.row? a = some Reg.sstRow) :
    orderShows a = false := by
  have hne : ∀ b, b < 0x0A2000 ∨ 0x0A2800 ≤ b → (a = b) = False := fun b hb => eq_false (by omega)
  have hhigh : decide (a < 0x050800) = false := decide_eq_false (by omega)
  simp (disch := decide) [orderShows, holdsValue, txMask, hrow, Reg.sstRow, hne, hhigh]

theorem State.blockPart_of_sstRow (s : State) {w : Write} (ha : 0x0A2000 ≤ w.addr ∧ w.addr < 0x0A2800) (hown : w.owner = .host) (tag : Byte) :
    s.blockPart Reg.sstRow w tag = s.plain Reg.sstRow w.addr w.val := by
  have hne : ∀ b, b < 0x0A2000 ∨ 0x0A2800 ≤ b → (w.addr = b) = False := fun b hb => eq_false (by omega)
  have hlt : ∀ b ≤ 0x0A2000, (w.addr < b) = False := fun b hb => eq_false (by omega)
  have hge : ∀ b, 0x0A2800 ≤ b → (b ≤ w.addr) = False := fun b hb => eq_false (by omega)
  have hlog : w.addr < 0x0B0000 := by omega
  have hrow : Reg.sstRow.w1c = 1#32 := rfl
  simp (disch := decide) [State.blockPart, State.logPart, hrow, hown, hne, hlt, hge, hlog]

/-- A host's write that may be made directly reaches FLT_SST by its access codes. -/
theorem State.hostArrive_FLT_SST {s : State} (src : Fin 512) {v : Word} (h : needsHostCmd s (Reg.FLT_SST src) v = false) (stored : Bool)
    (ph : BusPhase) (ago : Nat) :
    s.hostArrive (Reg.FLT_SST src) v stored ph ago = s.plain Reg.sstRow (Reg.FLT_SST src) v := by
  have hrow := Reg.row?_FLT_SST src
  have ha : 0x0A2000 ≤ Reg.FLT_SST src ∧ Reg.FLT_SST src < 0x0A2800 := by simp only [Reg.FLT_SST]; omega
  generalize Reg.FLT_SST src = a at *
  have htag : a ≠ Reg.PEG_HC_TAG_HI := by simp only [Reg.PEG_HC_TAG_HI]; omega
  have hpeg : ¬ (0x0B0000 ≤ a ∧ a < 0x0C0000 ∧ (Reg.row? a).isSome = true) := by omega
  rw [State.hostArrive, h, if_neg Bool.false_ne_true, if_neg htag, if_neg hpeg]
  simp only [State.deliver, hostWrite, hrow, State.arriveRanked, State.arrive, orderShows_of_sstRow ha hrow]
  exact State.blockPart_of_sstRow s (w := { hostWrite a v with ph := ph, ago := ago }) ha rfl _

theorem State.popping_eq_popped (s : State) (t : Nat) (rest : List (Nat × Word)) :
    { s.at t with hp := { s.hp with posted := rest } } = Claims.popped s t rest := by
  obtain ⟨n, hn⟩ := s.at_eq_edge t
  rw [Claims.popped, hn]

/-- REGISTER_WRITE takes the word at the head of the queue when it writes to FLT_SST. -/
theorem exec_registerWrite_FLT_SST {s : State} (src : Fin 512) {v : Word} {rest : List (Nat × Word)}
    (h : Claims.front s (Reg.FLT_SST src) v rest) (t : Nat) :
    exec (.registerWrite t) s = .next ((Claims.popped s t rest).plain Reg.sstRow (Reg.FLT_SST src) v) := by
  obtain ⟨hclk, hposted, hcmd⟩ := h
  have hcmd' : needsHostCmd (Claims.popped s t rest) (Reg.FLT_SST src) v = false := hcmd
  have hcancel : isCancel (Reg.FLT_SST src) = false := by
    have hbus : ¬ Reg.FLT_SST src < 0x090000 := by simp only [Reg.FLT_SST]; omega
    simp [isCancel, hbus]
  have hkey : (Reg.FLT_SST src = Reg.PEG_KCTL) = False := eq_false (by simp only [Reg.FLT_SST, Reg.PEG_KCTL]; omega)
  have htag : (Reg.FLT_SST src = Reg.PEG_HC_TAG_HI) = False := eq_false (by simp only [Reg.FLT_SST, Reg.PEG_HC_TAG_HI]; omega)
  change execRegisterWrite t s = _
  rw [← State.hostArrive_FLT_SST src hcmd' true .idle 0, ← State.popping_eq_popped]
  simp [execRegisterWrite, State.popWrite, State.popPosted, hposted, hclk, hcancel, hkey, htag]

end Sys2Proof.Machine

namespace Sys2Proof.Proofs
open Sys2Proof.Machine

/-- Settles O18: a raise latches its source and the engine fault of its ERST, a release leaves STICKY, and a written 1 clears it. -/
theorem raiseLatchesItsSource : Obligations.RaiseLatchesItsSource := by
  refine ⟨fun s t src det val tag addr on ⟨hsev, hnew⟩ => ?_, fun s t src det val tag addr hsev hlevel => ?_, fun s t src v rest hfront => ?_⟩
  · have on' : collectorOn (s.at t) = true := by simpa [collectorOn] using on
    have hcut : erstCuts (s.at t) src det = erstCuts s src det := by simp [erstCuts, collectorOn, srcEnabled]
    cases hlevel : levelSource src with
    | false =>
      obtain ⟨sticky, -, -, source, engine⟩ := (s.at t).raiseAs_latches on' false src.isLt det [val, tag.zeroExtend 32, addr]
      simp only [hcut, State.at_rf] at source engine
      exact ⟨_, exec_faultRaise_pulse hsev hlevel t det val tag addr s, sticky, source, engine, fun h => by cases h⟩
    | true =>
      have hnew' : src.val ∉ (s.at t).flt.asserted := by simpa using hnew hlevel
      obtain ⟨sticky, level, asserted, source, -⟩ := ((s.at t).asserting src).raiseAs_latches on' false src.isLt det []
      rw [← State.assert_of_not_mem on' hnew' det] at sticky level asserted source
      rw [State.asserting_rf_SST _ _ _ _ (by decide), State.at_rf, erstCuts_of_levelSource _ _ hlevel] at source
      refine ⟨_, exec_faultRaise_level hsev hlevel t true det val tag addr s, sticky, fun _ => source (by simp), ?_, fun _ => ⟨?_, ?_⟩⟩
      · rw [erstCuts_of_levelSource s det hlevel]; simp
      · rw [if_pos rfl, asserted]; exact mem_insertNat _ _
      · rw [if_pos rfl, level, State.asserting_SST_asserted]
  · refine ⟨_, exec_faultRaise_level hsev hlevel t false det val tag addr s, ?_, State.not_mem_release_asserted _ _⟩
    exact (State.release_SST_sticky _ _).trans (State.at_flag _ _ _ _)
  · refine ⟨_, exec_registerWrite_FLT_SST src hfront t, ?_, ?_⟩
    · rw [State.flag, State.plain, State.rd_wr_same, bit_plainWord_sstRow]; rfl
    · rw [State.rf, State.plain, State.rd_wr_same, fld_plainWord_sstRow _ _ _ (by decide)]; rfl

/-- Refutes O20: the statement allows every EDGE offset, also one past the longest frame (R40), and FLT_FIRSTOFS holds 32 bits of it. At the
offset 2^32 a raise of source 49 with ERST cuts off the slice of engine 0. Its capture reads the offset 0, so the engine fault 48 that follows is
not taken for a raise of the same CORE cycle and does not replace it, although VALID was 0 and its number is the lower one (R411). -/
theorem not_firstRaiseIsCaptured : ¬ Obligations.FirstRaiseIsCaptured := by
  unfold Obligations.FirstRaiseIsCaptured
  intro ⟨hraise, _⟩
  let s : State :=
    { State.reset.wr (Reg.FLT_SRC 49) 0x80000008#32 with
      edge := 2 ^ 32, sys := { Sys.reset with mode := .run }, eng := [(0, { Eng.reset with state := .run })] }
  obtain ⟨u, hu, -, -, hfault, -⟩ := hraise s 0 49 0 0 0 0 (by decide +kernel) (by decide +kernel) (by decide +kernel)
  have hcaptured : u.rf Reg.FLT_FIRST 16 9 = 48 :=
    hfault 0 (by decide +kernel) (by decide +kernel) (by decide +kernel) (.inl (by decide +kernel))
  rw [exec_faultRaise_pulse (by decide +kernel) (by decide +kernel)] at hu
  obtain rfl := Host.Outcome.next.inj hu
  exact absurd hcaptured (by decide +kernel)

end Sys2Proof.Proofs
end
